-- ==== Sys2Proof/Word.lean ====
section
/-! DEFINITION. The word types of the device: bytes, registers, instruction words, lines. -/
namespace Sys2Proof

/-- A byte of local memory, cache or HBM. -/
abbrev Byte := BitVec 8
/-- A 16-bit flag index, label pair or fabric field. -/
abbrev W16 := BitVec 16
/-- A page register or a vector register's lane (R131, R485). -/
abbrev W32 := BitVec 32
/-- A 64-bit word of memory, of an instruction or of a status pair (R133). -/
abbrev W64 := BitVec 64
/-- A mailbox value or a wide partial (R78, R496). -/
abbrev W128 := BitVec 128
/-- One 256 B line of the cache die, byte 0 in the low bits (R260). -/
abbrev Line := BitVec 2048

end Sys2Proof
end

