-- ==== Sys2Proof/Syntax.lean ====
section
/-! DEFINITION. The commands of the block and their operands. -/
namespace Sys2Proof

/-! ## Operands that name what the spec's encodings leave unassigned (R134, R135) -/

/-- What a vector integer opcode does (R134). `unassigned` is an opcode that the class does not assign. -/
inductive IntOp where
  | add | sub | and | or | xor | not | shl | shrU | shrS | mul | minS | minU | maxS | maxU
  | cmpEq | cmpNe | cmpLtS | cmpLeS | cmpLtU | cmpLeU
  | unassigned
  deriving DecidableEq, Repr

/-- What a vector floating-point opcode does (R131, R134). -/
inductive FpOp where
  | add | sub | mul | fma | min | max
  | cmpEq | cmpNe | cmpLt | cmpLe
  | unassigned
  deriving DecidableEq, Repr

/-- How a vector floating-point instruction's operands are packed in a lane (R53, R55). -/
inductive Pack where
  | fp32 | bf16 | fp16 | e4m3 | e5m2 | int8
  deriving DecidableEq, Repr

/-- What a uniform opcode does (R134). The moves name the lane register and lane they use. -/
inductive UniOp where
  | add | sub | mul | and | or | xor | not | shl | shrU | shrS | mov
  | toLanes (vd : Nat)
  | fromLane (va lane : Nat)
  | unassigned
  deriving DecidableEq, Repr

/-- The second operand of a uniform or vector integer instruction: a register, or IMM extended with zeros or its sign. -/
inductive Second where
  | reg | immZ | immS
  deriving DecidableEq, Repr

/-- What a lane-exchange opcode does (R134). -/
inductive LaneOp where
  | shuffle
  | broadcast (lane : Nat)
  | redAdd | redMinS | redMinU | redMaxS | redMaxU | redAnd | redOr | redXor | redFAdd | redFMin | redFMax
  | unassigned
  deriving DecidableEq, Repr

/-- A format that CVT names (R53, R98). -/
inductive CvtFmt where
  | fp32 | bf16 | fp16 | e4m3 | e5m2 | int8 | fp4 | fp6e3 | fp6e2
  | mxfp8e4 | mxfp8e5 | mxfp6e3 | mxfp6e2 | mxfp4 | mxint8 | ss4
  | wide
  deriving DecidableEq, Repr

/-- What happened to the words of one transfer between a cell and a slice: nothing, or bits of a word of the line that were
flipped on the vertical link, or on the region or band mesh: the word within the line, its data bits and its check bits
(R369, R372, R392). -/
inductive Upset where
  | none
  | link (word : Nat) (data : W64) (check : Byte)
  | mesh (word : Nat) (data : W64) (check : Byte)
  deriving DecidableEq, Repr

/-- A grant of an arbiter (R410): of a slice's input to a request by its number; of HBM channel `o`, numbered by its owning slice,
to the fetch or writeback of a line by a serving slice; of a port's egress to the packet at a place of its queue. -/
inductive Arb where
  | slice (sl id : Nat)
  | hbm (o sl line : Nat) (write : Bool)
  | port (p i : Nat)
  deriving DecidableEq, Repr

/-- What a partner announces in its HELLO (R351, R352): role 1 switch, 2 endpoint; whether its link layer version is the
device's; what it can do and what it requires; its port number, SWITCH_ID and the EID it assigns; and the credits it
advertises for each VC, headers and 32 B data units (R334). -/
structure Hello where
  role : Nat
  ver : Bool
  auth : Bool
  enc : Bool
  reqAuth : Bool
  reqEnc : Bool
  port : Nat
  switchId : W32
  eid : Nat
  credits : List (Nat × Nat)
  deriving DecidableEq, Repr

/-- What a partner sends of itself in AUTH_RESP (R351, R353): its nonce Ns, its ephemeral key Es and its identity public key. -/
structure SwitchKeys where
  ns : List Byte
  es : List Byte
  key : List Byte
  deriving DecidableEq, Repr

/-- The kinds of register page of R585. -/
inductive PageKind where
  | chip | mgmt | boot | ircH | ircM | pwr | therm | gauge | cal | sec | trace | qos
  | chk | fab | port | hbm | band | slice | region | block | cell
  deriving DecidableEq, Repr

/-- The instructions of the test access port (R614). -/
inductive TapInstr where
  | bypass | idcode | samplePreload | extest | clamp | highz | extestPulse | extestTrain
  deriving DecidableEq, Repr

/-- The two parts of R1. -/
inductive Part where
  | ek810 | ek806
  deriving DecidableEq, Repr

/-- The commands: one constructor for each row of the table, with the rule that the row names. -/
inductive Instr where
  -- Thread-group instructions (R126 to R205): cell `c`, group `g`, and the word `w` that the group issues. What the spec's
  -- encoding does not number is an operand of its own.
  | vectorIntOp (c g : Nat) (w : W64) (op : IntOp) (b : Second)  -- R134
  | vectorFpOp (c g : Nat) (w : W64) (op : FpOp) (p : Pack) (imm : Bool)  -- R131
  | cvt (c g : Nat) (w : W64) (src dst : CvtFmt) (rnd : Nat) (us : Nat)  -- R64
  | uniformOp (c g : Nat) (w : W64) (op : UniOp) (b : Second)  -- R134
  | laneExchange (c g : Nat) (w : W64) (op : LaneOp)  -- R134
  | ldl (c g : Nat) (w : W64)  -- R145
  | stl (c g : Nat) (w : W64)  -- R145
  | ldd (c g : Nat) (w : W64)  -- R145
  | ldf (c g : Nat) (w : W64)  -- R241
  | ldfe (c g : Nat) (w : W64)  -- R241
  | std (c g : Nat) (w : W64)  -- R145
  | ste (c g : Nat) (w : W64)  -- R241
  | stf (c g : Nat) (w : W64)  -- R241
  | ldc (c g : Nat) (w : W64)  -- R145
  | atdFetchAdd (c g : Nat) (w : W64)  -- R145
  | atdCompareSwap (c g : Nat) (w : W64)  -- R145
  | redw (c g : Nat) (w : W64)  -- R145
  | redf (c g : Nat) (w : W64)  -- R145
  | redxMax (c g : Nat) (w : W64)  -- R145
  | redxMin (c g : Nat) (w : W64)  -- R145
  | stw (c g : Nat) (w : W64)  -- R145
  | br (c g : Nat) (w : W64)  -- R139
  | call (c g : Nat) (w : W64)  -- R136
  | ret (c g : Nat) (w : W64)  -- R136
  | exit (c g : Nat) (w : W64)  -- R141
  | conv (c g : Nat) (w : W64)  -- R140
  | mxi (c g : Nat) (w : W64)  -- R103
  | mxw (c g : Nat) (w : W64)  -- R106
  | cpd (c g : Nat) (w : W64)  -- R147
  | cpl (c g : Nat) (w : W64)  -- R147
  | flw (c g : Nat) (w : W64)  -- R159
  | fls (c g : Nat) (w : W64)  -- R158
  | flc (c g : Nat) (w : W64)  -- R158
  | take (c g : Nat) (w : W64)  -- R162
  | give (c g : Nat) (w : W64)  -- R163
  | fenceL (c g : Nat) (w : W64)  -- R151
  | fenceD (c g : Nat) (w : W64)  -- R151
  | fenceF (c g : Nat) (w : W64)  -- R345
  | invRo (c g : Nat) (w : W64)  -- R154
  | dead (c g : Nat) (w : W64)  -- R276
  | rdst (c g : Nat) (w : W64)  -- R129
  | clst (c g : Nat) (w : W64)  -- R129
  | sfx (c g : Nat) (w : W64)  -- R185
  | tlu (c g : Nat) (w : W64)  -- R186
  | rowstatInit (c g : Nat) (w : W64)  -- R196
  | rowstatMaxe (c g : Nat) (w : W64)  -- R196
  | rowstatAcc (c g : Nat) (w : W64)  -- R197
  | rowstatCmb (c g : Nat) (w : W64)  -- R198
  | rowstatFin (c g : Nat) (w : W64)  -- R199
  -- Events of a cell (R87 to R123, R147 to R160, R242, R288, R343): cell, group, or the number of a reply.
  | flwTimeout (c g : Nat)  -- R160
  | feAccessTimeout (c g : Nat)  -- R242
  | flagWake (c g : Nat)  -- R159
  | cellGate (c : Nat)  -- R149
  | niLoadResponse (id : Nat)  -- R343
  | niWriteAck (id : Nat)  -- R288
  | mxOpStart (c : Nat)  -- R105
  | mxHazardRelease (c : Nat)  -- R110
  | mxTileFillDone (c : Nat) (pre : Bool)  -- R88
  | mxBeat (c stall : Nat)  -- R87
  | mxDrainRow (c : Nat)  -- R116
  | mxOpComplete (c : Nat)  -- R108
  | copyLineDone (c : Nat)  -- R147
  | copyComplete (c : Nat)  -- R147
  -- Commands of host software to a cell and a block (R122, R123, R154, R172, R188 to R192): `secure` is the world of the request.
  | replay (secure : Bool) (c g : Nat) (inv : Bool)  -- R172
  | kill (secure : Bool) (c g : Nat)  -- R172
  | roInvI (secure : Bool) (c : Nat)  -- R154
  | roInvC (secure : Bool) (c : Nat)  -- R154
  | roInvD (secure : Bool) (c : Nat)  -- R154
  | mxCntClr (secure : Bool) (c : Nat)  -- R123
  | sfLoadGo (secure : Bool) (b target lines off : Nat)  -- R188
  | sfLoadResume (b : Nat)  -- R192
  | sfLoadLine (b : Nat)  -- R189
  -- Reaches, flags, partitions and RUN (R34 to R37, R214 to R248).
  | reachArm (secure : Bool) (b : Nat)  -- R215
  | reachDisarm (secure : Bool) (b : Nat)  -- R220
  | reachAbort (secure : Bool) (b : Nat)  -- R220
  | fpTake (secure : Bool) (b : Nat)  -- R224
  | reachClaim (b : Nat)  -- R216
  | fpPeriodExpire (b : Nat)  -- R223
  | reachLastGroupFree (b : Nat)  -- R214
  | reachSettle (b : Nat)  -- R219
  | flagSet (secure : Bool) (r i : Nat)  -- R232
  | flagClr (secure : Bool) (r i : Nat)  -- R232
  | partReset (secure : Bool) (p : Nat)  -- R248
  | partResetDone (p : Nat)  -- R248
  | cachePowerDown (p : Nat)  -- R247
  | runEnter (secure : Bool)  -- R37
  | runLeave (secure : Bool)  -- R37
  | runDrained  -- R35
  -- Shadow registers (R488 to R495) and switches of placement (R239, R266).
  | strobe (secure : Bool) (groups : Nat) (bad : List ((PageKind × Nat) × Nat))  -- R490
  | stagedApply (k : PageKind) (i : Nat) (m : Option (Bool × Nat))  -- R491
  | reshadow (secure : Bool) (k : PageKind) (i : Nat)  -- R493
  | swinSwitchDone (remap : Bool) (n : Nat)  -- R266
  | feWindowSwitchDone  -- R239
  -- The cache die, the HBM and integrity (R267 to R315, R384 to R400): slice `sl`, line `l`, request `id`, upset `up`.
  | sliceRead (id : Nat) (up : Upset)  -- R287
  | sliceWrite (id : Nat) (up : Upset)  -- R267
  | sliceAtd (id : Nat) (up : Upset)  -- R288
  | addWContribution (id : Nat) (up : Upset)  -- R280
  | addF32Contribution (id : Nat) (up : Upset)  -- R281
  | maxMinContribution (id : Nat) (up : Upset)  -- R281
  | deadHint (id : Nat)  -- R276
  | sliceFillLanded (sl l : Nat)  -- R273
  | sliceWritebackDone (sl l : Nat)  -- R275
  | bypassRetry (sl l : Nat)  -- R271
  | holdExpire (sl l : Nat)  -- R284
  | maintWb (secure : Bool) (sl : Nat)  -- R291
  | maintWbi (secure : Bool) (sl : Nat)  -- R291
  | maintInvRemote (secure : Bool) (sl : Nat)  -- R291
  | maintDone (sl : Nat)  -- R291
  | sliceLogClr (secure : Bool) (sl : Nat)  -- R296
  | errLogClr (secure hbm : Bool) (i : Nat)  -- R401
  | hbmTempPoll (b : Nat) (ok : Bool) (t : Int)  -- R311
  | hbmCaParityErr (sl l : Nat) (write retryOk : Bool)  -- R313
  | hbmLaneParity (b c : Nat) (out : Bool)  -- R314
  | hbmPdnIdle (b n : Nat)  -- R300
  | hbmTrainDone (codes : List Nat)  -- R315
  | scourLine (hbm : Bool) (i : Nat)  -- R388
  | scourPeriodEnd (hbm : Bool) (b : Nat)  -- R389
  | bucketLeak (hbm : Bool) (i c : Nat)  -- R386
  | bondWindowEnd (sl : Nat)  -- R393
  | sliceRetireDone (sl : Nat)  -- R395
  | chkGo (secure : Bool) (n : Nat) (w : W32)  -- R398
  | chkJobDone (n : Nat)  -- R399
  -- Arbitration (R410).
  | qosGrant (a : Arb)  -- R410
  -- Power (R419 to R448): readings and samples are operands.
  | pwrLevelEval  -- R424
  | pwrCurrentSample (cur : List Nat) (vin : Nat)  -- R428
  | pwrWindow (stack pkg : Nat) (ps : List Nat)  -- R430
  | railTargetReached (r : Nat)  -- R420
  | regionAdmit  -- R436
  | regionRampStep (r : Nat)  -- R438
  | regionRampDone (r : Nat)  -- R437
  | regionClockRunning (r : Nat)  -- R433
  | regionRailOff (r : Nat)  -- R434
  | regPhaseFail (kind u : Nat)  -- R439
  | lendComplete (r : Nat)  -- R441
  | droopEvent (r rise dip : Nat)  -- R445
  | lwmClr (secure : Bool) (r : Nat)  -- R444
  | pwrLogClr (secure : Bool)  -- R448
  -- Temperature (R452 to R471, R610).
  | thermDemand (secure hi : Bool) (m : W32)  -- R453
  | thermReq  -- R610
  | thermMeasureDone (fault : Bool) (raw : Int)  -- R452
  | orderlyStopComplete  -- R468
  | staleLimitExpire (c : Nat)  -- R457
  | thermRecheck (r : Nat)  -- R466
  | suspectHotWindowEnd (sl : Nat)  -- R462
  | thermResume (secure : Bool)  -- R471
  -- The PCI Express function (R476 to R499): offset `off`, `n` bytes.
  | bar2Read (secure : Bool) (x n : Nat)  -- R480
  | bar2Write (secure : Bool) (x : Nat) (bytes : List Byte) (en : List Bool) (ep : Bool)  -- R480
  | regWrite (secure : Bool) (off n : Nat) (v : W64)  -- R485
  | mbxSelWrite (h secure : Bool) (k : PageKind) (i : Nat) (sel : W32)  -- R496
  | mbxCaptureDone (h : Bool) (k : PageKind) (i : Nat)  -- R496
  | mbxData3Read (h secure : Bool) (k : PageKind) (i : Nat)  -- R496
  | mbxAbort (h secure : Bool) (k : PageKind) (i : Nat)  -- R497
  | evtCntWrite (secure : Bool) (k : PageKind) (i n : Nat) (v : W32)  -- R513
  | functionLevelReset  -- R499
  | perstAssert  -- R499
  | perstRelease (addr : Nat) (lrev testen : Bool)  -- R541
  | linkDown  -- R499
  -- Interrupts (R504 to R513): `h` names IRC_H.
  | ircDeliver (h : Bool)  -- R504
  | ircRaise (h secure : Bool) (n : Nat)  -- R512
  | ircEoi (h secure : Bool) (n : Nat)  -- R505
  | stackReset (h secure : Bool)  -- R508
  | srcCntWrite (h secure : Bool) (n : Nat) (v : W32)  -- R513
  -- Boot and messages (R523 to R538).
  | bootGo (secure : Bool)  -- R527
  | bootVerifyDone (bad : Bool)  -- R527
  | attest (secure : Bool)  -- R530
  | fuseRevoke (secure : Bool)  -- R533
  | fuseSvn (secure : Bool)  -- R533
  | fuseOemKey (secure : Bool)  -- R533
  | otpWrite (secure : Bool)  -- R537
  | ideKm (secure : Bool)  -- R538
  | msgUnknownType (secure : Bool) (t : Nat)  -- R538
  | msgDone (vpp : Bool) (reply : List Byte) (keys : Bool)  -- R538
  | secLogClr (secure : Bool)  -- R539
  -- Bring-up, resets and background work (R541 to R563).
  | bringupComplete  -- R541
  | recoveryDone  -- R542
  | bringupLimitExpire (n : Nat)  -- R542
  | cellReset (secure : Bool) (c : Nat)  -- R553
  | blockReset (secure : Bool) (b : Nat)  -- R554
  | regionReset (secure : Bool) (r : Nat)  -- R554
  | chipReset (secure : Bool) (key u : Nat)  -- R555
  | resetDrainDone  -- R554
  | drainLimitExpire  -- R554
  | selftestSubmit (secure : Bool) (item t : Nat) (force hold : Bool)  -- R558
  | selftestCancel (secure : Bool) (item t : Nat)  -- R558
  | selftestStart (item t : Nat)  -- R559
  | selftestDone (item t : Nat) (pass : Bool) (detail : Nat) (cells : List Nat)  -- R560
  | ageingCheck (r age : Nat)  -- R563
  | backgroundItemRun (i u : Nat)  -- R562
  -- Observation (R567 to R581).
  | cntClr (secure every : Bool) (cls pg : Nat)  -- R567
  | perfClearAll (secure : Bool)  -- R567
  | perfFreeze (secure on : Bool)  -- R567
  | pcSample (c obs : Nat)  -- R572
  | traceMark (secure : Bool) (d : W32)  -- R579
  | traceDrainLine  -- R577
  | traceRdPtrWrite (secure : Bool) (v : W32)  -- R576
  | gaugeFrame (hbm : List Nat)  -- R581
  -- The fabric (R320 to R364): port `p`; received bytes and announcements are operands.
  | portSignalDetect (p : Nat)  -- R321
  | portRetryTimer (p : Nat) (signal : Bool)  -- R320
  | portTrainingDone (p : Nat) (ok : Bool) (sw : W32) (pp : Nat)  -- R321
  | portLockLoss (p : Nat)  -- R321
  | linkHoldExpire (p : Nat)  -- R360
  | fabPacketReceived (p : Nat) (bytes : List Byte) (corr uncorr : Nat)  -- R332
  | lcpReceived (p : Nat) (w : BitVec 256)  -- R330
  | lcpTimer (p : Nat)  -- R330
  | replayTimeout (p : Nat)  -- R333
  | fabRdReceived (p : Nat)  -- R341
  | fabWrReceived (p : Nat)  -- R341
  | fabRedReceived (p : Nat)  -- R341
  | fabFlagReceived (p : Nat)  -- R235
  | fabAtomReceived (p : Nat)  -- R341
  | fabResponseReceived (p : Nat)  -- R343
  | hello (p : Nat) (h : Hello)  -- R352
  | authChal (p : Nat)  -- R353
  | authResp (p : Nat) (of : SwitchKeys) (sig : List Byte)  -- R353
  | authFin (p : Nat)  -- R353
  | authAbort (p code : Nat)  -- R351
  | reachAdd (p : Nat) (rs : List (Nat × Nat))  -- R355
  | reachDel (p : Nat) (rs : List (Nat × Nat))  -- R355
  | reachSync (p : Nat) (ends : Bool)  -- R355
  | ping (p : Nat) (v : W64)  -- R351
  | pong (p : Nat) (v : W64)  -- R351
  | fabCompletionTimeout (id : Nat)  -- R347
  | tagReleaseTimeout (t : Nat)  -- R346
  | flowSwitchoverTimeout (key : Nat)  -- R350
  | topoSettleExpire  -- R358
  | evtPop (secure : Bool) (n : Nat)  -- R356
  -- Package (R606 to R615).
  | refclkCoreLoss  -- R607
  | supplyFault (base : Bool)  -- R606
  | sidebandRead (addr off n : Nat)  -- R611
  | sidebandDemand (addr off v : Nat)  -- R612
  | sidebandRefresh  -- R612
  | tapInstructionLoad (i : Option TapInstr)  -- R615
  | tapReset  -- R615
  -- Events and requests of the function and of bring-up that complete the table (R477, R487, R523, R543).
  | linkUp  -- R477
  | configSpaceWrite (off : Nat) (v : W32)  -- R477
  | bar0Read (secure : Bool) (off n : Nat)  -- R487
  | quickSelfTestDone (faults : List Nat)  -- R543
  | ideStreamLeavesSecure  -- R523
  deriving DecidableEq, Repr

end Sys2Proof
end

