-- ==== Sys2Proof/Decode.lean ====
section
/-! DEFINITION. Commands that a word spells. The table gives no bits to any of its rows: a command of this block is an event
with its operands, so no word spells one. -/
namespace Sys2Proof

/-- The command that a word of `nbits` bits spells: none. -/
def decodeTableWord (_nbits _w : Nat) : Option Instr := none

end Sys2Proof
end

