-- ==== Sys2Proof/Config.lean ====
section
/-! DEFINITION. What the spec leaves open, as constants without a body: no proof can see their values. A meaning applies one
to the operands it depends on, or to the counter `State.fresh` for a value of its own each time. -/
namespace Sys2Proof

/-- The tag at which the search for a free fabric tag begins (R346 names no order). -/
opaque Config.freeTag : Nat → BitVec 15
/-- The NI-assigned index of a cell's group (R347). -/
opaque Config.niIndex : Nat → Nat → BitVec 15
/-- A bit that the spec leaves open, fresh each time. -/
opaque Config.freeBit : Nat → Bool
/-- A 32-bit value that the spec leaves open, fresh each time. -/
opaque Config.freeWord : Nat → W32
/-- A number that the spec leaves open, fresh each time. -/
opaque Config.freeNat : Nat → Nat
/-- The result bits of a built-in special function on a finite input, by entry and mode (R183). -/
opaque Config.sfu : Nat → Bool → W32 → W32
/-- A value that a micro-program step leaves open, by its step word and operand (R180). -/
opaque Config.stepOpen : W32 → W32 → W32
/-- SM4-GCM (R363): byte `i` of the key stream, and the tag of a ciphertext, under a key and a 96-bit IV. -/
opaque Config.gcmStream : Nat → BitVec 96 → Nat → Byte
opaque Config.gcmTag : Nat → BitVec 96 → List Byte → BitVec 128

/-- The layout of a management message that the device sends, by its type and contents: the spec lists the contents and gives
no layout (R351). -/
opaque Config.message : Nat → List (List Byte) → List Byte
/-- The nonce and the ephemeral SM2 public key of the device's challenge, fresh each time (R351, R353). -/
opaque Config.nonce : Nat → List Byte
opaque Config.ephemeralKey : Nat → List Byte
/-- The SM2 key exchange and its KDF (R353, R363): the keys and the salts of the device's and of the switch's direction, from the
device's challenge, the switch's ephemeral key and the switch's identity key. -/
opaque Config.sessionKeys : Nat → List Byte → List Byte → (Nat × Nat) × (Nat × Nat)
/-- Whether an SM2 signature over a message verifies under a public key: key, message, signature (R353). -/
opaque Config.sm2Check : List Byte → List Byte → List Byte → Bool

/-! ## Factory values in fuses (R419, R445, R460, R535) -/

/-- The lowest voltage of a physical region's VMIN table, in mV. -/
opaque Config.vminBase : Nat → Nat
/-- The rise of a physical region's VMIN table to a level from the one below, in mV; R419 bounds it at 50. -/
opaque Config.vminStep : Nat → Nat → Nat
/-- The factory droop coefficient of a physical region, in µV per A. -/
opaque Config.droopCoef : Nat → Nat
/-- The factory coefficient k of a physical region's model, in 1/1,024 °C per W, and c in 1/16 °C. -/
opaque Config.modelK : Nat → Int
opaque Config.modelC : Nat → Int
/-- The reading of a thermistor by its model, in 1/16 °C: resistance, BETA and NOM (R451). -/
opaque Config.thermistor : Nat → Nat → Nat → Int
/-- Whether a value that its register cannot hold exactly is rounded up, by numerator and denominator: the spec names no
rounding. -/
opaque Config.roundUp : Int → Nat → Bool

/-! ## Security (R526 to R531) -/

/-- The SM3 digest of bytes. -/
opaque Config.sm3 : List Byte → List Byte
/-- Whether an SM2 signature of a digest verifies under a public key, with the default user identifier. -/
opaque Config.sm2Verify : List Byte → List Byte → List Byte → Bool
/-- The 256-bit seed fused at manufacture. -/
opaque Config.seed : List Byte
/-- The first 256 bits of the SM3-based key derivation function of the SM2 standard, as a number; and the order of the SM2 group. -/
opaque Config.kdf : List Byte → Nat
opaque Config.sm2Order : Nat
/-- The public key of a private one: x then y, low bytes first; and the `n`-th signature of bytes by a private key, which draws a
random number. -/
opaque Config.sm2Public : Nat → List Byte
opaque Config.sm2Sign : Nat → Nat → List Byte → List Byte
/-- The ASCII bytes of "EK8 IDENTITY". -/
def Config.identityTag : List Byte := [0x45, 0x4B, 0x38, 0x20, 0x49, 0x44, 0x45, 0x4E, 0x54, 0x49, 0x54, 0x59]
/-- The identity key pair (R529), and a signature with it. -/
def Config.identityPrivate : Nat := Config.kdf (Config.seed ++ Config.identityTag) % (Config.sm2Order - 1) + 1
def Config.identityKey : List Byte := Config.sm2Public Config.identityPrivate
def Config.identitySign (n : Nat) (m : List Byte) : List Byte := Config.sm2Sign n Config.identityPrivate m
/-- The key hash fused in a slot at manufacture; for a blank slot, what its fuses hold. -/
opaque Config.keyHash : Nat → List Byte
/-- The version of the boot ROM (R540). -/
opaque Config.romVer : W32

/-- The PCI Express Vendor ID assigned to Terpex, which the spec does not print, and the Revision ID, which it does not name
(R475). -/
opaque Config.vendorId : W16
opaque Config.revisionId : Byte
/-- Terpex's JEDEC manufacturer identity (R614). -/
opaque Config.jedec : BitVec 11
/-- The spare rows of a slice's repair map (R544). -/
opaque Config.spareRows : Nat → Nat
/-- The factory value of a calibration item, by its selector, in its unit (R535, R536). -/
opaque Config.factory : Nat → Int

/-- The spare lanes of an HBM channel, by its owning slice: the stack's own datasheet gives them (R300, R314). -/
opaque Config.laneSpares : Nat → Nat

/-! ## Memory that a loss of power leaves unspecified (R470) -/

/-- The bytes, check-table entries and syndromes that the stacks hold after a loss, fresh each time. -/
opaque Config.lostBytes : Nat → List (Nat × Byte)
opaque Config.lostEntries : Nat → List (Nat × W32)
opaque Config.lostCode : Nat → List (Nat × Byte)

end Sys2Proof
end

