-- ==== Sys2Proof/Machine/Bits.lean ====
section
/-! DEFINITION. Bit fields, sign extension, sparse maps: the plain helpers that every chapter's meaning uses. -/
namespace Sys2Proof.Machine

/-- Bits [hi:lo] of a number, in the notation of chapter 00. -/
def bitsN (w hi lo : Nat) : Nat := (w >>> lo) % 2 ^ (hi + 1 - lo)

/-- Bit `i` of a number. -/
def bitN (w i : Nat) : Bool := (w >>> i) % 2 == 1

/-- `w` with bits [hi:lo] replaced by `v`. -/
def putBitsN (w hi lo v : Nat) : Nat :=
  w - (bitsN w hi lo) <<< lo + (v % 2 ^ (hi + 1 - lo)) <<< lo

/-- Bits [hi:lo] of a register. -/
def fldW (w : W32) (hi lo : Nat) : Nat := bitsN w.toNat hi lo

/-- A register with bits [hi:lo] replaced. -/
def putW (w : W32) (hi lo v : Nat) : W32 := BitVec.ofNat 32 (putBitsN w.toNat hi lo v)

/-- The value of the low `n` bits of `v` as a two's-complement number. -/
def signed (n v : Nat) : Int :=
  let r := v % 2 ^ n
  if 2 * r < 2 ^ n then (r : Int) else (r : Int) - (2 ^ n : Nat)

/-- The low `n` bits of an integer, as an unsigned number. -/
def wrapN (n : Nat) (v : Int) : Nat := (v % (2 ^ n : Nat)).toNat

/-- Whether a row of the table carries words of an opcode (R134, R136, R139, R178): every opcode of the four classes that
number no operation, and those that the memory, special-function and control tables assign. -/
def opcodeRow (o : Nat) : Bool :=
  o ≤ 0x9F || (0xA0 ≤ o && o ≤ 0xA9) || (0xB0 ≤ o && o ≤ 0xB2)
    || [0xC0, 0xC1, 0xC2, 0xC3, 0xC4, 0xC8, 0xC9, 0xCA, 0xCB, 0xD0, 0xD1, 0xD2, 0xD4, 0xD5, 0xD8, 0xD9, 0xDA, 0xDC, 0xDD].contains o

/-- 1 for true. -/
def b2n (b : Bool) : Nat := if b then 1 else 0

/-- A counter that adds `k` and holds at `lim`. -/
def satAdd (lim n k : Nat) : Nat := min lim (n + k)

/-! Sparse maps: (key, value) pairs with strictly rising keys; a key that is not listed has the default value. -/

/-- The value at a key. -/
def mget {α : Type} (d : α) : List (Nat × α) → Nat → α
  | [], _ => d
  | (k', v) :: t, k => if k' = k then v else mget d t k

/-- Insert a pair before the first larger key. -/
def mins {α : Type} (k : Nat) (v : α) : List (Nat × α) → List (Nat × α)
  | [] => [(k, v)]
  | (k', v') :: t => if k < k' then (k, v) :: (k', v') :: t else (k', v') :: mins k v t

/-- Remove a key. -/
def mdel {α : Type} (k : Nat) : List (Nat × α) → List (Nat × α)
  | [] => []
  | (k', v') :: t => if k' = k then mdel k t else (k', v') :: mdel k t

/-- Set a key; a key set to its default leaves the list. -/
def mset {α : Type} [DecidableEq α] (d : α) (m : List (Nat × α)) (k : Nat) (v : α) : List (Nat × α) :=
  if v = d then mdel k m else mins k v (mdel k m)

/-- Keys strictly above `b`, rising. -/
def risingFrom {α : Type} : Nat → List (Nat × α) → Bool
  | _, [] => true
  | b, (k, _) :: t => b ≤ k && risingFrom (k + 1) t

/-- The canonical form of a sparse map whose default at key `k` is `d k`. -/
def mapWf {α : Type} [DecidableEq α] (d : Nat → α) (m : List (Nat × α)) : Bool :=
  risingFrom 0 m && m.all (fun e => e.2 ≠ d e.1)

/-- Keep the entries whose key satisfies `p`. -/
def mkeep {α : Type} (p : Nat → Bool) (m : List (Nat × α)) : List (Nat × α) := m.filter (fun e => p e.1)

/-- Replace element `i` of a list, if there is one. -/
def setAt {α : Type} : List α → Nat → α → List α
  | [], _, _ => []
  | _ :: t, 0, v => v :: t
  | h :: t, i + 1, v => h :: setAt t i v

/-- The sum over i < n of f i × 2^(w·i): n values of w bits each, the first in the low bits. -/
def packN (w : Nat) (f : Nat → Nat) : Nat → Nat
  | 0 => 0
  | n + 1 => packN w f n + (f n % 2 ^ w) <<< (w * n)

/-- Byte `i` of a little-endian value. -/
def byteOf (v i : Nat) : Byte := BitVec.ofNat 8 (v >>> (8 * i))

/-- The value of little-endian bytes. -/
def ofBytes : List Byte → Nat
  | [] => 0
  | b :: t => b.toNat + 256 * ofBytes t

/-- `n` little-endian bytes of a value. -/
def toBytes : Nat → Nat → List Byte
  | 0, _ => []
  | n + 1, v => BitVec.ofNat 8 v :: toBytes n (v / 256)

/-- 64-bit word `i` of a line. -/
def lineWord (d : Line) (i : Nat) : W64 := BitVec.ofNat 64 (d.toNat >>> (64 * i))

/-- A line with word `i` replaced. -/
def setLineWord (d : Line) (i : Nat) (v : W64) : Line :=
  BitVec.ofNat 2048 (putBitsN d.toNat (64 * i + 63) (64 * i) v.toNat)

/-- Byte `i` of a line. -/
def lineByte (d : Line) (i : Nat) : Byte := BitVec.ofNat 8 (d.toNat >>> (8 * i))

/-- The 2048-bit mask whose byte `i` is all ones where bit `i` of a byte mask is 1. -/
def maskBits (m : BitVec 256) : Nat := packN 8 (fun i => if bitN m.toNat i then 255 else 0) 256

/-- `old` with the bytes of the mask taken from `new`. -/
def mergeLine (old new : Line) (m : BitVec 256) : Line :=
  let k := BitVec.ofNat 2048 (maskBits m)
  (old &&& ~~~k) ||| (new &&& k)

/-- The words that a byte mask touches. -/
def wordsTouched (m : BitVec 256) : BitVec 32 :=
  BitVec.ofNat 32 (packN 1 (fun i => if bitsN m.toNat (8 * i + 7) (8 * i) = 0 then 0 else 1) 32)

/-- The words that a byte mask covers whole. -/
def wordsCovered (m : BitVec 256) : BitVec 32 :=
  BitVec.ofNat 32 (packN 1 (fun i => if bitsN m.toNat (8 * i + 7) (8 * i) = 255 then 1 else 0) 32)

/-- The mask of `n` bytes from byte `o` of a line. -/
def byteMask (o n : Nat) : BitVec 256 := BitVec.ofNat 256 ((2 ^ n - 1) <<< o)

/-- The lowest set bit below `n`. -/
def lowestBit (w n : Nat) : Option Nat := (List.range n).find? (bitN w)

/-- The number of set bits among the low `n`. -/
def popcount (w n : Nat) : Nat := (List.range n).countP (bitN w)

end Sys2Proof.Machine
end

