-- ==== Sys2Proof/Machine/Code.lean ====
section
/-! DEFINITION. The (72,64) word code, the line check values and the CRCs of chapter 10 (R370 to R375, R397). -/
namespace Sys2Proof.Machine

/-- The weight of an 8-bit value. -/
def weight8 (v : Nat) : Nat := popcount v 8

/-- The 8-bit values of weight 3, then the first eight of weight 5, in ascending order (R370). -/
def dataColumns : List Nat :=
  (List.range 256).filter (fun v => weight8 v == 3) ++ ((List.range 256).filter (fun v => weight8 v == 5)).take 8

/-- XOR of the values of a list. -/
def xorAll (l : List Nat) : Nat := l.foldl (· ^^^ ·) 0

/-- The XOR of the columns of the data bits that are 1 (R370). -/
def dataCheck (d : Nat) : Nat :=
  xorAll ((dataColumns.zipIdx).map (fun c => if bitN d c.2 then c.1 else 0))

/-- The value f of R371 for a storage position. -/
def foldOf (w : Nat) : Nat :=
  (w % 128) ^^^ (w / 2 ^ 7 % 128) ^^^ (w / 2 ^ 14 % 128) ^^^ (w / 2 ^ 21 % 128) ^^^ (w / 2 ^ 28 % 128) ^^^ (w / 2 ^ 35 % 128)

/-- f in bits [7:1] and its parity in bit [0] (R371). -/
def foldByte (f : Nat) : Nat := 2 * (f % 128) + popcount f 7 % 2

/-- The address fold A(W) of R371. -/
def addrFold (w : Nat) : Nat := foldByte (foldOf w)

/-- The check bits stored with a word at position W (R370). -/
def checkBits (d w : Nat) : Nat := dataCheck d ^^^ addrFold w

/-- The syndrome left by a write through a flip mask (R390): the decode then finds the columns of the flipped data bits,
the difference of the two folds, and the flipped check bits. -/
def flipSyndrome (w : Nat) (dataMask foldMask checkMask : Nat) : Byte :=
  BitVec.ofNat 8 (dataCheck dataMask ^^^ addrFold w ^^^ foldByte (foldOf w ^^^ foldMask) ^^^ checkMask)

/-- What a decode makes of a word (R372). -/
inductive Decoded where
  | good
  /-- Correctable: the data bit to flip, or none for a check bit. -/
  | fix (bit : Option Nat)
  | poison
  | bad
  deriving DecidableEq, Repr

/-- R372: the class of a syndrome; `marker` says whether 0xFF is the poison marker at this place. -/
def classify (marker : Bool) (syn : Byte) : Decoded :=
  if syn = 0 then .good
  else if syn = 0xFF && marker then .poison
  else if (List.range 8).any (fun j => syn.toNat == 2 ^ j) then .fix none
  else match (dataColumns.zipIdx).find? (fun c => c.1 == syn.toNat) with
    | some c => .fix (some c.2)
    | none => .bad

/-- One bit of a reflected CRC: shift right, and fold the polynomial in when the bit that leaves is 1. -/
def crcBit (poly c : Nat) : Nat := if c % 2 = 1 then (c / 2) ^^^ poly else c / 2

/-- One byte of a reflected CRC. -/
def crcByte (poly c : Nat) (b : Byte) : Nat :=
  let x := c ^^^ b.toNat
  crcBit poly (crcBit poly (crcBit poly (crcBit poly (crcBit poly (crcBit poly (crcBit poly (crcBit poly x)))))))

/-- A reflected CRC over bytes in address order. -/
def crcBytes (poly : Nat) : Nat → List Byte → Nat
  | c, [] => c
  | c, b :: t => crcBytes poly (crcByte poly c b) t

/-- 0x1EDC_6F41 reflected (R375). -/
def polyC : Nat := 0x82F63B78
/-- The ECMA-182 polynomial 0x42F0_E1EB_A9EA_3693 reflected (R397). -/
def poly64 : Nat := 0xC96C5795D7870F42

/-- The forms of R375. -/
inductive Form where
  | plain | wide | dead
  deriving DecidableEq, Repr

/-- The form constant K of R375. -/
def formK : Form → Nat
  | .plain => 0
  | .wide => 0xA5A5A5A5
  | .dead => 0x5A5A5A5A

/-- G of R375: L[31:0] XOR L[39:32] × 2^24. -/
def crcG (l : Nat) : Nat := (l % 2 ^ 32) ^^^ ((l / 2 ^ 32 % 256) * 2 ^ 24)

/-- The bytes of a line in address order. -/
def lineBytes (d : Line) : List Byte := toBytes 256 d.toNat

/-- The check value of a line in a form (R375). -/
def checkValue (f : Form) (l : Nat) (d : Line) : W32 :=
  BitVec.ofNat 32 (crcBytes polyC (0xFFFFFFFF ^^^ crcG l ^^^ formK f) (lineBytes d) ^^^ 0xFFFFFFFF)

/-- The DEAD mark's check value: 256 zero bytes in form DEAD (R307). -/
def deadValue (l : Nat) : W32 := checkValue .dead l 0

end Sys2Proof.Machine
end

