-- ==== Sys2Proof/Machine/Num.lean ====
section
/-! DEFINITION. The element formats, exact values, the one rounding to a format, FP32 arithmetic, block-scaled formats
and wide partials of chapter 02 (R51 to R75, R83). -/
namespace Sys2Proof.Machine

/-- The element formats of R51, with MXINT8's scaled integer of R57. -/
inductive Fmt where
  | fp32 | bf16 | fp16 | e4m3 | e5m2 | e3m2 | e2m3 | e2m1 | int8 | mxint8
  deriving DecidableEq, Repr

/-- A value: NaN, an infinity, or (-1)^neg × m × 2^e; m = 0 is a zero with a sign. -/
inductive Val where
  | nan
  | inf (neg : Bool)
  | fin (neg : Bool) (m : Nat) (e : Int)
  deriving DecidableEq, Repr

/-- The rounding modes of R64. -/
inductive Rnd where
  | rne | rtz | rdn | rup
  deriving DecidableEq, Repr

/-- R64: the mode of a two-bit code. -/
def rndOf (c : Nat) : Rnd := if c = 0 then .rne else if c = 1 then .rtz else if c = 2 then .rdn else .rup

/-- Width in bits (R51). -/
def fmtWidth : Fmt → Nat
  | .fp32 => 32 | .bf16 => 16 | .fp16 => 16 | .e4m3 => 8 | .e5m2 => 8 | .e3m2 => 6 | .e2m3 => 6 | .e2m1 => 4
  | .int8 => 8 | .mxint8 => 8

/-- Mantissa bits, bias, and the largest finite exponent field and mantissa (R51); the integers have none. -/
def fmtParams : Fmt → Nat × Nat × Nat × Nat
  | .fp32 => (23, 127, 254, 0x7FFFFF)
  | .bf16 => (7, 127, 254, 0x7F)
  | .fp16 => (10, 15, 30, 0x3FF)
  | .e4m3 => (3, 7, 15, 6)
  | .e5m2 => (2, 15, 30, 3)
  | .e3m2 => (2, 3, 7, 3)
  | .e2m3 => (3, 1, 3, 7)
  | .e2m1 => (1, 1, 3, 1)
  | .int8 => (0, 0, 0, 0)
  | .mxint8 => (0, 0, 0, 0)

/-- Whether the format has infinities (R51). -/
def fmtHasInf : Fmt → Bool
  | .fp32 | .bf16 | .fp16 | .e5m2 => true
  | _ => false

/-- The exponent of the largest finite magnitude, t of R68. -/
def fmtT : Fmt → Int
  | .e4m3 => 8 | .e5m2 => 15 | .e3m2 => 4 | .e2m3 => 2 | .e2m1 => 2 | .int8 => 6 | .mxint8 => 0
  | .fp32 => 127 | .bf16 => 127 | .fp16 => 15

/-- The exponent of the smallest nonzero magnitude, e of R68. -/
def fmtE : Fmt → Int
  | .e4m3 => -9 | .e5m2 => -16 | .e3m2 => -4 | .e2m3 => -3 | .e2m1 => -1 | .int8 => 0 | .mxint8 => -6
  | .fp32 => -149 | .bf16 => -133 | .fp16 => -24

/-- The value of an integer times a power of two. -/
def valOfInt (n : Int) (e : Int) : Val := .fin (n < 0) n.natAbs e

/-- The value that the bits of a format encode (R51, R57). -/
def decodeFmt (f : Fmt) (b : Nat) : Val :=
  match f with
  | .int8 => valOfInt (signed 8 b) 0
  | .mxint8 => valOfInt (signed 8 b) (-6)
  | f =>
    let (man, bias, maxE, maxM) := fmtParams f
    let w := fmtWidth f
    let neg := bitN b (w - 1)
    let ex := bitsN b (w - 2) man
    let m := b % 2 ^ man
    if ex > maxE || (ex = maxE && m > maxM) then
      if fmtHasInf f && m = 0 then .inf neg else .nan
    else if ex = 0 then .fin neg m (1 - (bias : Int) - man)
    else .fin neg (m + 2 ^ man) ((ex : Int) - bias - man)

/-- floor(log2(num / den)) of a positive quotient. -/
def flog2 (num den : Nat) : Int :=
  let a : Int := (Nat.log2 num : Int) - Nat.log2 den
  let ge : Bool := if 0 ≤ a then den * 2 ^ a.toNat ≤ num else den ≤ num * 2 ^ (-a).toNat
  if ge then a else a - 1

/-- num × 2^(-q) / den as a quotient of naturals. -/
def scaleQ (num den : Nat) (q : Int) : Nat × Nat :=
  if 0 ≤ q then (num, den * 2 ^ q.toNat) else (num * 2 ^ (-q).toNat, den)

/-- num / den rounded to an integer under a mode; `neg` is the sign of the value. True when not exact. -/
def roundQ (mode : Rnd) (neg : Bool) (num den : Nat) : Nat × Bool :=
  let k := num / den
  let r := num % den
  if r = 0 then (k, false)
  else
    let up : Bool := match mode with
      | .rne => if 2 * r = den then k % 2 = 1 else 2 * r > den
      | .rtz => false
      | .rdn => neg
      | .rup => !neg
    (if up then k + 1 else k, true)

/-! Numeric status bits of R79. -/
abbrev stINX : Nat := 1
abbrev stNAN : Nat := 2
abbrev stSAT : Nat := 4
abbrev stOVF : Nat := 8

/-- The canonical NaN of a target and its status (R65). -/
def encNaN : Fmt → Nat × Nat
  | .fp32 => (0x7FC00000, stNAN) | .bf16 => (0x7FC0, stNAN) | .fp16 => (0x7E00, stNAN)
  | .e5m2 => (0x7E, stNAN) | .e4m3 => (0x7F, stNAN)
  | _ => (0, stNAN ||| stSAT)

/-- The bits of the largest finite value of a sign. -/
def encMax (f : Fmt) (neg : Bool) : Nat :=
  match f with
  | .int8 => if neg then 0x80 else 0x7F
  | .mxint8 => if neg then 0x81 else 0x7F
  | f =>
    let (man, _, maxE, maxM) := fmtParams f
    b2n neg <<< (fmtWidth f - 1) + maxE <<< man + maxM

/-- The bits of an infinity of a format that has one. -/
def encInf (f : Fmt) (neg : Bool) : Nat :=
  let (man, _, maxE, _) := fmtParams f
  b2n neg <<< (fmtWidth f - 1) + (maxE + 1) <<< man

/-- R65, column "finite value beyond the range". -/
def encBeyond (f : Fmt) (mode : Rnd) (neg : Bool) : Nat × Nat :=
  let toInf : Bool := fmtHasInf f && (mode = .rne || (mode = .rup && !neg) || (mode = .rdn && neg))
  (if toInf then encInf f neg else encMax f neg, stSAT ||| stINX)

/-- R65, column "±Inf". The unscaled FP4 and FP6 formats treat it as a finite value beyond the range. -/
def encOfInf (f : Fmt) (neg : Bool) : Nat × Nat :=
  if fmtHasInf f then (encInf f neg, 0)
  else match f with
    | .e3m2 | .e2m3 | .e2m1 => (encMax f neg, stSAT ||| stINX)
    | f => (encMax f neg, stSAT)

/-- A positive or zero quotient with a sign, rounded once to a format (R64, R65). -/
def encQ (f : Fmt) (mode : Rnd) (neg : Bool) (num den : Nat) : Nat × Nat :=
  match f with
  | .int8 =>
    let (k, ix) := roundQ mode neg num den
    if k > (if neg then 128 else 127) then encBeyond .int8 mode neg
    else (wrapN 8 (if neg then -(k : Int) else k), b2n ix)
  | .mxint8 =>
    let (n, d) := scaleQ num den (-6)
    let (k, ix) := roundQ mode neg n d
    if k > 127 then encBeyond .mxint8 mode neg
    else (wrapN 8 (if neg then -(k : Int) else k), b2n ix)
  | f =>
    let (man, bias, maxE, maxM) := fmtParams f
    let sgn := b2n neg <<< (fmtWidth f - 1)
    if num = 0 then (sgn, 0)
    else
      let q := max (flog2 num den - man) (1 - (bias : Int) - man)
      let (n, d) := scaleQ num den q
      let (k, ix) := roundQ mode neg n d
      if k < 2 ^ man then (sgn + k, b2n ix)
      else
        let (k, q) := if k = 2 ^ (man + 1) then (2 ^ man, q + 1) else (k, q)
        let ex := (q + man + bias).toNat
        let m := k - 2 ^ man
        if ex > maxE || (ex = maxE && m > maxM) then encBeyond f mode neg
        else (sgn + ex <<< man + m, b2n ix)

/-- m × 2^e as a quotient. -/
def dyadQ (m : Nat) (e : Int) : Nat × Nat := if 0 ≤ e then (m * 2 ^ e.toNat, 1) else (m, 2 ^ (-e).toNat)

/-- A value converted to a format under a mode, with its status (R64, R65). -/
def encVal (f : Fmt) (mode : Rnd) : Val → Nat × Nat
  | .nan => encNaN f
  | .inf n => encOfInf f n
  | .fin n m e => let (a, b) := dyadQ m e; encQ f mode n a b

/-! ## Exact arithmetic on values -/

/-- The signed mantissa of a finite value. -/
def smant (neg : Bool) (m : Nat) : Int := if neg then -(m : Int) else m

/-- Negate. -/
def vneg : Val → Val
  | .nan => .nan
  | .inf n => .inf (!n)
  | .fin n m e => .fin (!n) m e

/-- Magnitude. -/
def vabs : Val → Val
  | .nan => .nan
  | .inf _ => .inf false
  | .fin _ m e => .fin false m e

/-- The exact sum; a zero sum is +0 unless both terms are negative zeros or negative (IEEE 754, round to nearest). -/
def vadd : Val → Val → Val
  | .nan, _ => .nan
  | _, .nan => .nan
  | .inf a, .inf b => if a = b then .inf a else .nan
  | .inf a, _ => .inf a
  | _, .inf b => .inf b
  | .fin n1 m1 e1, .fin n2 m2 e2 =>
    let e := min e1 e2
    let s := smant n1 m1 * 2 ^ (e1 - e).toNat + smant n2 m2 * 2 ^ (e2 - e).toNat
    if s = 0 then .fin (n1 && n2) 0 e else .fin (s < 0) s.natAbs e

/-- The exact product. -/
def vmul : Val → Val → Val
  | .nan, _ => .nan
  | _, .nan => .nan
  | .inf a, .inf b => .inf (a != b)
  | .inf a, .fin n m _ => if m = 0 then .nan else .inf (a != n)
  | .fin n m _, .inf b => if m = 0 then .nan else .inf (n != b)
  | .fin n1 m1 e1, .fin n2 m2 e2 => .fin (n1 != n2) (m1 * m2) (e1 + e2)

/-- Order of two values that are not NaN; zeros of both signs are equal. -/
def vlt : Val → Val → Bool
  | .nan, _ => false
  | _, .nan => false
  | .inf a, .inf b => a && !b
  | .inf a, _ => a
  | _, .inf b => !b
  | .fin n1 m1 e1, .fin n2 m2 e2 =>
    let e := min e1 e2
    smant n1 m1 * 2 ^ (e1 - e).toNat < smant n2 m2 * 2 ^ (e2 - e).toNat

/-- Equality of values; NaN equals nothing. -/
def veq : Val → Val → Bool
  | .nan, _ => false
  | _, .nan => false
  | a, b => !vlt a b && !vlt b a

/-- Whether a value is NaN. -/
def isNaN : Val → Bool
  | .nan => true
  | _ => false

/-- Whether a value is NaN or an infinity. -/
def isSpecial : Val → Bool
  | .fin _ _ _ => false
  | _ => true

/-- Whether a value carries a negative sign. -/
def isNeg : Val → Bool
  | .nan => false
  | .inf n => n
  | .fin n _ _ => n

/-! ## FP32 (R55) -/

/-- The value of an FP32 word. -/
def f32 (w : W32) : Val := decodeFmt .fp32 w.toNat
/-- A value rounded to FP32 under RNE. -/
def toF32 (v : Val) : W32 := BitVec.ofNat 32 (encVal .fp32 .rne v).1
/-- The canonical FP32 NaN. -/
abbrev f32NaN : W32 := 0x7FC00000
def f32Add (a b : W32) : W32 := toF32 (vadd (f32 a) (f32 b))
def f32Sub (a b : W32) : W32 := toF32 (vadd (f32 a) (vneg (f32 b)))
def f32Mul (a b : W32) : W32 := toF32 (vmul (f32 a) (f32 b))
/-- a × b + c with one rounding (R55). -/
def f32Fma (a b c : W32) : W32 := toF32 (vadd (vmul (f32 a) (f32 b)) (f32 c))

/-- The larger of two FP32 words: −0 orders below +0, NaN in either gives the canonical NaN (R279). -/
def f32Max (a b : W32) : W32 :=
  let x := f32 a; let y := f32 b
  if isNaN x || isNaN y then f32NaN
  else if vlt x y then b else if vlt y x then a else if isNeg x then b else a

/-- The smaller of two FP32 words, by the same order (R279). -/
def f32Min (a b : W32) : W32 :=
  let x := f32 a; let y := f32 b
  if isNaN x || isNaN y then f32NaN
  else if vlt x y then a else if vlt y x then b else if isNeg x then a else b

/-- A quotient of two FP32 words rounded once, IEEE 754 specials. -/
def f32Div (a b : W32) : W32 :=
  match f32 a, f32 b with
  | .nan, _ => f32NaN
  | _, .nan => f32NaN
  | .inf x, .inf _ => let _ := x; f32NaN
  | .inf x, .fin n _ _ => BitVec.ofNat 32 (encInf .fp32 (x != n))
  | .fin n _ _, .inf y => BitVec.ofNat 32 (encQ .fp32 .rne (n != y) 0 1).1
  | .fin n1 m1 e1, .fin n2 m2 e2 =>
    if m2 = 0 then (if m1 = 0 then f32NaN else BitVec.ofNat 32 (encInf .fp32 (n1 != n2)))
    else
      let (a1, b1) := dyadQ m1 (e1 - e2)
      BitVec.ofNat 32 (encQ .fp32 .rne (n1 != n2) a1 (b1 * m2)).1

/-- R83: the BF16 halves of an FP32 value. Their roundings report no status (DESIGN CHOICE, log entry 169). -/
def splitF32 (w : W32) : Val × Val :=
  let x := f32 w
  match x with
  | .fin n _ _ =>
    let (h, _) := encVal .bf16 .rne x
    let hi := match decodeFmt .bf16 h with
      | .inf _ => decodeFmt .bf16 (encMax .bf16 n)
      | v => v
    let r := vadd x (vneg hi)
    (hi, decodeFmt .bf16 (encVal .bf16 .rne r).1)
  | x => (x, .fin false 0 0)

/-! ## Block-scaled formats (R56 to R63) -/

/-- The exponent of an E8M0 scale, or none for the NaN code (R56). -/
def scaleExp (e : Nat) : Option Int := if e = 0xFF then none else some ((e : Int) - 127)

/-- A value times a power of two. -/
def vscale (v : Val) (k : Int) : Val :=
  match v with
  | .fin n m e => .fin n m (e + k)
  | v => v

/-- Element `i` of a block whose scale code is `e` and, for SS4, whose sub-shift byte is `d` (R56, R62). -/
def blockVal (f : Fmt) (e d i bits : Nat) : Val :=
  match scaleExp e with
  | none => .nan
  | some k => vscale (decodeFmt f bits) (k - bitsN d (2 * (i / 8) + 1) (2 * (i / 8)))

/-- |a| ≥ |b| for finite values. -/
def absMax (a b : Val) : Val := if vlt (vabs a) (vabs b) then b else a

/-- floor(log2 |v|) of a nonzero finite value. -/
def vlog2 : Val → Int
  | .fin _ m e => (Nat.log2 m : Int) + e
  | _ => 0

/-- Whether a finite value is zero. -/
def isZero : Val → Bool
  | .fin _ m _ => m == 0
  | _ => false

/-- The value of largest magnitude in a list of finite values. -/
def amaxOf (xs : List Val) : Val := xs.foldl absMax (.fin false 0 0)

/-- A block encoded by the rule of R63: scale, sub-shift byte, element codes and status. `ss` selects SS4; otherwise the
MX conversion of R57 with no sub-shifts. -/
def encodeBlock (f : Fmt) (ss : Bool) (xs : List Val) : Nat × Nat × List Nat × Nat :=
  if xs.any isSpecial then (0xFF, 0, xs.map (fun _ => 0), stNAN)
  else
    let amax := amaxOf xs
    let sgn := fun (x : Val) => if f = .mxint8 then 0 else b2n (isNeg x) <<< (fmtWidth f - 1)
    if isZero amax then (0, 0, xs.map sgn, 0)
    else
      let t := fmtT f
      let x := min (max (vlog2 amax - t) (-127)) 127
      let shift := fun (j : Nat) =>
        let am := amaxOf ((xs.drop (8 * j)).take 8)
        if !ss || isZero am then 0 else (min 3 (max 0 (x - (vlog2 am - t)))).toNat
      let enc := (xs.zipIdx).map (fun p =>
        let q := vscale p.1 (-(x - (shift (p.2 / 8) : Int)))
        let (b, st) := encVal f .rne q
        -- an FP8 element beyond the range saturates to the largest finite element (R57)
        if st &&& stSAT ≠ 0 then (encMax f (isNeg p.1), st) else (b, st))
      let d := if ss then packN 2 shift 4 else 0
      ((x + 127).toNat, d, enc.map (·.1), enc.foldl (fun a p => a ||| p.2) 0)

/-! ## Wide partials (R66 to R75) -/

/-- The largest magnitude of N (R74): 2^127 − 1 above, 2^127 below. -/
def wideMax : Int := 2 ^ 127 - 1
def wideMin : Int := -(2 ^ 127)

/-- A value rounded to an integer multiple of 2^a under RNE; true when not exact (R67). -/
def toAnchor (a : Int) : Val → Int × Bool
  | .fin n m e =>
    let (x, y) := dyadQ m (e - a)
    let (k, ix) := roundQ .rne n x y
    (smant n k, ix)
  | _ => (0, false)

/-- SPEC of a value (R73). -/
def specOf : Val → Nat
  | .nan => 3
  | .inf n => if n then 2 else 1
  | _ => 0

/-- SPEC combination of R73. -/
def specJoin (a b : Nat) : Nat :=
  if a = 0 then b else if b = 0 then a else if a = b then a else 3

/-- N after an addition, saturated, with OVF (R74). -/
def wideAdd (n : Int) (ovf : Bool) (k : Int) : Int × Bool :=
  if ovf then (n, true)
  else if n + k > wideMax then (wideMax, true)
  else if n + k < wideMin then (wideMin, true)
  else (n + k, false)

/-- A wide partial with its metadata, as a value to convert (R75). -/
structure Wide where
  n : Int := 0
  spec : Nat := 0
  ovf : Bool := false
  deriving DecidableEq, Repr

/-- Add a value, rounded once at the anchor, to a partial (R67, R73, R74); the status of R79 with it. -/
def wideAccum (a : Int) (w : Wide) (v : Val) : Wide × Nat :=
  let (k, ix) := toAnchor a v
  let (n, o) := wideAdd w.n w.ovf k
  let sp := specJoin w.spec (specOf v)
  (⟨n, sp, o⟩, b2n ix ||| (if o && !w.ovf then stOVF else 0) ||| (if sp = 3 then stNAN else 0))

/-- The value that a partial converts as (R75), before rounding. -/
def wideVal (a : Int) (w : Wide) : Val :=
  if w.spec = 3 then .nan
  else if w.spec = 1 then .inf false
  else if w.spec = 2 then .inf true
  else if w.ovf then .inf (w.n < 0)
  else if w.n = 0 then .fin false 0 0
  else valOfInt w.n a

/-- R75: a partial converted to an unscaled format, with its status. An OVF partial sets OVF beside the bits of R65. -/
def encWide (f : Fmt) (mode : Rnd) (a : Int) (w : Wide) : Nat × Nat :=
  let (b, st) := encVal f mode (wideVal a w)
  (b, st ||| (if w.spec = 0 && w.ovf then stOVF else 0) ||| (if w.spec = 3 then stNAN else 0))

end Sys2Proof.Machine
end

