-- ==== Sys2Proof/Machine/State.lean ====
section
/-! DEFINITION. The state of the block: every register, memory, queue, mode and pin that the spec names, as plain data.
Registers live in `Page` records, one home per copy (R488); structures that the chapters describe beside the register
pages (groups, reaches, slices, ports, logs) have records of their own. Every map is a list of (key, value) pairs with
strictly rising keys and no entry equal to the default of its key, so equal contents are equal data. -/
namespace Sys2Proof.Machine

/-! ## Pages and interrupts (chapters 14, 15 and 19) -/

/-- A mailbox of a page (R496, R497). `secure` is the world of the request that wrote the selector, and `on` whether the page's
unit was ON then (R538, R595). -/
structure Mbx where
  sel : W32 := 0
  busy : Bool := false
  secure : Bool := false
  on : Bool := true
  valid : Bool := false
  err : Bool := false
  off : Bool := false
  data : W128 := 0
  deriving DecidableEq, Repr

/-- One register page. `act` holds the active copy of each RW-S register and the only copy of every other register,
`shd` and `stg` the shadow and staged copies (R488), each keyed by page offset with the register's reset value as the
default. `ctr` holds the 48-bit performance counters with OVF in bit 63 (R565). `waiting` lists the offsets whose
staged values await their safe point (R491), and `via` is the mask of the strobe bits through which a pending page was named
(R492). `mbxH` is host software's mailbox, `mbxM` Finost firmware's (R497). -/
structure Page where
  shd : List (Nat × W32) := []
  stg : List (Nat × W32) := []
  act : List (Nat × W32) := []
  ctr : List (Nat × W64) := []
  waiting : List Nat := []
  via : Nat := 0
  mbxH : Mbx := {}
  mbxM : Mbx := {}
  deriving DecidableEq, Repr

/-- What the device puts on its pins and links. -/
inductive OutMsg where
  | msix (addr : Nat) (data : W32)                  -- R477
  | bar0Data (off : Nat) (v : W64)                  -- completion of a BAR0 read
  | completerAbort (off : Nat)                      -- R487
  | bar2Data (addr : Nat) (bytes : List Byte) (ep : Bool)   -- R481
  | bar2Abort (addr : Nat)
  | mgmtIrq (source : Nat)                          -- IRC_M signals the management processor (R504)
  | fabTx (port : Nat) (bytes : List Byte)          -- a packet or link control packet sent on a port
  | sideband (data : Option (List Byte))           -- the bytes of a read, or NACK (R611, R613)
  | tap (v : W32)                                  -- IDCODE (R614)
  deriving DecidableEq, Repr

/-! ## Requests, the cache die and the HBM (chapters 07, 08, 10 and 11) -/

/-- Who sent a request: a group of a cell (with the lanes it serves), the matrix array or the copy engine of a cell,
fabric ingress, the BAR2 window, or a master of the device itself (R260, R406). -/
inductive Src where
  | group (cell grp : Nat)
  | array (cell : Nat)
  | copy (cell : Nat)
  | fabric (eid : Nat)
  | bar2
  | block (b : Nat)
  | chk (n : Nat)
  | scour
  | trace
  | mgmt
  deriving DecidableEq, Repr

/-- One value of an ADD.W contribution: the partial it targets, the integer in units of the anchor, its SPEC (R73),
OVF and poison (R280). -/
structure WideVal where
  idx : Nat
  n : Int
  spec : Nat
  ovf : Bool
  pois : Bool
  deriving DecidableEq, Repr

/-- What a request asks of its line. -/
inductive ReqOp where
  /-- Read the words of the mask. -/
  | read (words : BitVec 32)
  /-- Write the bytes of the mask. `whole` marks a whole-line write of R278, `chk` its check value (R376),
  `wide` the anchor, SPEC and OVF of a write that sets AV (STW, R145). -/
  | write (data : Line) (mask : BitVec 256) (pois : BitVec 32) (whole : Bool) (chk : W32) (wide : Option (W16 × W32 × W16))
  /-- 64-bit atomics in lane order: word index, operand, swap value (R145); the words whose operand arrived poisoned. -/
  | atd (cas : Bool) (ops : List (Nat × W64 × W64)) (pois : BitVec 32)
  | addW (anchor : W16) (vals : List WideVal)
  /-- FP32 additions: 4-byte index within the line, value, poison. -/
  | addF (vals : List (Nat × W32 × Bool))
  | maxMin (isMin : Bool) (vals : List (Nat × W32 × Bool))
  | dead
  /-- A full/empty access of one word (R241): MOD [4:3], the word, the value stored and whether it arrived poisoned. -/
  | fe (store : Bool) (mode : Nat) (word : Nat) (value : W64) (pois : Bool)
  deriving DecidableEq, Repr

/-- A request that has passed its checks at entry and travels to its serving slice. `line` is its line address, `part`
the partition it is charged to (R270, R407), `ingress` marks fabric ingress, `wins` the BLOCK.REACH_WIN mask of its
reach (R262), `granted` that the slice's input has granted it (R410), `inp` the port and the VC by which an ingress request
came (R412), `atWord` that a full/empty access has reached its word and waits there (R241, R242), and `accepted` that its
source has been told of its acceptance (R288). -/
structure Req where
  id : Nat
  src : Src
  line : Nat
  op : ReqOp
  label : Byte
  part : Nat
  ingress : Bool
  wins : W32
  granted : Bool := false
  inp : Option (Nat × Nat) := none
  atWord : Bool := false
  accepted : Bool := false
  deriving DecidableEq, Repr

/-- What comes back from a slice. -/
inductive Reply where
  /-- Words read: data as delivered, poison, dead, and OVF of any partial read (R277, R283). -/
  | data (d : Line) (pois : BitVec 32) (dead : Bool) (ovf : Bool)
  /-- A whole line that a CPL carried: whether its CHECK matches at the request's OFFSET (R377, R378), and whether its window is
  still read-only and maps the line as it did at issue, so that it may be kept (R156, R339). -/
  | line (d : Line) (pois : BitVec 32) (ok keep : Bool)
  /-- Old values of an ATD with their poison (R168). -/
  | olds (vals : List (W64 × Bool))
  | accepted
  /-- A contribution refused: 1 DEAD_WRITE, 2 POISON_DISCARD, 3 ANCHOR_REFUSED, 4 TYPE_REFUSED (R280, R281). -/
  | refused (code : Nat)
  /-- A load or write of a fabric window refused by its destination, or completed by timeout (R343, R347). -/
  | fabStatus (status : Nat)
  | timeout
  deriving DecidableEq, Repr

/-- A reply on its way to its source. -/
structure Resp where
  id : Nat
  src : Src
  line : Nat
  reply : Reply
  deriving DecidableEq, Repr

/-- A line as a slice holds it (R253, R369, R375, R76). `syn` lists the words whose stored check bits do not agree with
their stored data, with the syndrome that a decode forms (R372, R390). -/
structure Body where
  data : Line := 0
  pois : BitVec 32 := 0
  chk : W32 := 0
  av : Bool := false
  anchor : W16 := 0
  spec : W32 := 0
  ovf : W16 := 0
  syn : List (Nat × Byte) := []
  deriving DecidableEq, Repr

/-- One way of a slice (R253). `remote` is the space bit of the tag, `cls` 1 STREAM, 2 NORMAL, 3 PERSIST, 4 PINNED; `heldAt` is the
time of the last accepted contribution, from which the hold timer runs (R284). -/
structure Way where
  valid : Bool := false
  dirty : Bool := false
  dead : Bool := false
  hold : Bool := false
  remote : Bool := false
  tag : Nat := 0
  cls : Nat := 0
  win : Option Nat := none
  lbl : Byte := 0
  cpart : Nat := 0
  lru : Nat := 0
  heldAt : Nat := 0
  body : Body := {}
  deriving DecidableEq, Repr

/-- A busy miss register (R273): the line it fetches, its waiters in arrival order, for a bypassed reduction that
waits for a way (R271) the fetched line, and the number that orders its fetch among those of its channel (R410). -/
structure MissReg where
  line : Nat
  waiters : List Req
  held : Option (Body × Bool)
  seq : Nat := 0
  deriving DecidableEq, Repr

/-- An entry of an error log (R385). -/
structure ErrEntry where
  type : Nat
  src : Nat
  word : Nat
  syn : Byte
  count : Nat
  channel : Nat
  label : Byte
  time : W32
  addr : Nat
  deriving DecidableEq, Repr

/-- A writeback in progress (R275): its line, with the label and the partition that the line was charged to, and the number
that orders it among the transactions of its channel (R410). -/
structure Wb where
  line : Nat
  lbl : Byte
  part : Nat
  seq : Nat := 0
  deriving DecidableEq, Repr

/-- A slice beside its register page. `ways` is keyed by set × 24 + way; `wbs` lists the lines whose writeback is in
progress (R275); `log` is the event log (R297) and `elog` the error log; `feFull` the full words of its window lines
(R238), keyed by window line; `spares` the wire positions replaced in each bond group (R401), `wires` the wire counts of
the window (R393), keyed by group × 256 + wire; `retiring` and the register BOND_STATUS.RETIRED say how far R395 has
come; `maint` is the maintenance command that runs; `scour` the next patrol position; `rowFaults` the faulty rows the
quick self-test found (R543); `grants` says of the last 63 grants of its input, newest first, which went to spate (R414), and `wrr` what each partition and
class has been granted in its round (R410); `leakAt` is when the bucket last leaked (R386). -/
structure Slice where
  ways : List (Nat × Way) := []
  miss : List MissReg := []
  wbs : List Wb := []
  log : List W128 := []
  elog : List ErrEntry := []
  feFull : List (Nat × BitVec 32) := []
  spares : List (Nat × List Nat) := []
  wires : List (Nat × Nat) := []
  retiring : Bool := false
  maint : Nat := 0
  scour : Nat := 0
  rowFaults : Nat := 0
  grants : List Bool := []
  wrr : List (Nat × Nat) := []
  leakAt : Nat := 0
  deriving DecidableEq, Repr

/-- A fetch or writeback of a channel in its queue (R409): the serving slice, the line, the partition and class it is charged
to, and whether it holds a reserved slot. -/
structure HbmEnt where
  slice : Nat
  line : Nat
  write : Bool
  part : Nat
  cls : Nat
  resv : Bool
  deriving DecidableEq, Repr

/-- An HBM controller beside its register page: error log, patrol position per channel, pseudo-channels in power-down
(R300), the queue of each of its 16 channels (R409), the fetches and writebacks that have been granted, the last 63
grants of each channel (R414), the rounds of each channel's arbiter (R410), and when each channel's bucket last leaked (R386). -/
structure HbmCtl where
  elog : List ErrEntry := []
  scour : List (Nat × Nat) := []
  pdn : BitVec 32 := 0
  queue : List (Nat × List HbmEnt) := []
  granted : List (Nat × Nat × Bool) := []
  grants : List (Nat × List Bool) := []
  wrr : List (Nat × List (Nat × Nat)) := []
  leakAt : List (Nat × Nat) := []
  deriving DecidableEq, Repr

/-- The contents of the HBM: bytes by device address (unlisted bytes are 0, R315), check-table entries by line address
(unlisted entries are the PLAIN check value of a zero line), and the words whose stored check bits disagree with their
data, keyed by slice × 2^30 + W of R371. -/
structure Hbm where
  mem : List Host.Cell := []
  ctab : List (Nat × W32) := []
  syn : List (Nat × Byte) := []
  deriving DecidableEq, Repr


/-- A job of a check-value engine with the fields that GO latched (R397, R398): `crc64` the CRC, `reg` its register, `pos`
the next byte, `out` the read of a fabric window that has not returned; `ek600` and `expect` the mode of R400. -/
structure ChkJob where
  src : Nat
  len : Nat
  pos : Nat
  crc64 : Bool
  reg : Nat
  ek600 : Bool
  expect : W64
  label : Byte
  secure : Bool
  out : Option Nat := none
  deriving DecidableEq, Repr

/-- A check-value engine beside its register page: its job, and the result and error address of the last (R399). -/
structure Chk where
  job : Option ChkJob := none
  result : W64 := 0
  addr : Nat := 0
  deriving DecidableEq, Repr
/-! ## Repair maps (R5, R24, R26, R544 to R550) -/

/-- The repair state that numbering depends on. `phys` gives the physical region of a logical region where it differs
from the same number (R24); `sevens` the mask of blocks of a region that hold 7 enabled cells, three of six (R26); `spots` the
position of the disabled cell of each block, 3 bits a block, by region; `guard` the ageing guard band in mV and `age` the
slowdown in 0.001%, with the slowdown at which GUARD last rose, by physical region (R419, R563); `dead` the physical regions that went DARK
since the last cold boot (R440). The rest is recorded in the repair fuses, by physical region: defective cells as block and position,
and regions recorded failed; `held` the additions that wait to be written (R547), `lanes` the channels with hard lane
repairs, and `out` the physical regions that the last cold boot left out. -/
structure Repair where
  phys : List (Nat × Nat) := []
  sevens : List (Nat × Nat) := []
  spots : List (Nat × Nat) := []
  guard : List (Nat × Nat) := []
  age : List (Nat × Nat) := []
  risen : List (Nat × Nat) := []
  dead : List Nat := []
  bad : List (Nat × Nat × Nat) := []
  failed : List Nat := []
  held : List (Nat × Nat × Nat) := []
  heldFailed : List Nat := []
  lanes : List Nat := []
  out : List Nat := []
  deriving DecidableEq, Repr

/-- Switches of placement in progress (R239, R266, R292): the slices whose remap entry is switching, and whether the
full/empty window is; the SWITCHING bits of SWIN_STAT name the windows. `winTo`, `remapTo` and `feTo` are the fields that passed
their checks at the strobe: BASE, LIMIT and CFG by window, the entry by slice, FE_BASE and FE_CTRL. `lost` lists the lines that are
marked poisoned because their write to HBM was lost (R313) or their transfer failed (R395). -/
structure CacheCtl where
  remapSw : List Nat := []
  feSw : Bool := false
  winTo : List (Nat × W32 × W32 × W32) := []
  remapTo : List (Nat × W32) := []
  feTo : W32 × W32 := (0, 0)
  lost : List Nat := []
  deriving DecidableEq, Repr

/-! ## Cells and groups (chapters 03, 04 and 05) -/

/-- A reconvergence stack entry (R138). -/
structure StackEnt where
  join : Nat
  saved : W32
  pendPc : Nat
  pendMask : W32
  deriving DecidableEq, Repr

/-- A completion token (R106): 0 IDLE, 1 BUSY, 2 DONE, its status word (R107), and the address and space of the first
fault of the code it carries (R122, R147). `src` is 0x06 for a matrix operand and 0x07 for a copy (R167); `told` once an
MXW has parked on its fault, so that the replayed MXW returns (R122). -/
structure Token where
  st : Nat := 0
  status : W32 := 0
  addr : Nat := 0
  aspace : Nat := 0
  src : Nat := 0
  told : Bool := false
  deriving DecidableEq, Repr

/-- A park record (R171), with the PC in place of its offset. -/
structure Park where
  cause : Nat := 0
  detail : Nat := 0
  aspace : Nat := 0
  done : Bool := false
  addr : Nat := 0
  lanes : W32 := 0
  deriving DecidableEq, Repr

/-- The states of a group (R148). -/
inductive GSt where
  | free | run | wait | parked
  deriving DecidableEq, Repr

/-- A load, atomic or full/empty access of a group that has not returned (R145, R241): what it does with its data, the
destination register, the bytes per lane, the lanes with their addresses, the requests still out and the replies that
have come, each with its line, or with its lane where every lane has a request of its own, and its time of issue. `kind`: 0 LDD, 1 LDC to a lane
register, 2 LDC to a uniform register, 3 ATD, 4 full/empty load, 5 full/empty store, 6 an instruction fetch from a fabric
window. -/
structure AwaitMem where
  kind : Nat
  vd : Nat
  size : Nat
  lanes : List (Nat × Nat)
  ids : List (Nat × Nat)
  got : List (Nat × Nat × Reply)
  born : Nat := 0
  deriving DecidableEq, Repr

/-- What a group waits for. -/
inductive Await where
  | none
  | mem (a : AwaitMem)
  /-- FENCE of a kind (R151). -/
  | fence (kind : Nat)
  /-- MXW on a token, with the destination uniform register (R106). -/
  | mxw (token ud : Nat)
  /-- FLW on a flag of a region, with its time of issue (R159, R160). -/
  | flw (region flag : Nat) (state consume : Bool) (limit : Nat) (np : Bool) (pd : Nat) (ident : Nat) (born : Nat)
  /-- EXIT of the last lanes with work outstanding (R148). -/
  | exit
  deriving DecidableEq, Repr

/-- A thread group. `v` is keyed by register × 32 + lane, `u` by register, `p` by predicate. `outD` and `outF` hold the
requests of posted writes to device memory and over the fabric that have not been accepted (R151). `skipWatch` are the
watchpoints that do not fire at the next execution (R167). `lead` is the lead block of its run and `label` the label of
its requests (R211, R212). `fbuf` holds a line that an instruction fetch brought from a
fabric window that is not cached (R156). -/
structure Group where
  st : GSt := .free
  pc : Nat := 0
  base : Nat := 0
  resident : W32 := 0
  active : W32 := 0
  alloc : Nat := 0
  v : List (Nat × W32) := []
  u : List (Nat × W64) := []
  p : List (Nat × W32) := []
  stack : List StackEnt := []
  tokens : List (Nat × Token) := []
  gstat : W64 := 0
  spin : Nat := 0
  spinId : Nat := 0
  park : Park := {}
  await : Await := .none
  outD : List Nat := []
  outF : List Nat := []
  skipWatch : List Nat := []
  fbuf : Option (Nat × Line × BitVec 32) := none
  lead : Nat := 0
  label : Byte := 0
  deriving DecidableEq, Repr

/-- A copy in the copy queue (R147). `cpd` copies to local memory; `next` is the next line; `outs` the requests of a
running copy that have not been answered; `killed` stops it after the line in progress. -/
structure Copy where
  grp : Nat
  token : Nat
  label : Byte := 0
  lead : Nat := 0
  cpd : Bool
  dev : Nat
  loc : Nat
  lines : Nat
  next : Nat := 0
  outs : List (Nat × Nat) := []
  fault : Nat := 0
  faddr : Nat := 0
  faspace : Nat := 0
  num : Nat := 0
  killed : Bool := false
  deriving DecidableEq, Repr

/-- A matrix operation that the cell holds (R105). `desc` is the 64 B descriptor as read; `anchor` the resolved anchor,
none in ORDERED; `bank` and `compat` what it latched (R190); `started` and `held` follow R105 and R110; (`ot`, `rt`, `kt`,
`sub`, `row`) is the next beat in the order of R90; `beatsDone` when all beats are done; `stop` when a kill stopped it
(R122); `outs` its stores and contributions not yet accepted; the rest is its status word so far. -/
structure MxOp where
  grp : Nat
  token : Nat
  desc : BitVec 512
  label : Byte := 0
  lead : Nat := 0
  bank : Nat := 0
  compat : Bool := false
  anchor : Option Int := none
  started : Bool := false
  held : Bool := false
  ot : Nat := 0
  rt : Nat := 0
  kt : Nat := 0
  sub : Nat := 0
  row : Nat := 0
  beatsDone : Bool := false
  stop : Bool := false
  outs : List (Nat × Nat) := []
  num : Nat := 0
  refused : Bool := false
  fault : Nat := 0
  faddr : Nat := 0
  faspace : Nat := 0
  serial : Nat := 0
  deriving DecidableEq, Repr

/-- A stationary tile in the PEs: the operation's serial number, the stored tile and part it holds, the values of its 64
stored columns, and whether a word of it was poisoned. -/
structure MxTile where
  serial : Nat
  kT : Nat
  nT : Nat
  lo : Bool
  vals : List (List Val)
  pois : Bool
  deriving DecidableEq, Repr

/-- An accumulator bank (R92): the operation and output tile it holds, its partials or FP32 words keyed row × 64 + column
(anchored: N, SPEC and OVF; ORDERED: the FP32 word as N), and how far it has come. -/
structure MxBank where
  serial : Nat
  ot : Nat
  rt : Nat
  cells : List (Nat × Int × Nat × Bool) := []
  preloaded : Bool := false
  full : Bool := false
  drained : Nat := 0
  pois : Bool := false
  deriving DecidableEq, Repr

/-- A cell beside its register page. Local memory is bytes by local address with poisoned words and stored syndromes
by word; the read-only caches hold lines (instruction and constant) by line address and descriptors by address ÷ 64;
`ops` are the matrix operations in order; `banks` the banks in the order they were claimed. -/
structure Cell where
  groups : List (Nat × Group) := []
  lm : List (Nat × Byte) := []
  lmPois : List (Nat × Bool) := []
  lmSyn : List (Nat × Byte) := []
  icache : List (Nat × Line × BitVec 32) := []
  ccache : List (Nat × Line × BitVec 32) := []
  dcache : List (Nat × BitVec 512) := []
  copies : List Copy := []
  ops : List MxOp := []
  serial : Nat := 0
  tile : Option MxTile := none
  shadowTile : Option MxTile := none
  banks : List MxBank := []
  gated : Bool := false
  resetting : Bool := false
  lastSample : Nat := 0
  deriving DecidableEq, Repr

/-! ## Blocks and regions (chapters 05 and 06) -/

/-- A load of a special-function bank or of the step words (R188 to R192): target 0, 1 banks, 2 step words; `hold`
while it waits for latched invocations on the old bank; `out` is the read of a fabric window that has not returned. -/
structure SfLoad where
  target : Nat
  src : Nat
  offset : Nat
  lines : Nat
  next : Nat := 0
  hold : Bool := false
  out : Option Nat := none
  deriving DecidableEq, Repr

/-- Where a flag identifier translates to (R227): a physical flag of this device, or a flag behind a fabric window. -/
inductive FlagAt where
  | loc (region idx : Nat)
  | remote (win region idx : Nat)
  deriving DecidableEq, Repr

/-- A flag of a region (R226): its bit, and the holder of a lock as cell and group (R162). -/
structure Flag where
  set : Bool := false
  holder : Option (Nat × Nat) := none
  deriving DecidableEq, Repr

/-- The running part of a reach, kept at its lead block beside REACH_STATUS: the blocks gathered at ARM (R215), the
translated input flags with CONSUME, output flags with their index, and take flag, the time of its previous start, and what
R218 needs to know of the run. -/
structure Run where
  blocks : List Nat := []
  ins : List (Nat × Nat × Bool) := []
  outs : List (Nat × FlagAt) := []
  take : Option (Nat × Nat) := none
  lastStart : Option Nat := none
  killed : Bool := false
  aborted : Bool := false
  lost : Bool := false
  deriving DecidableEq, Repr

/-- A block beside its register page. `banks` holds the words of bank 0 at 0 to 8191 and of bank 1 at 8192 to 16383
(R174, R175), `steps` the step words. `prev` is the bank that was active before the last flip (R192). -/
structure Block where
  banks : List (Nat × W32) := []
  steps : List (Nat × W32) := []
  invalid0 : Bool := false
  invalid1 : Bool := false
  prev : Option Nat := none
  load : Option SfLoad := none
  run : Run := {}
  deriving DecidableEq, Repr

/-- A region's NI: its 4,096 physical flags (R226), and while it is frozen (R495) the flag writes of host software that wait, oldest
first: the flag, whether it is set, and whether the write is secure. -/
structure Region where
  flags : List (Nat × Flag) := []
  held : List (Nat × Bool × Bool) := []
  deriving DecidableEq, Repr

/-! ## The fabric (chapter 09) -/

/-- The fields of a fabric window as its four registers hold them (R367). -/
structure FWin where
  base : W32 := 0
  limit : W32 := 0
  tgt : W32 := 0
  cfg : W32 := 0x1E00
  deriving DecidableEq, Repr

/-- A packet (R325): the header's fields and the payload as it is carried. -/
structure Packet where
  ts : W64 := 0
  check : W32 := 0
  pmask : W32 := 0
  off : Nat := 0
  len : Nat := 0
  zl : Bool := true
  opst : Nat := 0
  type : Nat := 0
  vc : Nat := 0
  world : Bool := false
  ord : Bool := false
  label : Byte := 0
  seid : Nat := 0
  deid : Nat := 0
  tag : Nat := 0
  payload : List Byte := []
  deriving DecidableEq, Repr

/-- A request for the fabric at its source NI. `id` is the request's own number; `nid` the NI-assigned index of its group
(R347) where a group issued it, kept as cell × 16 + group; `lead` and `outIdx` name the reach of an output flag.
`port` and `tag` once it has been sent; `born` its time of issue. -/
structure FabReq where
  id : Nat
  src : Src
  line : Nat
  pkt : Packet
  nid : Option Nat := none
  outFlag : Option Nat := none
  win : Nat := 0
  port : Option Nat := none
  born : Nat := 0
  deriving DecidableEq, Repr

/-- A WRP that has been sent and is not known to have been accepted (R345): its group's index, its path, its request, and the
label and world with which its flush goes. -/
structure Wrp where
  id : Nat
  src : Src
  nid : Nat
  line : Nat
  port : Nat
  deid : Nat
  off : Nat
  len : Nat := 0
  label : Byte := 0
  world : Bool := false
  deriving DecidableEq, Repr

/-- A flush (R345, R350): its request, its path, the requests it covers, and its time of issue. -/
structure Flush where
  id : Nat
  port : Nat
  deid : Nat
  covers : List Nat
  born : Nat
  deriving DecidableEq, Repr

/-- An ordered flow whose port changed (R350): its key, the old port, and the tag of the flush that must be acknowledged
first, none until that flush is sent; when the old port left ACTIVE, the flow moves at `moveAt` instead. -/
structure FlowMove where
  key : Nat
  old : Nat
  flush : Option Nat
  moveAt : Option Nat
  deriving DecidableEq, Repr

/-- A packet in an egress queue (R409): the partition it is charged to, the lead block of a reach whose spate it may
carry (R412), whether it holds a reserved slot, and whether it answers a flush, which leaves no trace record (R580). -/
structure EgressEnt where
  pkt : Packet
  part : Nat
  lead : Option Nat
  resv : Bool
  quiet : Bool := false
  deriving DecidableEq, Repr

/-- A port beside its register page. `txSeq` and `rxSeq` are the 24-bit sequence numbers (R331); `replay` the
unacknowledged packets, oldest first, with their sequence numbers; `resent` counts replays of the oldest without progress;
`hdr` and `data` the partner's cumulative credits and `usedH`, `usedD` what has been used (R330, R334); `freedH`,
`freedD` the device's own; `nak` whether a discard has been signalled; `sinceLcp` packets received since the last LCP;
`changed` whether a count changed since; `queue` the egress queue (R409) and `rxQ` the receive buffers (R334); `hello` what the
partner announced; `flapReplays` replays of the hold; `chal` the device's challenge (R353), and `verified` the nonce, ephemeral
key and identity key of the switch once its response has passed; `keys` the SM4 keys of the two directions and `salts` their salts
(R353, R363); `txCtr` the GCM counter (R363); `downAt` when it left ACTIVE; `rxTrain` the train that continuations extend (R329);
`grants` says of the last 63 grants of its egress which went to spate (R414), and `wrr` what has been granted in the rounds
of R410; `tagFailed` that a tag failed, so that the port authenticates again (R364), and `back` whether the link has come back for
it; `stateAt` when it entered its state, `progAt` when ACKSEQ last made progress or a replay began (R333), and `lcpAt` when an LCP
was last sent (R330). -/
structure Port where
  txSeq : Nat := 0
  rxSeq : Nat := 0
  replay : List (Nat × Packet) := []
  queue : List EgressEnt := []
  resent : Nat := 0
  hdr : List (Nat × Nat) := []
  data : List (Nat × Nat) := []
  usedH : List (Nat × Nat) := []
  usedD : List (Nat × Nat) := []
  freedH : List (Nat × Nat) := []
  freedD : List (Nat × Nat) := []
  rxQ : List Packet := []
  nak : Bool := false
  sinceLcp : Nat := 0
  changed : Bool := false
  hello : Option Hello := none
  flapReplays : Nat := 0
  chal : Option Nat := none
  verified : Option SwitchKeys := none
  keys : Option (Nat × Nat) := none
  salts : Nat × Nat := (0, 0)
  txCtr : Nat := 0
  downAt : Option Nat := none
  rxTrain : Option (Nat × Packet) := none
  grants : List Bool := []
  wrr : List (Nat × Nat) := []
  tagFailed : Bool := false
  back : Bool := false
  stateAt : Nat := 0
  progAt : Nat := 0
  lcpAt : Nat := 0
  deriving DecidableEq, Repr

/-- The fabric beside the FAB and PORT pages: the three copies of the windows, requests that wait in their NIs,
requests that are outstanding under a tag, tags that timed out and have not been released with the time of that (R346), unacknowledged
WRPs, flushes by tag, ordered flows and their ports, the reachability table (R355) as
ranges (port, first EID, last EID), and the event queue (R356); `ingress` lists the ingress requests that wait at their slice, by request and port; `settleFrom` is the
time since which the survey and the expected topology have not changed (R358). -/
structure Fabric where
  wAct : List (Nat × FWin) := []
  wShd : List (Nat × FWin) := []
  wStg : List (Nat × FWin) := []
  wait : List FabReq := []
  outst : List (Nat × FabReq) := []
  stale : List (Nat × Nat) := []
  wrps : List Wrp := []
  flushes : List (Nat × Flush) := []
  flows : List (Nat × Nat) := []
  moves : List FlowMove := []
  reach : List (Nat × Nat × Nat) := []
  events : List W128 := []
  ingress : List (Nat × Nat × Packet) := []
  settleFrom : Nat := 0
  deriving DecidableEq, Repr

/-! ## Logs and trace (chapters 16 and 18) -/

/-- The trace staging buffer (R578): records of 32 bytes waiting, oldest first, as values; drops since the last DROP
record; `lap` that the write pointer has wrapped since WR_PTR was last 0 by a change of the buffer (R576); `capUs` the microsecond
of the last line written and `capN` the lines written in it (R577). -/
structure Trace where
  staged : List (BitVec 256) := []
  dropped : Nat := 0
  lap : Bool := false
  capUs : Nat := 0
  capN : Nat := 0
  deriving DecidableEq, Repr

/-- Gauge (R581): the values of the latest frame with the item and the index of each, and what the byte and error counters of the device
held at it: bytes by port, and the four error sums. -/
structure Gauge where
  frame : List (Nat × Nat × W32) := []
  bytes : List (Nat × Nat) := []
  errs : List (Nat × Nat) := []
  deriving DecidableEq, Repr


/-! ## Power and temperature (chapters 12 and 13) -/

/-- A region's regulators and detectors beside its PWR registers, by logical region. `sramMv` is the SRAM regulator's output in mV
(R416). `toVolt` and `toLevel` are the target while
`moving`; `cur` the last current sample in 0.1 A, `below` the samples in a row below 90% of the limit, `ilim` the ILIM step
(R428); `power` the regulators' output of the last window in 0.1 W; `core` and `sram` the healthy phases (R439); `dark` that
the region goes DARK when its rail is off; `ramp` the steps done, `start` level and voltage, `nbs` the neighbours it holds
by RAMP_NB (R437, R438); `asked` a level request that was refused, `again` that a neighbour's rail has reached its target
since (R422); `barred` that no level was found at the last power-up (R423); `lending` that its partner's rail is being
lent to it (R441); the rest is the droop record of R444 and R445. -/
structure Rail where
  moving : Bool := false
  toVolt : Nat := 0
  toLevel : Nat := 0
  sramMv : Nat := 0
  cur : Nat := 0
  below : Nat := 0
  ilim : Nat := 0
  power : Nat := 0
  core : Nat := 16
  sram : Nat := 4
  dark : Bool := false
  ramp : Nat := 0
  start : Nat × Nat := (0, 0)
  nbs : List Nat := []
  asked : Option Nat := none
  again : Bool := false
  barred : Bool := false
  lending : Bool := false
  lwm : Nat := 0
  lwmTime : W64 := 0
  ratio : Nat := 0
  dips : Nat := 0
  deriving DecidableEq, Repr

/-- The power controller: the regions' rails, samples of VIN in a row below 378 A (R429), the package power of the last 99
windows in 0.1 W, newest first (R430), the power log, oldest first (R448), and the pairs of neighbours more than 30 °C apart
(R425). -/
structure Power where
  rails : List (Nat × Rail) := []
  vinBelow : Nat := 0
  windows : List Nat := []
  log : List W128 := []
  apart : List (Nat × Nat) := []
  deriving DecidableEq, Repr

/-- What demands channels (R453): a region's power-up, its throttle re-check, a fuse write, the staleness guard, host
software and the pin, or the end of a sense calibration. -/
inductive Demander where
  | powerUp (r : Nat)
  | recheck (r : Nat)
  | fuse
  | stale
  | host
  | cal
  deriving DecidableEq, Repr

/-- A demand: its channels still to be measured; a channel whose measurement had begun needs the next one (R454). -/
structure Demand where
  who : Demander
  chans : List (Nat × Bool)
  deriving DecidableEq, Repr

/-- The sense front end: demands that wait, the channel in measurement, the time-stamp of each channel's last measurement,
the board channels in warning (R467), the SLICE.CE at the last window of each slice and the slices that are suspect (R462), whether an
orderly stop is in progress, and the phase in which the last stop began (R471). -/
structure Therm where
  demands : List Demand := []
  busy : Option Nat := none
  times : List (Nat × W64) := []
  board : List Nat := []
  ceBase : List (Nat × Nat) := []
  suspects : List Nat := []
  stop : Bool := false
  began : Nat := 0
  deriving DecidableEq, Repr

/-! ## Resets and self-tests (chapter 17) -/

/-- A queued or running self-test item (R557 to R559). -/
structure TestItem where
  item : Nat
  target : Nat
  hold : Bool := false
  deriving DecidableEq, Repr

/-- What happens at the end of each interval of a length that a register gives: the re-check of a region (R466), a slice's window of
correctable errors (R462) and of its wires (R393), the spacing of a patrol's accesses and the period of its pass (R387, R389), a cell's
PC sample, which counts from the strobe that enables sampling (R572), and a gauge frame (R581). -/
inductive Timer where
  | recheck (r : Nat)
  | hot (sl : Nat)
  | bond (sl : Nat)
  | patrolSlice (sl : Nat)
  | patrolChan (o : Nat)
  | passBand (b : Nat)
  | passStack (b : Nat)
  | sample (c : Nat)
  | sampling
  | frame
  deriving DecidableEq, Repr

/-- Resets in progress (R552 to R556), with the time at which the drain began (R554), and self-tests; `stepAt` is when the last step
of bring-up ended (R542). `unit` is the block or region that drains, as scope and unit; `parts`
the partitions that reset; `tests` the queue, `run` the items that run, `log` the completion records, newest first; `lateBand` and `lateHbm` the bands and
stacks whose patrol pass runs late (R389), `trims` the values that background calibration keeps, by activity and unit (R562), and
`profSet` the partitions whose PROFILE has been written since their last strobe, and `profStg` those whose profile such a strobe has
staged (R38). `timers`: the time-stamp of each interval's last mark. `runEnding`: host software has written
RUN = 0 in RUN, so that no reach starts and the drain of the last partition ends the phase (R35, R37). -/
structure Chores where
  unit : Option (Nat × Nat) := none
  parts : List Nat := []
  drainAt : Nat := 0
  stepAt : Nat := 0
  tests : List TestItem := []
  run : List TestItem := []
  log : List W128 := []
  lateBand : List Nat := []
  lateHbm : List Nat := []
  trims : List ((Nat × Nat) × Nat) := []
  profSet : List Nat := []
  profStg : List Nat := []
  timers : List (Timer × Nat) := []
  runEnding : Bool := false
  deriving DecidableEq, Repr

/-! ## Package pins (chapter 20) -/

/-- The package: whether THERM_TRIP# is driven low, whether a hard trip or a clock loss holds FAULT# low,
whether a hard trip holds THERM_TRIP#, whether the supplies have come up since the last bring-up (R546), whether REFCLK_CORE
has stopped, whether PERST# is low, the straps as sampled (R609), the sideband values of the last refresh by offset (R612), and
the TAP's instruction (R615). -/
structure Pkg where
  trip : Bool := false
  fault : Bool := false
  hard : Bool := false
  cold : Bool := true
  noClock : Bool := false
  perst : Bool := false
  sbAddr : Nat := 0
  lrev : Bool := false
  testen : Bool := false
  sideband : List Byte := [0, 0, 0, 0, 0, 0, 0, 0, 0, 0x80, 0, 0x80, 0, 0x80, 0, 0x80]
  tap : TapInstr := .idcode
  deriving DecidableEq, Repr

/-! ## Boot, fuses and messages (chapter 16) -/

/-- The image buffer by word (R525), and the digest and FLAGS of the running image (R526, R530). -/
structure Boot where
  img : List (Nat × W32) := []
  digest : List Byte := []
  flags : Nat := 0
  deriving DecidableEq, Repr

/-- The fuses that the field programs: key slots programmed and revoked, the minimum security version (R528), OEM key hashes by
slot, and the user OTP entries in order, a lost one without VALID (R534, R537). -/
structure Fuses where
  prog : Nat := 3
  revoked : Nat := 0
  minSvn : Nat := 0
  oem : List (Nat × List Byte) := []
  otp : List W64 := []
  deriving DecidableEq, Repr

/-- A management message in progress (R538): its type, request words and world, the report of an ATTEST, and whether a stop
began during it (R534). -/
structure Msg where
  type : Nat
  words : List W32
  secure : Bool
  report : List Byte := []
  stopHit : Bool := false
  deriving DecidableEq, Repr

/-- The message channel: the message in progress, and the response of the last. -/
structure Mgmt where
  busy : Option Msg := none
  rsp : List Byte := []
  deriving DecidableEq, Repr
/-! ## The whole block -/

/-- A piece of a BAR2 read that has not been returned (R480): its read, its device address and length, the read of a fabric
window it waits for, and its data with the EP bit once they have come. -/
structure BarPiece where
  rd : Nat
  addr : Nat
  len : Nat
  out : Option Nat
  got : Option (List Byte × Bool)
  deriving DecidableEq, Repr

/-- The PCI Express function beside its registers (R475 to R477, R480, R499, R523). `cfg` is the configuration space as host
software wrote it, by dword offset; `up` whether the link is up; `reads` the BAR2 reads in progress, and `writes` the BAR2
writes to fabric windows that have not been acknowledged, by request and device address. -/
structure HostLink where
  up : Bool := true
  cfg : List (Nat × W32) := []
  reads : List BarPiece := []
  writes : List (Nat × Nat) := []
  deriving DecidableEq, Repr

/-- The state of the block. -/
structure State where
  part : Part := .ek810
  /-- The device time-stamp in ns (R571). -/
  time : W64 := 0
  /-- The model's own: the index of the next free value. No rule reads it. -/
  fresh : Nat := 0
  /-- The model's own: the number of the next request. -/
  nextId : Nat := 0
  /-- The 4 KiB register pages by page number (R585). -/
  pages : List (Nat × Page) := []
  /-- The priority stacks of IRC_H and IRC_M, bottom first: source and level (R504). -/
  stackH : List (Nat × Nat) := []
  stackM : List (Nat × Nat) := []
  link : HostLink := {}
  repair : Repair := {}
  hbm : Hbm := {}
  slices : List (Nat × Slice) := []
  cache : CacheCtl := {}
  hbmCtl : List (Nat × HbmCtl) := []
  chk : List (Nat × Chk) := []
  /-- Requests that have been checked and travel to their slices, oldest first. -/
  reqs : List Req := []
  /-- Replies that travel back to the cells. -/
  resps : List Resp := []
  cells : List (Nat × Cell) := []
  blocks : List (Nat × Block) := []
  regions : List (Nat × Region) := []
  fab : Fabric := {}
  ports : List (Nat × Port) := []
  power : Power := {}
  therm : Therm := {}
  trace : Trace := {}
  gauge : Gauge := {}
  chores : Chores := {}
  pkg : Pkg := {}
  boot : Boot := {}
  fuses : Fuses := {}
  mgmt : Mgmt := {}
  /-- The secure log (R524), oldest first. -/
  secLog : List W128 := []
  out : List OutMsg := []
  pending : List Instr := []
  deriving DecidableEq, Repr

/-- Reasons the block could stop. It has none: R12 gives every broken rule a detected response, and every command of the
table has an effect in every state. -/
inductive Fault where
  deriving DecidableEq, Repr

/-- Why a command has no meaning. -/
inductive Refusal where
  /-- Raised by a dispatch arm whose command has no meaning yet. Safe: the run stops. -/
  | notModelled (mnemonic : String)
  deriving DecidableEq, Repr

/-- The machine right after reset: an EK810 in ROM with every register at its reset value, nothing stored and no command
waiting. -/
def State.reset : State := {}

end Sys2Proof.Machine
end

