-- ==== Sys2Proof/Machine/RegTable.lean ====
section
/-! DEFINITION. The register pages: where each field lies, how it may be accessed and what it holds at reset,
as the field tables of the chapters give them (R485, R500, R515, R539, R540, R564, R582 to R585 and the field tables of
each other chapter). -/
namespace Sys2Proof.Machine

/-- The bits [hi:lo] of the register at page offset `off`. -/
structure Fld where
  off : Nat
  hi : Nat
  lo : Nat
  deriving DecidableEq, Repr

/-- The access codes of chapter 00 and the three kinds of counter of R565. -/
inductive Acc where
  | rwS | rwI | ro | roH | w1c | wo | perf | ce | sat
  deriving DecidableEq, Repr

/-- One row of a field table. -/
structure FieldDesc where
  hi : Nat
  lo : Nat
  acc : Acc
  rst : Nat
  deriving DecidableEq, Repr

/-- One register, or an array of `cnt` registers `stride` bytes apart. -/
structure RegDesc where
  off : Nat
  cnt : Nat
  stride : Nat
  fields : List FieldDesc
  deriving DecidableEq, Repr

/-! Field constants, one per field of the tables; an array takes its index. -/

abbrev o_CELL_MX_CTRL : Nat := 0x300
abbrev f_CELL_MX_CTRL_HAZARD_CHK : Fld := ⟨0x300, 8, 8⟩
abbrev f_CELL_MX_CTRL_CNT_EN : Fld := ⟨0x300, 0, 0⟩
abbrev o_CELL_MX_CNT_CLR : Nat := 0x304
abbrev f_CELL_MX_CNT_CLR_CLEAR : Fld := ⟨0x304, 0, 0⟩
abbrev o_CELL_MX_STATUS : Nat := 0xD00
abbrev f_CELL_MX_STATUS_GROUP : Fld := ⟨0xD00, 15, 12⟩
abbrev f_CELL_MX_STATUS_QDEPTH : Fld := ⟨0xD00, 11, 9⟩
abbrev f_CELL_MX_STATUS_BUSY : Fld := ⟨0xD00, 8, 8⟩
abbrev f_CELL_MX_STATUS_FREEZE : Fld := ⟨0xD00, 2, 0⟩
abbrev o_CELL_MX_STALL_FEED : Nat := 0xD10
abbrev f_CELL_MX_STALL_FEED_COUNT : Fld := ⟨0xD10, 31, 0⟩
abbrev o_CELL_MX_STALL_FILL : Nat := 0xD14
abbrev f_CELL_MX_STALL_FILL_COUNT : Fld := ⟨0xD14, 31, 0⟩
abbrev o_CELL_MX_STALL_DRAIN : Nat := 0xD18
abbrev f_CELL_MX_STALL_DRAIN_COUNT : Fld := ⟨0xD18, 31, 0⟩
abbrev o_CELL_MX_STALL_PAUSE : Nat := 0xD1C
abbrev f_CELL_MX_STALL_PAUSE_COUNT : Fld := ⟨0xD1C, 31, 0⟩
abbrev o_CELL_MX_BUSY : Nat := 0xD20
abbrev f_CELL_MX_BUSY_COUNT : Fld := ⟨0xD20, 31, 0⟩
abbrev o_CELL_MX_OPS : Nat := 0xD24
abbrev f_CELL_MX_OPS_COUNT : Fld := ⟨0xD24, 31, 0⟩
abbrev o_CELL_GROUP_CMD : Nat := 0x100
abbrev f_CELL_GROUP_CMD_INV : Fld := ⟨0x100, 12, 12⟩
abbrev f_CELL_GROUP_CMD_CMD : Fld := ⟨0x100, 9, 8⟩
abbrev f_CELL_GROUP_CMD_GROUP : Fld := ⟨0x100, 3, 0⟩
abbrev o_CELL_RO_INV : Nat := 0x104
abbrev f_CELL_RO_INV_D : Fld := ⟨0x104, 2, 2⟩
abbrev f_CELL_RO_INV_C : Fld := ⟨0x104, 1, 1⟩
abbrev f_CELL_RO_INV_I : Fld := ⟨0x104, 0, 0⟩
abbrev o_CELL_GROUP_STATE : Nat := 0xC00
abbrev o_CELL_CMD_STATUS : Nat := 0xC04
abbrev f_CELL_CMD_STATUS_GROUP : Fld := ⟨0xC04, 15, 12⟩
abbrev f_CELL_CMD_STATUS_CMD : Fld := ⟨0xC04, 9, 8⟩
abbrev f_CELL_CMD_STATUS_RESULT : Fld := ⟨0xC04, 2, 0⟩
abbrev o_CELL_RF_USED : Nat := 0xC08
abbrev f_CELL_RF_USED_GROUPS : Fld := ⟨0xC08, 20, 16⟩
abbrev f_CELL_RF_USED_REGS : Fld := ⟨0xC08, 10, 0⟩
abbrev f_CELL_IRQ_PENDING_CMD_REFUSED : Fld := ⟨0x020, 2, 2⟩
abbrev f_CELL_IRQ_PENDING_LOCK_ORPHAN : Fld := ⟨0x020, 1, 1⟩
abbrev f_CELL_IRQ_PENDING_PARK : Fld := ⟨0x020, 0, 0⟩
abbrev f_CELL_IRQ_PENDING_LM_UE : Fld := ⟨0x020, 3, 3⟩
abbrev o_CELL_FLIP_DATA_LO : Nat := 0x400
abbrev f_CELL_FLIP_DATA_LO_DATA : Fld := ⟨0x400, 31, 0⟩
abbrev o_CELL_FLIP_DATA_HI : Nat := 0x404
abbrev f_CELL_FLIP_DATA_HI_DATA : Fld := ⟨0x404, 31, 0⟩
abbrev o_CELL_FLIP_CTRL : Nat := 0x408
abbrev f_CELL_FLIP_CTRL_ARM : Fld := ⟨0x408, 31, 31⟩
abbrev f_CELL_FLIP_CTRL_FOLD : Fld := ⟨0x408, 22, 16⟩
abbrev f_CELL_FLIP_CTRL_CHECK : Fld := ⟨0x408, 15, 8⟩
abbrev o_CELL_FLIP_POS : Nat := 0x40C
abbrev f_CELL_FLIP_POS_WORD : Fld := ⟨0x40C, 15, 0⟩
abbrev o_CELL_LM_CE : Nat := 0xE00
abbrev f_CELL_LM_CE_COUNT : Fld := ⟨0xE00, 31, 0⟩
abbrev o_CELL_LM_UE : Nat := 0xE04
abbrev f_CELL_LM_UE_COUNT : Fld := ⟨0xE04, 31, 0⟩
abbrev o_CELL_FILL_CHECK_FAIL : Nat := 0xE08
abbrev f_CELL_FILL_CHECK_FAIL_COUNT : Fld := ⟨0xE08, 31, 0⟩
abbrev o_BLOCK_SF_CTRL : Nat := 0x200
abbrev f_BLOCK_SF_CTRL_ACTIVE_BANK : Fld := ⟨0x200, 8, 8⟩
abbrev f_BLOCK_SF_CTRL_SS_COMPAT : Fld := ⟨0x200, 0, 0⟩
abbrev o_BLOCK_SF_LOAD_SRC_LO : Nat := 0x204
abbrev f_BLOCK_SF_LOAD_SRC_LO_ADDR_LO : Fld := ⟨0x204, 31, 8⟩
abbrev o_BLOCK_SF_LOAD_SRC_HI : Nat := 0x208
abbrev f_BLOCK_SF_LOAD_SRC_HI_ADDR_HI : Fld := ⟨0x208, 15, 0⟩
abbrev o_BLOCK_SF_LOAD_CTRL : Nat := 0x20C
abbrev f_BLOCK_SF_LOAD_CTRL_GO : Fld := ⟨0x20C, 31, 31⟩
abbrev f_BLOCK_SF_LOAD_CTRL_TARGET : Fld := ⟨0x20C, 29, 28⟩
abbrev f_BLOCK_SF_LOAD_CTRL_LINES : Fld := ⟨0x20C, 23, 16⟩
abbrev f_BLOCK_SF_LOAD_CTRL_OFFSET : Fld := ⟨0x20C, 7, 0⟩
abbrev o_BLOCK_SF_STATUS : Nat := 0xC40
abbrev f_BLOCK_SF_STATUS_OLD_USERS : Fld := ⟨0xC40, 23, 16⟩
abbrev f_BLOCK_SF_STATUS_ACTIVE : Fld := ⟨0xC40, 8, 8⟩
abbrev f_BLOCK_SF_STATUS_HOLD : Fld := ⟨0xC40, 4, 4⟩
abbrev f_BLOCK_SF_STATUS_FLIP_REFUSED : Fld := ⟨0xC40, 3, 3⟩
abbrev f_BLOCK_SF_STATUS_SHADOW_VALID : Fld := ⟨0xC40, 2, 2⟩
abbrev f_BLOCK_SF_STATUS_LOAD_ERR : Fld := ⟨0xC40, 1, 1⟩
abbrev f_BLOCK_SF_STATUS_BUSY : Fld := ⟨0xC40, 0, 0⟩
abbrev f_BLOCK_IRQ_PENDING_SF_FLIP_REFUSED : Fld := ⟨0x020, 10, 10⟩
abbrev f_BLOCK_IRQ_PENDING_SF_LOAD_ERR : Fld := ⟨0x020, 9, 9⟩
abbrev f_BLOCK_IRQ_PENDING_SF_LOAD_DONE : Fld := ⟨0x020, 8, 8⟩
abbrev f_BLOCK_IRQ_PENDING_REACH_REFUSED : Fld := ⟨0x020, 12, 12⟩
abbrev f_BLOCK_IRQ_PENDING_REACH_FAIL : Fld := ⟨0x020, 11, 11⟩
abbrev o_BLOCK_REACH_CTRL : Nat := 0x300
abbrev f_BLOCK_REACH_CTRL_EN : Fld := ⟨0x300, 31, 31⟩
abbrev f_BLOCK_REACH_CTRL_LEAD : Fld := ⟨0x300, 30, 30⟩
abbrev f_BLOCK_REACH_CTRL_LEAD_BLK : Fld := ⟨0x300, 27, 20⟩
abbrev f_BLOCK_REACH_CTRL_CLASS : Fld := ⟨0x300, 15, 12⟩
abbrev f_BLOCK_REACH_CTRL_REPEAT : Fld := ⟨0x300, 11, 11⟩
abbrev f_BLOCK_REACH_CTRL_FAIL_ON_LOSS : Fld := ⟨0x300, 10, 10⟩
abbrev f_BLOCK_REACH_CTRL_FP_EN : Fld := ⟨0x300, 9, 9⟩
abbrev o_BLOCK_REACH_PROG_LO : Nat := 0x304
abbrev f_BLOCK_REACH_PROG_LO_BASE_LO : Fld := ⟨0x304, 31, 3⟩
abbrev o_BLOCK_REACH_PROG_HI : Nat := 0x308
abbrev f_BLOCK_REACH_PROG_HI_BASE_HI : Fld := ⟨0x308, 15, 0⟩
abbrev o_BLOCK_REACH_SHAPE : Nat := 0x30C
abbrev f_BLOCK_REACH_SHAPE_GROUPS : Fld := ⟨0x30C, 20, 16⟩
abbrev f_BLOCK_REACH_SHAPE_ALLOC_U : Fld := ⟨0x30C, 12, 8⟩
abbrev f_BLOCK_REACH_SHAPE_LANES : Fld := ⟨0x30C, 5, 0⟩
abbrev o_BLOCK_REACH_IN (k : Nat) : Nat := 0x310 + 4 * k
abbrev f_BLOCK_REACH_IN_EN (k : Nat) : Fld := ⟨0x310 + 4 * k, 31, 31⟩
abbrev f_BLOCK_REACH_IN_CONSUME (k : Nat) : Fld := ⟨0x310 + 4 * k, 30, 30⟩
abbrev f_BLOCK_REACH_IN_FLAG (k : Nat) : Fld := ⟨0x310 + 4 * k, 15, 0⟩
abbrev o_BLOCK_REACH_OUT (k : Nat) : Nat := 0x320 + 4 * k
abbrev f_BLOCK_REACH_OUT_EN (k : Nat) : Fld := ⟨0x320 + 4 * k, 31, 31⟩
abbrev f_BLOCK_REACH_OUT_FLAG (k : Nat) : Fld := ⟨0x320 + 4 * k, 15, 0⟩
abbrev o_BLOCK_REACH_WIN : Nat := 0x330
abbrev f_BLOCK_REACH_WIN_WIN : Fld := ⟨0x330, 31, 0⟩
abbrev o_BLOCK_FP_PERIOD : Nat := 0x334
abbrev f_BLOCK_FP_PERIOD_PERIOD : Fld := ⟨0x334, 23, 0⟩
abbrev o_BLOCK_FP_MARKS : Nat := 0x338
abbrev f_BLOCK_FP_MARKS_TAKE : Fld := ⟨0x338, 31, 16⟩
abbrev f_BLOCK_FP_MARKS_HIGH : Fld := ⟨0x338, 15, 8⟩
abbrev f_BLOCK_FP_MARKS_LOW : Fld := ⟨0x338, 7, 0⟩
abbrev o_BLOCK_REACH_CMD : Nat := 0x33C
abbrev f_BLOCK_REACH_CMD_FP_TAKE : Fld := ⟨0x33C, 8, 8⟩
abbrev f_BLOCK_REACH_CMD_ABORT : Fld := ⟨0x33C, 2, 2⟩
abbrev f_BLOCK_REACH_CMD_DISARM : Fld := ⟨0x33C, 1, 1⟩
abbrev f_BLOCK_REACH_CMD_ARM : Fld := ⟨0x33C, 0, 0⟩
abbrev o_BLOCK_REACH_STATUS : Nat := 0xC50
abbrev f_BLOCK_REACH_STATUS_STATE : Fld := ⟨0xC50, 31, 28⟩
abbrev f_BLOCK_REACH_STATUS_LAST : Fld := ⟨0xC50, 27, 24⟩
abbrev f_BLOCK_REACH_STATUS_LEVEL : Fld := ⟨0xC50, 23, 16⟩
abbrev f_BLOCK_REACH_STATUS_SPATE : Fld := ⟨0xC50, 15, 15⟩
abbrev f_BLOCK_REACH_STATUS_OUT_LOST : Fld := ⟨0xC50, 14, 14⟩
abbrev f_BLOCK_REACH_STATUS_DISARM_PEND : Fld := ⟨0xC50, 13, 13⟩
abbrev f_BLOCK_REACH_STATUS_REFUSE : Fld := ⟨0xC50, 11, 8⟩
abbrev o_BLOCK_REACH_RUNS : Nat := 0xC54
abbrev f_BLOCK_REACH_RUNS_COUNT : Fld := ⟨0xC54, 31, 0⟩
abbrev o_REGION_FLAG_XLAT (k : Nat) : Nat := 0x400 + 4 * k
abbrev f_REGION_FLAG_XLAT_ENTRY (k : Nat) : Fld := ⟨0x400 + 4 * k, 31, 0⟩
abbrev o_REGION_FLAG_INGRESS : Nat := 0x800
abbrev f_REGION_FLAG_INGRESS_SEG : Fld := ⟨0x800, 15, 0⟩
abbrev o_REGION_FLAG_WORLD : Nat := 0x804
abbrev f_REGION_FLAG_WORLD_SEG : Fld := ⟨0x804, 15, 0⟩
abbrev o_REGION_FLAG_SET : Nat := 0x808
abbrev f_REGION_FLAG_SET_INDEX : Fld := ⟨0x808, 11, 0⟩
abbrev o_REGION_FLAG_CLR : Nat := 0x80C
abbrev f_REGION_FLAG_CLR_INDEX : Fld := ⟨0x80C, 11, 0⟩
abbrev o_REGION_FE_CTRL : Nat := 0x810
abbrev f_REGION_FE_CTRL_TO : Fld := ⟨0x810, 3, 0⟩
abbrev o_REGION_FLAG_STATE (k : Nat) : Nat := 0xC00 + 4 * k
abbrev f_REGION_FLAG_STATE_STATE (k : Nat) : Fld := ⟨0xC00 + 4 * k, 31, 0⟩
abbrev f_REGION_IRQ_PENDING_FLAG_INGRESS_REFUSED : Fld := ⟨0x020, 0, 0⟩
abbrev o_REGION_PMC_SEL (k : Nat) : Nat := 0x900 + 4 * k
abbrev f_REGION_PMC_SEL_EN (k : Nat) : Fld := ⟨0x900 + 4 * k, 31, 31⟩
abbrev f_REGION_PMC_SEL_EVENT (k : Nat) : Fld := ⟨0x900 + 4 * k, 23, 16⟩
abbrev f_REGION_PMC_SEL_SCOPE (k : Nat) : Fld := ⟨0x900 + 4 * k, 13, 12⟩
abbrev f_REGION_PMC_SEL_INDEX (k : Nat) : Fld := ⟨0x900 + 4 * k, 5, 0⟩
abbrev o_REGION_WP_BASE_LO (k : Nat) : Nat := 0xA00 + 16 * k
abbrev f_REGION_WP_BASE_LO_ADDR (k : Nat) : Fld := ⟨0xA00 + 16 * k, 31, 3⟩
abbrev o_REGION_WP_BASE_HI (k : Nat) : Nat := 0xA04 + 16 * k
abbrev f_REGION_WP_BASE_HI_ADDR (k : Nat) : Fld := ⟨0xA04 + 16 * k, 15, 0⟩
abbrev o_REGION_WP_LIMIT_LO (k : Nat) : Nat := 0xA08 + 16 * k
abbrev f_REGION_WP_LIMIT_LO_ADDR (k : Nat) : Fld := ⟨0xA08 + 16 * k, 31, 3⟩
abbrev o_REGION_WP_LIMIT_HI (k : Nat) : Nat := 0xA0C + 16 * k
abbrev f_REGION_WP_LIMIT_HI_EN (k : Nat) : Fld := ⟨0xA0C + 16 * k, 31, 31⟩
abbrev f_REGION_WP_LIMIT_HI_ACTION (k : Nat) : Fld := ⟨0xA0C + 16 * k, 30, 30⟩
abbrev f_REGION_WP_LIMIT_HI_KINDS (k : Nat) : Fld := ⟨0xA0C + 16 * k, 29, 27⟩
abbrev f_REGION_WP_LIMIT_HI_LBL_EN (k : Nat) : Fld := ⟨0xA0C + 16 * k, 24, 24⟩
abbrev f_REGION_WP_LIMIT_HI_LABEL (k : Nat) : Fld := ⟨0xA0C + 16 * k, 23, 16⟩
abbrev f_REGION_WP_LIMIT_HI_ADDR (k : Nat) : Fld := ⟨0xA0C + 16 * k, 15, 0⟩
abbrev o_REGION_PMC (k : Nat) : Nat := 0xE10 + 4 * k
abbrev f_REGION_PMC_COUNT (k : Nat) : Fld := ⟨0xE10 + 4 * k, 31, 0⟩
abbrev o_REGION_WP_HITS (k : Nat) : Nat := 0xE40 + 4 * k
abbrev f_REGION_WP_HITS_COUNT (k : Nat) : Fld := ⟨0xE40 + 4 * k, 31, 0⟩
abbrev o_REGION_IRQ_SUM_LO : Nat := 0xE00
abbrev f_REGION_IRQ_SUM_LO_SUM : Fld := ⟨0xE00, 31, 0⟩
abbrev o_REGION_IRQ_SUM_HI : Nat := 0xE04
abbrev f_REGION_IRQ_SUM_HI_SUM : Fld := ⟨0xE04, 19, 0⟩
abbrev o_CHIP_PART_MAP (k : Nat) : Nat := 0x600 + 8 * k
abbrev f_CHIP_PART_MAP_REGIONS (k : Nat) : Fld := ⟨0x600 + 8 * k, 31, 0⟩
abbrev o_CHIP_PART_CFG (k : Nat) : Nat := 0x604 + 8 * k
abbrev f_CHIP_PART_CFG_SGRP (k : Nat) : Fld := ⟨0x604 + 8 * k, 7, 4⟩
abbrev f_CHIP_PART_CFG_PROFILE (k : Nat) : Fld := ⟨0x604 + 8 * k, 2, 0⟩
abbrev o_CHIP_PART_CMD : Nat := 0x640
abbrev f_CHIP_PART_CMD_RESET : Fld := ⟨0x640, 8, 8⟩
abbrev f_CHIP_PART_CMD_PART : Fld := ⟨0x640, 2, 0⟩
abbrev o_CHIP_FE_BASE : Nat := 0x648
abbrev f_CHIP_FE_BASE_BASE : Fld := ⟨0x648, 27, 0⟩
abbrev o_CHIP_FE_CTRL : Nat := 0x64C
abbrev f_CHIP_FE_CTRL_EN : Fld := ⟨0x64C, 31, 31⟩
abbrev f_CHIP_FE_CTRL_SIZE : Fld := ⟨0x64C, 3, 0⟩
abbrev o_CHIP_PART_STATUS (k : Nat) : Nat := 0xE40 + 4 * k
abbrev f_CHIP_PART_STATUS_REFUSE (k : Nat) : Fld := ⟨0xE40 + 4 * k, 15, 12⟩
abbrev f_CHIP_PART_STATUS_DEFERRED (k : Nat) : Fld := ⟨0xE40 + 4 * k, 8, 8⟩
abbrev f_CHIP_PART_STATUS_RESETTING (k : Nat) : Fld := ⟨0xE40 + 4 * k, 7, 7⟩
abbrev f_CHIP_PART_STATUS_DRAINED (k : Nat) : Fld := ⟨0xE40 + 4 * k, 6, 6⟩
abbrev f_CHIP_PART_STATUS_PROFILE (k : Nat) : Fld := ⟨0xE40 + 4 * k, 2, 0⟩
abbrev o_CHIP_FE_STATUS : Nat := 0xE60
abbrev f_CHIP_FE_STATUS_REFUSE : Fld := ⟨0xE60, 1, 0⟩
abbrev o_CHIP_SWIN_BASE (k : Nat) : Nat := 0x800 + 16 * k
abbrev f_CHIP_SWIN_BASE_BASE (k : Nat) : Fld := ⟨0x800 + 16 * k, 31, 0⟩
abbrev o_CHIP_SWIN_LIMIT (k : Nat) : Nat := 0x804 + 16 * k
abbrev f_CHIP_SWIN_LIMIT_LIMIT (k : Nat) : Fld := ⟨0x804 + 16 * k, 31, 0⟩
abbrev o_CHIP_SWIN_CFG (k : Nat) : Nat := 0x808 + 16 * k
abbrev f_CHIP_SWIN_CFG_EN (k : Nat) : Fld := ⟨0x808 + 16 * k, 31, 31⟩
abbrev f_CHIP_SWIN_CFG_MATCH (k : Nat) : Fld := ⟨0x808 + 16 * k, 30, 30⟩
abbrev f_CHIP_SWIN_CFG_AFF (k : Nat) : Fld := ⟨0x808 + 16 * k, 29, 29⟩
abbrev f_CHIP_SWIN_CFG_HREGION (k : Nat) : Fld := ⟨0x808 + 16 * k, 28, 24⟩
abbrev f_CHIP_SWIN_CFG_CLASS (k : Nat) : Fld := ⟨0x808 + 16 * k, 22, 20⟩
abbrev f_CHIP_SWIN_CFG_PART (k : Nat) : Fld := ⟨0x808 + 16 * k, 18, 16⟩
abbrev f_CHIP_SWIN_CFG_QUOTA (k : Nat) : Fld := ⟨0x808 + 16 * k, 12, 8⟩
abbrev o_CHIP_SWIN_STAT (k : Nat) : Nat := 0x80C + 16 * k
abbrev f_CHIP_SWIN_STAT_SWITCHING (k : Nat) : Fld := ⟨0x80C + 16 * k, 31, 31⟩
abbrev f_CHIP_SWIN_STAT_REFUSE (k : Nat) : Fld := ⟨0x80C + 16 * k, 3, 0⟩
abbrev o_CHIP_SLICE_REMAP (k : Nat) : Nat := 0xA00 + 4 * k
abbrev f_CHIP_SLICE_REMAP_EN (k : Nat) : Fld := ⟨0xA00 + 4 * k, 31, 31⟩
abbrev f_CHIP_SLICE_REMAP_TARGET (k : Nat) : Fld := ⟨0xA00 + 4 * k, 6, 0⟩
abbrev f_CHIP_IRQ_PENDING_SWIN_REFUSED : Fld := ⟨0x020, 8, 8⟩
abbrev f_CHIP_IRQ_PENDING_PARITY : Fld := ⟨0x020, 2, 2⟩
abbrev f_CHIP_IRQ_PENDING_WIN_ERR : Fld := ⟨0x020, 1, 1⟩
abbrev f_CHIP_IRQ_PENDING_BUS_ERR : Fld := ⟨0x020, 0, 0⟩
abbrev f_CHIP_IRQ_PENDING_WEAR : Fld := ⟨0x020, 7, 7⟩
abbrev f_CHIP_IRQ_PENDING_SELFTEST_DONE : Fld := ⟨0x020, 6, 6⟩
abbrev f_CHIP_IRQ_PENDING_BRINGUP_FAIL : Fld := ⟨0x020, 5, 5⟩
abbrev f_CHIP_IRQ_PENDING_RESET_DONE : Fld := ⟨0x020, 4, 4⟩
abbrev o_CHIP_CTRL : Nat := 0x100
abbrev f_CHIP_CTRL_RUN : Fld := ⟨0x100, 0, 0⟩
abbrev o_CHIP_STROBE : Nat := 0x104
abbrev f_CHIP_STROBE_GROUPS : Fld := ⟨0x104, 15, 0⟩
abbrev o_CHIP_WIN_BASE : Nat := 0x108
abbrev f_CHIP_WIN_BASE_BASE : Fld := ⟨0x108, 19, 0⟩
abbrev o_CHIP_IDENT : Nat := 0xC00
abbrev f_CHIP_IDENT_PART : Fld := ⟨0xC00, 31, 16⟩
abbrev f_CHIP_IDENT_STEP : Fld := ⟨0xC00, 15, 8⟩
abbrev f_CHIP_IDENT_REGIONS : Fld := ⟨0xC00, 5, 0⟩
abbrev o_CHIP_STATE : Nat := 0xC04
abbrev f_CHIP_STATE_RUN_REFUSED : Fld := ⟨0xC04, 4, 4⟩
abbrev f_CHIP_STATE_PHASE : Fld := ⟨0xC04, 3, 0⟩
abbrev o_CHIP_STROBE_PENDING : Nat := 0xC08
abbrev f_CHIP_STROBE_PENDING_GROUPS : Fld := ⟨0xC08, 15, 0⟩
abbrev o_CHIP_BUS_ERR_ADDR : Nat := 0xC10
abbrev f_CHIP_BUS_ERR_ADDR_OFFSET : Fld := ⟨0xC10, 23, 0⟩
abbrev o_CHIP_BUS_ERR_INFO : Nat := 0xC14
abbrev f_CHIP_BUS_ERR_INFO_VALID : Fld := ⟨0xC14, 31, 31⟩
abbrev f_CHIP_BUS_ERR_INFO_WRITE : Fld := ⟨0xC14, 30, 30⟩
abbrev f_CHIP_BUS_ERR_INFO_SECURE : Fld := ⟨0xC14, 29, 29⟩
abbrev f_CHIP_BUS_ERR_INFO_CAUSE : Fld := ⟨0xC14, 27, 24⟩
abbrev f_CHIP_BUS_ERR_INFO_COUNT : Fld := ⟨0xC14, 15, 0⟩
abbrev o_CHIP_WIN_ERR_ADDR_LO : Nat := 0xC18
abbrev f_CHIP_WIN_ERR_ADDR_LO_ADDR : Fld := ⟨0xC18, 31, 0⟩
abbrev o_CHIP_WIN_ERR_ADDR_HI : Nat := 0xC1C
abbrev f_CHIP_WIN_ERR_ADDR_HI_ADDR : Fld := ⟨0xC1C, 15, 0⟩
abbrev o_CHIP_WIN_ERR_INFO : Nat := 0xC20
abbrev f_CHIP_WIN_ERR_INFO_VALID : Fld := ⟨0xC20, 31, 31⟩
abbrev f_CHIP_WIN_ERR_INFO_WRITE : Fld := ⟨0xC20, 30, 30⟩
abbrev f_CHIP_WIN_ERR_INFO_CAUSE : Fld := ⟨0xC20, 27, 24⟩
abbrev f_CHIP_WIN_ERR_INFO_COUNT : Fld := ⟨0xC20, 15, 0⟩
abbrev o_CHIP_PARITY_SRC : Nat := 0xC24
abbrev f_CHIP_PARITY_SRC_VALID : Fld := ⟨0xC24, 31, 31⟩
abbrev f_CHIP_PARITY_SRC_PAGE : Fld := ⟨0xC24, 23, 0⟩
abbrev o_CHIP_RESET_CMD : Nat := 0x110
abbrev f_CHIP_RESET_CMD_GO : Fld := ⟨0x110, 31, 31⟩
abbrev f_CHIP_RESET_CMD_SCOPE : Fld := ⟨0x110, 30, 28⟩
abbrev f_CHIP_RESET_CMD_KEY : Fld := ⟨0x110, 23, 16⟩
abbrev f_CHIP_RESET_CMD_UNIT : Fld := ⟨0x110, 15, 0⟩
abbrev o_CHIP_RESET_CTRL : Nat := 0x114
abbrev f_CHIP_RESET_CTRL_DRAIN_LIM : Fld := ⟨0x114, 11, 0⟩
abbrev o_CHIP_SELFTEST_REQ : Nat := 0x118
abbrev f_CHIP_SELFTEST_REQ_GO : Fld := ⟨0x118, 31, 31⟩
abbrev f_CHIP_SELFTEST_REQ_FORCE : Fld := ⟨0x118, 30, 30⟩
abbrev f_CHIP_SELFTEST_REQ_CANCEL : Fld := ⟨0x118, 29, 29⟩
abbrev f_CHIP_SELFTEST_REQ_HOLD : Fld := ⟨0x118, 28, 28⟩
abbrev f_CHIP_SELFTEST_REQ_ITEM : Fld := ⟨0x118, 23, 16⟩
abbrev f_CHIP_SELFTEST_REQ_TARGET : Fld := ⟨0x118, 15, 0⟩
abbrev o_CHIP_BG_CTRL : Nat := 0x11C
abbrev f_CHIP_BG_CTRL_DIS : Fld := ⟨0x11C, 5, 0⟩
abbrev o_CHIP_BRINGUP : Nat := 0x120
abbrev f_CHIP_BRINGUP_LIMIT : Fld := ⟨0x120, 7, 0⟩
abbrev o_CHIP_RESET_STATUS : Nat := 0xC30
abbrev f_CHIP_RESET_STATUS_BUSY : Fld := ⟨0xC30, 31, 31⟩
abbrev f_CHIP_RESET_STATUS_SCOPE : Fld := ⟨0xC30, 30, 28⟩
abbrev f_CHIP_RESET_STATUS_RESULT : Fld := ⟨0xC30, 27, 24⟩
abbrev f_CHIP_RESET_STATUS_UNIT : Fld := ⟨0xC30, 15, 0⟩
abbrev o_CHIP_WEAR_STATUS : Nat := 0xC34
abbrev f_CHIP_WEAR_STATUS_MAX : Fld := ⟨0xC34, 31, 0⟩
abbrev o_CHIP_BRINGUP_STATUS : Nat := 0xC38
abbrev f_CHIP_BRINGUP_STATUS_FAIL_STEP : Fld := ⟨0xC38, 7, 4⟩
abbrev f_CHIP_BRINGUP_STATUS_STEP : Fld := ⟨0xC38, 3, 0⟩
abbrev o_CHIP_SELFTEST_STATUS : Nat := 0xC3C
abbrev f_CHIP_SELFTEST_STATUS_RESULT : Fld := ⟨0xC3C, 31, 28⟩
abbrev f_CHIP_SELFTEST_STATUS_QUEUED : Fld := ⟨0xC3C, 20, 16⟩
abbrev f_CHIP_SELFTEST_STATUS_RUNNING : Fld := ⟨0xC3C, 15, 0⟩
abbrev o_SLICE_RED_CTRL : Nat := 0x100
abbrev f_SLICE_RED_CTRL_HOLD : Fld := ⟨0x100, 3, 0⟩
abbrev o_SLICE_LOG_CTRL : Nat := 0x104
abbrev f_SLICE_LOG_CTRL_MASK : Fld := ⟨0x104, 8, 1⟩
abbrev o_SLICE_MAINT_CMD : Nat := 0x108
abbrev f_SLICE_MAINT_CMD_CMD : Fld := ⟨0x108, 2, 0⟩
abbrev o_SLICE_LOG_CLR : Nat := 0x10C
abbrev f_SLICE_LOG_CLR_CLEAR : Fld := ⟨0x10C, 0, 0⟩
abbrev o_SLICE_META_ADDR_LO : Nat := 0x110
abbrev f_SLICE_META_ADDR_LO_ADDR_LO : Fld := ⟨0x110, 31, 8⟩
abbrev o_SLICE_META_ADDR_HI : Nat := 0x114
abbrev f_SLICE_META_ADDR_HI_ADDR_HI : Fld := ⟨0x114, 15, 0⟩
abbrev o_SLICE_MAINT_STATUS : Nat := 0xC00
abbrev f_SLICE_MAINT_STATUS_BUSY : Fld := ⟨0xC00, 31, 31⟩
abbrev f_SLICE_MAINT_STATUS_RESULT : Fld := ⟨0xC00, 2, 0⟩
abbrev o_SLICE_STATUS : Nat := 0xC04
abbrev f_SLICE_STATUS_MISS_USED : Fld := ⟨0xC04, 8, 0⟩
abbrev o_SLICE_LOG_STATUS : Nat := 0xC08
abbrev f_SLICE_LOG_STATUS_LOST : Fld := ⟨0xC08, 31, 16⟩
abbrev f_SLICE_LOG_STATUS_COUNT : Fld := ⟨0xC08, 4, 0⟩
abbrev o_SLICE_HITS : Nat := 0xC10
abbrev f_SLICE_HITS_COUNT : Fld := ⟨0xC10, 31, 0⟩
abbrev o_SLICE_MISSES : Nat := 0xC14
abbrev f_SLICE_MISSES_COUNT : Fld := ⟨0xC14, 31, 0⟩
abbrev o_SLICE_MERGES : Nat := 0xC18
abbrev f_SLICE_MERGES_COUNT : Fld := ⟨0xC18, 31, 0⟩
abbrev o_SLICE_WRITEBACKS : Nat := 0xC1C
abbrev f_SLICE_WRITEBACKS_COUNT : Fld := ⟨0xC1C, 31, 0⟩
abbrev o_SLICE_FORCED_WB : Nat := 0xC20
abbrev f_SLICE_FORCED_WB_COUNT : Fld := ⟨0xC20, 31, 0⟩
abbrev o_SLICE_BYPASS : Nat := 0xC24
abbrev f_SLICE_BYPASS_COUNT : Fld := ⟨0xC24, 31, 0⟩
abbrev o_SLICE_DEAD_READS : Nat := 0xC28
abbrev f_SLICE_DEAD_READS_COUNT : Fld := ⟨0xC28, 31, 0⟩
abbrev o_SLICE_RED_REFUSED : Nat := 0xC2C
abbrev f_SLICE_RED_REFUSED_COUNT : Fld := ⟨0xC2C, 31, 0⟩
abbrev o_SLICE_PERSIST_DEMOTE : Nat := 0xC30
abbrev f_SLICE_PERSIST_DEMOTE_COUNT : Fld := ⟨0xC30, 31, 0⟩
abbrev f_SLICE_IRQ_PENDING_LOG_LOST : Fld := ⟨0x020, 4, 4⟩
abbrev f_SLICE_IRQ_PENDING_MAINT_DONE : Fld := ⟨0x020, 3, 3⟩
abbrev f_SLICE_IRQ_PENDING_FORCED_WB : Fld := ⟨0x020, 2, 2⟩
abbrev f_SLICE_IRQ_PENDING_RED_REFUSED : Fld := ⟨0x020, 1, 1⟩
abbrev f_SLICE_IRQ_PENDING_DEAD_READ : Fld := ⟨0x020, 0, 0⟩
abbrev f_SLICE_IRQ_PENDING_SLICE_RETIRED : Fld := ⟨0x020, 10, 10⟩
abbrev f_SLICE_IRQ_PENDING_BOND_GROUP_RETIRED : Fld := ⟨0x020, 9, 9⟩
abbrev f_SLICE_IRQ_PENDING_BOND_SPARE : Fld := ⟨0x020, 8, 8⟩
abbrev f_SLICE_IRQ_PENDING_UE : Fld := ⟨0x020, 7, 7⟩
abbrev f_SLICE_IRQ_PENDING_CHECK_FAIL : Fld := ⟨0x020, 6, 6⟩
abbrev f_SLICE_IRQ_PENDING_BUCKET : Fld := ⟨0x020, 5, 5⟩
abbrev o_SLICE_BUCKET_CFG : Nat := 0x200
abbrev f_SLICE_BUCKET_CFG_THRESH : Fld := ⟨0x200, 31, 16⟩
abbrev f_SLICE_BUCKET_CFG_HYST : Fld := ⟨0x200, 15, 8⟩
abbrev f_SLICE_BUCKET_CFG_LEAK : Fld := ⟨0x200, 3, 0⟩
abbrev o_SLICE_BOND_CFG : Nat := 0x204
abbrev f_SLICE_BOND_CFG_THRESH : Fld := ⟨0x204, 11, 8⟩
abbrev f_SLICE_BOND_CFG_WINDOW : Fld := ⟨0x204, 3, 0⟩
abbrev o_SLICE_FLIP_DATA_LO : Nat := 0x208
abbrev f_SLICE_FLIP_DATA_LO_DATA : Fld := ⟨0x208, 31, 0⟩
abbrev o_SLICE_FLIP_DATA_HI : Nat := 0x20C
abbrev f_SLICE_FLIP_DATA_HI_DATA : Fld := ⟨0x20C, 31, 0⟩
abbrev o_SLICE_FLIP_CTRL : Nat := 0x210
abbrev f_SLICE_FLIP_CTRL_ARM : Fld := ⟨0x210, 31, 31⟩
abbrev f_SLICE_FLIP_CTRL_FOLD : Fld := ⟨0x210, 22, 16⟩
abbrev f_SLICE_FLIP_CTRL_CHECK : Fld := ⟨0x210, 15, 8⟩
abbrev o_SLICE_FLIP_POS : Nat := 0x214
abbrev f_SLICE_FLIP_POS_WAY : Fld := ⟨0x214, 22, 18⟩
abbrev f_SLICE_FLIP_POS_SET : Fld := ⟨0x214, 17, 5⟩
abbrev f_SLICE_FLIP_POS_WORD : Fld := ⟨0x214, 4, 0⟩
abbrev o_SLICE_ERR_LOG_CLR : Nat := 0x218
abbrev f_SLICE_ERR_LOG_CLR_CLEAR : Fld := ⟨0x218, 0, 0⟩
abbrev o_SLICE_BUCKET : Nat := 0xD00
abbrev f_SLICE_BUCKET_ABOVE : Fld := ⟨0xD00, 31, 31⟩
abbrev f_SLICE_BUCKET_LEVEL : Fld := ⟨0xD00, 15, 0⟩
abbrev o_SLICE_BOND_STATUS : Nat := 0xD04
abbrev f_SLICE_BOND_STATUS_RETIRED : Fld := ⟨0xD04, 31, 31⟩
abbrev f_SLICE_BOND_STATUS_GROUPS : Fld := ⟨0xD04, 10, 8⟩
abbrev f_SLICE_BOND_STATUS_SPARES : Fld := ⟨0xD04, 7, 0⟩
abbrev o_SLICE_BOND_RETIRED : Nat := 0xD08
abbrev f_SLICE_BOND_RETIRED_MAP : Fld := ⟨0xD08, 31, 0⟩
abbrev o_SLICE_ERR_LOG_STATUS : Nat := 0xD0C
abbrev f_SLICE_ERR_LOG_STATUS_LOST : Fld := ⟨0xD0C, 31, 16⟩
abbrev f_SLICE_ERR_LOG_STATUS_COUNT : Fld := ⟨0xD0C, 4, 0⟩
abbrev o_SLICE_CE : Nat := 0xD10
abbrev f_SLICE_CE_COUNT : Fld := ⟨0xD10, 31, 0⟩
abbrev o_SLICE_UE : Nat := 0xD14
abbrev f_SLICE_UE_COUNT : Fld := ⟨0xD14, 31, 0⟩
abbrev o_SLICE_CHECK_FAIL : Nat := 0xD18
abbrev f_SLICE_CHECK_FAIL_COUNT : Fld := ⟨0xD18, 31, 0⟩
abbrev o_SLICE_BOND_CE : Nat := 0xD1C
abbrev f_SLICE_BOND_CE_COUNT : Fld := ⟨0xD1C, 31, 0⟩
abbrev o_SLICE_SCOUR_LINES : Nat := 0xD20
abbrev f_SLICE_SCOUR_LINES_COUNT : Fld := ⟨0xD20, 31, 0⟩
abbrev o_HBM_CTRL : Nat := 0x100
abbrev f_HBM_CTRL_PDN_EN : Fld := ⟨0x100, 8, 8⟩
abbrev f_HBM_CTRL_CNT_EN : Fld := ⟨0x100, 0, 0⟩
abbrev o_HBM_STATUS : Nat := 0xC00
abbrev f_HBM_STATUS_TRAIN : Fld := ⟨0xC00, 31, 28⟩
abbrev f_HBM_STATUS_THROTTLE : Fld := ⟨0xC00, 15, 14⟩
abbrev f_HBM_STATUS_REFRESH_X2 : Fld := ⟨0xC00, 13, 13⟩
abbrev f_HBM_STATUS_TEMP_FAIL : Fld := ⟨0xC00, 12, 12⟩
abbrev f_HBM_STATUS_SELF_REFRESH : Fld := ⟨0xC00, 11, 11⟩
abbrev o_HBM_TEMP : Nat := 0xC04
abbrev f_HBM_TEMP_T : Fld := ⟨0xC04, 7, 0⟩
abbrev o_HBM_LANE_STATUS : Nat := 0xC08
abbrev f_HBM_LANE_STATUS_SUSPECT : Fld := ⟨0xC08, 31, 16⟩
abbrev f_HBM_LANE_STATUS_SPARE_OUT : Fld := ⟨0xC08, 15, 0⟩
abbrev o_HBM_RFM : Nat := 0xC10
abbrev f_HBM_RFM_COUNT : Fld := ⟨0xC10, 31, 0⟩
abbrev o_HBM_THROTTLED : Nat := 0xC14
abbrev f_HBM_THROTTLED_COUNT : Fld := ⟨0xC14, 31, 0⟩
abbrev o_HBM_CA_RETRY : Nat := 0xC18
abbrev f_HBM_CA_RETRY_COUNT : Fld := ⟨0xC18, 31, 0⟩
abbrev o_HBM_CA_FAIL : Nat := 0xC1C
abbrev f_HBM_CA_FAIL_COUNT : Fld := ⟨0xC1C, 31, 0⟩
abbrev f_HBM_IRQ_PENDING_LANE_SUSPECT : Fld := ⟨0x020, 3, 3⟩
abbrev f_HBM_IRQ_PENDING_TEMP_FAIL : Fld := ⟨0x020, 2, 2⟩
abbrev f_HBM_IRQ_PENDING_THROTTLE : Fld := ⟨0x020, 1, 1⟩
abbrev f_HBM_IRQ_PENDING_TRAIN_FAIL : Fld := ⟨0x020, 0, 0⟩
abbrev f_HBM_IRQ_PENDING_SCOUR_LATE : Fld := ⟨0x020, 6, 6⟩
abbrev f_HBM_IRQ_PENDING_UE : Fld := ⟨0x020, 5, 5⟩
abbrev f_HBM_IRQ_PENDING_BUCKET : Fld := ⟨0x020, 4, 4⟩
abbrev o_HBM_BUCKET_CFG : Nat := 0x200
abbrev f_HBM_BUCKET_CFG_THRESH : Fld := ⟨0x200, 31, 16⟩
abbrev f_HBM_BUCKET_CFG_HYST : Fld := ⟨0x200, 15, 8⟩
abbrev f_HBM_BUCKET_CFG_LEAK : Fld := ⟨0x200, 3, 0⟩
abbrev o_HBM_FLIP_POS : Nat := 0x210
abbrev f_HBM_FLIP_POS_WORD : Fld := ⟨0x210, 29, 0⟩
abbrev o_HBM_ERR_LOG_CLR : Nat := 0x214
abbrev f_HBM_ERR_LOG_CLR_CLEAR : Fld := ⟨0x214, 0, 0⟩
abbrev o_HBM_SCOUR_CTRL : Nat := 0x218
abbrev f_HBM_SCOUR_CTRL_EN : Fld := ⟨0x218, 31, 31⟩
abbrev f_HBM_SCOUR_CTRL_CAP : Fld := ⟨0x218, 23, 16⟩
abbrev f_HBM_SCOUR_CTRL_PERIOD : Fld := ⟨0x218, 15, 0⟩
abbrev o_HBM_BUCKET (k : Nat) : Nat := 0xD00 + 4 * k
abbrev f_HBM_BUCKET_ABOVE (k : Nat) : Fld := ⟨0xD00 + 4 * k, 31, 31⟩
abbrev f_HBM_BUCKET_LEVEL (k : Nat) : Fld := ⟨0xD00 + 4 * k, 15, 0⟩
abbrev o_HBM_ERR_LOG_STATUS : Nat := 0xD40
abbrev f_HBM_ERR_LOG_STATUS_LOST : Fld := ⟨0xD40, 31, 16⟩
abbrev f_HBM_ERR_LOG_STATUS_COUNT : Fld := ⟨0xD40, 4, 0⟩
abbrev o_HBM_SCOUR_STATUS : Nat := 0xD44
abbrev f_HBM_SCOUR_STATUS_LATE : Fld := ⟨0xD44, 31, 31⟩
abbrev f_HBM_SCOUR_STATUS_PASSES : Fld := ⟨0xD44, 15, 0⟩
abbrev o_HBM_CE (k : Nat) : Nat := 0xD50 + 4 * k
abbrev f_HBM_CE_COUNT (k : Nat) : Fld := ⟨0xD50 + 4 * k, 31, 0⟩
abbrev o_HBM_UE : Nat := 0xD90
abbrev f_HBM_UE_COUNT : Fld := ⟨0xD90, 31, 0⟩
abbrev o_HBM_FLIP_DATA_LO : Nat := 0x204
abbrev f_HBM_FLIP_DATA_LO_DATA : Fld := ⟨0x204, 31, 0⟩
abbrev o_HBM_FLIP_DATA_HI : Nat := 0x208
abbrev f_HBM_FLIP_DATA_HI_DATA : Fld := ⟨0x208, 31, 0⟩
abbrev o_HBM_FLIP_CTRL : Nat := 0x20C
abbrev f_HBM_FLIP_CTRL_ARM : Fld := ⟨0x20C, 31, 31⟩
abbrev f_HBM_FLIP_CTRL_FOLD : Fld := ⟨0x20C, 22, 16⟩
abbrev f_HBM_FLIP_CTRL_CHECK : Fld := ⟨0x20C, 15, 8⟩
abbrev f_HBM_FLIP_CTRL_CHANNEL : Fld := ⟨0x20C, 3, 0⟩
abbrev o_FAB_CTRL : Nat := 0x100
abbrev f_FAB_CTRL_EN : Fld := ⟨0x100, 31, 31⟩
abbrev f_FAB_CTRL_CTO : Fld := ⟨0x100, 25, 16⟩
abbrev f_FAB_CTRL_HOLD : Fld := ⟨0x100, 15, 8⟩
abbrev f_FAB_CTRL_SETTLE : Fld := ⟨0x100, 7, 0⟩
abbrev o_FAB_TOPO_CTRL : Nat := 0x104
abbrev f_FAB_TOPO_CTRL_DEGRADED : Fld := ⟨0x104, 31, 31⟩
abbrev f_FAB_TOPO_CTRL_RANGE_EN : Fld := ⟨0x104, 15, 0⟩
abbrev o_FAB_FWIN_SEL : Nat := 0x110
abbrev f_FAB_FWIN_SEL_WIN : Fld := ⟨0x110, 7, 0⟩
abbrev o_FAB_EVT_POP : Nat := 0x114
abbrev f_FAB_EVT_POP_COUNT : Fld := ⟨0x114, 5, 0⟩
abbrev o_FAB_FWIN_BASE : Nat := 0x118
abbrev f_FAB_FWIN_BASE_BASE : Fld := ⟨0x118, 17, 0⟩
abbrev o_FAB_FWIN_LIMIT : Nat := 0x11C
abbrev f_FAB_FWIN_LIMIT_LIMIT : Fld := ⟨0x11C, 17, 0⟩
abbrev o_FAB_FWIN_TGT : Nat := 0x120
abbrev f_FAB_FWIN_TGT_EID_BASE : Fld := ⟨0x120, 31, 16⟩
abbrev f_FAB_FWIN_TGT_OFF_BASE : Fld := ⟨0x120, 11, 0⟩
abbrev o_FAB_FWIN_CFG : Nat := 0x124
abbrev f_FAB_FWIN_CFG_EN : Fld := ⟨0x124, 31, 31⟩
abbrev f_FAB_FWIN_CFG_RO : Fld := ⟨0x124, 30, 30⟩
abbrev f_FAB_FWIN_CFG_SECURE : Fld := ⟨0x124, 29, 29⟩
abbrev f_FAB_FWIN_CFG_PART : Fld := ⟨0x124, 26, 24⟩
abbrev f_FAB_FWIN_CFG_EIDS : Fld := ⟨0x124, 19, 16⟩
abbrev f_FAB_FWIN_CFG_GRAN : Fld := ⟨0x124, 12, 8⟩
abbrev o_FAB_TOPO_SW (k : Nat) : Nat := 0x200 + 8 * k
abbrev f_FAB_TOPO_SW_SWITCH_ID (k : Nat) : Fld := ⟨0x200 + 8 * k, 31, 0⟩
abbrev o_FAB_TOPO_PEER (k : Nat) : Nat := 0x204 + 8 * k
abbrev f_FAB_TOPO_PEER_EXPECT (k : Nat) : Fld := ⟨0x204 + 8 * k, 11, 10⟩
abbrev f_FAB_TOPO_PEER_AUTH (k : Nat) : Fld := ⟨0x204 + 8 * k, 9, 9⟩
abbrev f_FAB_TOPO_PEER_ENC (k : Nat) : Fld := ⟨0x204 + 8 * k, 8, 8⟩
abbrev f_FAB_TOPO_PEER_PARTNER_PORT (k : Nat) : Fld := ⟨0x204 + 8 * k, 7, 0⟩
abbrev o_FAB_TOPO_RANGE (k : Nat) : Nat := 0x300 + 4 * k
abbrev f_FAB_TOPO_RANGE_EID_HI (k : Nat) : Fld := ⟨0x300 + 4 * k, 31, 16⟩
abbrev f_FAB_TOPO_RANGE_EID_LO (k : Nat) : Fld := ⟨0x300 + 4 * k, 15, 0⟩
abbrev o_FAB_EID : Nat := 0xC00
abbrev f_FAB_EID_VALID : Fld := ⟨0xC00, 16, 16⟩
abbrev f_FAB_EID_EID : Fld := ⟨0xC00, 15, 0⟩
abbrev o_FAB_TOPO_STATUS : Nat := 0xC04
abbrev f_FAB_TOPO_STATUS_AGREE : Fld := ⟨0xC04, 31, 31⟩
abbrev f_FAB_TOPO_STATUS_SETTLING : Fld := ⟨0xC04, 30, 30⟩
abbrev f_FAB_TOPO_STATUS_PORT_MISMATCH : Fld := ⟨0xC04, 23, 0⟩
abbrev o_FAB_TOPO_MISS : Nat := 0xC08
abbrev f_FAB_TOPO_MISS_RANGE_MISS : Fld := ⟨0xC08, 15, 0⟩
abbrev o_FAB_EVT_STATUS : Nat := 0xC0C
abbrev f_FAB_EVT_STATUS_LOST : Fld := ⟨0xC0C, 31, 16⟩
abbrev f_FAB_EVT_STATUS_COUNT : Fld := ⟨0xC0C, 6, 0⟩
abbrev o_FAB_FWIN_STATUS : Nat := 0xC10
abbrev f_FAB_FWIN_STATUS_WIN : Fld := ⟨0xC10, 15, 8⟩
abbrev f_FAB_FWIN_STATUS_REFUSE : Fld := ⟨0xC10, 2, 0⟩
abbrev o_FAB_CTO_COUNT : Nat := 0xC20
abbrev f_FAB_CTO_COUNT_COUNT : Fld := ⟨0xC20, 31, 0⟩
abbrev o_FAB_STRAY : Nat := 0xC24
abbrev f_FAB_STRAY_COUNT : Fld := ⟨0xC24, 31, 0⟩
abbrev o_FAB_INGRESS_REFUSED : Nat := 0xC28
abbrev f_FAB_INGRESS_REFUSED_COUNT : Fld := ⟨0xC28, 31, 0⟩
abbrev o_FAB_TX_PKTS : Nat := 0xC2C
abbrev f_FAB_TX_PKTS_COUNT : Fld := ⟨0xC2C, 31, 0⟩
abbrev o_FAB_RX_PKTS : Nat := 0xC30
abbrev f_FAB_RX_PKTS_COUNT : Fld := ⟨0xC30, 31, 0⟩
abbrev f_FAB_IRQ_PENDING_INGRESS_REFUSED : Fld := ⟨0x020, 4, 4⟩
abbrev f_FAB_IRQ_PENDING_EVT_LOST : Fld := ⟨0x020, 3, 3⟩
abbrev f_FAB_IRQ_PENDING_CTO : Fld := ⟨0x020, 2, 2⟩
abbrev f_FAB_IRQ_PENDING_TOPO_CHANGE : Fld := ⟨0x020, 1, 1⟩
abbrev f_FAB_IRQ_PENDING_EVENT : Fld := ⟨0x020, 0, 0⟩
abbrev o_PORT_CTRL : Nat := 0x100
abbrev f_PORT_CTRL_EN : Fld := ⟨0x100, 31, 31⟩
abbrev f_PORT_CTRL_MEDIA : Fld := ⟨0x100, 30, 30⟩
abbrev o_PORT_SEC_CTRL : Nat := 0x104
abbrev f_PORT_SEC_CTRL_AUTH_REQ : Fld := ⟨0x104, 1, 1⟩
abbrev f_PORT_SEC_CTRL_ENC_REQ : Fld := ⟨0x104, 0, 0⟩
abbrev o_PORT_STATUS : Nat := 0xC00
abbrev f_PORT_STATUS_STATE : Fld := ⟨0xC00, 31, 28⟩
abbrev f_PORT_STATUS_REFUSE : Fld := ⟨0xC00, 27, 24⟩
abbrev f_PORT_STATUS_AUTH : Fld := ⟨0xC00, 23, 23⟩
abbrev f_PORT_STATUS_ENC : Fld := ⟨0xC00, 22, 22⟩
abbrev f_PORT_STATUS_SECURE_OK : Fld := ⟨0xC00, 21, 21⟩
abbrev f_PORT_STATUS_PARTNER_PORT : Fld := ⟨0xC00, 7, 0⟩
abbrev o_PORT_PARTNER : Nat := 0xC04
abbrev f_PORT_PARTNER_SWITCH_ID : Fld := ⟨0xC04, 31, 0⟩
abbrev o_PORT_FEC_CORR : Nat := 0xC10
abbrev f_PORT_FEC_CORR_COUNT : Fld := ⟨0xC10, 31, 0⟩
abbrev o_PORT_FEC_UNCORR : Nat := 0xC14
abbrev f_PORT_FEC_UNCORR_COUNT : Fld := ⟨0xC14, 31, 0⟩
abbrev o_PORT_REPLAYS : Nat := 0xC18
abbrev f_PORT_REPLAYS_COUNT : Fld := ⟨0xC18, 31, 0⟩
abbrev o_PORT_FLAPS : Nat := 0xC1C
abbrev f_PORT_FLAPS_COUNT : Fld := ⟨0xC1C, 31, 0⟩
abbrev o_PORT_TAG_FAIL : Nat := 0xC20
abbrev f_PORT_TAG_FAIL_COUNT : Fld := ⟨0xC20, 31, 0⟩
abbrev o_PORT_TX_BYTES : Nat := 0xC24
abbrev f_PORT_TX_BYTES_COUNT : Fld := ⟨0xC24, 31, 0⟩
abbrev o_PORT_RX_BYTES : Nat := 0xC28
abbrev f_PORT_RX_BYTES_COUNT : Fld := ⟨0xC28, 31, 0⟩
abbrev f_PORT_IRQ_PENDING_TAG_FAIL : Fld := ⟨0x020, 1, 1⟩
abbrev f_PORT_IRQ_PENDING_STATE_CHANGE : Fld := ⟨0x020, 0, 0⟩
abbrev o_BAND_SCOUR_CTRL : Nat := 0x100
abbrev f_BAND_SCOUR_CTRL_EN : Fld := ⟨0x100, 31, 31⟩
abbrev f_BAND_SCOUR_CTRL_CAP : Fld := ⟨0x100, 23, 16⟩
abbrev f_BAND_SCOUR_CTRL_PERIOD : Fld := ⟨0x100, 15, 0⟩
abbrev o_BAND_SCOUR_STATUS : Nat := 0xC00
abbrev f_BAND_SCOUR_STATUS_LATE : Fld := ⟨0xC00, 31, 31⟩
abbrev f_BAND_IRQ_PENDING_SCOUR_LATE : Fld := ⟨0x020, 0, 0⟩
abbrev o_BAND_IRQ_SUM : Nat := 0xC04
abbrev f_BAND_IRQ_SUM_SUM : Fld := ⟨0xC04, 16, 0⟩
abbrev o_CHK_CTRL : Nat := 0x100
abbrev f_CHK_CTRL_GO : Fld := ⟨0x100, 31, 31⟩
abbrev f_CHK_CTRL_MODE : Fld := ⟨0x100, 30, 30⟩
abbrev f_CHK_CTRL_FOLD : Fld := ⟨0x100, 27, 26⟩
abbrev f_CHK_CTRL_ALGO : Fld := ⟨0x100, 25, 25⟩
abbrev f_CHK_CTRL_PART : Fld := ⟨0x100, 14, 12⟩
abbrev f_CHK_CTRL_CLASS : Fld := ⟨0x100, 11, 8⟩
abbrev o_CHK_SRC_LO : Nat := 0x104
abbrev f_CHK_SRC_LO_ADDR_LO : Fld := ⟨0x104, 31, 0⟩
abbrev o_CHK_SRC_HI : Nat := 0x108
abbrev f_CHK_SRC_HI_ADDR_HI : Fld := ⟨0x108, 15, 0⟩
abbrev o_CHK_LEN : Nat := 0x10C
abbrev f_CHK_LEN_LEN : Fld := ⟨0x10C, 31, 0⟩
abbrev o_CHK_SEQ_LO : Nat := 0x110
abbrev f_CHK_SEQ_LO_SEQ : Fld := ⟨0x110, 31, 0⟩
abbrev o_CHK_SEQ_HI : Nat := 0x114
abbrev f_CHK_SEQ_HI_SEQ : Fld := ⟨0x114, 31, 0⟩
abbrev o_CHK_EXPECT_LO : Nat := 0x118
abbrev f_CHK_EXPECT_LO_EXPECT : Fld := ⟨0x118, 31, 0⟩
abbrev o_CHK_EXPECT_HI : Nat := 0x11C
abbrev f_CHK_EXPECT_HI_EXPECT : Fld := ⟨0x11C, 31, 0⟩
abbrev o_CHK_STATUS : Nat := 0xC00
abbrev f_CHK_STATUS_STATE : Fld := ⟨0xC00, 31, 28⟩
abbrev f_CHK_STATUS_ERR : Fld := ⟨0xC00, 27, 24⟩
abbrev f_CHK_STATUS_REFUSED : Fld := ⟨0xC00, 8, 8⟩
abbrev f_CHK_STATUS_MISMATCH : Fld := ⟨0xC00, 1, 1⟩
abbrev f_CHK_IRQ_PENDING_REFUSED : Fld := ⟨0x020, 3, 3⟩
abbrev f_CHK_IRQ_PENDING_ERROR : Fld := ⟨0x020, 2, 2⟩
abbrev f_CHK_IRQ_PENDING_MISMATCH : Fld := ⟨0x020, 1, 1⟩
abbrev f_CHK_IRQ_PENDING_DONE : Fld := ⟨0x020, 0, 0⟩
abbrev o_QOS_CLASS_WT_LO : Nat := 0x100
abbrev o_QOS_CLASS_WT_HI : Nat := 0x104
abbrev o_QOS_CLASS_WAYS (k : Nat) : Nat := 0x110 + 4 * k
abbrev o_QOS_PART_SHARE_LO : Nat := 0x120
abbrev o_QOS_PART_SHARE_HI : Nat := 0x124
abbrev o_QOS_EGRESS_WT (k : Nat) : Nat := 0x130 + 4 * k
abbrev f_QOS_EGRESS_WT_REQ (k : Nat) : Fld := ⟨0x130 + 4 * k, 11, 8⟩
abbrev f_QOS_EGRESS_WT_RSP (k : Nat) : Fld := ⟨0x130 + 4 * k, 7, 4⟩
abbrev f_QOS_EGRESS_WT_RED (k : Nat) : Fld := ⟨0x130 + 4 * k, 3, 0⟩
abbrev o_QOS_INGRESS : Nat := 0x150
abbrev f_QOS_INGRESS_PART : Fld := ⟨0x150, 18, 16⟩
abbrev f_QOS_INGRESS_ING_SPATE : Fld := ⟨0x150, 3, 0⟩
abbrev o_QOS_HOST_LABEL : Nat := 0x154
abbrev f_QOS_HOST_LABEL_LABEL : Fld := ⟨0x154, 7, 0⟩
abbrev o_QOS_SPATE_CAP : Nat := 0x158
abbrev f_QOS_SPATE_CAP_CAP : Fld := ⟨0x158, 5, 0⟩
abbrev o_QOS_SHARE_EFF_LO : Nat := 0xC00
abbrev o_QOS_SHARE_EFF_HI : Nat := 0xC04
abbrev o_QOS_SPATE_ACTIVE : Nat := 0xC10
abbrev f_QOS_SPATE_ACTIVE_TRACE : Fld := ⟨0xC10, 24, 24⟩
abbrev f_QOS_SPATE_ACTIVE_PORTS : Fld := ⟨0xC10, 23, 0⟩
abbrev o_QOS_SPATE_GRANTS : Nat := 0xC14
abbrev f_QOS_SPATE_GRANTS_COUNT : Fld := ⟨0xC14, 31, 0⟩
abbrev o_PWR_CTRL : Nat := 0x100
abbrev f_PWR_CTRL_PRIORITY : Fld := ⟨0x100, 1, 0⟩
abbrev o_PWR_LEND_EN : Nat := 0x104
abbrev f_PWR_LEND_EN_PAIR : Fld := ⟨0x104, 15, 0⟩
abbrev o_PWR_DROOP_CFG : Nat := 0x108
abbrev f_PWR_DROOP_CFG_STEP : Fld := ⟨0x108, 7, 0⟩
abbrev o_PWR_LWM_CLR : Nat := 0x10C
abbrev f_PWR_LWM_CLR_REGION : Fld := ⟨0x10C, 4, 0⟩
abbrev o_PWR_REG_REQ (k : Nat) : Nat := 0x200 + 4 * k
abbrev f_PWR_REG_REQ_POWER (k : Nat) : Fld := ⟨0x200 + 4 * k, 31, 31⟩
abbrev f_PWR_REG_REQ_ILIM (k : Nat) : Fld := ⟨0x200 + 4 * k, 19, 8⟩
abbrev f_PWR_REG_REQ_LEVEL (k : Nat) : Fld := ⟨0x200 + 4 * k, 3, 0⟩
abbrev o_PWR_STATUS : Nat := 0xC00
abbrev f_PWR_STATUS_VIN_STEP : Fld := ⟨0xC00, 20, 16⟩
abbrev f_PWR_STATUS_HBM_STEP : Fld := ⟨0xC00, 15, 12⟩
abbrev f_PWR_STATUS_ENV_STEP : Fld := ⟨0xC00, 9, 5⟩
abbrev f_PWR_STATUS_STACK_STEP : Fld := ⟨0xC00, 4, 0⟩
abbrev o_PWR_STACK_W : Nat := 0xC04
abbrev f_PWR_STACK_W_W : Fld := ⟨0xC04, 15, 0⟩
abbrev o_PWR_PKG_W : Nat := 0xC08
abbrev f_PWR_PKG_W_AVG : Fld := ⟨0xC08, 31, 16⟩
abbrev f_PWR_PKG_W_W : Fld := ⟨0xC08, 15, 0⟩
abbrev o_PWR_REG_STATUS (k : Nat) : Nat := 0xD00 + 4 * k
abbrev f_PWR_REG_STATUS_STATE (k : Nat) : Fld := ⟨0xD00 + 4 * k, 31, 29⟩
abbrev f_PWR_REG_STATUS_BORROW (k : Nat) : Fld := ⟨0xD00 + 4 * k, 28, 28⟩
abbrev f_PWR_REG_STATUS_LEND (k : Nat) : Fld := ⟨0xD00 + 4 * k, 27, 27⟩
abbrev f_PWR_REG_STATUS_STRETCH (k : Nat) : Fld := ⟨0xD00 + 4 * k, 26, 26⟩
abbrev f_PWR_REG_STATUS_DEFERRED (k : Nat) : Fld := ⟨0xD00 + 4 * k, 25, 25⟩
abbrev f_PWR_REG_STATUS_PAUSE (k : Nat) : Fld := ⟨0xD00 + 4 * k, 24, 20⟩
abbrev f_PWR_REG_STATUS_PHASES (k : Nat) : Fld := ⟨0xD00 + 4 * k, 19, 15⟩
abbrev f_PWR_REG_STATUS_LEVEL (k : Nat) : Fld := ⟨0xD00 + 4 * k, 14, 11⟩
abbrev f_PWR_REG_STATUS_REFUSE (k : Nat) : Fld := ⟨0xD00 + 4 * k, 10, 8⟩
abbrev f_PWR_REG_STATUS_VOLT (k : Nat) : Fld := ⟨0xD00 + 4 * k, 7, 0⟩
abbrev o_PWR_REG_SRC (k : Nat) : Nat := 0xD80 + 4 * k
abbrev f_PWR_REG_SRC_SRC (k : Nat) : Fld := ⟨0xD80 + 4 * k, 7, 0⟩
abbrev o_PWR_BAND_STATUS (k : Nat) : Nat := 0xE00 + 4 * k
abbrev f_PWR_BAND_STATUS_FAIL (k : Nat) : Fld := ⟨0xE00 + 4 * k, 31, 31⟩
abbrev f_PWR_BAND_STATUS_PHASES (k : Nat) : Fld := ⟨0xE00 + 4 * k, 19, 16⟩
abbrev f_PWR_BAND_STATUS_LIMIT (k : Nat) : Fld := ⟨0xE00 + 4 * k, 12, 8⟩
abbrev f_PWR_BAND_STATUS_VOLT (k : Nat) : Fld := ⟨0xE00 + 4 * k, 7, 0⟩
abbrev o_PWR_LIMIT_REFUSED : Nat := 0xE20
abbrev f_PWR_LIMIT_REFUSED_COUNT : Fld := ⟨0xE20, 31, 0⟩
abbrev o_PWR_GRADIENT : Nat := 0xE24
abbrev f_PWR_GRADIENT_COUNT : Fld := ⟨0xE24, 31, 0⟩
abbrev o_PWR_STACK_MS : Nat := 0xE28
abbrev f_PWR_STACK_MS_COUNT : Fld := ⟨0xE28, 31, 0⟩
abbrev o_PWR_ENV_MS : Nat := 0xE2C
abbrev f_PWR_ENV_MS_COUNT : Fld := ⟨0xE2C, 31, 0⟩
abbrev f_PWR_IRQ_PENDING_LOG_LOST : Fld := ⟨0x020, 5, 5⟩
abbrev f_PWR_IRQ_PENDING_BAND_FAIL : Fld := ⟨0x020, 4, 4⟩
abbrev f_PWR_IRQ_PENDING_BOND_SUSPECT : Fld := ⟨0x020, 3, 3⟩
abbrev f_PWR_IRQ_PENDING_LEND : Fld := ⟨0x020, 2, 2⟩
abbrev f_PWR_IRQ_PENDING_DARK : Fld := ⟨0x020, 1, 1⟩
abbrev f_PWR_IRQ_PENDING_PHASE_FAIL : Fld := ⟨0x020, 0, 0⟩
abbrev o_PWR_LOG_CLR : Nat := 0x110
abbrev f_PWR_LOG_CLR_CLEAR : Fld := ⟨0x110, 0, 0⟩
abbrev o_THERM_CTRL : Nat := 0x100
abbrev f_THERM_CTRL_STALE : Fld := ⟨0x100, 23, 16⟩
abbrev f_THERM_CTRL_THROT_MAX : Fld := ⟨0x100, 12, 8⟩
abbrev f_THERM_CTRL_RECHECK : Fld := ⟨0x100, 7, 4⟩
abbrev o_THERM_CH_EN_LO : Nat := 0x104
abbrev f_THERM_CH_EN_LO_EN : Fld := ⟨0x104, 31, 0⟩
abbrev o_THERM_CH_EN_HI : Nat := 0x108
abbrev f_THERM_CH_EN_HI_EN : Fld := ⟨0x108, 13, 0⟩
abbrev o_THERM_DEMAND_LO : Nat := 0x10C
abbrev f_THERM_DEMAND_LO_MASK : Fld := ⟨0x10C, 31, 0⟩
abbrev o_THERM_DEMAND_HI : Nat := 0x110
abbrev f_THERM_DEMAND_HI_MASK : Fld := ⟨0x110, 13, 0⟩
abbrev o_THERM_PIN_MASK_LO : Nat := 0x114
abbrev f_THERM_PIN_MASK_LO_MASK : Fld := ⟨0x114, 31, 0⟩
abbrev o_THERM_PIN_MASK_HI : Nat := 0x118
abbrev f_THERM_PIN_MASK_HI_MASK : Fld := ⟨0x118, 13, 0⟩
abbrev o_THERM_RESUME : Nat := 0x11C
abbrev f_THERM_RESUME_GO : Fld := ⟨0x11C, 0, 0⟩
abbrev o_THERM_SH_CFG : Nat := 0x120
abbrev f_THERM_SH_CFG_THRESH : Fld := ⟨0x120, 31, 16⟩
abbrev f_THERM_SH_CFG_WIN : Fld := ⟨0x120, 3, 0⟩
abbrev o_THERM_EXT_WARN (k : Nat) : Nat := 0x130 + 4 * k
abbrev f_THERM_EXT_WARN_WARN (k : Nat) : Fld := ⟨0x130 + 4 * k, 15, 0⟩
abbrev o_THERM_TH_MODEL (k : Nat) : Nat := 0x150 + 4 * k
abbrev f_THERM_TH_MODEL_BETA (k : Nat) : Fld := ⟨0x150 + 4 * k, 31, 16⟩
abbrev f_THERM_TH_MODEL_NOM (k : Nat) : Fld := ⟨0x150 + 4 * k, 15, 0⟩
abbrev o_THERM_CH (k : Nat) : Nat := 0xC00 + 4 * k
abbrev f_THERM_CH_VALID (k : Nat) : Fld := ⟨0xC00 + 4 * k, 31, 31⟩
abbrev f_THERM_CH_FAULT (k : Nat) : Fld := ⟨0xC00 + 4 * k, 30, 30⟩
abbrev f_THERM_CH_STALE (k : Nat) : Fld := ⟨0xC00 + 4 * k, 29, 29⟩
abbrev f_THERM_CH_AGE (k : Nat) : Fld := ⟨0xC00 + 4 * k, 23, 16⟩
abbrev f_THERM_CH_T (k : Nat) : Fld := ⟨0xC00 + 4 * k, 15, 0⟩
abbrev o_THERM_STATUS : Nat := 0xD00
abbrev f_THERM_STATUS_STOPPED : Fld := ⟨0xD00, 31, 31⟩
abbrev f_THERM_STATUS_HARD_TRIP : Fld := ⟨0xD00, 30, 30⟩
abbrev f_THERM_STATUS_ALERT : Fld := ⟨0xD00, 29, 29⟩
abbrev f_THERM_STATUS_STALE : Fld := ⟨0xD00, 28, 28⟩
abbrev f_THERM_STATUS_BUSY : Fld := ⟨0xD00, 27, 27⟩
abbrev f_THERM_STATUS_RESUME_REFUSED : Fld := ⟨0xD00, 26, 26⟩
abbrev f_THERM_STATUS_PENDING : Fld := ⟨0xD00, 23, 16⟩
abbrev f_THERM_STATUS_WARN : Fld := ⟨0xD00, 14, 12⟩
abbrev f_THERM_STATUS_THROT : Fld := ⟨0xD00, 10, 8⟩
abbrev f_THERM_STATUS_SHUT_CAUSE : Fld := ⟨0xD00, 7, 4⟩
abbrev o_THERM_REG (k : Nat) : Nat := 0xD40 + 4 * k
abbrev f_THERM_REG_STEP (k : Nat) : Fld := ⟨0xD40 + 4 * k, 28, 24⟩
abbrev f_THERM_REG_SUSPECT_HOT (k : Nat) : Fld := ⟨0xD40 + 4 * k, 23, 23⟩
abbrev f_THERM_REG_DISAGREE (k : Nat) : Fld := ⟨0xD40 + 4 * k, 22, 22⟩
abbrev f_THERM_REG_MODEL (k : Nat) : Fld := ⟨0xD40 + 4 * k, 21, 21⟩
abbrev f_THERM_REG_T_MID (k : Nat) : Fld := ⟨0xD40 + 4 * k, 15, 0⟩
abbrev f_THERM_IRQ_PENDING_RESUME_REFUSED : Fld := ⟨0x020, 8, 8⟩
abbrev f_THERM_IRQ_PENDING_SHUTDOWN : Fld := ⟨0x020, 7, 7⟩
abbrev f_THERM_IRQ_PENDING_CH_FAULT : Fld := ⟨0x020, 6, 6⟩
abbrev f_THERM_IRQ_PENDING_SUSPECT_HOT : Fld := ⟨0x020, 5, 5⟩
abbrev f_THERM_IRQ_PENDING_SENSOR_DISAGREE : Fld := ⟨0x020, 4, 4⟩
abbrev f_THERM_IRQ_PENDING_STALE : Fld := ⟨0x020, 3, 3⟩
abbrev f_THERM_IRQ_PENDING_THROTTLE : Fld := ⟨0x020, 2, 2⟩
abbrev f_THERM_IRQ_PENDING_WARN : Fld := ⟨0x020, 1, 1⟩
abbrev f_THERM_IRQ_PENDING_DEMAND_DONE : Fld := ⟨0x020, 0, 0⟩
abbrev o_THERM_STALE_MS : Nat := 0xD20
abbrev f_THERM_STALE_MS_COUNT : Fld := ⟨0xD20, 31, 0⟩
abbrev o_THERM_MEAS : Nat := 0xD24
abbrev f_THERM_MEAS_COUNT : Fld := ⟨0xD24, 31, 0⟩
abbrev o_COMMON_PAGE_ID : Nat := 0x000
abbrev f_COMMON_PAGE_ID_KIND : Fld := ⟨0x000, 31, 16⟩
abbrev f_COMMON_PAGE_ID_INSTANCE : Fld := ⟨0x000, 15, 0⟩
abbrev o_COMMON_PAGE_CAPS : Nat := 0x004
abbrev f_COMMON_PAGE_CAPS_SHADOWED : Fld := ⟨0x004, 31, 31⟩
abbrev f_COMMON_PAGE_CAPS_SECURE : Fld := ⟨0x004, 30, 30⟩
abbrev f_COMMON_PAGE_CAPS_REV : Fld := ⟨0x004, 7, 0⟩
abbrev o_COMMON_PAGE_CTRL : Nat := 0x008
abbrev f_COMMON_PAGE_CTRL_RESHADOW : Fld := ⟨0x008, 1, 1⟩
abbrev o_COMMON_PAGE_STATUS : Nat := 0x00C
abbrev f_COMMON_PAGE_STATUS_FROZEN : Fld := ⟨0x00C, 31, 31⟩
abbrev f_COMMON_PAGE_STATUS_OFF : Fld := ⟨0x00C, 30, 30⟩
abbrev o_COMMON_PAGE_STROBE_GROUP : Nat := 0x010
abbrev f_COMMON_PAGE_STROBE_GROUP_GROUP : Fld := ⟨0x010, 3, 0⟩
abbrev o_COMMON_SHADOW_STATE : Nat := 0x014
abbrev f_COMMON_SHADOW_STATE_PARITY : Fld := ⟨0x014, 2, 2⟩
abbrev f_COMMON_SHADOW_STATE_PENDING : Fld := ⟨0x014, 1, 1⟩
abbrev f_COMMON_SHADOW_STATE_DIRTY : Fld := ⟨0x014, 0, 0⟩
abbrev o_COMMON_PARITY_ERR : Nat := 0x018
abbrev f_COMMON_PARITY_ERR_VALID : Fld := ⟨0x018, 31, 31⟩
abbrev f_COMMON_PARITY_ERR_COPY : Fld := ⟨0x018, 30, 30⟩
abbrev f_COMMON_PARITY_ERR_OFFSET : Fld := ⟨0x018, 11, 2⟩
abbrev o_COMMON_IRQ_PENDING : Nat := 0x020
abbrev f_COMMON_IRQ_PENDING_Per_source : Fld := ⟨0x020, 31, 0⟩
abbrev o_COMMON_IRQ_MASK : Nat := 0x024
abbrev o_COMMON_EVT_CNT (k : Nat) : Nat := 0x040 + 4 * k
abbrev o_COMMON_EVT_SAT : Nat := 0x050
abbrev f_COMMON_EVT_SAT_SAT : Fld := ⟨0x050, 15, 0⟩
abbrev o_COMMON_MBX_SEL : Nat := 0x080
abbrev f_COMMON_MBX_SEL_SELECTOR : Fld := ⟨0x080, 31, 0⟩
abbrev o_COMMON_MBX_CTRL : Nat := 0x084
abbrev f_COMMON_MBX_CTRL_ABORT : Fld := ⟨0x084, 8, 8⟩
abbrev f_COMMON_MBX_CTRL_BUSY : Fld := ⟨0x084, 2, 2⟩
abbrev f_COMMON_MBX_CTRL_OFF : Fld := ⟨0x084, 1, 1⟩
abbrev f_COMMON_MBX_CTRL_ERR : Fld := ⟨0x084, 0, 0⟩
abbrev o_COMMON_MBX_VALID : Nat := 0x088
abbrev f_COMMON_MBX_VALID_VALID : Fld := ⟨0x088, 0, 0⟩
abbrev o_COMMON_MBX_DATA (k : Nat) : Nat := 0x090 + 4 * k
abbrev f_COMMON_MBX_DATA_DATA (k : Nat) : Fld := ⟨0x090 + 4 * k, 31, 0⟩
abbrev o_IRC_PEND (k : Nat) : Nat := 0x500 + 4 * k
abbrev f_IRC_PEND_PEND (k : Nat) : Fld := ⟨0x500 + 4 * k, 31, 0⟩
abbrev o_IRC_MASK (k : Nat) : Nat := 0x510 + 4 * k
abbrev f_IRC_MASK_MASK (k : Nat) : Fld := ⟨0x510 + 4 * k, 31, 0⟩
abbrev o_IRC_RAISE : Nat := 0x520
abbrev f_IRC_RAISE_SOURCE : Fld := ⟨0x520, 6, 0⟩
abbrev o_IRC_EOI : Nat := 0x524
abbrev f_IRC_EOI_SOURCE : Fld := ⟨0x524, 6, 0⟩
abbrev o_IRC_STACK_RESET : Nat := 0x528
abbrev f_IRC_STACK_RESET_GO : Fld := ⟨0x528, 0, 0⟩
abbrev o_IRC_FAULT_VEC : Nat := 0x52C
abbrev f_IRC_FAULT_VEC_VECTOR : Fld := ⟨0x52C, 5, 0⟩
abbrev o_IRC_LEVEL (k : Nat) : Nat := 0x600 + 4 * k
abbrev o_IRC_VEC (k : Nat) : Nat := 0x700 + 4 * k
abbrev o_IRC_SRC_CNT (k : Nat) : Nat := 0x800 + 4 * k
abbrev o_IRC_SRC_SAT (k : Nat) : Nat := 0x880 + 4 * k
abbrev f_IRC_SRC_SAT_SAT (k : Nat) : Fld := ⟨0x880 + 4 * k, 31, 0⟩
abbrev o_IRC_STATUS : Nat := 0xC10
abbrev f_IRC_STATUS_FROZEN : Fld := ⟨0xC10, 31, 31⟩
abbrev f_IRC_STATUS_DEPTH : Fld := ⟨0xC10, 20, 16⟩
abbrev f_IRC_STATUS_LEVEL : Fld := ⟨0xC10, 11, 8⟩
abbrev f_IRC_STATUS_TOP : Fld := ⟨0xC10, 6, 0⟩
abbrev o_IRC_ORDER_INFO : Nat := 0xC14
abbrev f_IRC_ORDER_INFO_EXPECTED : Fld := ⟨0xC14, 14, 8⟩
abbrev f_IRC_ORDER_INFO_NAMED : Fld := ⟨0xC14, 6, 0⟩
abbrev f_IRC_IRQ_PENDING_ORDER : Fld := ⟨0x020, 0, 0⟩
abbrev o_SEC_BLOCK_WORLD (k : Nat) : Nat := 0x100 + 4 * k
abbrev f_SEC_BLOCK_WORLD_SECURE (k : Nat) : Fld := ⟨0x100 + 4 * k, 31, 0⟩
abbrev o_SEC_IDE : Nat := 0x120
abbrev f_SEC_IDE_BOUND : Fld := ⟨0x120, 31, 31⟩
abbrev f_SEC_IDE_STREAM : Fld := ⟨0x120, 7, 0⟩
abbrev o_SEC_CAL_LOCK : Nat := 0x124
abbrev f_SEC_CAL_LOCK_LOCK : Fld := ⟨0x124, 0, 0⟩
abbrev o_SEC_FAB_ANCHOR0 (k : Nat) : Nat := 0x200 + 4 * k
abbrev f_SEC_FAB_ANCHOR0_HASH (k : Nat) : Fld := ⟨0x200 + 4 * k, 31, 0⟩
abbrev o_SEC_FAB_ANCHOR1 (k : Nat) : Nat := 0x220 + 4 * k
abbrev f_SEC_FAB_ANCHOR1_HASH (k : Nat) : Fld := ⟨0x220 + 4 * k, 31, 0⟩
abbrev o_SEC_FAB_ANCHOR2 (k : Nat) : Nat := 0x240 + 4 * k
abbrev f_SEC_FAB_ANCHOR2_HASH (k : Nat) : Fld := ⟨0x240 + 4 * k, 31, 0⟩
abbrev o_SEC_FAB_ANCHOR3 (k : Nat) : Nat := 0x260 + 4 * k
abbrev f_SEC_FAB_ANCHOR3_HASH (k : Nat) : Fld := ⟨0x260 + 4 * k, 31, 0⟩
abbrev o_SEC_FAB_ANCHOR_EN : Nat := 0x280
abbrev f_SEC_FAB_ANCHOR_EN_EN : Fld := ⟨0x280, 3, 0⟩
abbrev o_SEC_MRD_BASE (k : Nat) : Nat := 0x400 + 16 * k
abbrev f_SEC_MRD_BASE_BASE (k : Nat) : Fld := ⟨0x400 + 16 * k, 31, 0⟩
abbrev o_SEC_MRD_LIMIT (k : Nat) : Nat := 0x404 + 16 * k
abbrev f_SEC_MRD_LIMIT_LIMIT (k : Nat) : Fld := ⟨0x404 + 16 * k, 31, 0⟩
abbrev o_SEC_MRD_CFG (k : Nat) : Nat := 0x408 + 16 * k
abbrev f_SEC_MRD_CFG_EN (k : Nat) : Fld := ⟨0x408 + 16 * k, 31, 31⟩
abbrev f_SEC_MRD_CFG_WORLD (k : Nat) : Fld := ⟨0x408 + 16 * k, 30, 30⟩
abbrev f_SEC_MRD_CFG_R (k : Nat) : Fld := ⟨0x408 + 16 * k, 29, 29⟩
abbrev f_SEC_MRD_CFG_W (k : Nat) : Fld := ⟨0x408 + 16 * k, 28, 28⟩
abbrev f_SEC_MRD_CFG_PART_ANY (k : Nat) : Fld := ⟨0x408 + 16 * k, 27, 27⟩
abbrev f_SEC_MRD_CFG_PART (k : Nat) : Fld := ⟨0x408 + 16 * k, 26, 24⟩
abbrev o_SEC_MRD_STATUS : Nat := 0xC00
abbrev f_SEC_MRD_STATUS_MRD : Fld := ⟨0xC00, 13, 8⟩
abbrev f_SEC_MRD_STATUS_REFUSE : Fld := ⟨0xC00, 1, 0⟩
abbrev o_SEC_LOG_STATUS : Nat := 0xC04
abbrev f_SEC_LOG_STATUS_LOST : Fld := ⟨0xC04, 31, 16⟩
abbrev f_SEC_LOG_STATUS_COUNT : Fld := ⟨0xC04, 5, 0⟩
abbrev o_SEC_LOG_CLR : Nat := 0xC08
abbrev f_SEC_LOG_CLR_CLEAR : Fld := ⟨0xC08, 0, 0⟩
abbrev f_SEC_IRQ_PENDING_LOG_LOST : Fld := ⟨0x020, 1, 1⟩
abbrev f_SEC_IRQ_PENDING_LOG : Fld := ⟨0x020, 0, 0⟩
abbrev o_BOOT_WIN_OFF : Nat := 0x100
abbrev f_BOOT_WIN_OFF_OFF : Fld := ⟨0x100, 10, 0⟩
abbrev o_BOOT_GO : Nat := 0x104
abbrev f_BOOT_GO_GO : Fld := ⟨0x104, 0, 0⟩
abbrev o_BOOT_WIN (k : Nat) : Nat := 0x400 + 4 * k
abbrev f_BOOT_WIN_DATA (k : Nat) : Fld := ⟨0x400 + 4 * k, 31, 0⟩
abbrev o_BOOT_STATUS : Nat := 0xC00
abbrev f_BOOT_STATUS_STATE : Fld := ⟨0xC00, 31, 28⟩
abbrev f_BOOT_STATUS_REASON : Fld := ⟨0xC00, 27, 24⟩
abbrev f_BOOT_STATUS_ATTEMPTS : Fld := ⟨0xC00, 15, 0⟩
abbrev o_BOOT_ROM_VER : Nat := 0xC04
abbrev f_BOOT_ROM_VER_VER : Fld := ⟨0xC04, 31, 0⟩
abbrev o_BOOT_RUN_SVN : Nat := 0xC08
abbrev f_BOOT_RUN_SVN_SLOT : Fld := ⟨0xC08, 31, 24⟩
abbrev f_BOOT_RUN_SVN_SVN : Fld := ⟨0xC08, 15, 0⟩
abbrev o_BOOT_FUSES : Nat := 0xC0C
abbrev f_BOOT_FUSES_PROG : Fld := ⟨0xC0C, 15, 12⟩
abbrev f_BOOT_FUSES_REVOKED : Fld := ⟨0xC0C, 11, 8⟩
abbrev f_BOOT_FUSES_MIN_SVN : Fld := ⟨0xC0C, 5, 0⟩
abbrev f_BOOT_IRQ_PENDING_VERIFIED : Fld := ⟨0x020, 1, 1⟩
abbrev f_BOOT_IRQ_PENDING_REJECTED : Fld := ⟨0x020, 0, 0⟩
abbrev o_MGMT_MSG_REQ (k : Nat) : Nat := 0x400 + 4 * k
abbrev f_MGMT_MSG_REQ_WORD (k : Nat) : Fld := ⟨0x400 + 4 * k, 31, 0⟩
abbrev o_MGMT_MSG_CTRL : Nat := 0x500
abbrev f_MGMT_MSG_CTRL_GO : Fld := ⟨0x500, 31, 31⟩
abbrev f_MGMT_MSG_CTRL_TYPE : Fld := ⟨0x500, 7, 0⟩
abbrev o_MGMT_MSG_STATUS : Nat := 0xC00
abbrev f_MGMT_MSG_STATUS_STATE : Fld := ⟨0xC00, 31, 30⟩
abbrev f_MGMT_MSG_STATUS_SECURE : Fld := ⟨0xC00, 29, 29⟩
abbrev f_MGMT_MSG_STATUS_RESULT : Fld := ⟨0xC00, 27, 24⟩
abbrev f_MGMT_MSG_STATUS_RESP_LEN : Fld := ⟨0xC00, 11, 0⟩
abbrev f_MGMT_IRQ_PENDING_MSG_DONE : Fld := ⟨0x020, 0, 0⟩
abbrev o_CAL_T_OFS (k : Nat) : Nat := 0x100 + 4 * k
abbrev o_CAL_V_OFS (k : Nat) : Nat := 0x140 + 4 * k
abbrev o_CAL_B_OFS (k : Nat) : Nat := 0x160 + 4 * k
abbrev o_CAL_MODEL_OFS (k : Nat) : Nat := 0x180 + 4 * k
abbrev f_CAL_MODEL_OFS_K_OFS (k : Nat) : Fld := ⟨0x180 + 4 * k, 31, 16⟩
abbrev f_CAL_MODEL_OFS_C_OFS (k : Nat) : Fld := ⟨0x180 + 4 * k, 15, 0⟩
abbrev o_CAL_STATUS : Nat := 0xC00
abbrev f_CAL_STATUS_CLAMPED : Fld := ⟨0xC00, 0, 0⟩
abbrev o_TRACE_CTRL : Nat := 0x100
abbrev f_TRACE_CTRL_EN : Fld := ⟨0x100, 31, 31⟩
abbrev f_TRACE_CTRL_MODE : Fld := ⟨0x100, 30, 30⟩
abbrev f_TRACE_CTRL_SIZE : Fld := ⟨0x100, 24, 20⟩
abbrev f_TRACE_CTRL_SRC : Fld := ⟨0x100, 19, 16⟩
abbrev f_TRACE_CTRL_CAP : Fld := ⟨0x100, 4, 0⟩
abbrev o_TRACE_BUF_BASE : Nat := 0x104
abbrev f_TRACE_BUF_BASE_BASE : Fld := ⟨0x104, 27, 0⟩
abbrev o_TRACE_RD_PTR : Nat := 0x108
abbrev f_TRACE_RD_PTR_INDEX : Fld := ⟨0x108, 26, 0⟩
abbrev o_TRACE_SAMPLE_CTRL : Nat := 0x10C
abbrev f_TRACE_SAMPLE_CTRL_EN : Fld := ⟨0x10C, 31, 31⟩
abbrev f_TRACE_SAMPLE_CTRL_INTERVAL : Fld := ⟨0x10C, 3, 0⟩
abbrev o_TRACE_SAMPLE_REGIONS : Nat := 0x110
abbrev f_TRACE_SAMPLE_REGIONS_REGIONS : Fld := ⟨0x110, 31, 0⟩
abbrev o_TRACE_FAB_CTRL : Nat := 0x114
abbrev f_TRACE_FAB_CTRL_EN : Fld := ⟨0x114, 31, 31⟩
abbrev f_TRACE_FAB_CTRL_RATE : Fld := ⟨0x114, 3, 0⟩
abbrev o_TRACE_FAB_PORTS : Nat := 0x118
abbrev f_TRACE_FAB_PORTS_PORTS : Fld := ⟨0x118, 23, 0⟩
abbrev o_TRACE_MARK : Nat := 0x11C
abbrev f_TRACE_MARK_DATA : Fld := ⟨0x11C, 31, 0⟩
abbrev o_TRACE_PERF_CTRL : Nat := 0x120
abbrev f_TRACE_PERF_CTRL_CLEAR_ALL : Fld := ⟨0x120, 1, 1⟩
abbrev f_TRACE_PERF_CTRL_FREEZE : Fld := ⟨0x120, 0, 0⟩
abbrev o_TRACE_CNT_CLR : Nat := 0x124
abbrev f_TRACE_CNT_CLR_GO : Fld := ⟨0x124, 31, 31⟩
abbrev f_TRACE_CNT_CLR_ALL : Fld := ⟨0x124, 30, 30⟩
abbrev f_TRACE_CNT_CLR_CLASS : Fld := ⟨0x124, 18, 16⟩
abbrev f_TRACE_CNT_CLR_PAGE : Fld := ⟨0x124, 11, 0⟩
abbrev o_TRACE_STATUS : Nat := 0xC00
abbrev f_TRACE_STATUS_ACTIVE : Fld := ⟨0xC00, 31, 31⟩
abbrev f_TRACE_STATUS_WRAPPED : Fld := ⟨0xC00, 30, 30⟩
abbrev f_TRACE_STATUS_FULL : Fld := ⟨0xC00, 29, 29⟩
abbrev f_TRACE_STATUS_STAGED : Fld := ⟨0xC00, 6, 0⟩
abbrev o_TRACE_WR_PTR : Nat := 0xC04
abbrev f_TRACE_WR_PTR_INDEX : Fld := ⟨0xC04, 26, 0⟩
abbrev o_TRACE_DROPPED : Nat := 0xC08
abbrev f_TRACE_DROPPED_COUNT : Fld := ⟨0xC08, 31, 0⟩
abbrev o_TRACE_RECORDS : Nat := 0xC0C
abbrev f_TRACE_RECORDS_COUNT : Fld := ⟨0xC0C, 31, 0⟩
abbrev f_TRACE_IRQ_PENDING_PERF_OVF : Fld := ⟨0x020, 31, 31⟩
abbrev f_TRACE_IRQ_PENDING_FULL : Fld := ⟨0x020, 1, 1⟩
abbrev f_TRACE_IRQ_PENDING_DROP : Fld := ⟨0x020, 0, 0⟩
abbrev o_GAUGE_CTRL : Nat := 0x100
abbrev f_GAUGE_CTRL_EN : Fld := ⟨0x100, 31, 31⟩
abbrev f_GAUGE_CTRL_TRACE : Fld := ⟨0x100, 30, 30⟩
abbrev f_GAUGE_CTRL_PERIOD : Fld := ⟨0x100, 15, 0⟩
abbrev o_GAUGE_ITEMS : Nat := 0x104
abbrev f_GAUGE_ITEMS_EN : Fld := ⟨0x104, 8, 0⟩
abbrev o_GAUGE_STATUS : Nat := 0xC00
abbrev f_GAUGE_STATUS_BUSY : Fld := ⟨0xC00, 31, 31⟩
abbrev f_GAUGE_STATUS_FRAME : Fld := ⟨0xC00, 15, 0⟩
abbrev f_GAUGE_IRQ_PENDING_FRAME : Fld := ⟨0x020, 0, 0⟩
abbrev o_IRC_H_MSIX_TABLE (k : Nat) : Nat := 0x100 + 4 * k
abbrev f_IRC_H_MSIX_TABLE_ENTRY (k : Nat) : Fld := ⟨0x100 + 4 * k, 31, 0⟩
abbrev o_IRC_H_PBA (k : Nat) : Nat := 0xC00 + 4 * k
abbrev f_IRC_H_PBA_PENDING (k : Nat) : Fld := ⟨0xC00 + 4 * k, 31, 0⟩

def regsCELL0 : List RegDesc :=
  [ ⟨0x300, 1, 4, [⟨8, 8, .rwS, 1⟩, ⟨0, 0, .rwS, 1⟩]⟩,
    ⟨0x304, 1, 4, [⟨0, 0, .wo, 0⟩]⟩,
    ⟨0xD00, 1, 4, [⟨15, 12, .roH, 0⟩, ⟨11, 9, .roH, 0⟩, ⟨8, 8, .roH, 0⟩, ⟨2, 0, .roH, 0⟩]⟩,
    ⟨0xD10, 1, 4, [⟨31, 0, .perf, 0⟩]⟩,
    ⟨0xD14, 1, 4, [⟨31, 0, .perf, 0⟩]⟩,
    ⟨0xD18, 1, 4, [⟨31, 0, .perf, 0⟩]⟩,
    ⟨0xD1C, 1, 4, [⟨31, 0, .perf, 0⟩]⟩,
    ⟨0xD20, 1, 4, [⟨31, 0, .perf, 0⟩]⟩,
    ⟨0xD24, 1, 4, [⟨31, 0, .perf, 0⟩]⟩,
    ⟨0x100, 1, 4, [⟨12, 12, .wo, 0⟩, ⟨9, 8, .wo, 0⟩, ⟨3, 0, .wo, 0⟩]⟩,
    ⟨0x104, 1, 4, [⟨2, 2, .wo, 0⟩, ⟨1, 1, .wo, 0⟩, ⟨0, 0, .wo, 0⟩]⟩,
    ⟨0xC00, 1, 4, [⟨1, 0, .roH, 0⟩, ⟨3, 2, .roH, 0⟩, ⟨5, 4, .roH, 0⟩, ⟨7, 6, .roH, 0⟩, ⟨9, 8, .roH, 0⟩, ⟨11, 10, .roH, 0⟩, ⟨13, 12, .roH, 0⟩, ⟨15, 14, .roH, 0⟩, ⟨17, 16, .roH, 0⟩, ⟨19, 18, .roH, 0⟩, ⟨21, 20, .roH, 0⟩, ⟨23, 22, .roH, 0⟩, ⟨25, 24, .roH, 0⟩, ⟨27, 26, .roH, 0⟩, ⟨29, 28, .roH, 0⟩, ⟨31, 30, .roH, 0⟩]⟩ ]

def regsCELL1 : List RegDesc :=
  [ ⟨0xC04, 1, 4, [⟨15, 12, .roH, 0⟩, ⟨9, 8, .roH, 0⟩, ⟨2, 0, .roH, 0⟩]⟩,
    ⟨0xC08, 1, 4, [⟨20, 16, .roH, 0⟩, ⟨10, 0, .roH, 0⟩]⟩,
    ⟨0x400, 1, 4, [⟨31, 0, .rwI, 0⟩]⟩,
    ⟨0x404, 1, 4, [⟨31, 0, .rwI, 0⟩]⟩,
    ⟨0x408, 1, 4, [⟨31, 31, .rwI, 0⟩, ⟨22, 16, .rwI, 0⟩, ⟨15, 8, .rwI, 0⟩]⟩,
    ⟨0x40C, 1, 4, [⟨15, 0, .rwI, 0⟩]⟩,
    ⟨0xE00, 1, 4, [⟨31, 0, .ce, 0⟩]⟩,
    ⟨0xE04, 1, 4, [⟨31, 0, .sat, 0⟩]⟩,
    ⟨0xE08, 1, 4, [⟨31, 0, .sat, 0⟩]⟩ ]

/-- The registers that the CELL pages implement. -/
def regsCELL : List RegDesc := regsCELL0 ++ regsCELL1

def regsBLOCK0 : List RegDesc :=
  [ ⟨0x200, 1, 4, [⟨8, 8, .rwS, 0⟩, ⟨0, 0, .rwS, 0⟩]⟩,
    ⟨0x204, 1, 4, [⟨31, 8, .rwI, 0⟩]⟩,
    ⟨0x208, 1, 4, [⟨15, 0, .rwI, 0⟩]⟩,
    ⟨0x20C, 1, 4, [⟨31, 31, .wo, 0⟩, ⟨29, 28, .rwI, 0⟩, ⟨23, 16, .rwI, 0⟩, ⟨7, 0, .rwI, 0⟩]⟩,
    ⟨0xC40, 1, 4, [⟨23, 16, .roH, 0⟩, ⟨8, 8, .roH, 0⟩, ⟨4, 4, .roH, 0⟩, ⟨3, 3, .w1c, 0⟩, ⟨2, 2, .roH, 1⟩, ⟨1, 1, .w1c, 0⟩, ⟨0, 0, .roH, 0⟩]⟩,
    ⟨0x300, 1, 4, [⟨31, 31, .rwS, 0⟩, ⟨30, 30, .rwS, 0⟩, ⟨27, 20, .rwS, 0⟩, ⟨15, 12, .rwS, 8⟩, ⟨11, 11, .rwS, 0⟩, ⟨10, 10, .rwS, 1⟩, ⟨9, 9, .rwS, 0⟩]⟩,
    ⟨0x304, 1, 4, [⟨31, 3, .rwS, 0⟩]⟩,
    ⟨0x308, 1, 4, [⟨15, 0, .rwS, 0⟩]⟩,
    ⟨0x30C, 1, 4, [⟨20, 16, .rwS, 1⟩, ⟨12, 8, .rwS, 1⟩, ⟨5, 0, .rwS, 32⟩]⟩,
    ⟨0x310, 4, 4, [⟨31, 31, .rwS, 0⟩, ⟨30, 30, .rwS, 0⟩, ⟨15, 0, .rwS, 0⟩]⟩,
    ⟨0x320, 4, 4, [⟨31, 31, .rwS, 0⟩, ⟨15, 0, .rwS, 0⟩]⟩,
    ⟨0x330, 1, 4, [⟨31, 0, .rwS, 0⟩]⟩ ]

def regsBLOCK1 : List RegDesc :=
  [ ⟨0x334, 1, 4, [⟨23, 0, .rwS, 0⟩]⟩,
    ⟨0x338, 1, 4, [⟨31, 16, .rwS, 0⟩, ⟨15, 8, .rwS, 0⟩, ⟨7, 0, .rwS, 0⟩]⟩,
    ⟨0x33C, 1, 4, [⟨8, 8, .wo, 0⟩, ⟨2, 2, .wo, 0⟩, ⟨1, 1, .wo, 0⟩, ⟨0, 0, .wo, 0⟩]⟩,
    ⟨0xC50, 1, 4, [⟨31, 28, .roH, 0⟩, ⟨27, 24, .roH, 0⟩, ⟨23, 16, .roH, 0⟩, ⟨15, 15, .roH, 0⟩, ⟨14, 14, .w1c, 0⟩, ⟨13, 13, .roH, 0⟩, ⟨11, 8, .roH, 0⟩]⟩,
    ⟨0xC54, 1, 4, [⟨31, 0, .perf, 0⟩]⟩ ]

/-- The registers that the BLOCK pages implement. -/
def regsBLOCK : List RegDesc := regsBLOCK0 ++ regsBLOCK1

def regsREGION0 : List RegDesc :=
  [ ⟨0x400, 256, 4, [⟨31, 0, .rwS, 0⟩]⟩,
    ⟨0x800, 1, 4, [⟨15, 0, .rwS, 0⟩]⟩,
    ⟨0x804, 1, 4, [⟨15, 0, .rwS, 0⟩]⟩,
    ⟨0x808, 1, 4, [⟨11, 0, .wo, 0⟩]⟩,
    ⟨0x80C, 1, 4, [⟨11, 0, .wo, 0⟩]⟩,
    ⟨0x810, 1, 4, [⟨3, 0, .rwS, 0⟩]⟩,
    ⟨0xC00, 128, 4, [⟨31, 0, .roH, 0⟩]⟩,
    ⟨0x900, 8, 4, [⟨31, 31, .rwS, 0⟩, ⟨23, 16, .rwS, 0⟩, ⟨13, 12, .rwS, 0⟩, ⟨5, 0, .rwS, 0⟩]⟩,
    ⟨0xA00, 16, 16, [⟨31, 3, .rwS, 0⟩]⟩,
    ⟨0xA04, 16, 16, [⟨15, 0, .rwS, 0⟩]⟩,
    ⟨0xA08, 16, 16, [⟨31, 3, .rwS, 0⟩]⟩,
    ⟨0xA0C, 16, 16, [⟨31, 31, .rwS, 0⟩, ⟨30, 30, .rwS, 0⟩, ⟨29, 27, .rwS, 0⟩, ⟨24, 24, .rwS, 0⟩, ⟨23, 16, .rwS, 0⟩, ⟨15, 0, .rwS, 0⟩]⟩ ]

def regsREGION1 : List RegDesc :=
  [ ⟨0xE10, 8, 4, [⟨31, 0, .perf, 0⟩]⟩,
    ⟨0xE40, 16, 4, [⟨31, 0, .sat, 0⟩]⟩,
    ⟨0xE00, 1, 4, [⟨31, 0, .roH, 0⟩]⟩,
    ⟨0xE04, 1, 4, [⟨19, 0, .roH, 0⟩]⟩ ]

/-- The registers that the REGION pages implement. -/
def regsREGION : List RegDesc := regsREGION0 ++ regsREGION1

def regsCHIP0 : List RegDesc :=
  [ ⟨0x600, 8, 8, [⟨31, 0, .rwS, 0⟩]⟩,
    ⟨0x604, 8, 8, [⟨7, 4, .rwI, 0⟩, ⟨2, 0, .rwS, 0⟩]⟩,
    ⟨0x640, 1, 4, [⟨8, 8, .wo, 0⟩, ⟨2, 0, .wo, 0⟩]⟩,
    ⟨0x648, 1, 4, [⟨27, 0, .rwS, 0⟩]⟩,
    ⟨0x64C, 1, 4, [⟨31, 31, .rwS, 0⟩, ⟨3, 0, .rwS, 0⟩]⟩,
    ⟨0xE40, 8, 4, [⟨15, 12, .roH, 0⟩, ⟨8, 8, .roH, 0⟩, ⟨7, 7, .roH, 0⟩, ⟨6, 6, .roH, 1⟩, ⟨2, 0, .roH, 0⟩]⟩,
    ⟨0xE60, 1, 4, [⟨1, 0, .roH, 0⟩]⟩,
    ⟨0x800, 32, 16, [⟨31, 0, .rwS, 0⟩]⟩,
    ⟨0x804, 32, 16, [⟨31, 0, .rwS, 0⟩]⟩,
    ⟨0x808, 32, 16, [⟨31, 31, .rwS, 0⟩, ⟨30, 30, .rwS, 0⟩, ⟨29, 29, .rwS, 0⟩, ⟨28, 24, .rwS, 0⟩, ⟨22, 20, .rwS, 0⟩, ⟨18, 16, .rwS, 0⟩, ⟨12, 8, .rwS, 24⟩]⟩,
    ⟨0x80C, 32, 16, [⟨31, 31, .roH, 0⟩, ⟨3, 0, .roH, 0⟩]⟩,
    ⟨0xA00, 128, 4, [⟨31, 31, .rwS, 0⟩, ⟨6, 0, .rwS, 0⟩]⟩ ]

def regsCHIP1 : List RegDesc :=
  [ ⟨0x100, 1, 4, [⟨0, 0, .rwI, 0⟩]⟩,
    ⟨0x104, 1, 4, [⟨15, 0, .wo, 0⟩]⟩,
    ⟨0x108, 1, 4, [⟨19, 0, .rwI, 0⟩]⟩,
    ⟨0xC00, 1, 4, [⟨31, 16, .ro, 0⟩, ⟨15, 8, .ro, 16⟩, ⟨5, 0, .ro, 0⟩]⟩,
    ⟨0xC04, 1, 4, [⟨4, 4, .w1c, 0⟩, ⟨3, 0, .roH, 0⟩]⟩,
    ⟨0xC08, 1, 4, [⟨15, 0, .roH, 0⟩]⟩,
    ⟨0xC10, 1, 4, [⟨23, 0, .roH, 0⟩]⟩,
    ⟨0xC14, 1, 4, [⟨31, 31, .w1c, 0⟩, ⟨30, 30, .roH, 0⟩, ⟨29, 29, .roH, 0⟩, ⟨27, 24, .roH, 0⟩, ⟨15, 0, .roH, 0⟩]⟩,
    ⟨0xC18, 1, 4, [⟨31, 0, .roH, 0⟩]⟩,
    ⟨0xC1C, 1, 4, [⟨15, 0, .roH, 0⟩]⟩,
    ⟨0xC20, 1, 4, [⟨31, 31, .w1c, 0⟩, ⟨30, 30, .roH, 0⟩, ⟨27, 24, .roH, 0⟩, ⟨15, 0, .roH, 0⟩]⟩,
    ⟨0xC24, 1, 4, [⟨31, 31, .w1c, 0⟩, ⟨23, 0, .roH, 0⟩]⟩ ]

def regsCHIP2 : List RegDesc :=
  [ ⟨0x110, 1, 4, [⟨31, 31, .wo, 0⟩, ⟨30, 28, .wo, 0⟩, ⟨23, 16, .wo, 0⟩, ⟨15, 0, .wo, 0⟩]⟩,
    ⟨0x114, 1, 4, [⟨11, 0, .rwS, 64⟩]⟩,
    ⟨0x118, 1, 4, [⟨31, 31, .wo, 0⟩, ⟨30, 30, .wo, 0⟩, ⟨29, 29, .wo, 0⟩, ⟨28, 28, .wo, 0⟩, ⟨23, 16, .wo, 0⟩, ⟨15, 0, .wo, 0⟩]⟩,
    ⟨0x11C, 1, 4, [⟨5, 0, .rwS, 0⟩]⟩,
    ⟨0x120, 1, 4, [⟨7, 0, .rwI, 30⟩]⟩,
    ⟨0xC30, 1, 4, [⟨31, 31, .roH, 0⟩, ⟨30, 28, .roH, 0⟩, ⟨27, 24, .roH, 0⟩, ⟨15, 0, .roH, 0⟩]⟩,
    ⟨0xC34, 1, 4, [⟨31, 0, .roH, 0⟩]⟩,
    ⟨0xC38, 1, 4, [⟨7, 4, .roH, 0⟩, ⟨3, 0, .roH, 0⟩]⟩,
    ⟨0xC3C, 1, 4, [⟨31, 28, .roH, 0⟩, ⟨20, 16, .roH, 0⟩, ⟨15, 0, .roH, 65535⟩]⟩ ]

/-- The registers that the CHIP pages implement. -/
def regsCHIP : List RegDesc := regsCHIP0 ++ regsCHIP1 ++ regsCHIP2

def regsSLICE0 : List RegDesc :=
  [ ⟨0x100, 1, 4, [⟨3, 0, .rwS, 9⟩]⟩,
    ⟨0x104, 1, 4, [⟨8, 1, .rwI, 159⟩]⟩,
    ⟨0x108, 1, 4, [⟨2, 0, .wo, 0⟩]⟩,
    ⟨0x10C, 1, 4, [⟨0, 0, .wo, 0⟩]⟩,
    ⟨0x110, 1, 4, [⟨31, 8, .rwI, 0⟩]⟩,
    ⟨0x114, 1, 4, [⟨15, 0, .rwI, 0⟩]⟩,
    ⟨0xC00, 1, 4, [⟨31, 31, .roH, 0⟩, ⟨2, 0, .roH, 0⟩]⟩,
    ⟨0xC04, 1, 4, [⟨8, 0, .roH, 0⟩]⟩,
    ⟨0xC08, 1, 4, [⟨31, 16, .roH, 0⟩, ⟨4, 0, .roH, 0⟩]⟩,
    ⟨0xC10, 1, 4, [⟨31, 0, .perf, 0⟩]⟩,
    ⟨0xC14, 1, 4, [⟨31, 0, .perf, 0⟩]⟩,
    ⟨0xC18, 1, 4, [⟨31, 0, .perf, 0⟩]⟩ ]

def regsSLICE1 : List RegDesc :=
  [ ⟨0xC1C, 1, 4, [⟨31, 0, .perf, 0⟩]⟩,
    ⟨0xC20, 1, 4, [⟨31, 0, .perf, 0⟩]⟩,
    ⟨0xC24, 1, 4, [⟨31, 0, .perf, 0⟩]⟩,
    ⟨0xC28, 1, 4, [⟨31, 0, .sat, 0⟩]⟩,
    ⟨0xC2C, 1, 4, [⟨31, 0, .sat, 0⟩]⟩,
    ⟨0xC30, 1, 4, [⟨31, 0, .perf, 0⟩]⟩,
    ⟨0x200, 1, 4, [⟨31, 16, .rwS, 64⟩, ⟨15, 8, .rwS, 16⟩, ⟨3, 0, .rwS, 10⟩]⟩,
    ⟨0x204, 1, 4, [⟨11, 8, .rwS, 4⟩, ⟨3, 0, .rwS, 7⟩]⟩,
    ⟨0x208, 1, 4, [⟨31, 0, .rwI, 0⟩]⟩,
    ⟨0x20C, 1, 4, [⟨31, 0, .rwI, 0⟩]⟩,
    ⟨0x210, 1, 4, [⟨31, 31, .rwI, 0⟩, ⟨22, 16, .rwI, 0⟩, ⟨15, 8, .rwI, 0⟩]⟩,
    ⟨0x214, 1, 4, [⟨22, 18, .rwI, 0⟩, ⟨17, 5, .rwI, 0⟩, ⟨4, 0, .rwI, 0⟩]⟩ ]

def regsSLICE2 : List RegDesc :=
  [ ⟨0x218, 1, 4, [⟨0, 0, .wo, 0⟩]⟩,
    ⟨0xD00, 1, 4, [⟨31, 31, .roH, 0⟩, ⟨15, 0, .roH, 0⟩]⟩,
    ⟨0xD04, 1, 4, [⟨31, 31, .roH, 0⟩, ⟨10, 8, .roH, 0⟩, ⟨7, 0, .roH, 0⟩]⟩,
    ⟨0xD08, 1, 4, [⟨31, 0, .roH, 0⟩]⟩,
    ⟨0xD0C, 1, 4, [⟨31, 16, .roH, 0⟩, ⟨4, 0, .roH, 0⟩]⟩,
    ⟨0xD10, 1, 4, [⟨31, 0, .ce, 0⟩]⟩,
    ⟨0xD14, 1, 4, [⟨31, 0, .sat, 0⟩]⟩,
    ⟨0xD18, 1, 4, [⟨31, 0, .sat, 0⟩]⟩,
    ⟨0xD1C, 1, 4, [⟨31, 0, .ce, 0⟩]⟩,
    ⟨0xD20, 1, 4, [⟨31, 0, .perf, 0⟩]⟩ ]

/-- The registers that the SLICE pages implement. -/
def regsSLICE : List RegDesc := regsSLICE0 ++ regsSLICE1 ++ regsSLICE2

def regsHBM0 : List RegDesc :=
  [ ⟨0x100, 1, 4, [⟨8, 8, .rwS, 1⟩, ⟨0, 0, .rwS, 1⟩]⟩,
    ⟨0xC00, 1, 4, [⟨31, 28, .roH, 0⟩, ⟨15, 14, .roH, 0⟩, ⟨13, 13, .roH, 0⟩, ⟨12, 12, .roH, 0⟩, ⟨11, 11, .roH, 0⟩]⟩,
    ⟨0xC04, 1, 4, [⟨7, 0, .roH, 0⟩]⟩,
    ⟨0xC08, 1, 4, [⟨31, 16, .roH, 0⟩, ⟨15, 0, .roH, 0⟩]⟩,
    ⟨0xC10, 1, 4, [⟨31, 0, .perf, 0⟩]⟩,
    ⟨0xC14, 1, 4, [⟨31, 0, .perf, 0⟩]⟩,
    ⟨0xC18, 1, 4, [⟨31, 0, .ce, 0⟩]⟩,
    ⟨0xC1C, 1, 4, [⟨31, 0, .sat, 0⟩]⟩,
    ⟨0x200, 1, 4, [⟨31, 16, .rwS, 64⟩, ⟨15, 8, .rwS, 16⟩, ⟨3, 0, .rwS, 10⟩]⟩,
    ⟨0x210, 1, 4, [⟨29, 0, .rwI, 0⟩]⟩,
    ⟨0x214, 1, 4, [⟨0, 0, .wo, 0⟩]⟩,
    ⟨0x218, 1, 4, [⟨31, 31, .rwS, 1⟩, ⟨23, 16, .rwS, 3⟩, ⟨15, 0, .rwS, 1440⟩]⟩ ]

def regsHBM1 : List RegDesc :=
  [ ⟨0xD00, 16, 4, [⟨31, 31, .roH, 0⟩, ⟨15, 0, .roH, 0⟩]⟩,
    ⟨0xD40, 1, 4, [⟨31, 16, .roH, 0⟩, ⟨4, 0, .roH, 0⟩]⟩,
    ⟨0xD44, 1, 4, [⟨31, 31, .w1c, 0⟩, ⟨15, 0, .roH, 0⟩]⟩,
    ⟨0xD50, 16, 4, [⟨31, 0, .ce, 0⟩]⟩,
    ⟨0xD90, 1, 4, [⟨31, 0, .sat, 0⟩]⟩,
    ⟨0x204, 1, 4, [⟨31, 0, .rwI, 0⟩]⟩,
    ⟨0x208, 1, 4, [⟨31, 0, .rwI, 0⟩]⟩,
    ⟨0x20C, 1, 4, [⟨31, 31, .rwI, 0⟩, ⟨22, 16, .rwI, 0⟩, ⟨15, 8, .rwI, 0⟩, ⟨3, 0, .rwI, 0⟩]⟩ ]

/-- The registers that the HBM pages implement. -/
def regsHBM : List RegDesc := regsHBM0 ++ regsHBM1

def regsFAB0 : List RegDesc :=
  [ ⟨0x100, 1, 4, [⟨31, 31, .rwS, 1⟩, ⟨25, 16, .rwS, 4⟩, ⟨15, 8, .rwS, 2⟩, ⟨7, 0, .rwS, 50⟩]⟩,
    ⟨0x104, 1, 4, [⟨31, 31, .rwS, 0⟩, ⟨15, 0, .rwS, 0⟩]⟩,
    ⟨0x110, 1, 4, [⟨7, 0, .rwI, 0⟩]⟩,
    ⟨0x114, 1, 4, [⟨5, 0, .wo, 0⟩]⟩,
    ⟨0x118, 1, 4, [⟨17, 0, .rwS, 0⟩]⟩,
    ⟨0x11C, 1, 4, [⟨17, 0, .rwS, 0⟩]⟩,
    ⟨0x120, 1, 4, [⟨31, 16, .rwS, 0⟩, ⟨11, 0, .rwS, 0⟩]⟩,
    ⟨0x124, 1, 4, [⟨31, 31, .rwS, 0⟩, ⟨30, 30, .rwS, 0⟩, ⟨29, 29, .rwS, 0⟩, ⟨26, 24, .rwS, 0⟩, ⟨19, 16, .rwS, 0⟩, ⟨12, 8, .rwS, 30⟩]⟩,
    ⟨0x200, 24, 8, [⟨31, 0, .rwS, 0⟩]⟩,
    ⟨0x204, 24, 8, [⟨11, 10, .rwS, 0⟩, ⟨9, 9, .rwS, 0⟩, ⟨8, 8, .rwS, 0⟩, ⟨7, 0, .rwS, 0⟩]⟩,
    ⟨0x300, 16, 4, [⟨31, 16, .rwS, 0⟩, ⟨15, 0, .rwS, 0⟩]⟩,
    ⟨0xC00, 1, 4, [⟨16, 16, .roH, 0⟩, ⟨15, 0, .roH, 0⟩]⟩ ]

def regsFAB1 : List RegDesc :=
  [ ⟨0xC04, 1, 4, [⟨31, 31, .roH, 0⟩, ⟨30, 30, .roH, 0⟩, ⟨23, 0, .roH, 0⟩]⟩,
    ⟨0xC08, 1, 4, [⟨15, 0, .roH, 0⟩]⟩,
    ⟨0xC0C, 1, 4, [⟨31, 16, .roH, 0⟩, ⟨6, 0, .roH, 0⟩]⟩,
    ⟨0xC10, 1, 4, [⟨15, 8, .roH, 0⟩, ⟨2, 0, .roH, 0⟩]⟩,
    ⟨0xC20, 1, 4, [⟨31, 0, .sat, 0⟩]⟩,
    ⟨0xC24, 1, 4, [⟨31, 0, .sat, 0⟩]⟩,
    ⟨0xC28, 1, 4, [⟨31, 0, .sat, 0⟩]⟩,
    ⟨0xC2C, 1, 4, [⟨31, 0, .perf, 0⟩]⟩,
    ⟨0xC30, 1, 4, [⟨31, 0, .perf, 0⟩]⟩ ]

/-- The registers that the FAB pages implement. -/
def regsFAB : List RegDesc := regsFAB0 ++ regsFAB1

def regsPORT0 : List RegDesc :=
  [ ⟨0x100, 1, 4, [⟨31, 31, .rwS, 1⟩, ⟨30, 30, .rwS, 0⟩]⟩,
    ⟨0x104, 1, 4, [⟨1, 1, .rwS, 0⟩, ⟨0, 0, .rwS, 0⟩]⟩,
    ⟨0xC00, 1, 4, [⟨31, 28, .roH, 0⟩, ⟨27, 24, .roH, 0⟩, ⟨23, 23, .roH, 0⟩, ⟨22, 22, .roH, 0⟩, ⟨21, 21, .roH, 0⟩, ⟨7, 0, .roH, 0⟩]⟩,
    ⟨0xC04, 1, 4, [⟨31, 0, .roH, 0⟩]⟩,
    ⟨0xC10, 1, 4, [⟨31, 0, .perf, 0⟩]⟩,
    ⟨0xC14, 1, 4, [⟨31, 0, .ce, 0⟩]⟩,
    ⟨0xC18, 1, 4, [⟨31, 0, .ce, 0⟩]⟩,
    ⟨0xC1C, 1, 4, [⟨31, 0, .ce, 0⟩]⟩,
    ⟨0xC20, 1, 4, [⟨31, 0, .sat, 0⟩]⟩,
    ⟨0xC24, 1, 4, [⟨31, 0, .perf, 0⟩]⟩,
    ⟨0xC28, 1, 4, [⟨31, 0, .perf, 0⟩]⟩ ]

/-- The registers that the PORT pages implement. -/
def regsPORT : List RegDesc := regsPORT0

def regsBAND0 : List RegDesc :=
  [ ⟨0x100, 1, 4, [⟨31, 31, .rwS, 1⟩, ⟨23, 16, .rwS, 3⟩, ⟨15, 0, .rwS, 60⟩]⟩,
    ⟨0xC00, 1, 4, [⟨31, 31, .w1c, 0⟩]⟩,
    ⟨0xC04, 1, 4, [⟨16, 0, .roH, 0⟩]⟩ ]

/-- The registers that the BAND pages implement. -/
def regsBAND : List RegDesc := regsBAND0

def regsCHK0 : List RegDesc :=
  [ ⟨0x100, 1, 4, [⟨31, 31, .wo, 0⟩, ⟨30, 30, .rwI, 0⟩, ⟨27, 26, .rwI, 0⟩, ⟨25, 25, .rwI, 0⟩, ⟨14, 12, .rwI, 0⟩, ⟨11, 8, .rwI, 8⟩]⟩,
    ⟨0x104, 1, 4, [⟨31, 0, .rwI, 0⟩]⟩,
    ⟨0x108, 1, 4, [⟨15, 0, .rwI, 0⟩]⟩,
    ⟨0x10C, 1, 4, [⟨31, 0, .rwI, 0⟩]⟩,
    ⟨0x110, 1, 4, [⟨31, 0, .rwI, 0⟩]⟩,
    ⟨0x114, 1, 4, [⟨31, 0, .rwI, 0⟩]⟩,
    ⟨0x118, 1, 4, [⟨31, 0, .rwI, 0⟩]⟩,
    ⟨0x11C, 1, 4, [⟨31, 0, .rwI, 0⟩]⟩,
    ⟨0xC00, 1, 4, [⟨31, 28, .roH, 0⟩, ⟨27, 24, .roH, 0⟩, ⟨8, 8, .w1c, 0⟩, ⟨1, 1, .roH, 0⟩]⟩ ]

/-- The registers that the CHK pages implement. -/
def regsCHK : List RegDesc := regsCHK0

def regsQOS0 : List RegDesc :=
  [ ⟨0x100, 1, 4, [⟨3, 0, .rwS, 4⟩, ⟨7, 4, .rwS, 1⟩, ⟨11, 8, .rwS, 1⟩, ⟨15, 12, .rwS, 4⟩, ⟨19, 16, .rwS, 4⟩, ⟨23, 20, .rwS, 4⟩, ⟨27, 24, .rwS, 4⟩, ⟨31, 28, .rwS, 4⟩]⟩,
    ⟨0x104, 1, 4, [⟨3, 0, .rwS, 4⟩, ⟨7, 4, .rwS, 4⟩, ⟨11, 8, .rwS, 4⟩, ⟨15, 12, .rwS, 4⟩, ⟨19, 16, .rwS, 4⟩, ⟨23, 20, .rwS, 4⟩, ⟨27, 24, .rwS, 4⟩, ⟨31, 28, .rwS, 8⟩]⟩,
    ⟨0x110, 4, 4, [⟨4, 0, .rwS, 24⟩, ⟨12, 8, .rwS, 24⟩, ⟨20, 16, .rwS, 24⟩, ⟨28, 24, .rwS, 24⟩]⟩,
    ⟨0x120, 1, 4, [⟨6, 0, .rwS, 50⟩, ⟨14, 8, .rwS, 50⟩, ⟨22, 16, .rwS, 50⟩, ⟨30, 24, .rwS, 50⟩]⟩,
    ⟨0x124, 1, 4, [⟨6, 0, .rwS, 50⟩, ⟨14, 8, .rwS, 50⟩, ⟨22, 16, .rwS, 50⟩, ⟨30, 24, .rwS, 50⟩]⟩,
    ⟨0x130, 8, 4, [⟨11, 8, .rwS, 2⟩, ⟨7, 4, .rwS, 2⟩, ⟨3, 0, .rwS, 2⟩]⟩,
    ⟨0x150, 1, 4, [⟨18, 16, .rwS, 0⟩, ⟨3, 0, .rwS, 12⟩]⟩,
    ⟨0x154, 1, 4, [⟨7, 4, .rwS, 9⟩, ⟨2, 0, .rwS, 0⟩]⟩,
    ⟨0x158, 1, 4, [⟨5, 0, .rwS, 32⟩]⟩,
    ⟨0xC00, 1, 4, [⟨5, 0, .roH, 16⟩, ⟨13, 8, .roH, 0⟩, ⟨21, 16, .roH, 0⟩, ⟨29, 24, .roH, 0⟩]⟩,
    ⟨0xC04, 1, 4, [⟨5, 0, .roH, 0⟩, ⟨13, 8, .roH, 0⟩, ⟨21, 16, .roH, 0⟩, ⟨29, 24, .roH, 0⟩]⟩,
    ⟨0xC10, 1, 4, [⟨24, 24, .roH, 0⟩, ⟨23, 0, .roH, 0⟩]⟩ ]

def regsQOS1 : List RegDesc :=
  [ ⟨0xC14, 1, 4, [⟨31, 0, .perf, 0⟩]⟩ ]

/-- The registers that the QOS pages implement. -/
def regsQOS : List RegDesc := regsQOS0 ++ regsQOS1

def regsPWR0 : List RegDesc :=
  [ ⟨0x100, 1, 4, [⟨1, 0, .rwS, 0⟩]⟩,
    ⟨0x104, 1, 4, [⟨15, 0, .rwS, 0⟩]⟩,
    ⟨0x108, 1, 4, [⟨7, 0, .rwS, 16⟩]⟩,
    ⟨0x10C, 1, 4, [⟨4, 0, .wo, 0⟩]⟩,
    ⟨0x200, 32, 4, [⟨31, 31, .rwS, 1⟩, ⟨19, 8, .rwS, 280⟩, ⟨3, 0, .rwS, 15⟩]⟩,
    ⟨0xC00, 1, 4, [⟨20, 16, .roH, 0⟩, ⟨15, 12, .roH, 0⟩, ⟨9, 5, .roH, 0⟩, ⟨4, 0, .roH, 0⟩]⟩,
    ⟨0xC04, 1, 4, [⟨15, 0, .roH, 0⟩]⟩,
    ⟨0xC08, 1, 4, [⟨31, 16, .roH, 0⟩, ⟨15, 0, .roH, 0⟩]⟩,
    ⟨0xD00, 32, 4, [⟨31, 29, .roH, 0⟩, ⟨28, 28, .roH, 0⟩, ⟨27, 27, .roH, 0⟩, ⟨26, 26, .roH, 0⟩, ⟨25, 25, .roH, 0⟩, ⟨24, 20, .roH, 0⟩, ⟨19, 15, .roH, 0⟩, ⟨14, 11, .roH, 0⟩, ⟨10, 8, .roH, 0⟩, ⟨7, 0, .roH, 0⟩]⟩,
    ⟨0xD80, 32, 4, [⟨7, 0, .roH, 0⟩]⟩,
    ⟨0xE00, 8, 4, [⟨31, 31, .roH, 0⟩, ⟨19, 16, .roH, 12⟩, ⟨12, 8, .roH, 0⟩, ⟨7, 0, .roH, 150⟩]⟩,
    ⟨0xE20, 1, 4, [⟨31, 0, .sat, 0⟩]⟩ ]

def regsPWR1 : List RegDesc :=
  [ ⟨0xE24, 1, 4, [⟨31, 0, .sat, 0⟩]⟩,
    ⟨0xE28, 1, 4, [⟨31, 0, .perf, 0⟩]⟩,
    ⟨0xE2C, 1, 4, [⟨31, 0, .perf, 0⟩]⟩,
    ⟨0x110, 1, 4, [⟨0, 0, .wo, 0⟩]⟩ ]

/-- The registers that the PWR pages implement. -/
def regsPWR : List RegDesc := regsPWR0 ++ regsPWR1

def regsTHERM0 : List RegDesc :=
  [ ⟨0x100, 1, 4, [⟨23, 16, .rwS, 20⟩, ⟨12, 8, .rwS, 12⟩, ⟨7, 4, .rwS, 1⟩]⟩,
    ⟨0x104, 1, 4, [⟨31, 0, .rwS, 4294967295⟩]⟩,
    ⟨0x108, 1, 4, [⟨13, 0, .rwS, 255⟩]⟩,
    ⟨0x10C, 1, 4, [⟨31, 0, .wo, 0⟩]⟩,
    ⟨0x110, 1, 4, [⟨13, 0, .wo, 0⟩]⟩,
    ⟨0x114, 1, 4, [⟨31, 0, .rwS, 4294967295⟩]⟩,
    ⟨0x118, 1, 4, [⟨13, 0, .rwS, 255⟩]⟩,
    ⟨0x11C, 1, 4, [⟨0, 0, .wo, 0⟩]⟩,
    ⟨0x120, 1, 4, [⟨31, 16, .rwS, 0⟩, ⟨3, 0, .rwS, 6⟩]⟩,
    ⟨0x130, 6, 4, [⟨15, 0, .rwS, 32767⟩]⟩,
    ⟨0x150, 4, 4, [⟨31, 16, .rwS, 3950⟩, ⟨15, 0, .rwS, 1000⟩]⟩,
    ⟨0xC00, 46, 4, [⟨31, 31, .roH, 0⟩, ⟨30, 30, .roH, 0⟩, ⟨29, 29, .roH, 0⟩, ⟨23, 16, .roH, 255⟩, ⟨15, 0, .roH, 0⟩]⟩ ]

def regsTHERM1 : List RegDesc :=
  [ ⟨0xD00, 1, 4, [⟨31, 31, .roH, 0⟩, ⟨30, 30, .roH, 0⟩, ⟨29, 29, .roH, 0⟩, ⟨28, 28, .roH, 0⟩, ⟨27, 27, .roH, 0⟩, ⟨26, 26, .w1c, 0⟩, ⟨23, 16, .roH, 0⟩, ⟨14, 12, .roH, 0⟩, ⟨10, 8, .roH, 0⟩, ⟨7, 4, .roH, 0⟩]⟩,
    ⟨0xD40, 32, 4, [⟨28, 24, .roH, 0⟩, ⟨23, 23, .roH, 0⟩, ⟨22, 22, .roH, 0⟩, ⟨21, 21, .roH, 0⟩, ⟨15, 0, .roH, 0⟩]⟩,
    ⟨0xD20, 1, 4, [⟨31, 0, .perf, 0⟩]⟩,
    ⟨0xD24, 1, 4, [⟨31, 0, .perf, 0⟩]⟩ ]

/-- The registers that the THERM pages implement. -/
def regsTHERM : List RegDesc := regsTHERM0 ++ regsTHERM1

def regsCOMMON0 : List RegDesc :=
  [ ⟨0x000, 1, 4, [⟨31, 16, .ro, 0⟩, ⟨15, 0, .ro, 0⟩]⟩,
    ⟨0x004, 1, 4, [⟨31, 31, .ro, 0⟩, ⟨30, 30, .ro, 0⟩, ⟨7, 0, .ro, 1⟩]⟩,
    ⟨0x008, 1, 4, [⟨1, 1, .wo, 0⟩]⟩,
    ⟨0x00C, 1, 4, [⟨31, 31, .roH, 0⟩, ⟨30, 30, .roH, 0⟩]⟩,
    ⟨0x010, 1, 4, [⟨3, 0, .rwI, 0⟩]⟩,
    ⟨0x014, 1, 4, [⟨2, 2, .roH, 0⟩, ⟨1, 1, .roH, 0⟩, ⟨0, 0, .roH, 0⟩]⟩,
    ⟨0x018, 1, 4, [⟨31, 31, .w1c, 0⟩, ⟨30, 30, .roH, 0⟩, ⟨11, 2, .roH, 0⟩]⟩,
    ⟨0x024, 1, 4, [⟨31, 0, .rwI, 0⟩]⟩,
    ⟨0x040, 4, 4, [⟨7, 0, .rwI, 0⟩, ⟨15, 8, .rwI, 0⟩, ⟨23, 16, .rwI, 0⟩, ⟨31, 24, .rwI, 0⟩]⟩,
    ⟨0x050, 1, 4, [⟨15, 0, .w1c, 0⟩]⟩,
    ⟨0x080, 1, 4, [⟨31, 0, .rwI, 0⟩]⟩,
    ⟨0x084, 1, 4, [⟨8, 8, .wo, 0⟩, ⟨2, 2, .roH, 0⟩, ⟨1, 1, .roH, 0⟩, ⟨0, 0, .roH, 0⟩]⟩ ]

def regsCOMMON1 : List RegDesc :=
  [ ⟨0x088, 1, 4, [⟨0, 0, .roH, 0⟩]⟩,
    ⟨0x090, 4, 4, [⟨31, 0, .roH, 0⟩]⟩ ]

/-- The registers that the COMMON pages implement. -/
def regsCOMMON : List RegDesc := regsCOMMON0 ++ regsCOMMON1

def regsIRC0 : List RegDesc :=
  [ ⟨0x500, 4, 4, [⟨31, 0, .rwI, 0⟩]⟩,
    ⟨0x510, 4, 4, [⟨31, 0, .rwI, 4294967295⟩]⟩,
    ⟨0x520, 1, 4, [⟨6, 0, .wo, 0⟩]⟩,
    ⟨0x524, 1, 4, [⟨6, 0, .wo, 0⟩]⟩,
    ⟨0x528, 1, 4, [⟨0, 0, .wo, 0⟩]⟩,
    ⟨0x52C, 1, 4, [⟨5, 0, .rwI, 63⟩]⟩,
    ⟨0x600, 16, 4, [⟨3, 0, .rwI, 0⟩, ⟨7, 4, .rwI, 0⟩, ⟨11, 8, .rwI, 0⟩, ⟨15, 12, .rwI, 0⟩, ⟨19, 16, .rwI, 0⟩, ⟨23, 20, .rwI, 0⟩, ⟨27, 24, .rwI, 0⟩, ⟨31, 28, .rwI, 0⟩]⟩,
    ⟨0x700, 32, 4, [⟨5, 0, .rwI, 0⟩, ⟨13, 8, .rwI, 0⟩, ⟨21, 16, .rwI, 0⟩, ⟨29, 24, .rwI, 0⟩]⟩,
    ⟨0x800, 32, 4, [⟨7, 0, .rwI, 0⟩, ⟨15, 8, .rwI, 0⟩, ⟨23, 16, .rwI, 0⟩, ⟨31, 24, .rwI, 0⟩]⟩,
    ⟨0x880, 4, 4, [⟨31, 0, .w1c, 0⟩]⟩,
    ⟨0xC10, 1, 4, [⟨31, 31, .roH, 0⟩, ⟨20, 16, .roH, 0⟩, ⟨11, 8, .roH, 0⟩, ⟨6, 0, .roH, 127⟩]⟩,
    ⟨0xC14, 1, 4, [⟨14, 8, .roH, 127⟩, ⟨6, 0, .roH, 127⟩]⟩ ]

/-- The registers that the IRC pages implement. -/
def regsIRC : List RegDesc := regsIRC0

def regsSEC0 : List RegDesc :=
  [ ⟨0x100, 6, 4, [⟨31, 0, .rwS, 0⟩]⟩,
    ⟨0x120, 1, 4, [⟨31, 31, .roH, 0⟩, ⟨7, 0, .rwS, 0⟩]⟩,
    ⟨0x124, 1, 4, [⟨0, 0, .rwS, 0⟩]⟩,
    ⟨0x200, 8, 4, [⟨31, 0, .rwS, 0⟩]⟩,
    ⟨0x220, 8, 4, [⟨31, 0, .rwS, 0⟩]⟩,
    ⟨0x240, 8, 4, [⟨31, 0, .rwS, 0⟩]⟩,
    ⟨0x260, 8, 4, [⟨31, 0, .rwS, 0⟩]⟩,
    ⟨0x280, 1, 4, [⟨3, 0, .rwS, 0⟩]⟩,
    ⟨0x400, 64, 16, [⟨31, 0, .rwS, 0⟩]⟩,
    ⟨0x404, 64, 16, [⟨31, 0, .rwS, 0⟩]⟩,
    ⟨0x408, 64, 16, [⟨31, 31, .rwS, 0⟩, ⟨30, 30, .rwS, 0⟩, ⟨29, 29, .rwS, 0⟩, ⟨28, 28, .rwS, 0⟩, ⟨27, 27, .rwS, 0⟩, ⟨26, 24, .rwS, 0⟩]⟩,
    ⟨0xC00, 1, 4, [⟨13, 8, .roH, 0⟩, ⟨1, 0, .roH, 0⟩]⟩ ]

def regsSEC1 : List RegDesc :=
  [ ⟨0xC04, 1, 4, [⟨31, 16, .roH, 0⟩, ⟨5, 0, .roH, 0⟩]⟩,
    ⟨0xC08, 1, 4, [⟨0, 0, .wo, 0⟩]⟩ ]

/-- The registers that the SEC pages implement. -/
def regsSEC : List RegDesc := regsSEC0 ++ regsSEC1

def regsBOOT0 : List RegDesc :=
  [ ⟨0x100, 1, 4, [⟨10, 0, .rwI, 0⟩]⟩,
    ⟨0x104, 1, 4, [⟨0, 0, .wo, 0⟩]⟩,
    ⟨0x400, 512, 4, [⟨31, 0, .rwI, 0⟩]⟩,
    ⟨0xC00, 1, 4, [⟨31, 28, .roH, 0⟩, ⟨27, 24, .roH, 0⟩, ⟨15, 0, .roH, 0⟩]⟩,
    ⟨0xC04, 1, 4, [⟨31, 0, .ro, 0⟩]⟩,
    ⟨0xC08, 1, 4, [⟨31, 24, .roH, 0⟩, ⟨15, 0, .roH, 0⟩]⟩,
    ⟨0xC0C, 1, 4, [⟨15, 12, .ro, 0⟩, ⟨11, 8, .ro, 0⟩, ⟨5, 0, .ro, 0⟩]⟩ ]

/-- The registers that the BOOT pages implement. -/
def regsBOOT : List RegDesc := regsBOOT0

def regsMGMT0 : List RegDesc :=
  [ ⟨0x400, 64, 4, [⟨31, 0, .rwI, 0⟩]⟩,
    ⟨0x500, 1, 4, [⟨31, 31, .wo, 0⟩, ⟨7, 0, .rwI, 0⟩]⟩,
    ⟨0xC00, 1, 4, [⟨31, 30, .roH, 0⟩, ⟨29, 29, .roH, 0⟩, ⟨27, 24, .roH, 0⟩, ⟨11, 0, .roH, 0⟩]⟩ ]

/-- The registers that the MGMT pages implement. -/
def regsMGMT : List RegDesc := regsMGMT0

def regsCAL0 : List RegDesc :=
  [ ⟨0x100, 11, 4, [⟨7, 0, .rwS, 0⟩, ⟨15, 8, .rwS, 0⟩, ⟨23, 16, .rwS, 0⟩, ⟨31, 24, .rwS, 0⟩]⟩, ⟨0x12C, 1, 4, [⟨7, 0, .rwS, 0⟩, ⟨15, 8, .rwS, 0⟩]⟩,
    ⟨0x140, 8, 4, [⟨7, 0, .rwS, 0⟩, ⟨15, 8, .rwS, 0⟩, ⟨23, 16, .rwS, 0⟩, ⟨31, 24, .rwS, 0⟩]⟩,
    ⟨0x160, 2, 4, [⟨7, 0, .rwS, 0⟩, ⟨15, 8, .rwS, 0⟩, ⟨23, 16, .rwS, 0⟩, ⟨31, 24, .rwS, 0⟩]⟩,
    ⟨0x180, 32, 4, [⟨31, 16, .rwS, 0⟩, ⟨15, 0, .rwS, 0⟩]⟩,
    ⟨0xC00, 1, 4, [⟨0, 0, .w1c, 0⟩]⟩ ]

/-- The registers that the CAL pages implement. -/
def regsCAL : List RegDesc := regsCAL0

def regsTRACE0 : List RegDesc :=
  [ ⟨0x100, 1, 4, [⟨31, 31, .rwS, 0⟩, ⟨30, 30, .rwS, 0⟩, ⟨24, 20, .rwS, 0⟩, ⟨19, 16, .rwS, 15⟩, ⟨4, 0, .rwS, 31⟩]⟩,
    ⟨0x104, 1, 4, [⟨27, 0, .rwS, 0⟩]⟩,
    ⟨0x108, 1, 4, [⟨26, 0, .rwI, 0⟩]⟩,
    ⟨0x10C, 1, 4, [⟨31, 31, .rwS, 0⟩, ⟨3, 0, .rwS, 4⟩]⟩,
    ⟨0x110, 1, 4, [⟨31, 0, .rwS, 0⟩]⟩,
    ⟨0x114, 1, 4, [⟨31, 31, .rwS, 0⟩, ⟨3, 0, .rwS, 8⟩]⟩,
    ⟨0x118, 1, 4, [⟨23, 0, .rwS, 0⟩]⟩,
    ⟨0x11C, 1, 4, [⟨31, 0, .wo, 0⟩]⟩,
    ⟨0x120, 1, 4, [⟨1, 1, .wo, 0⟩, ⟨0, 0, .rwI, 0⟩]⟩,
    ⟨0x124, 1, 4, [⟨31, 31, .wo, 0⟩, ⟨30, 30, .wo, 0⟩, ⟨18, 16, .wo, 0⟩, ⟨11, 0, .wo, 0⟩]⟩,
    ⟨0xC00, 1, 4, [⟨31, 31, .roH, 0⟩, ⟨30, 30, .w1c, 0⟩, ⟨29, 29, .roH, 0⟩, ⟨6, 0, .roH, 0⟩]⟩,
    ⟨0xC04, 1, 4, [⟨26, 0, .roH, 0⟩]⟩ ]

def regsTRACE1 : List RegDesc :=
  [ ⟨0xC08, 1, 4, [⟨31, 0, .sat, 0⟩]⟩,
    ⟨0xC0C, 1, 4, [⟨31, 0, .perf, 0⟩]⟩ ]

/-- The registers that the TRACE pages implement. -/
def regsTRACE : List RegDesc := regsTRACE0 ++ regsTRACE1

def regsGAUGE0 : List RegDesc :=
  [ ⟨0x100, 1, 4, [⟨31, 31, .rwS, 1⟩, ⟨30, 30, .rwS, 0⟩, ⟨15, 0, .rwS, 100⟩]⟩,
    ⟨0x104, 1, 4, [⟨8, 0, .rwS, 511⟩]⟩,
    ⟨0xC00, 1, 4, [⟨31, 31, .roH, 0⟩, ⟨15, 0, .roH, 0⟩]⟩ ]

/-- The registers that the GAUGE pages implement. -/
def regsGAUGE : List RegDesc := regsGAUGE0

def regsIRCH0 : List RegDesc :=
  [ ⟨0x100, 256, 4, [⟨31, 0, .rwI, 0⟩]⟩,
    ⟨0xC00, 2, 4, [⟨31, 0, .roH, 0⟩]⟩ ]

/-- The registers that the IRC_H pages implement. -/
def regsIRCH : List RegDesc := regsIRCH0

/-- The bits of IRQ_PENDING that a page kind defines: its own sources and, where it holds performance counters, PERF_OVF (R568). -/
def irqBits : PageKind → Nat
  | .chip => 0x1F7
  | .mgmt => 0x1
  | .boot => 0x3
  | .ircH => 0x1
  | .ircM => 0x1
  | .pwr => 0x8000003F
  | .therm => 0x800001FF
  | .gauge => 0x1
  | .cal => 0x0
  | .sec => 0x3
  | .trace => 0x80000003
  | .qos => 0x80000000
  | .chk => 0xF
  | .fab => 0x8000001F
  | .port => 0x80000003
  | .hbm => 0x8000007F
  | .band => 0x1
  | .slice => 0x800007FF
  | .region => 0x80000001
  | .block => 0x80001F00
  | .cell => 0x8000000F

/-- The registers of a page beside the common ones. -/
def kindRegs : PageKind → List RegDesc
  | .chip => regsCHIP
  | .mgmt => regsMGMT
  | .boot => regsBOOT
  | .ircH => regsIRC ++ regsIRCH
  | .ircM => regsIRC.filter (fun r => r.off != 0x52C && r.off != 0x700)
  | .pwr => regsPWR
  | .therm => regsTHERM
  | .gauge => regsGAUGE
  | .cal => regsCAL
  | .sec => regsSEC
  | .trace => regsTRACE
  | .qos => regsQOS
  | .chk => regsCHK
  | .fab => regsFAB
  | .port => regsPORT
  | .hbm => regsHBM
  | .band => regsBAND
  | .slice => regsSLICE
  | .region => regsREGION
  | .block => regsBLOCK
  | .cell => regsCELL

/-- The row of R585 that gives a page kind: KIND code, first page number, instances, SHADOWED, reset strobe group, SECURE. -/
def kindRow : PageKind → Nat × Nat × Nat × Bool × Nat × Bool
  | .chip => (0x1, 0x0, 1, true, 0, false)
  | .mgmt => (0x2, 0x1, 1, false, 0, false)
  | .boot => (0x3, 0x2, 1, false, 0, false)
  | .ircH => (0x4, 0x3, 1, false, 0, false)
  | .ircM => (0x5, 0x4, 1, false, 0, false)
  | .pwr => (0x6, 0x5, 1, true, 10, false)
  | .therm => (0x7, 0x6, 1, true, 10, false)
  | .gauge => (0x8, 0x7, 1, true, 11, false)
  | .cal => (0x9, 0x8, 1, true, 10, false)
  | .sec => (0xA, 0x9, 1, true, 0, true)
  | .trace => (0xB, 0xA, 1, true, 11, false)
  | .qos => (0xC, 0xB, 1, true, 12, false)
  | .chk => (0x10, 0x10, 16, false, 0, false)
  | .fab => (0x11, 0x20, 1, true, 9, false)
  | .port => (0x12, 0x30, 24, true, 9, false)
  | .hbm => (0x13, 0x48, 8, true, 0, false)
  | .band => (0x14, 0x50, 8, true, 0, false)
  | .slice => (0x15, 0x80, 128, true, 0, false)
  | .region => (0x16, 0x100, 32, true, 1, false)
  | .block => (0x17, 0x120, 192, true, 1, false)
  | .cell => (0x18, 0x400, 1440, true, 1, false)

end Sys2Proof.Machine
end

