-- ==== Sys2Proof/Machine/Regs.lean ====
section
/-! DEFINITION. Reading and writing the register pages: the directory of R585, reset values, the copies of R488, the
counters of R565 and the raising of page interrupts (R501, R502, R513). -/
namespace Sys2Proof.Machine

/-! ## The directory -/

/-- Page kinds in the order of R585. -/
def allKinds : List PageKind :=
  [.chip, .mgmt, .boot, .ircH, .ircM, .pwr, .therm, .gauge, .cal, .sec, .trace, .qos,
   .chk, .fab, .port, .hbm, .band, .slice, .region, .block, .cell]

/-- Enabled regions (R1, R3). -/
def partRegions : Part → Nat
  | .ek810 => 32
  | .ek806 => 30

/-- Instances of a page kind on a part (R585, R587). -/
def instCount (p : Part) (k : PageKind) : Nat :=
  match k with
  | .region => partRegions p
  | .block => 6 * partRegions p
  | .cell => 45 * partRegions p
  | k => (kindRow k).2.2.1

/-- The number of the first page of a kind. -/
def kindBase (k : PageKind) : Nat := (kindRow k).2.1

/-- Whether the pages of a kind hold RW-S registers (R585). -/
def kindShadowed (k : PageKind) : Bool := (kindRow k).2.2.2.1

/-- Whether the page is secure-only (R585, R591). -/
def kindSecure (k : PageKind) : Bool := (kindRow k).2.2.2.2.2

/-- The page number of instance `i`. -/
def pageNo (k : PageKind) (i : Nat) : Nat := kindBase k + i

/-- The kind and instance of a page number, if the part has that page. -/
def pageOf (p : Part) (n : Nat) : Option (PageKind × Nat) :=
  match allKinds.find? (fun k => kindBase k ≤ n && n < kindBase k + instCount p k) with
  | some k => some (k, n - kindBase k)
  | none => none

/-! ## Register descriptions -/

/-- The registers of a page: the common ones of R485 and those of its kind. -/
def pageRegs (k : PageKind) : List RegDesc := regsCOMMON ++ kindRegs k

/-- Whether a description covers a page offset. -/
def regCovers (r : RegDesc) (off : Nat) : Bool :=
  r.off ≤ off && (off - r.off) % r.stride == 0 && decide ((off - r.off) / r.stride < r.cnt)

/-- The fields at a page offset; none where the chapter implements no register. Bit [2] of CHIP.IRQ_MASK reads 0 and ignores
writes (R501). -/
def fieldsAt (k : PageKind) (off : Nat) : List FieldDesc :=
  if off = o_COMMON_IRQ_PENDING then [⟨31, 0, .w1c, 0⟩]
  else if k = .chip ∧ off = o_COMMON_IRQ_MASK then [⟨31, 3, .rwI, 0⟩, ⟨1, 0, .rwI, 0⟩]
  else ((pageRegs k).filter (fun r => regCovers r off)).flatMap (fun r => r.fields)

/-- Whether a register is implemented at an offset. -/
def implemented (k : PageKind) (off : Nat) : Bool := !(fieldsAt k off).isEmpty

/-- The mask of bits of a register whose access is `a`. -/
def accMask (fs : List FieldDesc) (a : Acc) : Nat :=
  fs.foldl (fun m f => if f.acc = a then m ||| ((2 ^ (f.hi + 1 - f.lo) - 1) <<< f.lo) else m) 0

/-- Whether the register at an offset holds RW-S fields (R488). -/
def isShadowed (k : PageKind) (off : Nat) : Bool := (fieldsAt k off).any (fun f => f.acc == .rwS)

/-- The class of the counter at an offset, if there is one (R565, R594). -/
def counterAt (k : PageKind) (off : Nat) : Option Acc :=
  match fieldsAt k off with
  | f :: _ => if f.acc == .perf || f.acc == .ce || f.acc == .sat then some f.acc else none
  | [] => none

/-- The value of a register after reset, from its field table. -/
def tableReset (k : PageKind) (off : Nat) : Nat :=
  (fieldsAt k off).foldl (fun m f => m ||| (f.rst <<< f.lo)) 0

/-- The reset level of an interrupt source: 15 where R501 fixes it, otherwise 4. -/
def levelReset (src : Nat) : Nat := if src = 3 || src = 4 || src = 13 then 15 else 4

/-- The reset value of a register of a page (the field tables; per-page values of R585; PART of R4; PART_MAP and SGRP of
R251; LEVEL and VEC of R515; the vector-control mask bits of the MSI-X table as PCI Express resets them). -/
def regReset (p : Part) (k : PageKind) (i off : Nat) : W32 :=
  BitVec.ofNat 32 <|
    if off = o_COMMON_PAGE_ID then (kindRow k).1 * 65536 + (if (kindRow k).2.2.1 = 1 then 0 else i)
    else if off = o_COMMON_PAGE_CAPS then b2n (kindShadowed k) <<< 31 + b2n (kindSecure k) <<< 30 + 1
    else if off = o_COMMON_PAGE_STROBE_GROUP then (kindRow k).2.2.2.2.1
    else match k with
    | .boot => if off = o_BOOT_FUSES then 0x3000 else tableReset k off
    | .chip =>
      if off = o_CHIP_IDENT then (match p with | .ek810 => 0x08101020 | .ek806 => 0x0806101E)
      else if off = o_CHIP_PART_MAP 0 then 2 ^ partRegions p - 1
      else if 0x600 ≤ off && off < 0x640 && off % 8 = 4 then (1 + (off - 0x604) / 8) <<< 4
      else tableReset k off
    | .ircH | .ircM =>
      if 0x600 ≤ off && off < 0x640 then packN 4 (fun j => levelReset (8 * ((off - 0x600) / 4) + j)) 8
      else if 0x700 ≤ off && off < 0x780 && k = .ircH then packN 8 (fun j => (4 * ((off - 0x700) / 4) + j) % 64) 4
      else if 0x100 ≤ off && off < 0x500 && k = .ircH then (if off % 16 = 12 then 1 else 0)
      else tableReset k off
    | k => tableReset k off

/-! ## Reading and writing copies -/

/-- The record of a page. -/
def page (s : State) (k : PageKind) (i : Nat) : Page := mget {} s.pages (pageNo k i)

/-- Replace the record of a page. -/
def setPage (s : State) (k : PageKind) (i : Nat) (v : Page) : State :=
  { s with pages := mset {} s.pages (pageNo k i) v }

/-- The active copy of an RW-S register, and the only copy of any other (R488). -/
def reg (s : State) (k : PageKind) (i off : Nat) : W32 := mget (regReset s.part k i off) (page s k i).act off
/-- The shadow copy of an RW-S register (R488). -/
def regShd (s : State) (k : PageKind) (i off : Nat) : W32 := mget (regReset s.part k i off) (page s k i).shd off
/-- The staged copy of an RW-S register (R488). -/
def regStg (s : State) (k : PageKind) (i off : Nat) : W32 := mget (regReset s.part k i off) (page s k i).stg off

/-- Write the active copy. -/
def setReg (s : State) (k : PageKind) (i off : Nat) (v : W32) : State :=
  let g := page s k i
  setPage s k i { g with act := mset (regReset s.part k i off) g.act off v }
/-- Write the shadow copy. -/
def setShd (s : State) (k : PageKind) (i off : Nat) (v : W32) : State :=
  let g := page s k i
  setPage s k i { g with shd := mset (regReset s.part k i off) g.shd off v }
/-- Write the staged copy. -/
def setStg (s : State) (k : PageKind) (i off : Nat) (v : W32) : State :=
  let g := page s k i
  setPage s k i { g with stg := mset (regReset s.part k i off) g.stg off v }

/-- A field of the active copy. -/
def fld (s : State) (k : PageKind) (i : Nat) (f : Fld) : Nat := fldW (reg s k i f.off) f.hi f.lo
/-- A field of the staged copy. -/
def fldStg (s : State) (k : PageKind) (i : Nat) (f : Fld) : Nat := fldW (regStg s k i f.off) f.hi f.lo
/-- A field of the shadow copy. -/
def fldShd (s : State) (k : PageKind) (i : Nat) (f : Fld) : Nat := fldW (regShd s k i f.off) f.hi f.lo
/-- Write a field of the active copy. -/
def setF (s : State) (k : PageKind) (i : Nat) (f : Fld) (v : Nat) : State :=
  setReg s k i f.off (putW (reg s k i f.off) f.hi f.lo v)
/-- Write a field in all three copies, as R38 and R439 do for values the device sets. -/
def setF3 (s : State) (k : PageKind) (i : Nat) (f : Fld) (v : Nat) : State :=
  let s1 := setShd s k i f.off (putW (regShd s k i f.off) f.hi f.lo v)
  let s2 := setStg s1 k i f.off (putW (regStg s1 k i f.off) f.hi f.lo v)
  setF s2 k i f v

/-- A one-bit field. -/
def flag (s : State) (k : PageKind) (i : Nat) (f : Fld) : Bool := fld s k i f == 1

/-! ## Interrupts of a page -/

/-- The controller source of a page's interrupts, for IRC_H (`h` true) or IRC_M (R501). -/
def sourceOf (h : Bool) (k : PageKind) (i bit : Nat) : Option Nat :=
  match k with
  | .chip => some (if bit = 2 then 13 else 0)
  | .mgmt => some 1
  | .boot => some 2
  | .ircH => if h then none else some 3
  | .ircM => if h then some 4 else none
  | .pwr => some 5
  | .therm => some 6
  | .gauge => some 7
  | .cal => some 8
  | .sec => some 9
  | .trace => some 10
  | .qos => some 11
  | .fab => some 12
  | .chk => some (16 + i)
  | .port => some (32 + i)
  | .hbm => some (56 + i)
  | .band => some (64 + i)
  | .slice => some (64 + i / 16)
  | .region => some (80 + i)
  | .block => some (80 + i / 6)
  | .cell => some (80 + i / 45)

/-- Add an event to byte `n` of a run of counter registers at `base`, with its SAT bit in the registers at `sat`
(`per` bits of SAT to a register): a counter at 255 holds and sets SAT (R513). -/
def bumpByte (s : State) (k : PageKind) (i base sat per n : Nat) : State :=
  let f : Fld := ⟨base + 4 * (n / 4), 8 * (n % 4) + 7, 8 * (n % 4)⟩
  let v := fld s k i f
  if v = 255 then setF s k i ⟨sat + 4 * (n / per), n % per, n % per⟩ 1 else setF s k i f (v + 1)

/-- An event reaches a controller: its source counter and PEND bit (R502). -/
def ircEvent (s : State) (h : Bool) (src : Nat) : State :=
  let k : PageKind := if h then .ircH else .ircM
  let s := bumpByte s k 0 0x800 0x880 32 src
  setF s k 0 ⟨0x500 + 4 * (src / 32), src % 32, src % 32⟩ 1

/-- The page event counter of an IRQ_PENDING bit: PERF_OVF uses counter 15 (R568), every other bit its own number. -/
def evtOf (bit : Nat) : Nat := if bit = 31 then 15 else bit

/-- A page sets a bit of IRQ_PENDING (R502): its event counter counts, and unless the bit is masked in the page each
controller counts and sets PEND. Bit 2 of the CHIP page is never masked (R501). -/
def raiseIrq (s : State) (k : PageKind) (i bit : Nat) : State :=
  let s := setF s k i ⟨o_COMMON_IRQ_PENDING, bit, bit⟩ 1
  let s := bumpByte s k i (o_COMMON_EVT_CNT 0) o_COMMON_EVT_SAT 16 (evtOf bit)
  let masked := bitN (reg s k i o_COMMON_IRQ_MASK).toNat bit && !(k == .chip && bit == 2)
  if masked then s
  else
    let s := match sourceOf true k i bit with
      | some n => ircEvent s true n
      | none => s
    match sourceOf false k i bit with
      | some n => ircEvent s false n
      | none => s

/-! ## Counters -/

/-- The 64-bit snapshot of a counter: count in [47:0], SAT in [62], OVF in [63] (R566). -/
def ctr (s : State) (k : PageKind) (i off : Nat) : W64 := mget 0 (page s k i).ctr off

/-- Set the snapshot of a counter. -/
def setCtr (s : State) (k : PageKind) (i off : Nat) (v : W64) : State :=
  let g := page s k i
  setPage s k i { g with ctr := mset 0 g.ctr off v }

/-- The top of a counter that holds. -/
def ctrTop (a : Acc) : Nat := if a = .ce then 0xFFFF else 0xFFFFFFFF

/-- `n` events reach the counter at `off` (R565, R567, R568). -/
def bump (s : State) (k : PageKind) (i off n : Nat) : State :=
  let w := (ctr s k i off).toNat
  let c := bitsN w 47 0
  match counterAt k off with
  | some .perf =>
    if fld s .trace 0 f_TRACE_PERF_CTRL_FREEZE = 1 || n = 0 then s
    else if c + n < 2 ^ 48 then setCtr s k i off (BitVec.ofNat 64 (w + n))
    else raiseIrq (setCtr s k i off (BitVec.ofNat 64 (putBitsN (putBitsN w 47 0 (c + n)) 63 63 1))) k i 31
  | some a =>
    if c + n ≤ ctrTop a then setCtr s k i off (BitVec.ofNat 64 (w + n))
    else setCtr s k i off (BitVec.ofNat 64 (putBitsN (putBitsN w 47 0 (ctrTop a)) 62 62 1))
  | none => s

/-- Write 0 to a counter with its SAT and OVF (R567). -/
def clearCtr (s : State) (k : PageKind) (i off : Nat) : State := setCtr s k i off 0

/-- Add `n` to a 16-bit register field that saturates, as the log LOST fields and the bus-error counts do (R500). -/
def bumpField (s : State) (k : PageKind) (i : Nat) (f : Fld) (n : Nat) : State :=
  setF s k i f (satAdd (2 ^ (f.hi + 1 - f.lo) - 1) (fld s k i f) n)

/-! ## Phases and power, as every chapter asks for them -/

/-- CHIP.STATE.PHASE (R34). -/
def phase (s : State) : Nat := fld s .chip 0 f_CHIP_STATE_PHASE
/-- Enter a phase. -/
def setPhase (s : State) (p : Nat) : State := setF s .chip 0 f_CHIP_STATE_PHASE p
abbrev phRom : Nat := 0
abbrev phBringup : Nat := 1
abbrev phReady : Nat := 2
abbrev phRun : Nat := 3
abbrev phTest : Nat := 4
abbrev phRecovery : Nat := 5
abbrev phStopped : Nat := 6

/-- The power state of a region (R432): 0 OFF, 1 DEMAND, 2 RAMP, 3 CLOCK, 4 ON, 5 STOPPING, 6 DARK. -/
def regionState (s : State) (r : Nat) : Nat := fld s .pwr 0 (f_PWR_REG_STATUS_STATE r)
/-- Whether a region is ON. -/
def regionOn (s : State) (r : Nat) : Bool := regionState s r == 4
/-- The region of a block and of a cell (R25, R26). -/
def regionOfBlock (b : Nat) : Nat := b / 6
def regionOfCell (c : Nat) : Nat := c / 45
/-- Whether a page's unit is powered: only REGION, BLOCK and CELL pages can lose power (R435). -/
def unitOn (s : State) (k : PageKind) (i : Nat) : Bool :=
  match k with
  | .region => regionOn s i
  | .block => regionOn s (regionOfBlock i)
  | .cell => regionOn s (regionOfCell i)
  | _ => true
/-- Whether a page is frozen by an active parity mismatch (R495). -/
def frozen (s : State) (k : PageKind) (i : Nat) : Bool := flag s k i f_COMMON_PAGE_STATUS_FROZEN
/-- Whether a slice is frozen: by its own page, or by its band's (R495). -/
def sliceFrozen (s : State) (sl : Nat) : Bool := frozen s .slice sl || frozen s .band (sl / 16)
/-- Whether a port is frozen: by its own page, or by the FAB page (R495). -/
def portFrozen (s : State) (p : Nat) : Bool := frozen s .port p || frozen s .fab 0
/-- A host field of the PWR or THERM page: the factory value while the page is frozen (R495). -/
def hostSet (s : State) (k : PageKind) (f : Fld) : Nat :=
  if frozen s k 0 then fldW (regReset s.part k 0 f.off) f.hi f.lo else fld s k 0 f

/-- The part has this unit (R3, R587). -/
def present (s : State) (k : PageKind) (i : Nat) : Bool := i < instCount s.part k

/-- Put a message on a pin or link. -/
def emit (s : State) (m : OutMsg) : State := { s with out := s.out ++ [m] }

/-- The log form of the time-stamp: bits [hi:lo]. -/
def timeBits (s : State) (hi lo : Nat) : Nat := bitsN s.time.toNat hi lo

/-- Draw the index of a fresh free value. -/
def nextFresh (s : State) : State := { s with fresh := s.fresh + 1 }

end Sys2Proof.Machine
end

