-- ==== Sys2Proof/Machine/Place.lean ====
section
/-! DEFINITION. Where things are: regions, bands, home slices, blocks and cells (R21 to R26), the hash (R254, R256),
stream windows (R258 to R263), the full/empty window (R238), slice remapping (R292), backed addresses (R301). -/
namespace Sys2Proof.Machine

/-- The physical region of a logical region (R24). -/
def physRegion (s : State) (r : Nat) : Nat := mget r s.repair.phys r

/-- The band above which a physical region lies (R22). -/
def bandOf (p : Nat) : Nat := 4 * (p / 8 / 2) + p % 8 / 2

/-- The lowest home slice of a physical region (R23). -/
def homeBase (p : Nat) : Nat := 16 * bandOf p + 4 * (2 * (p / 8 % 2) + p % 8 % 2)

/-- The blocks of a region that hold 7 enabled cells, as a mask (R26). -/
def sevenMask (s : State) (r : Nat) : Nat := mget 0x38 s.repair.sevens r

/-- Enabled cells of block `b` of region `r` (R26). -/
def cellsOfBlock (s : State) (b : Nat) : Nat := if bitN (sevenMask s (b / 6)) (b % 6) then 7 else 8

/-- The first rank of a block's cells within its region (R26). -/
def firstRank (s : State) (b : Nat) : Nat :=
  ((List.range (b % 6)).map (fun k => cellsOfBlock s (6 * (b / 6) + k))).sum

/-- The logical block of a logical cell (R26). -/
def blockOfCell (s : State) (c : Nat) : Nat :=
  let r := c / 45
  match (List.range 6).find? (fun k => c % 45 < firstRank s (6 * r + k) + cellsOfBlock s (6 * r + k)) with
  | some k => 6 * r + k
  | none => 6 * r + 5

/-- Whether a cell is frozen, by its own page or by its block's: no group of it issues and its array freezes (R495). -/
def cellFrozen (s : State) (c : Nat) : Bool := frozen s .cell c || frozen s .block (blockOfCell s c)

/-- Whether a source sends through the NI of a region that is frozen: its mesh traffic waits (R495). -/
def niFrozen (s : State) (src : Src) : Bool :=
  match src with
  | .group c _ => frozen s .region (regionOfCell c)
  | .array c => frozen s .region (regionOfCell c)
  | .copy c => frozen s .region (regionOfCell c)
  | .block b => frozen s .region (regionOfBlock b)
  | _ => false

/-- The logical cells of a block, in ascending order (R26). -/
def cellsIn (s : State) (b : Nat) : List Nat :=
  (List.range (cellsOfBlock s b)).map (fun j => 45 * (b / 6) + firstRank s b + j)

/-! ## Lines and slices -/

/-- The line address of a device address. -/
def lineOf (a : Nat) : Nat := a / 256

/-- Line addresses that HBM backs lie below this one (R301). -/
def backedLines : Nat := 0xBD000000
/-- Whether HBM backs a line (R301). -/
def backed (l : Nat) : Bool := l < backedLines

/-- The owning slice of a line (R254). -/
def owner (l : Nat) : Nat :=
  (l % 128) ^^^ (l / 2 ^ 7 % 128) ^^^ (l / 2 ^ 14 % 128) ^^^ (l / 2 ^ 21 % 128) ^^^ (l / 2 ^ 28 % 128) ^^^ (l / 2 ^ 35 % 32)

/-- The set of a line that no window places (R256). -/
def hashSet (l : Nat) : Nat := (l / 2 ^ 7 % 8192) ^^^ (l / 2 ^ 20 % 8192)

/-- The channel line index (R302). -/
def chanIndex (l : Nat) : Nat := l / 128 % 2 ^ 33

/-- The profile in effect for a partition (R38, R251): 0 MIXED, 1 PREFILL, 2 GENERATE, 3 CACHE. -/
def profileOf (s : State) (p : Nat) : Nat := fld s .chip 0 (f_CHIP_PART_STATUS_PROFILE p)

/-- The fields of a stream window, from the registers SWIN_BASE, SWIN_LIMIT and SWIN_CFG. -/
structure SWin where
  base : Nat
  limit : Nat
  cfg : Nat
  deriving DecidableEq, Repr

def winEn (w : SWin) : Bool := bitN w.cfg 31
def winAll (w : SWin) : Bool := bitN w.cfg 30
def winHome (w : SWin) : Bool := bitN w.cfg 29
def winRegion (w : SWin) : Nat := bitsN w.cfg 28 24
def winClass (w : SWin) : Nat := bitsN w.cfg 22 20
def winPart (w : SWin) : Nat := bitsN w.cfg 18 16
def winQuota (w : SWin) : Nat := bitsN w.cfg 12 8

/-- The active fields of window `n` (R258). -/
def swin (s : State) (n : Nat) : SWin :=
  ⟨(reg s .chip 0 (o_CHIP_SWIN_BASE n)).toNat, (reg s .chip 0 (o_CHIP_SWIN_LIMIT n)).toNat, (reg s .chip 0 (o_CHIP_SWIN_CFG n)).toNat⟩

/-- Whether a window covers a line (R258): addresses BASE × 2^16 to LIMIT × 2^16 + 0xFFFF. -/
def winCovers (w : SWin) (l : Nat) : Bool := w.base ≤ l / 256 && l / 256 ≤ w.limit

/-- The enabled stream window that covers a backed line (R258; R265 keeps enabled windows apart). -/
def windowOf (s : State) (l : Nat) : Option Nat :=
  if backed l then (List.range 32).find? (fun n => let w := swin s n; winEn w && winCovers w l) else none

/-- The full/empty window: enabled, first line and number of lines (R238). -/
def feEnabled (s : State) : Bool := flag s .chip 0 f_CHIP_FE_CTRL_EN
/-- The lines of the window: 2^SIZE MiB is 4,096 × 2^SIZE lines. -/
def feLines (s : State) : Nat := 4096 * 2 ^ fld s .chip 0 f_CHIP_FE_CTRL_SIZE
/-- The window's first line: the device address in FE_BASE in units of 1 MiB, BASE bits below the size ignored. -/
def feBase (s : State) : Nat :=
  let n := feLines s
  (fld s .chip 0 f_CHIP_FE_BASE_BASE * 4096) / n * n
/-- The number of a line within the window, if it lies in it. -/
def feLine (s : State) (l : Nat) : Option Nat :=
  if feEnabled s && feBase s ≤ l && l < feBase s + feLines s then some (l - feBase s) else none

/-- Where a line is cached: serving slice, set, and whether in way 23 of the full/empty window. -/
structure Spot where
  slice : Nat
  set : Nat
  fe : Bool
  deriving DecidableEq, Repr

/-- The slice that serves a line placed at slice `sl`, after SLICE_REMAP (R292). -/
def remapped (s : State) (sl : Nat) : Nat :=
  let w := (reg s .chip 0 (o_CHIP_SLICE_REMAP sl)).toNat
  if bitN w 31 then bitsN w 6 0 else sl

/-- The serving slice and set of a line, given a stream window's fields if one places it (R256, R257, R259). -/
def placeIn (s : State) (w : Option SWin) (l : Nat) : Nat × Nat :=
  let o := owner l
  match w with
  | some w =>
    if winHome w then
      (homeBase (physRegion s (winRegion w)) + o % 4, o / 4 % 32 * 256 + ((l % 2 ^ 15 / 2 ^ 7) ^^^ (l / 2 ^ 15 % 256)))
    else (o, hashSet l)
  | none => (o, hashSet l)

/-- The serving slice and set of a line (R257, R238, R259, R292). -/
def placeOf (s : State) (l : Nat) : Spot :=
  match feLine s l with
  | some n => ⟨remapped s (n % 128), n / 128, true⟩
  | none =>
    let (sl, set) := placeIn s ((windowOf s l).map (swin s)) l
    ⟨remapped s sl, set, false⟩

/-! ## Fabric windows (R337, R340) -/

/-- The active fields of a fabric window. -/
def fwin (s : State) (w : Nat) : FWin := mget {} s.fab.wAct w
def fwEn (w : FWin) : Bool := bitN w.cfg.toNat 31
def fwRo (w : FWin) : Bool := bitN w.cfg.toNat 30
def fwSecure (w : FWin) : Bool := bitN w.cfg.toNat 29
def fwPart (w : FWin) : Nat := fldW w.cfg 26 24
def fwEids (w : FWin) : Nat := fldW w.cfg 19 16
def fwGran (w : FWin) : Nat := fldW w.cfg 12 8
def fwBase (w : FWin) : Nat := fldW w.base 17 0
def fwLimit (w : FWin) : Nat := fldW w.limit 17 0

/-- The enabled fabric window that holds a device address. -/
def fwinOf (s : State) (a : Nat) : Option Nat :=
  (List.range 256).find? (fun n => let w := fwin s n; fwEn w && fwBase w ≤ a / 2 ^ 30 && a / 2 ^ 30 ≤ fwLimit w)

/-- R337: the destination EID and offset of a device address in a window. -/
def fwMap (w : FWin) (a : Nat) : Nat × Nat :=
  let rel := a - fwBase w * 2 ^ 30
  let chunk := rel / 2 ^ fwGran w
  (fldW w.tgt 31 16 + chunk % 2 ^ fwEids w,
   fldW w.tgt 11 0 * 2 ^ 30 + (chunk / 2 ^ fwEids w) * 2 ^ fwGran w + rel % 2 ^ fwGran w)

/-- The home line address of a line (R375): of a fabric window's line, that of its offset. -/
def homeLine (s : State) (l : Nat) : Nat :=
  if backed l then l
  else match fwinOf s (256 * l) with
    | some n => (fwMap (fwin s n) (256 * l)).2 / 256
    | none => l

end Sys2Proof.Machine
end

