-- ==== Sys2Proof/Machine/HbmMem.lean ====
section
/-! DEFINITION. The HBM: bytes, the check table, the word code in the stacks, flip masks, error logs and buckets of the
HBM controllers (R299 to R310, R369 to R374, R384 to R386, R390). -/
namespace Sys2Proof.Machine

/-! ## Bytes -/

/-- What a byte that nothing has written reads as: training zeroes every backed line (R315). -/
def hbmDefault : Byte := 0

/-- One byte of the HBM by device address. -/
def memByte (m : List Host.Cell) (a : Nat) : Byte := mget hbmDefault m a

/-- A line's data by line address. -/
def memLine (m : List Host.Cell) (l : Nat) : Line :=
  BitVec.ofNat 2048 (packN 8 (fun i => (memByte m (256 * l + i)).toNat) 256)

/-- Write `n` bytes of a value from address `a` on. -/
def memWrite (m : List Host.Cell) (a : Nat) : Nat → Nat → List Host.Cell
  | 0, _ => m
  | n + 1, v => memWrite (mset hbmDefault m a (BitVec.ofNat 8 v)) (a + 1) n (v / 256)

/-- Write a line's data. -/
def memPutLine (m : List Host.Cell) (l : Nat) (d : Line) : List Host.Cell := memWrite m (256 * l) 256 d.toNat

/-- The canonical form of the memory. -/
def Memory.wf (m : List Host.Cell) : Bool := mapWf (fun _ => hbmDefault) m

/-! ## Positions -/

/-- The key of storage position W of a slice's channel (R371). -/
def hbmKey (sl w : Nat) : Nat := sl * 2 ^ 30 + w
/-- The position of word `i` of a backed line. -/
def dataPos (l i : Nat) : Nat := chanIndex l * 32 + i
/-- The position of the check-table word that holds a line's entry (R305). -/
def entryPos (l : Nat) : Nat := (0x17A0000 + chanIndex l / 64) * 32 + chanIndex l % 64 / 2

/-! ## Error logs, counters and buckets (R384 to R386) -/

/-- An error entered in a log: the entry, and whether it was lost. -/
def elogAdd (log : List ErrEntry) (e : ErrEntry) : List ErrEntry × Bool :=
  if log.any (fun x => x.addr == e.addr && x.word == e.word) then
    (log.map (fun x => if x.addr == e.addr && x.word == e.word then
      { x with count := satAdd 255 x.count 1, time := e.time, syn := e.syn } else x), false)
  else if log.length < 16 then (log ++ [e], false)
  else (log, true)

/-- A correctable error fills a bucket (R386): level, ABOVE, and the interrupt bit `irq` once on reaching THRESH. -/
def bucketAdd (s : State) (k : PageKind) (i off cfg irq : Nat) : State :=
  let lv := satAdd 0xFFFF (fld s k i ⟨off, 15, 0⟩) 1
  let s := setF s k i ⟨off, 15, 0⟩ lv
  if fld s k i ⟨off, 31, 31⟩ = 0 && lv ≥ fld s k i ⟨cfg, 31, 16⟩ then
    raiseIrq (setF s k i ⟨off, 31, 31⟩ 1) k i irq
  else s

/-- The time field of an error entry: time-stamp bits [41:10] (R385). -/
def errTime (s : State) : W32 := BitVec.ofNat 32 (timeBits s 41 10)

/-- The record of an HBM controller. -/
def hbmc (s : State) (b : Nat) : HbmCtl := mget {} s.hbmCtl b
def setHbmc (s : State) (b : Nat) (v : HbmCtl) : State := { s with hbmCtl := mset {} s.hbmCtl b v }

/-- Enter an error in an HBM log (R385). -/
def hbmLog (s : State) (b type src word : Nat) (syn : Byte) (ch : Nat) (lbl : Byte) (l : Nat) : State :=
  let (log, lost) := elogAdd (hbmc s b).elog ⟨type, src, word, syn, 1, ch, lbl, errTime s, 256 * l⟩
  let s := setHbmc s b { hbmc s b with elog := log }
  let s := setF s .hbm b f_HBM_ERR_LOG_STATUS_COUNT log.length
  if lost then bumpField s .hbm b f_HBM_ERR_LOG_STATUS_LOST 1 else s

/-- A correctable word of the owning slice's channel (R384, R386). -/
def hbmCE (s : State) (sl src word : Nat) (syn : Byte) (lbl : Byte) (l : Nat) : State :=
  let b := sl / 16; let c := sl % 16
  let s := bump s .hbm b (o_HBM_CE c) 1
  let s := bucketAdd s .hbm b (o_HBM_BUCKET c) o_HBM_BUCKET_CFG 4
  hbmLog s b 1 src word syn c lbl l

/-- An uncorrectable word of a channel. -/
def hbmUE (s : State) (sl src word : Nat) (syn : Byte) (lbl : Byte) (l : Nat) : State :=
  let b := sl / 16
  let s := raiseIrq (bump s .hbm b o_HBM_UE 1) .hbm b 5
  hbmLog s b 2 src word syn (sl % 16) lbl l

/-! ## Writing words with the code and the flip mask (R373, R390) -/

/-- The effect of a write on a word's stored syndrome: `pois` writes the marker. The armed flip mask of the controller
that hits this position changes the stored data and the syndrome, and disarms. Answers the data mask. -/
def hbmEncode (s : State) (sl w : Nat) (pois : Bool) : State × Nat :=
  let b := sl / 16
  let base : Byte := if pois then 0xFF else 0
  if flag s .hbm b f_HBM_FLIP_CTRL_ARM && fld s .hbm b f_HBM_FLIP_CTRL_CHANNEL == sl % 16
      && fld s .hbm b f_HBM_FLIP_POS_WORD == w then
    let dm := (reg s .hbm b o_HBM_FLIP_DATA_LO).toNat + (reg s .hbm b o_HBM_FLIP_DATA_HI).toNat * 2 ^ 32
    let syn := base ^^^ flipSyndrome w dm (fld s .hbm b f_HBM_FLIP_CTRL_FOLD) (fld s .hbm b f_HBM_FLIP_CTRL_CHECK)
    let s := setF s .hbm b f_HBM_FLIP_CTRL_ARM 0
    ({ s with hbm := { s.hbm with syn := mset 0 s.hbm.syn (hbmKey sl w) syn } }, dm)
  else ({ s with hbm := { s.hbm with syn := mset 0 s.hbm.syn (hbmKey sl w) base } }, 0)

/-- Write the words `i < n` of a line's code. -/
def hbmEncodeLine (s : State) (l : Nat) (pois : BitVec 32) : Nat → State × Nat
  | 0 => (s, 0)
  | n + 1 =>
    let (s, m) := hbmEncodeLine s l pois n
    let (s, dm) := hbmEncode s (owner l) (dataPos l n) (bitN pois.toNat n)
    (s, m + dm <<< (64 * n))

/-- Write a backed line's data words, poisoned words with the marker (R373). -/
def hbmPutData (s : State) (l : Nat) (d : Line) (pois : BitVec 32) : State :=
  let (s, m) := hbmEncodeLine s l pois 32
  { s with hbm := { s.hbm with mem := memPutLine s.hbm.mem l (d ^^^ BitVec.ofNat 2048 m) } }

/-- The entry of a line in the check table; a line that training wrote holds its PLAIN entry (R305, R315). -/
def entryOf (s : State) (l : Nat) : W32 := mget (checkValue .plain l 0) s.hbm.ctab l

/-- Store an entry without touching its code. -/
def setEntryRaw (s : State) (l : Nat) (e : W32) : State :=
  { s with hbm := { s.hbm with ctab := mset (checkValue .plain l 0) s.hbm.ctab l e } }

/-- The line whose entry shares a check-table word with line `l`: index J xor 1 of the same channel. -/
def entryMate (l : Nat) : Nat :=
  let b := (chanIndex l ^^^ 1) * 128
  b + (owner b ^^^ owner l)

/-- Write a line's entry; an armed flip mask on its check-table word changes that word, both entries (R390). -/
def putEntry (s : State) (l : Nat) (e : W32) : State :=
  let s := setEntryRaw s l e
  let (s, dm) := hbmEncode s (owner l) (entryPos l) false
  if dm = 0 then s
  else
    let lo := if chanIndex l % 2 = 0 then l else entryMate l
    let hi := if chanIndex l % 2 = 0 then entryMate l else l
    let s := setEntryRaw s lo (entryOf s lo ^^^ BitVec.ofNat 32 dm)
    setEntryRaw s hi (entryOf s hi ^^^ BitVec.ofNat 32 (dm >>> 32))

/-! ## Lines with their forms (R307 to R310) -/

/-- The partial `i` of a WIDE line. -/
def partialN (d : Line) (i : Nat) : Int := signed 128 (bitsN d.toNat (128 * i + 127) (128 * i))
/-- A line with partial `i` replaced. -/
def setPartial (d : Line) (i : Nat) (n : Int) : Line :=
  BitVec.ofNat 2048 (putBitsN d.toNat (128 * i + 127) (128 * i) (wrapN 128 n))
/-- SPEC of partial `i`. -/
def specAt (spec : W32) (i : Nat) : Nat := bitsN spec.toNat (2 * i + 1) (2 * i)
/-- SPEC with partial `i` replaced. -/
def setSpec (spec : W32) (i v : Nat) : W32 := putW spec (2 * i + 1) (2 * i) v
/-- OVF with partial `i` replaced. -/
def setOvf (o : W16) (i : Nat) (v : Bool) : W16 := BitVec.ofNat 16 (putBitsN o.toNat i i (b2n v))

/-- R309: data and poison of a WIDE line as written to HBM. A genuinely poisoned partial is written as poison whatever its SPEC
and OVF, so that it comes back poisoned (R286). -/
def wideImage (b : Body) : Nat → Line × BitVec 32
  | 0 => (b.data, b.pois)
  | i + 1 =>
    let (d, p) := wideImage b i
    let sp := specAt b.spec i
    let ov := bitN b.ovf.toNat i
    let both := BitVec.ofNat 32 (3 <<< (2 * i))
    if p &&& both ≠ 0 then (setPartial d i 0, p ||| both)
    else if sp ≠ 0 || ov then
      (setPartial d i (0x80 + 8 * sp + 2 * b2n ov + b2n (partialN b.data i < 0)), p ||| both)
    else (d, p)

/-- R309: a WIDE line restored from HBM: its data, its poisoned words, and those of them that carry the poison pattern; a word
beyond correction is poison whatever its data. -/
def wideRestore (d0 : Line) (p0 mk : BitVec 32) : Nat → Line × BitVec 32 × W32 × W16
  | 0 => (d0, p0, 0, 0)
  | i + 1 =>
    let (d, p, sp, ov) := wideRestore d0 p0 mk i
    let both := BitVec.ofNat 32 (3 <<< (2 * i))
    if p0 &&& both = 0 then (d, p, sp, ov)
    else
      let lo := (lineWord d0 (2 * i)).toNat
      if mk &&& both = both && 0x80 ≤ lo && lo ≤ 0x9F then
        let o := bitN lo 1
        let s := bitsN lo 4 3
        let n : Int := if o && s = 0 then (if bitN lo 0 then wideMin else wideMax) else 0
        (setPartial d i n, p &&& ~~~both, setSpec sp i s, setOvf ov i o)
      else (d, p ||| both, sp, ov)

/-- A line is marked poisoned: its write to HBM was lost (R313), or its transfer failed (R395). -/
def markLost (s : State) (l : Nat) : State := { s with cache := { s.cache with lost := l :: s.cache.lost.filter (· != l) } }
/-- A line is written to HBM, which takes its mark away. -/
def unmark (s : State) (l : Nat) : State := { s with cache := { s.cache with lost := s.cache.lost.filter (· != l) } }

/-- Write a line back to HBM with the entry of its form (R307, R309, R310). -/
def hbmWriteBody (s : State) (l : Nat) (b : Body) : State :=
  let s := unmark s l
  if b.av then
    let (d, p) := wideImage b 16
    let s := hbmPutData s l d p
    putEntry s l (BitVec.ofNat 32 (b.anchor.toNat * 65536 + (checkValue .wide l d).toNat / 65536))
  else putEntry (hbmPutData s l b.data b.pois) l b.chk

/-- Mark a line dead in the check table (R276, R307). -/
def hbmMarkDead (s : State) (l : Nat) : State := putEntry (unmark s l) l (deadValue l)

/-- What decoding a line read from HBM gives: data, the poisoned words, those of them that carry the poison pattern, and whether a
word was corrected (R372 to R374). -/
structure HbmRead where
  data : Line
  pois : BitVec 32
  mark : BitVec 32
  fixed : Bool
  deriving DecidableEq, Repr

/-- Decode the words of a line read from HBM (R372 to R374). -/
def hbmDecode (s : State) (l src : Nat) (lbl : Byte) (d : Line) : Nat → State × HbmRead
  | 0 => (s, ⟨d, 0, 0, false⟩)
  | n + 1 =>
    let (s, r) := hbmDecode s l src lbl d n
    let syn := mget 0 s.hbm.syn (hbmKey (owner l) (dataPos l n))
    let w := BitVec.ofNat 32 (2 ^ n)
    match classify true syn with
    | .good => (s, r)
    | .fix bit =>
      let s := hbmCE s (owner l) src n syn lbl l
      (s, { r with fixed := true, data := match bit with
        | some j => r.data ^^^ BitVec.ofNat 2048 (2 ^ (64 * n + j))
        | none => r.data })
    | .poison => (s, { r with pois := r.pois ||| w, mark := r.mark ||| w })
    | .bad => (hbmUE s (owner l) src n syn lbl l, { r with pois := r.pois ||| w })

/-- Read a line's entry through the code of its check-table word. -/
def readEntry (s : State) (l src : Nat) (lbl : Byte) : State × W32 :=
  let w := entryPos l
  let syn := mget 0 s.hbm.syn (hbmKey (owner l) w)
  let half := chanIndex l % 2
  match classify true syn with
  | .good => (s, entryOf s l)
  | .poison => (s, entryOf s l)
  | .fix bit =>
    let s := hbmCE s (owner l) src (w % 32) syn lbl (0x17A0000 + chanIndex l / 64)
    (s, match bit with
      | some j => if j / 32 = half then entryOf s l ^^^ BitVec.ofNat 32 (2 ^ (j % 32)) else entryOf s l
      | none => entryOf s l)
  | .bad => (hbmUE s (owner l) src (w % 32) syn lbl (0x17A0000 + chanIndex l / 64), entryOf s l)

/-- What a fill brings to a slice: the line, whether it is a dead mark, and whether a word was corrected (R308, R374). -/
structure Fill where
  body : Body
  dead : Bool
  fixed : Bool
  deriving DecidableEq, Repr

/-- R308: the form of a stored entry. -/
def formOf (l : Nat) (d : Line) (e : W32) : Option Form :=
  if checkValue .plain l d = e then some .plain
  else if deadValue l = e then some .dead
  else if (checkValue .wide l d).toNat / 65536 = e.toNat % 65536 then some .wide
  else none

/-- Fetch a backed line from its channel (R308 to R310, R374); a line that is marked poisoned comes with every word poisoned. -/
def hbmFetch (s : State) (l src : Nat) (lbl : Byte) : State × Fill :=
  let raw := memLine s.hbm.mem l
  let (s, r) := hbmDecode s l src lbl raw 32
  let (s, e) := readEntry s l src lbl
  let (d, p, c) := (r.data, r.pois, r.fixed)
  if s.cache.lost.contains l then (s, ⟨{ data := d, pois := 0xFFFFFFFF, chk := e }, false, true⟩)
  else match formOf l d e with
  | some .dead => (s, ⟨{}, true, false⟩)
  | some .wide =>
    let (d', p', sp, ov) := wideRestore d p r.mark 16
    (s, ⟨{ data := d', pois := p', chk := checkValue .wide l d', av := true, anchor := BitVec.ofNat 16 (e.toNat / 65536), spec := sp, ovf := ov }, false, c⟩)
  | _ => (s, ⟨{ data := d, pois := p, chk := e }, false, c⟩)

end Sys2Proof.Machine
end

