-- ==== Sys2Proof/Machine/Slice.lean ====
section
/-! DEFINITION. The slices of the cache die: ways, logs, replacement, eviction, the confluence unit, and the performing
of one request on a line (R252 to R287, R369 to R390). -/
namespace Sys2Proof.Machine

/-! ## Records -/

def slice (s : State) (i : Nat) : Slice := mget {} s.slices i
def setSlice (s : State) (i : Nat) (v : Slice) : State := { s with slices := mset {} s.slices i v }

/-- The key of a way in the `ways` map; the lines of the full/empty window follow the ways of replacement. -/
def wayKey (set way : Nat) : Nat := set * 24 + way
/-- The key of window line `n` (R238): its line lies in way 23 of set n div 128 of its slice. -/
def feKey (n : Nat) : Nat := 8192 * 24 + n

def wayAt (s : State) (sl key : Nat) : Way := mget {} (slice s sl).ways key
def setWay (s : State) (sl key : Nat) (w : Way) : State :=
  setSlice s sl { slice s sl with ways := mset {} (slice s sl).ways key w }

/-- A new request identifier, which also numbers the transactions of a channel in their order of arrival. -/
def newId (s : State) : State × Nat := ({ s with nextId := s.nextId + 1 }, s.nextId)

/-- The storage position of a way's words is (way × 8,192 + set) × 32 + word (R371). -/
def slicePos (key i : Nat) : Nat :=
  if key < 8192 * 24 then (key % 24 * 8192 + key / 24) * 32 + i
  else (23 * 8192 + (key - 8192 * 24) / 128) * 32 + i

/-! ## Logs (R297, R385) -/

/-- The SRC code and SRC_ID of a log entry (R297). -/
def srcCode : Src → Nat × Nat
  | .group c _ => (0, c)
  | .array c => (0, c)
  | .copy c => (0, c)
  | .fabric e => (1, e)
  | .bar2 => (2, 0)
  | _ => (3, 0)

/-- An event for the slice's event log (R297): type 1 to 8 and its fields, logged when LOG_CTRL enables the type. -/
def sliceLog (s : State) (sl type : Nat) (lbl : Byte) (src : Src) (anchor anchorRec : W16) (l : Nat) : State :=
  if !bitN (reg s .slice sl o_SLICE_LOG_CTRL).toNat type then s
  else
    let log := (slice s sl).log
    if log.length ≥ 16 then
      raiseIrq (bumpField s .slice sl f_SLICE_LOG_STATUS_LOST 1) .slice sl 4
    else
      let e : Nat := type <<< 124 + lbl.toNat <<< 116 + (srcCode src).1 <<< 114 + ((srcCode src).2 % 65536) <<< 96
        + anchor.toNat <<< 80 + anchorRec.toNat <<< 64 + timeBits s 25 10 <<< 48 + (256 * l) % 2 ^ 48
      let s := setSlice s sl { slice s sl with log := log ++ [BitVec.ofNat 128 e] }
      setF s .slice sl f_SLICE_LOG_STATUS_COUNT (log.length + 1)

/-- Enter an error in a slice's error log (R385). -/
def sliceErr (s : State) (sl type src word : Nat) (syn : Byte) (lbl : Byte) (l : Nat) : State :=
  let (log, lost) := elogAdd (slice s sl).elog ⟨type, src, word, syn, 1, 0, lbl, errTime s, 256 * l⟩
  let s := setSlice s sl { slice s sl with elog := log }
  let s := setF s .slice sl f_SLICE_ERR_LOG_STATUS_COUNT log.length
  if lost then bumpField s .slice sl f_SLICE_ERR_LOG_STATUS_LOST 1 else s

/-- A correctable word of a slice array or of a mesh transfer to it (R384, R386). -/
def sliceCE (s : State) (sl src word : Nat) (syn : Byte) (lbl : Byte) (l : Nat) : State :=
  let s := bump s .slice sl o_SLICE_CE 1
  let s := bucketAdd s .slice sl o_SLICE_BUCKET o_SLICE_BUCKET_CFG 5
  sliceErr s sl 1 src word syn lbl l

/-- An uncorrectable word of a slice array (R384). -/
def sliceUE (s : State) (sl src word : Nat) (syn : Byte) (lbl : Byte) (l : Nat) : State :=
  let s := raiseIrq (bump s .slice sl o_SLICE_UE 1) .slice sl 7
  sliceErr s sl 2 src word syn lbl l

/-- A check mismatch of type 3 CHECK_STORED, 4 CHECK_TRANSIT or 5 CHECK_INGRESS logged at a slice (R380, R384). -/
def sliceCheckFail (s : State) (sl type src : Nat) (lbl : Byte) (l : Nat) : State :=
  let s := raiseIrq (bump s .slice sl o_SLICE_CHECK_FAIL 1) .slice sl 6
  sliceErr s sl type src 0 0 lbl l

/-! ## Words of a way -/

/-- Every word of a line poisoned. -/
def allWords : BitVec 32 := 0xFFFFFFFF

/-- Store a body whose words in `written` are encoded afresh; an armed flip mask that names one of them changes it and
disarms (R390). -/
def putBody (s : State) (sl key : Nat) (b : Body) (written : BitVec 32) : State :=
  let kept := mkeep (fun i => !bitN written.toNat i) b.syn
  let pos := fld s .slice sl f_SLICE_FLIP_POS_WAY
  let set := fld s .slice sl f_SLICE_FLIP_POS_SET
  let word := fld s .slice sl f_SLICE_FLIP_POS_WORD
  let w := (pos * 8192 + set) * 32 + word
  if flag s .slice sl f_SLICE_FLIP_CTRL_ARM && bitN written.toNat word && slicePos key word == w then
    let dm := (reg s .slice sl o_SLICE_FLIP_DATA_LO).toNat + (reg s .slice sl o_SLICE_FLIP_DATA_HI).toNat * 2 ^ 32
    let syn := flipSyndrome w dm (fld s .slice sl f_SLICE_FLIP_CTRL_FOLD) (fld s .slice sl f_SLICE_FLIP_CTRL_CHECK)
    let s := setF s .slice sl f_SLICE_FLIP_CTRL_ARM 0
    setWay s sl key { wayAt s sl key with body := { b with data := b.data ^^^ BitVec.ofNat 2048 (dm <<< (64 * word)), syn := mset 0 kept word syn } }
  else setWay s sl key { wayAt s sl key with body := { b with syn := kept } }

/-- Decode the words of a mask in a slice array (R372): corrected words are rewritten in place at once (R374), words
beyond correction are delivered poisoned; `fix` also stores that poison, as a write into the line does. The answer is
the body as decoded. -/
def decodeWords (s : State) (sl key src : Nat) (lbl : Byte) (mask : BitVec 32) (fix : Bool) :
    List (Nat × Byte) → State × Body
  | [] => (s, (wayAt s sl key).body)
  | (i, syn) :: t =>
    let (s, b) := decodeWords s sl key src lbl mask fix t
    let l := (wayAt s sl key).tag
    if !bitN mask.toNat i then (s, b)
    else match classify false syn with
      | .fix bit =>
        let s := sliceCE s sl src i syn lbl l
        let flip : Line := match bit with
          | some j => BitVec.ofNat 2048 (2 ^ (64 * i + j))
          | none => 0
        let w := wayAt s sl key
        let st : Body := { w.body with data := w.body.data ^^^ flip, syn := mkeep (fun k => k != i) w.body.syn }
        (putBody s sl key st (BitVec.ofNat 32 (2 ^ i)), { b with data := b.data ^^^ flip })
      | .good => (s, b)
      | _ =>
        let s := sliceUE s sl src i syn lbl l
        let p := BitVec.ofNat 32 (2 ^ i)
        let s := if fix then
            let w := wayAt s sl key
            putBody s sl key { w.body with pois := w.body.pois ||| p, syn := mkeep (fun k => k != i) w.body.syn } p
          else s
        (s, { b with pois := b.pois ||| p })

/-- Decode the words of a mask of a way. -/
def decodeWay (s : State) (sl key src : Nat) (lbl : Byte) (mask : BitVec 32) (fix : Bool) : State × Body :=
  decodeWords s sl key src lbl mask fix (wayAt s sl key).body.syn

/-- The check value a body should have, in its form (R375, R376). -/
def formValue (l : Nat) (b : Body) : W32 := checkValue (if b.av then .wide else .plain) l b.data

/-- Whether a line passes verification: poisoned lines are not verified (R378). -/
def checkOk (l : Nat) (b : Body) : Bool := b.pois ≠ 0 || formValue l b = b.chk

/-- Poison every word of a way: every word is written, with its data as held (R373, R390). -/
def poisonWay (s : State) (sl key : Nat) : State :=
  let w := wayAt s sl key
  putBody (setWay s sl key { w with dirty := true }) sl key { w.body with pois := allWords } allWords

/-! ## Recency (R268, R269) -/

/-- The ways of a set that replacement manages. -/
def setWays (s : State) (sl set : Nat) : List (Nat × Way) :=
  (List.range 24).map (fun w => (w, wayAt s sl (wayKey set w)))

/-- Rewrite the ranks of a set. -/
def mapRanks (s : State) (sl set : Nat) (f : Way → Nat) : List Nat → State
  | [] => s
  | w :: t =>
    let s := mapRanks s sl set f t
    let x := wayAt s sl (wayKey set w)
    if x.valid then setWay s sl (wayKey set w) { x with lru := f x } else s

/-- Give a way the most recent rank. -/
def touch (s : State) (sl set way : Nat) : State :=
  let r := (wayAt s sl (wayKey set way)).lru
  let s := mapRanks s sl set (fun x => if x.lru < r then x.lru + 1 else x.lru) (List.range 24)
  setWay s sl (wayKey set way) { wayAt s sl (wayKey set way) with lru := 0 }

/-- Take a way out of its set; the ranks above it close up. -/
def dropWay (s : State) (sl set way : Nat) : State :=
  let r := (wayAt s sl (wayKey set way)).lru
  let s := setWay s sl (wayKey set way) {}
  mapRanks s sl set (fun x => if x.lru > r then x.lru - 1 else x.lru) (List.range 24)

/-- The number of valid ways of a set. -/
def setCount (s : State) (sl set : Nat) : Nat := (setWays s sl set).countP (fun p => p.2.valid)

/-! ## Leaving a slice (R267, R275, R276, R285) -/

/-- What happens to a line's contents when it leaves: a dead tag leaves its mark, a dirty line is written back, a held
line as a raw WIDE line with FORCED_WB counted and logged; a line of a fabric window is never written back. -/
def writeOut (s : State) (sl key : Nat) : State :=
  let w := wayAt s sl key
  if w.remote then s
  else if w.dead then hbmMarkDead s w.tag
  else if w.dirty || w.hold then
    let (s, b) := decodeWay s sl key 0 w.lbl allWords true
    let s := hbmWriteBody s w.tag { b with syn := [] }
    let s := bump s .slice sl o_SLICE_WRITEBACKS 1
    if w.hold then
      let s := raiseIrq (bump s .slice sl o_SLICE_FORCED_WB 1) .slice sl 2
      sliceLog s sl 6 w.lbl .mgmt 0 (if b.av then b.anchor else 0) w.tag
    else s
  else s

/-- A writeback is in progress, after those before it (R275, R410). -/
def addWb (s : State) (sl : Nat) (w : Wb) : State :=
  let (s, n) := newId s
  setSlice s sl { slice s sl with wbs := (slice s sl).wbs ++ [{ w with seq := n }] }

/-- Note that a line's writeback is in progress, if it was written back (R275). -/
def noteWb (s : State) (sl : Nat) (w : Way) : State :=
  if !w.remote && (w.dead || w.dirty || w.hold) then addWb s sl ⟨w.tag, w.lbl, w.cpart, 0⟩ else s

/-- Evict a way of a set (R268): its contents leave and its writeback is in progress until the channel accepts it. -/
def evict (s : State) (sl set way : Nat) : State :=
  let w := wayAt s sl (wayKey set way)
  if !w.valid then s
  else dropWay (noteWb (writeOut s sl (wayKey set way)) sl w) sl set way

/-! ## Choosing a way (R262, R263, R268 to R271, R411) -/

/-- Class and window of a fill (R262, R263); the trace drain's lines are filled as STREAM (R576). -/
def fillClass (s : State) (q : Req) : Nat × Option Nat :=
  if q.src == .trace then (1, none)
  else match windowOf s q.line with
  | none => (2, none)
  | some n =>
    let w := swin s n
    if winAll w || bitN q.wins.toNat n then
      let c := winClass w
      (if c = 0 then (match profileOf s (winPart w) with | 1 => 3 | 3 => 4 | _ => 2) else c, some n)
    else (2, none)

/-- Ways per set that a partition may hold in PERSIST and PINNED lines, by its profile (R38). -/
def profileWays (p : Nat) : Nat :=
  match p with | 1 => 16 | 2 => 8 | 3 => 20 | _ => 12

/-- The way limit of a label's class (R411); values above 24 act as 24. -/
def classWays (s : State) (lbl : Byte) : Nat :=
  let c := lbl.toNat / 16
  min 24 (fldW (reg s .qos 0 (o_QOS_CLASS_WAYS (c / 4))) (8 * (c % 4) + 4) (8 * (c % 4)))

/-- R270: a PERSIST or PINNED fill is demoted to NORMAL when its partition would hold too many. -/
def demoted (s : State) (sl set part cls : Nat) : Bool :=
  cls ≥ 3 && (setWays s sl set).countP (fun p => p.2.valid && p.2.cls ≥ 3 && p.2.cpart == part) + 1
    > profileWays (profileOf s part)

/-- The tiers of a victim (R268): DEAD tags, STREAM, NORMAL, PERSIST. -/
def tierOf (w : Way) : Nat := if w.dead then 0 else w.cls

/-- The least recent way of a list. -/
def leastRecent (l : List (Nat × Way)) : Option Nat :=
  match l with
  | [] => none
  | h :: t => some (t.foldl (fun a p => if p.2.lru > a.2.lru then p else a) h).1

/-- What R268 answers. -/
inductive Choice where
  | take (way : Nat)
  | force (way : Nat)
  | bypass
  deriving DecidableEq, Repr

/-- R268: the way a fill takes in a set. -/
def chooseWay (s : State) (sl set : Nat) (q : Req) : Choice :=
  let (_, win) := fillClass s q
  let all := (setWays s sl set).filter (fun p => !(feEnabled s && p.1 == 23))
  let cand := all.filter (fun p => !(p.2.valid && (p.2.cls == 4 || p.2.hold)))
  if classWays s q.label = 0 then .bypass
  else match cand.find? (fun p => !p.2.valid) with
  | some p => .take p.1
  | none =>
    let quotaHit : Bool := match win with
      | some n => (setWays s sl set).countP (fun p => p.2.valid && p.2.win == some n) ≥ winQuota (swin s n)
      | none => false
    let classHit : Bool :=
      (setWays s sl set).countP (fun p => p.2.valid && p.2.lbl.toNat / 16 == q.label.toNat / 16) ≥ classWays s q.label
    let admits := fun (p : Nat × Way) =>
      if quotaHit then p.2.win == win
      else if classHit then p.2.lbl.toNat / 16 == q.label.toNat / 16
      else true
    let c := cand.filter admits
    let tier := fun t => c.filter (fun p => tierOf p.2 == t)
    match (List.range 4).findSome? (fun t => leastRecent (tier t)) with
    | some w => .take w
    | none =>
      match leastRecent ((all.filter (fun p => p.2.valid && p.2.hold && p.2.cls != 4)).filter admits) with
      | some w => .force w
      | none => .bypass

/-- Install a line in a way that is free (R269, R270): `dirty` for a whole-line write or a corrected fill. -/
def install (s : State) (sl set way : Nat) (q : Req) (remote dirty dead : Bool) (b : Body) : State :=
  let (cls0, win) := if remote then (2, none) else fillClass s q
  let dem := demoted s sl set q.part cls0
  let cls := if dem then 2 else cls0
  let n := setCount s sl set
  let s := if cls = 1 then s else mapRanks s sl set (fun x => x.lru + 1) (List.range 24)
  let s := setWay s sl (wayKey set way)
    { valid := true, dirty := dirty, dead := dead, hold := false, remote := remote, tag := q.line,
      cls := if dead then 0 else cls, win := win, lbl := q.label, cpart := q.part,
      lru := if cls = 1 then n else 0, body := {} }
  let s := putBody s sl (wayKey set way) b allWords
  if dem then bump s .slice sl o_SLICE_PERSIST_DEMOTE 1 else s

/-- The anchor that a request carries, 0 for none (R297). -/
def reqAnchor (op : ReqOp) : W16 :=
  match op with
  | .addW a _ => a
  | .write _ _ _ _ _ (some w) => w.1
  | _ => 0

/-- Count a bypassed fill, and log PIN_BYPASS when the set is full of PINNED lines (R271); `rec` is the anchor of record of the
line that was fetched, 0 for none (R297). -/
def noteBypass (s : State) (sl set : Nat) (q : Req) (rec : W16) : State :=
  let s := bump s .slice sl o_SLICE_BYPASS 1
  if (setWays s sl set).all (fun p => (p.2.valid && p.2.cls == 4) || (feEnabled s && p.1 == 23)) then
    sliceLog s sl 7 q.label q.src (reqAnchor q.op) rec q.line
  else s

/-! ## One request on a line (R276 to R284, R288, R379) -/

/-- Where a line is while a request works on it: its slice and the key of its way. -/
def lineKey (s : State) (sl set l : Nat) : Option Nat :=
  ((List.range 24).find? (fun w => let x := wayAt s sl (wayKey set w); x.valid && x.tag == l && !x.remote)).map (wayKey set)

/-- R277: a read of a dead line. -/
def deadRead (s : State) (sl : Nat) (q : Req) : State :=
  let s := raiseIrq (bump s .slice sl o_SLICE_DEAD_READS 1) .slice sl 0
  sliceLog s sl 1 q.label q.src 0 0 q.line

/-- R278: a write, atomic or reduction to a dead line is discarded. -/
def deadWrite (s : State) (sl : Nat) (q : Req) : State := sliceLog s sl 2 q.label q.src 0 0 q.line

/-- The words of partials that R283 delivers as 0 and poisoned, and whether a partial read has OVF. -/
def specialWords (b : Body) (words : BitVec 32) : BitVec 32 × Bool :=
  (List.range 16).foldl (fun (a : BitVec 32 × Bool) i =>
    let both := BitVec.ofNat 32 (3 <<< (2 * i))
    if words &&& both = 0 then a
    else (if specAt b.spec i ≠ 0 then a.1 ||| both else a.1, a.2 || bitN b.ovf.toNat i)) (0, false)

/-- Zero the words of a mask. -/
def zeroWords (d : Line) (m : BitVec 32) : Line :=
  d &&& ~~~(BitVec.ofNat 2048 (packN 64 (fun i => if bitN m.toNat i then 2 ^ 64 - 1 else 0) 32))

/-- R283: what a read of a body delivers: data, poison, OVF; and whether SPECIAL_READ is logged. -/
def readOut (b : Body) (words : BitVec 32) : Line × BitVec 32 × Bool × Bool :=
  if b.av then
    let (sp, ov) := specialWords b words
    (zeroWords b.data sp, b.pois ||| sp, ov, sp ≠ 0)
  else (b.data, b.pois, false, false)

/-- A read performed at a resident line (R277, R283, R284). -/
def doRead (s : State) (sl key : Nat) (q : Req) (words : BitVec 32) : State × Reply :=
  let w := wayAt s sl key
  if w.dead then (deadRead s sl q, .data 0 allWords true false)
  else
    let s := setWay s sl key { w with hold := false }
    let (s, b) := decodeWay s sl key 0 q.label words false
    let (d, p, ov, special) := readOut b words
    let s := if special then sliceLog s sl 8 q.label q.src 0 b.anchor q.line else s
    (s, .data d p false ov)

/-- The body that a whole-line write leaves (R278, R282, R376). -/
def wholeBody (data : Line) (pois : BitVec 32) (chk : W32) (wide : Option (W16 × W32 × W16)) : Body :=
  match wide with
  | some (a, sp, ov) => { data := data, pois := pois, chk := chk, av := true, anchor := a, spec := sp, ovf := ov }
  | none => { data := data, pois := pois, chk := chk }

/-- R379: a change of a resident line that has no poisoned word verifies it first. True when the line may be changed;
otherwise every word of it is poisoned. -/
def verifyForWrite (s : State) (sl key : Nat) (q : Req) : State × Bool :=
  let (s, b) := decodeWay s sl key 1 q.label allWords true
  if checkOk q.line b then (s, true)
  else (sliceCheckFail (poisonWay s sl key) sl 3 1 q.label q.line, false)

/-- Store a changed body with a new check value in its form (R376). -/
def storeChanged (s : State) (sl key : Nat) (l : Nat) (b : Body) (written : BitVec 32) : State :=
  let s := setWay s sl key { wayAt s sl key with dirty := true }
  putBody s sl key { b with chk := formValue l b } written

/-- A write performed at a resident line (R278, R282, R284, R379). `ep` poisons every word it touches (R382). -/
def doWrite (s : State) (sl key : Nat) (q : Req) (data : Line) (mask : BitVec 256) (pois : BitVec 32) (whole : Bool)
    (chk : W32) (wide : Option (W16 × W32 × W16)) : State × Reply :=
  let w := wayAt s sl key
  if whole then
    let s := setWay s sl key { w with dirty := true, dead := false, hold := false, cls := if w.dead then 2 else w.cls }
    (putBody s sl key (wholeBody data pois chk wide) allWords, .accepted)
  else if w.dead then (deadWrite s sl q, .accepted)
  else
    let (s, ok) := verifyForWrite s sl key q
    if !ok then (s, .accepted)
    else
      let b := (wayAt s sl key).body
      let b := { b with data := mergeLine b.data data mask, pois := b.pois ||| (pois &&& wordsTouched mask) }
      (storeChanged s sl key q.line b (wordsTouched mask), .accepted)

/-- The 64-bit atomics of a request, in lane order (R145). -/
def atdLanes (cas : Bool) : List (Nat × W64 × W64) → Body → List (W64 × Bool) × Body
  | [], b => ([], b)
  | (i, x, y) :: t, b =>
    let old := lineWord b.data i
    let new := if cas then (if old = x then y else old) else old + x
    let (r, b') := atdLanes cas t { b with data := setLineWord b.data i new }
    ((old, bitN b.pois.toNat i) :: r, b')

/-- The anchor of record of a body, 0 for none. -/
def anchorRec (b : Body) : W16 := if b.av then b.anchor else 0

/-- The words a list of atomics touches. -/
def atdWords (ops : List (Nat × W64 × W64)) : BitVec 32 :=
  ops.foldl (fun m o => m ||| BitVec.ofNat 32 (2 ^ o.1)) 0

/-- An atomic performed at a resident line, which reads it and so clears HOLD (R284); on a dead line or after a check mismatch it
is discarded and its old values return poisoned (R168, R278, R379). A word whose operand came poisoned is stored poisoned. -/
def doAtd (s : State) (sl key : Nat) (q : Req) (cas : Bool) (ops : List (Nat × W64 × W64)) (pois : BitVec 32) : State × Reply :=
  let w := wayAt s sl key
  if w.dead then (deadWrite s sl q, .olds (ops.map (fun _ => (0, true))))
  else
    let (s, ok) := verifyForWrite s sl key q
    if !ok then (s, .olds (ops.map (fun o => (lineWord (wayAt s sl key).body.data o.1, true))))
    else
      let (r, b) := atdLanes cas ops (wayAt s sl key).body
      let s := setWay s sl key { wayAt s sl key with hold := false }
      (storeChanged s sl key q.line { b with pois := b.pois ||| (pois &&& atdWords ops) } (atdWords ops), .olds r)

/-- A refused contribution: counter, interrupt and log (R280); `code` is the reply's, with the log type it stands for. -/
def refuse (s : State) (sl : Nat) (q : Req) (code : Nat) (anchor anchorRec : W16) : State × Reply :=
  let s := raiseIrq (bump s .slice sl o_SLICE_RED_REFUSED 1) .slice sl 1
  let t := match code with | 1 => 2 | 2 => 5 | 3 => 3 | _ => 4
  (sliceLog s sl t q.label q.src anchor anchorRec q.line, .refused code)

/-- One value added to its partial (R73, R74, R280). -/
def addPartial (b : Body) (v : WideVal) : Body :=
  let both := BitVec.ofNat 32 (3 <<< (2 * v.idx))
  if v.pois then { b with pois := b.pois ||| both }
  else if bitN b.ovf.toNat v.idx then b
  else
    let sp := specJoin (specAt b.spec v.idx) v.spec
    let (n, o) := if v.ovf then (if v.n < 0 then wideMin else wideMax, true)
      else wideAdd (partialN b.data v.idx) false (if v.spec = 0 then v.n else 0)
    { b with data := setPartial b.data v.idx n, spec := setSpec b.spec v.idx sp, ovf := setOvf b.ovf v.idx o }

/-- The words of the partials that a contribution targets. -/
def wideWords (vals : List WideVal) : BitVec 32 :=
  vals.foldl (fun m v => m ||| BitVec.ofNat 32 (3 <<< (2 * v.idx))) 0

/-- An accepted contribution sets HOLD and restarts the hold timer (R284). -/
def holdWay (s : State) (sl key : Nat) : State := setWay s sl key { wayAt s sl key with hold := true, heldAt := s.time.toNat }

/-- An ADD.W contribution at a resident line (R280, R286). -/
def doAddW (s : State) (sl key : Nat) (q : Req) (anchor : W16) (vals : List WideVal) : State × Reply :=
  let w := wayAt s sl key
  if w.dead then refuse s sl q 1 anchor 0
  else
    let (s, b) := decodeWay s sl key 1 q.label allWords true
    let arec := if b.av then b.anchor else 0
    if b.pois ≠ 0 then refuse s sl q 2 anchor arec
    else if b.av && b.anchor ≠ anchor then refuse (poisonWay s sl key) sl q 3 anchor arec
    else
      let (s, ok) := verifyForWrite s sl key q
      if !ok then refuse s sl q 2 anchor arec
      else
        let b := (wayAt s sl key).body
        let b := if b.av then b else { data := 0, pois := 0, chk := 0, av := true, anchor := anchor, spec := 0, ovf := 0, syn := b.syn }
        let b := vals.foldl addPartial b
        let s := storeChanged s sl key q.line b (if w.body.av then wideWords vals else allWords)
        (holdWay s sl key, .accepted)

/-- 32-bit element `i` of a line. -/
def lineF (d : Line) (i : Nat) : W32 := BitVec.ofNat 32 (d.toNat >>> (32 * i))
def setLineF (d : Line) (i : Nat) (v : W32) : Line := BitVec.ofNat 2048 (putBitsN d.toNat (32 * i + 31) (32 * i) v.toNat)

/-- One FP32 value applied to its element (R279, R281). -/
def applyF (op : W32 → W32 → W32) (b : Body) (v : Nat × W32 × Bool) : Body :=
  if v.2.2 then { b with pois := b.pois ||| BitVec.ofNat 32 (2 ^ (v.1 / 2)) }
  else { b with data := setLineF b.data v.1 (op (lineF b.data v.1) v.2.1) }

/-- An ADD.F32, MAX or MIN contribution at a resident line (R281). -/
def doRedF (s : State) (sl key : Nat) (q : Req) (op : W32 → W32 → W32) (vals : List (Nat × W32 × Bool)) : State × Reply :=
  let w := wayAt s sl key
  if w.dead then refuse s sl q 1 0 0
  else
    let (s, b) := decodeWay s sl key 1 q.label allWords true
    if b.pois ≠ 0 then refuse s sl q 2 0 (if b.av then b.anchor else 0)
    else if b.av then refuse (poisonWay s sl key) sl q 4 0 b.anchor
    else
      let (s, ok) := verifyForWrite s sl key q
      if !ok then refuse s sl q 2 0 0
      else
        let b := vals.foldl (applyF op) (wayAt s sl key).body
        let wr := vals.foldl (fun m v => m ||| BitVec.ofNat 32 (2 ^ (v.1 / 2))) (0 : BitVec 32)
        (holdWay (storeChanged s sl key q.line b wr) sl key, .accepted)

/-- A DEAD hint at a resident line (R276). -/
def doDead (s : State) (sl key : Nat) : State × Reply :=
  let w := wayAt s sl key
  (setWay s sl key { w with dirty := false, dead := true, hold := false, cls := 0, body := {} }, .accepted)

/-- The word of a full/empty store as a line. -/
def feWord (word : Nat) (v : W64) : Line := BitVec.ofNat 2048 (v.toNat <<< (64 * word))
/-- One word as a mask, when `on`. -/
def wordIf (on : Bool) (word : Nat) : BitVec 32 := if on then BitVec.ofNat 32 (2 ^ word) else 0

/-- One request performed at the line's way (R287: whole, before any other access to the line). A full/empty access that a switch
of the window leaves outside it is an ordinary access. -/
def performAt (s : State) (sl key : Nat) (q : Req) : State × Reply :=
  match q.op with
  | .read words => doRead s sl key q words
  | .write d m p wh c wd => doWrite s sl key q d m p wh c wd
  | .atd cas ops pois => doAtd s sl key q cas ops pois
  | .addW a vs => doAddW s sl key q a vs
  | .addF vs => doRedF s sl key q f32Add vs
  | .maxMin mn vs => doRedF s sl key q (if mn then f32Min else f32Max) vs
  | .dead => doDead s sl key
  | .fe true _ word v pois => doWrite s sl key q (feWord word v) (byteMask (8 * word) 8) (wordIf pois word) false 0 none
  | .fe false _ word _ _ => doRead s sl key q (BitVec.ofNat 32 (2 ^ word))

end Sys2Proof.Machine
end

