-- ==== Sys2Proof/Machine/Units.lean ====
section
/-! DEFINITION. The records of the units, the state and the lead of a reach, shares, and who asserts spate (R207, R213, R225, R244,
R405, R407 to R409, R412). -/
namespace Sys2Proof.Machine

/-! ## Records of units -/

def cell (s : State) (c : Nat) : Cell := mget {} s.cells c
def setCell (s : State) (c : Nat) (v : Cell) : State := { s with cells := mset {} s.cells c v }
def block (s : State) (b : Nat) : Block := mget {} s.blocks b
def setBlock (s : State) (b : Nat) (v : Block) : State := { s with blocks := mset {} s.blocks b v }
def region (s : State) (r : Nat) : Region := mget {} s.regions r
def setRegion (s : State) (r : Nat) (v : Region) : State := { s with regions := mset {} s.regions r v }
def group (s : State) (c g : Nat) : Group := mget {} (cell s c).groups g
def setGroup (s : State) (c g : Nat) (v : Group) : State :=
  setCell s c { cell s c with groups := mset {} (cell s c).groups g v }
def port (s : State) (p : Nat) : Port := mget {} s.ports p
def setPort (s : State) (p : Nat) (v : Port) : State := { s with ports := mset {} s.ports p v }

/-! ## The state of a reach -/

/-- REACH_STATUS.STATE codes of R213. -/
abbrev rOff : Nat := 0
abbrev rArmed : Nat := 1
abbrev rRunning : Nat := 2
abbrev rCompleting : Nat := 3
abbrev rHalted : Nat := 4

/-- The state of the reach led by a block (R213). -/
def reachState (s : State) (b : Nat) : Nat := fld s .block b f_BLOCK_REACH_STATUS_STATE
/-- Change the `run` record of a lead block. -/
def setRun (s : State) (b : Nat) (r : Run) : State := setBlock s b { block s b with run := r }

/-- Whether a block is a lead by its active fields (R207). -/
def isLead (s : State) (b : Nat) : Bool :=
  flag s .block b f_BLOCK_REACH_CTRL_EN && flag s .block b f_BLOCK_REACH_CTRL_LEAD
/-- The lead of a member block by its active fields (R207). -/
def leadOf (s : State) (b : Nat) : Option Nat :=
  if !flag s .block b f_BLOCK_REACH_CTRL_EN then none
  else if flag s .block b f_BLOCK_REACH_CTRL_LEAD then some b
  else some (fld s .block b f_BLOCK_REACH_CTRL_LEAD_BLK)

/-- R225: a frame-paced reach asserts spate. -/
def reachSpate (s : State) (b : Nat) : Bool :=
  flag s .block b f_BLOCK_REACH_CTRL_FP_EN && (reachState s b == rArmed || reachState s b == rRunning)
    && fld s .block b f_BLOCK_REACH_STATUS_LEVEL < fld s .block b f_BLOCK_FP_MARKS_LOW

/-! ## Partitions (R244, R405, R407) -/

/-- The partition that a label names (R405). -/
def labelPart (l : Byte) : Nat := l.toNat % 8

/-- The partition that owns a region, if any (R244). -/
def partOfRegion (s : State) (r : Nat) : Option Nat :=
  (List.range 8).find? (fun p => bitN (reg s .chip 0 (o_CHIP_PART_MAP p)).toNat r)

/-- The partition charged for ingress (R407). -/
def ingressPart (s : State) : Nat := fld s .qos 0 f_QOS_INGRESS_PART

/-! ## Shares (R408, R409) -/

/-- QOS.PART_SHARE of a partition; values above 100 act as 100. -/
def partShare (s : State) (p : Nat) : Nat :=
  min 100 (fldW (reg s .qos 0 (if p < 4 then o_QOS_PART_SHARE_LO else o_QOS_PART_SHARE_HI)) (8 * (p % 4) + 6) (8 * (p % 4)))

/-- Whether a partition has an effective share: it owns a region, or is the ingress partition. -/
def hasShare (s : State) (p : Nat) : Bool :=
  (reg s .chip 0 (o_CHIP_PART_MAP p)).toNat != 0 || p == ingressPart s

/-- S of R408. -/
def shareSum (s : State) : Nat :=
  max 100 ((List.range 8).map (fun p => if hasShare s p then partShare s p else 0)).sum

/-- Reserved slots of a partition in a queue of Q slots (R409). -/
def reservedSlots (s : State) (q p : Nat) : Nat := if hasShare s p then q * partShare s p / shareSum s else 0

/-- A queue of Q slots, given as the partition and reserved mark of each request it holds: the slot that a request of
partition `p` enters, none when it waits (R409). A queue holds no more than its slots, whatever a strobe did to the shares. -/
def slotFor (s : State) (q : Nat) (held : List (Nat × Bool)) (p : Nat) : Option Bool :=
  let all := ((List.range 8).map (reservedSlots s q)).sum
  if q ≤ held.length then none
  else if (held.countP (fun e => e.1 == p && e.2)) < reservedSlots s q p then some true
  else if held.countP (fun e => !e.2) < q - all then some false
  else none

/-! ## Spate (R412) -/

/-- Bytes of padded payload (R325). -/
def padLen (p : Packet) : Nat := if p.zl then 0 else (p.payload.length + 7) / 8 * 8
/-- Data units of a packet (R330). -/
def unitsOf (k : Packet) : Nat := (padLen k + 31) / 32

/-- Whether a port's ingress asserts spate on a VC (R334, R412). -/
def ingressSpate (s : State) (p v : Nat) : Bool :=
  let ks := (port s p).rxQ.filter (fun k => k.vc == v)
  let lim := fld s .qos 0 f_QOS_INGRESS_ING_SPATE
  16 * ks.length > lim * [128, 128, 64, 8].getD v 8 || 16 * (ks.map unitsOf).sum > lim * [1024, 1024, 512, 64].getD v 64

/-- Whether the trace drain asserts spate: more than 48 lines are staged (R412, R578). -/
def traceSpate (s : State) : Bool := decide (384 < s.trace.staged.length)

/-- The lead block of a source, for spate. -/
def leadOfSrc (s : State) : Src → Option Nat
  | .group c g => some (group s c g).lead
  | .array c => leadOf s (blockOfCell s c)
  | .copy c => leadOf s (blockOfCell s c)
  | _ => none

end Sys2Proof.Machine
end

