-- ==== Sys2Proof/Machine/Qos.lean ====
section
/-! DEFINITION. Which request an arbiter may grant, and the arbiters of the slices and of the HBM channels (R409, R410, R412 to
R414). -/
namespace Sys2Proof.Machine

/-! ## The order of grants (R410, R414) -/

/-- A request that waits at an arbiter: partition, class, VC, whether it carries spate, and whether it is of the management VC
at a port. -/
structure Cand where
  part : Nat
  cls : Nat
  vc : Nat
  spate : Bool
  mgmt : Bool
  deriving DecidableEq, Repr

/-- The weight of a class (R415). -/
def classWeight (s : State) (c : Nat) : Nat :=
  fldW (reg s .qos 0 (if c < 8 then o_QOS_CLASS_WT_LO else o_QOS_CLASS_WT_HI)) (4 * (c % 8) + 3) (4 * (c % 8))

/-- The weight of a partition: its effective share (R408, R410), 0 for one without. -/
def partWeight (s : State) (p : Nat) : Nat := if hasShare s p then partShare s p else 0

/-- The weight of a VC of a partition at fabric egress (R410, R415). -/
def vcWeight (s : State) (p v : Nat) : Nat :=
  fld s .qos 0 (match v with | 0 => f_QOS_EGRESS_WT_REQ p | 1 => f_QOS_EGRESS_WT_RSP p | _ => f_QOS_EGRESS_WT_RED p)

/-- Spate grants that an arbiter may make in any 64. -/
def spateCap (s : State) : Nat := min 32 (fld s .qos 0 f_QOS_SPATE_CAP_CAP)

/-- Whether the spate of R410 step 2 is still within the cap of R414. -/
def capLeft (s : State) (hist : List Bool) : Bool := hist.countP id < spateCap s

/-- Whether a candidate is the first to have arrived of its partition, class and VC. -/
def firstOfKind (cs : List Cand) (i : Nat) (c : Cand) : Bool := !((cs.take i).any (fun x => x == c))

/-! Weighted round robin (R410). An arbiter counts what it has granted to each partition, VC and class in the round; spate
requests have rounds of their own (R414). -/

/-- The count of a candidate's partition. -/
def partKey (c : Cand) : Nat := b2n c.spate * 8 + c.part % 8
/-- The count of a candidate's VC within its partition. -/
def vcKey (c : Cand) : Nat := 64 + partKey c * 4 + c.vc % 4
/-- The count of a candidate's class within its VC. -/
def clsKey (c : Cand) : Nat := 1024 + (partKey c * 4 + c.vc % 4) * 16 + c.cls % 16

/-- Whether a key's turn may come, among keys with their weights: it has weight left in the round, or every waiting key has
spent its weight and a new round begins. A key of weight 0 is granted when no key with weight waits. -/
def turnOf (spent : List (Nat × Nat)) (waiting : List (Nat × Nat)) (k : Nat × Nat) : Bool :=
  let live := waiting.filter (fun x => x.2 != 0)
  live.isEmpty || (k.2 != 0 && (mget 0 spent k.1 < k.2 || live.all (fun x => x.2 ≤ mget 0 spent x.1)))

/-- Count a grant to a key; a new round clears the counts of its group of `n` keys. -/
def spend (spent : List (Nat × Nat)) (waiting : List (Nat × Nat)) (k : Nat × Nat) (n : Nat) : List (Nat × Nat) :=
  let live := waiting.filter (fun x => x.2 != 0)
  let spent := if live.all (fun x => x.2 ≤ mget 0 spent x.1) then mkeep (fun x => x / n != k.1 / n) spent else spent
  if k.2 = 0 then spent else mset 0 spent k.1 (mget 0 spent k.1 + 1)

/-- A candidate's partition, VC and class with their weights. -/
def partW (s : State) (c : Cand) : Nat × Nat := (partKey c, partWeight s c.part)
def vcW (s : State) (c : Cand) : Nat × Nat := (vcKey c, vcWeight s c.part c.vc)
def clsW (s : State) (c : Cand) : Nat × Nat := (clsKey c, classWeight s c.cls)

/-- The candidates that compete with `c` in its step of R410: spate within the cap, then the others; beyond the cap spate waits
for the others. -/
def stepOf (s : State) (hist : List Bool) (cs : List Cand) : List Cand :=
  let sp := cs.any (·.spate) && (capLeft s hist || cs.all (·.spate))
  cs.filter (fun c => c.spate == sp)

/-- Whether the arbiter may grant candidate `i` of its waiting requests, given in their order of arrival: management first,
then spate within the cap, then the others; the partition, the VC within it and the class within that by weighted round
robin; a class in arrival order (R410, R414). -/
def mayGrant (s : State) (hist : List Bool) (spent : List (Nat × Nat)) (cs : List Cand) (i : Nat) : Bool :=
  match cs[i]? with
  | none => false
  | some c =>
    if cs.any (·.mgmt) then c.mgmt && firstOfKind cs i c
    else
      let peers := stepOf s hist cs
      let ofPart := peers.filter (fun x => x.part == c.part)
      let ofVc := ofPart.filter (fun x => x.vc == c.vc)
      peers.contains c && firstOfKind cs i c && turnOf spent (peers.map (partW s)) (partW s c)
        && turnOf spent (ofPart.map (vcW s)) (vcW s c) && turnOf spent (ofVc.map (clsW s)) (clsW s c)

/-- The rounds after a grant to `c`. -/
def afterGrant (s : State) (hist : List Bool) (spent : List (Nat × Nat)) (cs : List Cand) (c : Cand) : List (Nat × Nat) :=
  if c.mgmt then spent
  else
    let peers := stepOf s hist cs
    let ofPart := peers.filter (fun x => x.part == c.part)
    let ofVc := ofPart.filter (fun x => x.vc == c.vc)
    let spent := spend spent (peers.map (partW s)) (partW s c) 8
    let spent := spend spent (ofPart.map (vcW s)) (vcW s c) 4
    spend spent (ofVc.map (clsW s)) (clsW s c) 16

/-- Whether a grant goes to a spate request (R414, R415). -/
def spateGrant (c : Cand) : Bool := !c.mgmt && c.spate

/-- Count a grant to spate (R415). -/
def countGrant (s : State) (sp : Bool) : State := if sp then bump s .qos 0 o_QOS_SPATE_GRANTS 1 else s

/-- The last 63 grants of an arbiter with one more. -/
def pushGrant (hist : List Bool) (sp : Bool) : List Bool := (sp :: hist).take 63

/-! ## The input of a slice -/

/-- Whether two sources are one NI. -/
def sameNi : Src → Src → Bool
  | .group c _, .group d _ => c == d
  | .group c _, .array d => c == d
  | .group c _, .copy d => c == d
  | .array c, .group d _ => c == d
  | .array c, .array d => c == d
  | .array c, .copy d => c == d
  | .copy c, .group d _ => c == d
  | .copy c, .array d => c == d
  | .copy c, .copy d => c == d
  | a, b => a == b

/-- Whether a request carries spate: of its reach, of the trace drain, or of the port and VC that it came in by (R412). -/
def reqSpate (s : State) (q : Req) : Bool :=
  match q.src, q.inp with
  | .trace, _ => traceSpate s
  | .fabric _, some (p, v) => ingressSpate s p v
  | x, _ => (match leadOfSrc s x with
    | some b => reachSpate s b
    | none => false)

/-- Requests that wait at a slice's input. -/
def sliceWaiting (s : State) (sl : Nat) : List Req :=
  s.reqs.filter (fun q => !q.granted && (placeOf s q.line).slice == sl)

/-- A request as a candidate. -/
def reqCand (s : State) (q : Req) : Cand := ⟨q.part, q.label.toNat / 16, 0, reqSpate s q, false⟩

/-- A slice's input grants candidate `i` of those that wait. None: it may not. -/
def grantAt (s : State) (sl : Nat) (cs : List Cand) (i : Nat) : Option State :=
  let x := slice s sl
  match cs[i]? with
  | none => none
  | some c =>
    if !mayGrant s x.grants x.wrr cs i then none
    else
      let s' := setSlice s sl { x with grants := pushGrant x.grants (spateGrant c), wrr := afterGrant s x.grants x.wrr cs c }
      some (countGrant s' (spateGrant c))

/-- Grant request `id` of a slice. -/
def grantSlice (sl id : Nat) (s : State) : State :=
  let ws := sliceWaiting s sl
  match ws.findIdx? (fun q => q.id == id) with
  | none => s
  | some i =>
    match grantAt s sl (ws.map (reqCand s)) i with
    | none => s
    | some s => { s with reqs := s.reqs.map (fun q => if q.id == id then { q with granted := true } else q) }

/-- A request that a command performs whole is granted at its slice's input against those that wait there. -/
def grantNow (s : State) (q : Req) : Option State :=
  let sl := (placeOf s q.line).slice
  let ws := sliceWaiting s sl
  grantAt s sl (ws.map (reqCand s) ++ [reqCand s q]) ws.length

/-! ## The queue of an HBM channel (R409) -/

/-- Put a transaction among others in the order of their numbers. -/
def putBySeq (x : Nat × HbmEnt) : List (Nat × HbmEnt) → List (Nat × HbmEnt)
  | [] => [x]
  | y :: t => if y.1 ≤ x.1 then y :: putBySeq x t else x :: y :: t

/-- The fetches and writebacks of a channel that have not been granted, in their order of arrival. -/
def hbmPending (s : State) (o : Nat) : List HbmEnt :=
  let all := s.slices.flatMap (fun x =>
    (x.2.wbs.filter (fun w => owner w.line == o)).map (fun w =>
      (w.seq, (⟨x.1, w.line, true, w.part, w.lbl.toNat / 16, false⟩ : HbmEnt)))
    ++ (x.2.miss.filter (fun m => owner m.line == o && m.held.isNone)).map (fun m =>
      match m.waiters with
      | q :: _ => (m.seq, (⟨x.1, m.line, false, q.part, q.label.toNat / 16, false⟩ : HbmEnt))
      | [] => (m.seq, ⟨x.1, m.line, false, 0, 0, false⟩)))
  ((all.foldl (fun acc x => putBySeq x acc) []).map (·.2)).filter
    (fun e => !(hbmc s (o / 16)).granted.contains (e.slice, e.line, e.write))

/-- The same transaction. -/
def sameEnt (a b : HbmEnt) : Bool := a.slice == b.slice && a.line == b.line && a.write == b.write

/-- The slot of a transaction in a channel's queue. -/
def channelSlot (s : State) (q : List HbmEnt) (e : HbmEnt) : Option Bool := slotFor s 32 (q.map (fun x => (x.part, x.resv))) e.part

/-- The channel's queue once every transaction that finds a slot has entered it. -/
def hbmQueue (s : State) (o : Nat) : List HbmEnt :=
  let pend := hbmPending s o
  let kept := (mget [] (hbmc s (o / 16)).queue (o % 16)).filter (fun e => pend.any (sameEnt e))
  (pend.filter (fun e => !kept.any (sameEnt e))).foldl (fun q e =>
    match channelSlot s q e with
    | some r => q ++ [{ e with resv := r }]
    | none => q) kept

/-- Store a channel's queue as it stands. -/
def syncQueue (s : State) (o : Nat) : State :=
  let h := hbmc s (o / 16)
  setHbmc s (o / 16) { h with queue := mset [] h.queue (o % 16) (hbmQueue s o) }

/-- Store every channel's queue: slots held stay held, whatever a strobe then does to the shares (R409). -/
def syncQueues (s : State) : State := (List.range 128).foldl syncQueue s

/-- The first request that a fetch serves. -/
def fetchReq (s : State) (e : HbmEnt) : Option Req :=
  if e.write then none else ((slice s e.slice).miss.find? (fun m => m.line == e.line)).bind (fun m => m.waiters.head?)

/-- A transaction as a candidate. -/
def entCand (s : State) (e : HbmEnt) : Cand :=
  ⟨e.part, e.cls, 0, (match fetchReq s e with | some q => reqSpate s q | none => false), false⟩

/-- The pseudo-channel of a line in its stack: its channel and J[0] (R303). -/
def pseudoOf (l : Nat) : Nat := 2 * (owner l % 16) + chanIndex l % 2

/-- A counter that HBM.CTRL.CNT_EN gates (R317). -/
def hbmCountN (s : State) (b off n : Nat) : State := if flag s .hbm b f_HBM_CTRL_CNT_EN then bump s .hbm b off n else s
def hbmCount (s : State) (b off : Nat) : State := hbmCountN s b off 1

/-- A channel's arbiter grants candidate `i` of those that wait for the line `l`; the line's pseudo-channel leaves power-down. The
stack's activation counters, which the stack's own datasheet governs (R300), may call for refresh management: how many commands
the controller issues then is a free value. None: it may not. -/
def grantChan (s : State) (o l : Nat) (cs : List Cand) (i : Nat) : Option State :=
  let h := hbmc s (o / 16)
  let hist := mget [] h.grants (o % 16)
  let spent := mget [] h.wrr (o % 16)
  match cs[i]? with
  | none => none
  | some c =>
    if !mayGrant s hist spent cs i then none
    else
      let s' := countGrant (setHbmc s (o / 16) { h with
        pdn := BitVec.ofNat 32 (putBitsN h.pdn.toNat (pseudoOf l) (pseudoOf l) 0)
        grants := mset [] h.grants (o % 16) (pushGrant hist (spateGrant c))
        wrr := mset [] h.wrr (o % 16) (afterGrant s hist spent cs c) }) (spateGrant c)
      some (nextFresh (hbmCountN s' (o / 16) o_HBM_RFM (Config.freeNat s'.fresh)))

/-- Grant a transaction of channel `o`. -/
def grantHbm (o sl line : Nat) (write : Bool) (s : State) : State :=
  let q := hbmQueue s o
  match q.findIdx? (fun e => e.slice == sl && e.line == line && e.write == write) with
  | none => s
  | some i =>
    match grantChan s o line (q.map (entCand s)) i with
    | none => s
    | some s =>
      let h := hbmc s (o / 16)
      setHbmc s (o / 16) { h with queue := mset [] h.queue (o % 16) (q.eraseIdx i), granted := h.granted ++ [(sl, line, write)] }

/-- The fetch of a request that a command performs whole takes a slot of its channel and is granted at once. None: it finds no
slot, or it is not its turn. -/
def fetchNow (s : State) (q : Req) : Option State :=
  let o := owner q.line
  let qs := hbmQueue s o
  let e : HbmEnt := ⟨(placeOf s q.line).slice, q.line, false, q.part, q.label.toNat / 16, false⟩
  match channelSlot s qs e with
  | none => none
  | some _ => grantChan s o q.line (qs.map (entCand s) ++ [⟨e.part, e.cls, 0, reqSpate s q, false⟩]) qs.length

/-- Whether the channel has granted a transaction. -/
def hbmGranted (s : State) (sl line : Nat) (write : Bool) : Bool :=
  (hbmc s (owner line / 16)).granted.contains (sl, line, write)

/-- A granted transaction is done. -/
def hbmRelease (s : State) (sl line : Nat) (write : Bool) : State :=
  let b := owner line / 16
  setHbmc s b { hbmc s b with granted := (hbmc s b).granted.erase (sl, line, write) }

end Sys2Proof.Machine
end

