-- ==== Sys2Proof/Machine/SliceReq.lean ====
section
/-! DEFINITION. Requests at the slices: holds during switches, misses and their registers, fills, bypasses, the
full/empty window, cached lines of fabric windows, bond groups (R238 to R243, R257, R266, R271 to R275, R288, R289, R392 to
R396). -/
namespace Sys2Proof.Machine

/-! ## Holds (R239, R266, R292, R395) -/

/-- The staged fields of a stream window. -/
def swinStaged (s : State) (n : Nat) : SWin :=
  ⟨(regStg s .chip 0 (o_CHIP_SWIN_BASE n)).toNat, (regStg s .chip 0 (o_CHIP_SWIN_LIMIT n)).toNat, (regStg s .chip 0 (o_CHIP_SWIN_CFG n)).toNat⟩
/-- The fields to which a window switches: those that passed their checks (R265, R266). -/
def swinTo (s : State) (n : Nat) : SWin :=
  let (b, l, c) := mget (0, 0, 0) s.cache.winTo n
  ⟨b.toNat, l.toNat, c.toNat⟩

/-- Whether a window's switch is in progress. -/
def switching (s : State) (n : Nat) : Bool := fld s .chip 0 (f_CHIP_SWIN_STAT_SWITCHING n) == 1

/-- The serving slice of a line before SLICE_REMAP. -/
def rawSlice (s : State) (l : Nat) : Nat :=
  match feLine s l with
  | some n => n % 128
  | none => (placeIn s ((windowOf s l).map (swin s)) l).1

/-- Whether a line lies in a full/empty window given by register values. -/
def inFe (base ctrl l : Nat) : Bool :=
  let n := 4096 * 2 ^ (ctrl % 16)
  let b := base * 4096 / n * n
  bitN ctrl 31 && b ≤ l && l < b + n

/-- Whether a full/empty access waits at its word (R242). -/
def feWaiting (s : State) : Bool := s.reqs.any (fun q => q.atWord)

/-- Whether requests to a line are held at its slice: the slice is frozen (R495); a switch of a window over it or of its slice's remap is in progress, or its
slice has retired and is not remapped; or the full/empty window is switching and no full/empty access waits any longer, so that its
fields have reached their safe point (R239). -/
def lineHeld (s : State) (l : Nat) : Bool :=
  let o := (placeOf s l).slice
  (List.range 32).any (fun n => switching s n &&
    ((winEn (swin s n) && winCovers (swin s n) l) || (winEn (swinTo s n) && winCovers (swinTo s n) l)))
  || s.cache.remapSw.contains (rawSlice s l)
  || (s.cache.feSw && !feWaiting s && (inFe (reg s .chip 0 o_CHIP_FE_BASE).toNat (reg s .chip 0 o_CHIP_FE_CTRL).toNat l
      || inFe s.cache.feTo.1.toNat s.cache.feTo.2.toNat l))
  || (slice s o).retiring || flag s .slice o f_SLICE_BOND_STATUS_RETIRED || sliceFrozen s o

/-! ## Miss registers (R273, R274) -/

/-- Store a slice's miss registers and their count. -/
def setMiss (s : State) (sl : Nat) (m : List MissReg) : State :=
  setF (setSlice s sl { slice s sl with miss := m }) .slice sl f_SLICE_STATUS_MISS_USED m.length

/-- The miss register of a line. -/
def missOf (s : State) (sl l : Nat) : Option MissReg := (slice s sl).miss.find? (fun m => m.line == l)

/-- Replace the miss register of a line; none frees it. -/
def putMiss (s : State) (sl l : Nat) (m : Option MissReg) : State :=
  setMiss s sl ((slice s sl).miss.filterMap (fun x => if x.line == l then m else some x))

/-- Whether a request is a contribution. -/
def isRed (op : ReqOp) : Bool :=
  match op with
  | .addW _ _ | .addF _ | .maxMin _ _ => true
  | _ => false

/-- Whether a request is an ordinary write, accepted on entering a miss register (R288). -/
def isPlainWrite (op : ReqOp) : Bool :=
  match op with
  | .write _ _ _ _ _ _ | .dead => true
  | _ => false

/-- Send a reply to its source, unless it has been told already (R288). -/
def respond (s : State) (q : Req) (r : Reply) : State :=
  if q.accepted then s else { s with resps := s.resps ++ [⟨q.id, q.src, q.line, r⟩] }

/-- A request as it waits in a miss register: an ordinary write has been accepted (R288). -/
def asWaiter (q : Req) : Req := if isPlainWrite q.op then { q with accepted := true } else q

/-- Perform waiters in their order of arrival (R273); ordinary writes were accepted when they entered. -/
def runWaiters (s : State) (sl key : Nat) : List Req → State
  | [] => s
  | q :: t =>
    let (s, r) := performAt s sl key q
    runWaiters (respond s q r) sl key t

/-- The key of the way that a bypassed line borrows while its waiters are performed; it holds a line only within one
operation. -/
def tmpKey : Nat := 8192 * 24 + 2 ^ 20

/-- A line that is not allocated (R271): the waiters before the first reduction are performed on the fetched line,
which goes straight back to HBM if they changed it, by a slot of its channel. Answers the waiters left and the line. -/
def bypassLine (s : State) (sl l : Nat) (b : Body) (dead dirty : Bool) (ws : List Req) : State × List Req × Body × Bool :=
  let now := ws.takeWhile (fun q => !isRed q.op)
  let rest := ws.dropWhile (fun q => !isRed q.op)
  let s := setWay s sl tmpKey { valid := true, tag := l, dead := dead, dirty := dirty, body := b }
  let s := runWaiters s sl tmpKey now
  let w := wayAt s sl tmpKey
  let s := setWay s sl tmpKey {}
  if rest.isEmpty then
    let lbl := match ws with | q :: _ => q.label | [] => 0
    let part := match ws with | q :: _ => q.part | [] => 0
    let s := if w.dead && !dead then addWb (hbmMarkDead s l) sl ⟨l, lbl, part, 0⟩
      else if w.dirty then addWb (hbmWriteBody s l { w.body with syn := [] }) sl ⟨l, lbl, part, 0⟩ else s
    (s, [], w.body, w.dead)
  else (s, rest, w.body, w.dead)

/-- A fill lands (R273): the line takes a way by R268 and the waiters are performed; or it is bypassed (R271). -/
def landLine (s : State) (sl l : Nat) (m : MissReg) (b : Body) (dead dirty : Bool) (first : Bool) : State :=
  match m.waiters with
  | [] => putMiss s sl l none
  | q :: _ =>
    let set := (placeOf s l).set
    let go := fun (s : State) (w : Nat) =>
      let s := evict s sl set w
      let s := install s sl set w q false dirty dead b
      putMiss (runWaiters s sl (wayKey set w) m.waiters) sl l none
    match chooseWay s sl set q with
    | .take w => go s w
    | .force w => go s w
    | .bypass =>
      let s := if first then noteBypass s sl set q (anchorRec b) else s
      let (s, rest, b', dead') := bypassLine s sl l b dead dirty m.waiters
      if rest.isEmpty then putMiss s sl l none
      else putMiss s sl l (some { m with waiters := rest, held := some (b', dead') })

/-- The fetch of a line by a request that finds it dead is a read of a dead line when the request is a partial write
(R277). -/
def deadFetch (s : State) (sl : Nat) (q : Req) : State :=
  match q.op with
  | .write _ _ _ false _ _ => deadRead s sl q
  | _ => s

/-- SLICE_FILL_LANDED: the fetch of a line completes (R273, R308). -/
def fillLand (s : State) (sl l : Nat) : State :=
  match missOf s sl l with
  | none => s
  | some m =>
    if m.held.isSome then s
    else
      let lbl := match m.waiters with | q :: _ => q.label | [] => 0
      let (s, f) := hbmFetch s l 3 lbl
      let s := if f.dead then (match m.waiters with | q :: _ => deadFetch s sl q | [] => s) else s
      landLine s sl l m f.body f.dead f.fixed true

/-- BYPASS_RETRY: a reduction that waits in its miss register repeats the choice of R268 (R271). -/
def bypassRetry (s : State) (sl l : Nat) : State :=
  match missOf s sl l with
  | some m =>
    match m.held with
    | some (b, dead) => landLine s sl l m b dead true false
    | none => s
  | none => s

/-! ## The full/empty window (R238 to R243) -/

/-- Bring window line `n` into its way: at the window's enabling, and again after a maintenance command that invalidated it
(R239, R291). Answers whether it was there. -/
def feResident (s : State) (sl n l : Nat) (lbl : Byte) (part : Nat) : State × Bool :=
  if (wayAt s sl (feKey n)).valid then (s, true)
  else
    let (s, f) := hbmFetch (bump s .slice sl o_SLICE_MISSES 1) l 3 lbl
    let s := setWay s sl (feKey n) { valid := true, tag := l, dead := f.dead, dirty := f.fixed, cls := 2, lbl := lbl, cpart := part }
    (putBody s sl (feKey n) f.body allWords, false)

/-- Whether word `i` of window line `n` is FULL. -/
def feIsFull (s : State) (sl n i : Nat) : Bool := bitN (mget 0 (slice s sl).feFull n).toNat i

/-- Set the FULL bit of a word. -/
def feSetFull (s : State) (sl n i : Nat) (v : Bool) : State :=
  let m := mget 0 (slice s sl).feFull n
  setSlice s sl { slice s sl with feFull := mset 0 (slice s sl).feFull n (BitVec.ofNat 32 (putBitsN m.toNat i i (b2n v))) }

/-- A full/empty access (R241, R243); none while it waits. -/
def feAccess (s : State) (sl n : Nat) (q : Req) (store : Bool) (mode word : Nat) : Option (State × Reply) :=
  let full := feIsFull s sl n word
  if store then
    if mode = 1 && full then none
    else
      let (s, r) := performAt s sl (feKey n) q
      some (feSetFull s sl n word true, r)
  else if !full then none
  else
    let (s, r) := performAt s sl (feKey n) q
    let bad := match r with
      | .data _ p _ _ => bitN p.toNat word
      | _ => false
    some (if mode = 2 && !bad then feSetFull s sl n word false else s, r)

/-! ## One request at its slice (R267, R273 to R276, R287, R288) -/

/-- Allocate a whole-line write without a fetch (R267), or write it straight to HBM by a slot of its channel (R271, R409). -/
def allocWrite (s : State) (sl set : Nat) (q : Req) (b : Body) : State :=
  let go := fun (s : State) (w : Nat) => install (evict s sl set w) sl set w q false true false b
  match chooseWay s sl set q with
  | .take w => go s w
  | .force w => go s w
  | .bypass => addWb (hbmWriteBody (noteBypass s sl set q 0) q.line b) sl ⟨q.line, q.label, q.part, 0⟩

/-- Put a request among others in the order of their numbers. -/
def insertReq (q : Req) : List Req → List Req
  | [] => [q]
  | x :: t => if x.id ≤ q.id then x :: insertReq q t else q :: x :: t

/-- Perform a request at its serving slice. None: it must wait and nothing changes. Otherwise the new state, with a reply
unless the request waits in a miss register or at its full/empty word (R242). -/
def slicePerform (s : State) (q : Req) : Option (State × Option Reply) :=
  let l := q.line
  if lineHeld s l then none
  else
    let sp := placeOf s l
    let sl := sp.slice
    match feLine s l with
    | some n =>
      if q.op = .dead then some (s, some .accepted)
      else
        let (s, hit) := feResident s sl n l q.label q.part
        let s := if hit && !q.atWord then bump s .slice sl o_SLICE_HITS 1 else s
        match q.op with
        | .fe st mode word _ _ =>
          (match feAccess s sl n q st mode word with
          | some p => some (p.1, some p.2)
          | none => if q.atWord then none else some ({ s with reqs := insertReq { q with atWord := true } s.reqs }, none))
        | _ => let (s, r) := performAt s sl (feKey n) q; some (s, some r)
    | none =>
      match lineKey s sl sp.set l with
      | some key =>
        let s := touch (bump s .slice sl o_SLICE_HITS 1) sl sp.set (key % 24)
        let (s, r) := performAt s sl key q
        some (s, some r)
      | none =>
        if (slice s sl).wbs.any (·.line == l) then none
        else match missOf s sl l with
        | some m =>
          if m.waiters.length ≥ 32 then none
          else
            let s := bump (putMiss s sl l (some { m with waiters := m.waiters ++ [asWaiter q] })) .slice sl o_SLICE_MERGES 1
            some (s, if isPlainWrite q.op then some .accepted else none)
        | none =>
          match q.op with
          | .dead => some (hbmMarkDead s l, some .accepted)
          | .write d _ p true c wd => some (allocWrite s sl sp.set q (wholeBody d p c wd), some .accepted)
          | _ =>
            if (slice s sl).miss.length ≥ 256 then none
            else
              let (s, n) := newId s
              let s := bump (setMiss s sl ((slice s sl).miss ++ [⟨l, [asWaiter q], none, n⟩])) .slice sl o_SLICE_MISSES 1
              some (s, if isPlainWrite q.op then some .accepted else none)

/-- The channel accepts a line's writeback (R275). -/
def wbDone (s : State) (sl l : Nat) : State :=
  setSlice s sl { slice s sl with wbs := (slice s sl).wbs.filter (fun x => x.line != l) }

/-- Whether an earlier request of the same NI to the same line is on its way (R287); one that waits at its full/empty word has
arrived and holds back no other. -/
def laterOf (q : Req) (before : List Req) : Bool := before.any (fun x => x.line == q.line && !x.atWord && sameNi x.src q.src)

/-- What is in progress on the line of a request that a command performs whole completes first, if its channel has granted it:
its writeback, or its fetch. None: it has not been granted. -/
def settleLine (s : State) (sl l : Nat) : Option State :=
  let s' := if (slice s sl).wbs.any (·.line == l) then (if hbmGranted s sl l true then some (wbDone (hbmRelease s sl l true) sl l) else none) else some s
  s'.bind (fun s =>
    match missOf s sl l with
    | some m => if m.held.isSome then some s else if hbmGranted s sl l false then some (fillLand (hbmRelease s sl l false) sl l) else none
    | none => some s)

/-- Whether a request fetches its line. -/
def fetches (s : State) (q : Req) : Bool :=
  let sp := placeOf s q.line
  let inWay := match feLine s q.line with
    | some n => (wayAt s sp.slice (feKey n)).valid
    | none => (lineKey s sp.slice sp.set q.line).isSome || (missOf s sp.slice q.line).isSome
  let whole := match q.op with
    | .dead => true
    | .write _ _ _ w _ _ => w
    | _ => false
  !inWay && !whole

/-- A request of a master that a command performs whole, in the arbiters' order: its slice's input grants it against the requests
that wait there, an earlier request of its NI to the line goes first (R287), and its own fetch takes a slot of its channel and is
granted there (R409, R410). None: it must wait. The reply is none when a reduction waits for a way. -/
def syncAccess (s : State) (q : Req) : Option (State × Option Reply) :=
  let l := q.line
  let sl := (placeOf s l).slice
  if lineHeld s l || laterOf q s.reqs then none
  else
    (((grantNow s q).bind (fun s => settleLine s sl l)).bind (fun s => if fetches s q then fetchNow s q else some s)).bind (fun s =>
      match slicePerform s q with
      | none => none
      | some (s, some r) => some (fillLand s sl l, some r)
      | some (s, none) =>
        let s := fillLand s sl l
        match s.resps.find? (fun r => r.id == q.id) with
        | some r => some ({ s with resps := s.resps.filter (fun r => r.id != q.id) }, some r.reply)
        | none => some (s, none))

/-- Send a request on its way to its slice (R287: requests keep their order of issue). -/
def sendReq (s : State) (q : Req) : State := { s with reqs := s.reqs ++ [q] }

/-! ## Verifying a line that a consumer reads (R378, R380) -/

/-- The way that holds a cached line of a fabric window (R257). -/
def remoteKey (s : State) (l : Nat) : Option (Nat × Nat) :=
  let sl := remapped s (owner l)
  let set := hashSet l
  ((List.range 24).find? (fun w => let x := wayAt s sl (wayKey set w); x.valid && x.tag == l && x.remote)).map
    (fun w => (sl, wayKey set w))

/-- The way in which a line is served: of this device, or cached from a fabric window (R257). -/
def servedKey (s : State) (l : Nat) : Option (Nat × Nat) :=
  let sp := placeOf s l
  if !backed l then remoteKey s l
  else match feLine s l with
  | some n => if (wayAt s sp.slice (feKey n)).valid then some (sp.slice, feKey n) else none
  | none => (lineKey s sp.slice sp.set l).map (fun k => (sp.slice, k))

/-- A verifier reports a mismatch of a line (R380): the slice re-verifies its own copy. -/
def reportMismatch (s : State) (l : Nat) (lbl : Byte) : State :=
  match servedKey s l with
  | none => s
  | some (sl, key) =>
    let b := (wayAt s sl key).body
    let h := homeLine s l
    if checkOk h b then sliceCheckFail s sl 4 4 lbl h
    else sliceCheckFail (poisonWay s sl key) sl 3 4 lbl h

/-- A whole line read by a verifying consumer: data, poison, dead, OVF, and whether the check value matched; a line
delivered with poison, and a dead line, is not verified. -/
structure LineRead where
  data : Line
  pois : BitVec 32
  dead : Bool
  ovf : Bool
  ok : Bool
  deriving DecidableEq, Repr

/-- The check value with which a line is delivered. A partial with SPEC delivered as 0 (R283) makes the line poisoned,
so it is not verified. -/
def verifyRead (s : State) (l : Nat) (d : Line) (p : BitVec 32) : Bool :=
  match servedKey s l with
  | none => p ≠ 0 || (formOf l d (entryOf s l)).isSome
  | some (sl, key) =>
    let b := (wayAt s sl key).body
    p ≠ 0 || checkValue (if b.av then .wide else .plain) (homeLine s l) d = b.chk

/-- A whole line read, with its poison and whether it is dead, by a master at which R378 verifies nothing. None: it must wait. -/
def readWhole (s : State) (q : Req) : Option (State × Line × BitVec 32 × Bool) :=
  match syncAccess s q with
  | some (s, some (.data d p dead _)) => some (s, d, p, dead)
  | _ => none

/-- A whole line read and verified by its consumer; a mismatch is reported to its slice. None: it must wait. -/
def readLineNow (s : State) (q : Req) : Option (State × LineRead) :=
  match syncAccess s q with
  | some (s, some (.data d p dead ov)) =>
    let ok := dead || verifyRead s q.line d p
    some (if ok then s else reportMismatch s q.line q.label, ⟨d, p, dead, ov, ok⟩)
  | _ => none

/-! ## Cached lines of fabric windows (R257, R289) -/

/-- Cache a line that a completion brought from a read-only fabric window (R257, R377). -/
def remoteFill (s : State) (q : Req) (b : Body) : State :=
  let sl := remapped s (owner q.line)
  let set := hashSet q.line
  let go := fun (s : State) (w : Nat) => install (evict s sl set w) sl set w q true false false b
  match chooseWay s sl set q with
  | .take w => go s w
  | .force w => go s w
  | .bypass => noteBypass s sl set q (anchorRec b)

/-- Invalidate the cached fabric-window lines of a slice that `p` names (R289, R291). -/
def dropRemote (p : Nat → Bool) (s : State) (sl : Nat) : State :=
  (slice s sl).ways.foldl (fun s y => if y.2.valid && y.2.remote && p y.2.tag then dropWay s sl (y.1 / 24) (y.1 % 24) else s) s

/-- Invalidate every cached fabric-window line of a slice (R291). -/
def invRemote (s : State) (sl : Nat) : State := dropRemote (fun _ => true) s sl

/-! ## Bond groups (R392 to R395) -/

/-- Groups retired in a slice. -/
def groupsRetired (s : State) (sl : Nat) : Nat := fld s .slice sl f_SLICE_BOND_STATUS_GROUPS

/-- R394, R395: retire a bond group; the fourth retires the slice. -/
def retireGroup (s : State) (sl g : Nat) : State :=
  let s := setF s .slice sl ⟨o_SLICE_BOND_RETIRED, g, g⟩ 1
  let n := min 4 (groupsRetired s sl + 1)
  let s := setF s .slice sl f_SLICE_BOND_STATUS_GROUPS n
  let s := raiseIrq s .slice sl 9
  if n = 4 then setSlice s sl { slice s sl with retiring := true } else s

/-- R393: a correctable decode counts against its wire; at THRESH a spare takes the wire's place, or the group retires. -/
def bondCorrect (s : State) (sl g wire : Nat) : State :=
  let s := bump s .slice sl o_SLICE_BOND_CE 1
  let k := g * 256 + wire
  let n := mget 0 (slice s sl).wires k + 1
  let s := setSlice s sl { slice s sl with wires := mset 0 (slice s sl).wires k n }
  if n < fld s .slice sl f_SLICE_BOND_CFG_THRESH then s
  else
    let s := setSlice s sl { slice s sl with wires := mset 0 (slice s sl).wires k 0 }
    let sp := mget [] (slice s sl).spares g
    if bitN (reg s .slice sl o_SLICE_BOND_RETIRED).toNat g then s
    else if sp.length < 4 then
      let s := setSlice s sl { slice s sl with spares := mset [] (slice s sl).spares g (sp ++ [wire]) }
      let s := setF s .slice sl f_SLICE_BOND_STATUS_SPARES (fld s .slice sl f_SLICE_BOND_STATUS_SPARES + 1)
      raiseIrq s .slice sl 8
    else retireGroup s sl g

/-! ## Transfers (R369, R371, R372, R384, R385, R392) -/

/-- The position of a word in transfer: its device address div 8 (R371). -/
def transferPos (l w : Nat) : Nat := 32 * l + w

/-- The bond group that carries a word of a line: 0 to 15 into the slice, 16 to 31 out of it (R392). -/
def bondGroup (inward : Bool) (w : Nat) : Nat := w / 2 + (if inward then 0 else 16)

/-- The wire of a bit of a word in its group: 128 data wires and 16 check wires carry two words with their check bits (R392). -/
def bondWire (w : Nat) (bit : Option Nat) (syn : Byte) : Nat :=
  match bit with
  | some j => w % 2 * 64 + j
  | none => 128 + w % 2 * 8 + Nat.log2 syn.toNat

/-- What an upset does to the transfer of a line's words at slice `sl`, into it or out of it: the words that arrive poisoned, and
whether the slice's fourth bond group retired on it (R372, R384, R385, R392 to R395). -/
def transfer (s : State) (sl : Nat) (inward : Bool) (u : Upset) (lbl : Byte) (l : Nat) : State × BitVec 32 × Bool :=
  let src := if inward then 1 else 0
  let one := fun (onLink : Bool) (w : Nat) (d : W64) (c : Byte) =>
    let syn := flipSyndrome (transferPos l w) d.toNat 0 c.toNat
    match classify true syn with
    | .good => (s, (0 : BitVec 32), false)
    | .fix bit =>
      if onLink then
        let t := bondCorrect (sliceErr s sl 1 src w syn lbl l) sl (bondGroup inward w) (bondWire w bit syn)
        (t, 0, (slice t sl).retiring && !(slice s sl).retiring)
      else (sliceCE s sl src w syn lbl l, 0, false)
    | .poison => (s, BitVec.ofNat 32 (2 ^ w), false)
    | .bad => (sliceUE s sl src w syn lbl l, BitVec.ofNat 32 (2 ^ w), false)
  match u with
  | .none => (s, 0, false)
  | .link w d c => one true w d c
  | .mesh w d c => one false w d c

/-- A reply whose words in the mask arrive poisoned. -/
def poisonReply (op : ReqOp) (m : BitVec 32) (r : Reply) : Reply :=
  match r with
  | .data d p dead ov => .data d (p ||| m) dead ov
  | .olds vs => .olds ((vs.zip (match op with | .atd _ ops _ => ops.map (·.1) | _ => [])).map (fun x => (x.1.1, x.1.2 || bitN m.toNat x.2)))
  | r => r

/-- A reply as it crosses to its source (R372, R395). -/
def linkReply (s : State) (sl : Nat) (u : Upset) (q : Req) (r : Reply) : State × Reply :=
  let (s, m, lost) := transfer s sl false u q.label q.line
  (s, poisonReply q.op (if lost then allWords else m) r)

end Sys2Proof.Machine
end

