-- ==== Sys2Proof/Machine/Ops.lean ====
section
/-! DEFINITION. Operations that every family shares: worlds, memory-region descriptors and the secure log (R517 to R524),
labels (R406, R411), fabric windows (R337, R340), watchpoints (R574, R575), the selectable counters (R569, R570) and the
staging of trace records (R578, R579). -/
namespace Sys2Proof.Machine

/-! ## Trace records (R576 to R579) -/

/-- TRACE.CTRL.EN: records are staged, unless the page is frozen (R495). -/
def traceOn (s : State) : Bool := flag s .trace 0 f_TRACE_CTRL_EN && !frozen s .trace 0

/-- A record with its common fields (R579): type, label, source and the bytes from 12 on. -/
def recordOf (s : State) (type : Nat) (label : Byte) (src tail : Nat) : BitVec 256 :=
  BitVec.ofNat 256 (s.time.toNat + type <<< 64 + label.toNat <<< 72 + (src % 65536) <<< 80 + (tail % 2 ^ 160) <<< 96)

/-- A record that finds the staging buffer full, or a full STOP buffer, is dropped (R576, R578). -/
def dropRecord (s : State) : State :=
  let s := bump s .trace 0 o_TRACE_DROPPED 1
  raiseIrq { s with trace := { s.trace with dropped := s.trace.dropped + 1 } } .trace 0 0

/-- Whether a record finds no place. -/
def stagingFull (s : State) : Bool :=
  s.trace.staged.length ≥ 512 || fld s .trace 0 f_TRACE_STATUS_FULL = 1

/-- Stage a record; after drops a DROP record precedes it (R578). -/
def stageRecord (s : State) (r : BitVec 256) : State :=
  if !traceOn s then s
  else if stagingFull s then dropRecord s
  else if s.trace.dropped = 0 then { s with trace := { s.trace with staged := s.trace.staged ++ [r] } }
  else
    let d := recordOf s 5 0 0xFFFF (s.trace.dropped % 2 ^ 32)
    let s := { s with trace := { s.trace with staged := s.trace.staged ++ [d], dropped := 0 } }
    if stagingFull s then dropRecord s
    else { s with trace := { s.trace with staged := s.trace.staged ++ [r] } }

/-- Whether TRACE.CTRL.SRC enables a kind of record: bit 3 PC_SAMPLE, 2 WATCH, 1 fabric, 0 GAUGE (R582). -/
def traceSrc (s : State) (bit : Nat) : Bool := bitN (fld s .trace 0 f_TRACE_CTRL_SRC) bit

/-! ## Selectable region counters (R569, R570) -/

/-- Whether a cell lies in the scope of a counter of its region. -/
def inScope (s : State) (c scope index : Nat) : Bool :=
  match scope with
  | 0 => true
  | 1 => index ≤ 5 && blockOfCell s c == 6 * (c / 45) + index
  | 2 => c % 45 == index
  | _ => false

/-- `n` occurrences of an event in a cell reach the counters that select it. -/
def pmcFrom (s : State) (c ev n : Nat) : Nat → State
  | 0 => s
  | k + 1 =>
    let s := pmcFrom s c ev n k
    let w := (reg s .region (regionOfCell c) (o_REGION_PMC_SEL k)).toNat
    if bitN w 31 && bitsN w 23 16 == ev && inScope s c (bitsN w 13 12) (bitsN w 5 0) then
      bump s .region (regionOfCell c) (o_REGION_PMC k) n
    else s

/-- `n` occurrences of an event of R570 in a cell. -/
def pmc (s : State) (c ev n : Nat) : State := pmcFrom s c ev n 8

/-! ## Worlds (R517, R519 to R524) -/

/-- SEC.BLOCK_WORLD: whether a block is secure. -/
def secureBlock (s : State) (b : Nat) : Bool := bitN (reg s .sec 0 (o_SEC_BLOCK_WORLD (b / 32))).toNat (b % 32)
/-- Whether a cell's requests are secure. -/
def secureCell (s : State) (c : Nat) : Bool := secureBlock s (blockOfCell s c)

/-- An event for the secure log (R524). -/
def secLogAdd (s : State) (type src : Nat) (write : Bool) (srcId : Nat) (label : Byte) (mrd addr : Nat) : State :=
  if s.secLog.length ≥ 32 then raiseIrq (bumpField s .sec 0 f_SEC_LOG_STATUS_LOST 1) .sec 0 1
  else
    let e : Nat := type <<< 124 + src <<< 122 + b2n write <<< 121 + (srcId % 65536) <<< 96 + label.toNat <<< 88
      + (mrd % 64) <<< 82 + timeBits s 41 10 <<< 48 + addr % 2 ^ 48
    let s := { s with secLog := s.secLog ++ [BitVec.ofNat 128 e] }
    raiseIrq (setF s .sec 0 f_SEC_LOG_STATUS_COUNT s.secLog.length) .sec 0 0

/-- The active fields of a memory-region descriptor: BASE, LIMIT and CFG. -/
def mrdRegs (s : State) (n : Nat) : Nat × Nat × Nat :=
  ((reg s .sec 0 (o_SEC_MRD_BASE n)).toNat, (reg s .sec 0 (o_SEC_MRD_LIMIT n)).toNat, (reg s .sec 0 (o_SEC_MRD_CFG n)).toNat)

/-- The enabled descriptor that contains an address (R519: enabled descriptors do not overlap). -/
def mrdOf (s : State) (a : Nat) : Option Nat :=
  (List.range 64).find? (fun n => let (b, l, c) := mrdRegs s n; bitN c 31 && b ≤ a / 65536 && a / 65536 ≤ l)

/-- The check of R520: a refusal is answered as its secure-log type (1 WORLD, 2 PERM, 3 PART) and the descriptor.
`part` is the partition of the label, none where the PART check is skipped. -/
def mrdCheck (s : State) (a : Nat) (secure rd wr : Bool) (part : Option Nat) : Option (Nat × Nat) :=
  match mrdOf s a with
  | none => none
  | some n =>
    let c := (mrdRegs s n).2.2
    if bitN c 30 && !secure then some (1, n)
    else if (rd && !bitN c 29) || (wr && !bitN c 28) then some (2, n)
    else match part with
    | some p => if !bitN c 27 && p != bitsN c 26 24 then some (3, n) else none
    | none => none

/-! ## Labels (R406, R411) -/

/-- The label of a cell's requests: the reach's in RUN, 0x80 otherwise. -/
def cellLabel (s : State) (lbl : Byte) : Byte := if phase s = phRun then lbl else 0x80
/-! ## The check of a cell's request at entry (R304, R340, R520) -/

/-- Where an admitted request goes, or the DETAIL of its refusal: 1 world, 2 region or partition. -/
inductive Entry where
  | hbm
  | window (w : Nat)
  | refused (detail : Nat)
  deriving DecidableEq, Repr

/-- Check one address of a request of a cell; a refusal by a descriptor or a SECURE window is logged. -/
def cellEntry (s : State) (c : Nat) (label : Byte) (a : Nat) (rd wr : Bool) : State × Entry :=
  let sec := secureCell s c
  match mrdCheck s a sec rd wr (some (labelPart label)) with
  | some (t, n) => (secLogAdd s t 0 wr c label n a, .refused (if t = 1 then 1 else 2))
  | none =>
    if a < 2 ^ 48 && backed (lineOf a) then (s, .hbm)
    else match fwinOf s a with
    | none => (s, .refused 2)
    | some n =>
      let w := fwin s n
      if fwPart w != labelPart label then (s, .refused 2)
      else if fwSecure w && !sec then (secLogAdd s 6 0 wr c label 0 a, .refused 2)
      else if wr && fwRo w then (s, .refused 2)
      else (s, .window n)

/-! ## Watchpoints (R574, R575) -/

/-- The active fields of watchpoint `w` of a region: BASE, LIMIT and the word that holds EN, ACTION and KINDS. -/
def wpRegs (s : State) (r w : Nat) : Nat × Nat × Nat :=
  let hi := (reg s .region r (o_REGION_WP_LIMIT_HI w)).toNat
  ((reg s .region r (o_REGION_WP_BASE_LO w)).toNat + fldW (reg s .region r (o_REGION_WP_BASE_HI w)) 15 0 * 2 ^ 32,
   (reg s .region r (o_REGION_WP_LIMIT_LO w)).toNat + bitsN hi 15 0 * 2 ^ 32, hi)

/-- Whether watchpoint `w` watches a request: `kinds` has R in bit 2, W in bit 1, D in bit 0. -/
def wpHits (s : State) (r w kinds : Nat) (label : Byte) (acc : List (Nat × Nat)) : List Nat :=
  let (b, l, hi) := wpRegs s r w
  if bitN hi 31 && bitsN hi 29 27 &&& kinds ≠ 0 && (!bitN hi 24 || bitsN hi 23 16 == label.toNat) then
    (acc.filter (fun x => b ≤ x.1 + x.2 - 1 && x.1 ≤ l + 7)).map (·.1)
  else []

/-- The lowest-numbered watchpoint that an instruction's accesses hit, the lowest address that hit, and whether its
action is PARK. -/
def watchOf (s : State) (c kinds : Nat) (label : Byte) (acc : List (Nat × Nat)) (skip : List Nat) : Option (Nat × Nat × Bool) :=
  (List.range 16).findSome? (fun w =>
    if skip.contains w then none
    else match wpHits s (regionOfCell c) w kinds label acc with
    | [] => none
    | a :: t => some (w, t.foldl min a, bitN (wpRegs s (regionOfCell c) w).2.2 30))

/-- The KIND of a WATCH record (R579): 1 R, 2 W, 3 R and W, 4 D. -/
def watchKind (kinds : Nat) : Nat := if kinds = 4 then 1 else if kinds = 2 then 2 else if kinds = 6 then 3 else 4

/-- Write a WATCH record (R575, R579). `g` is the group, or 0xFF. -/
def watchRecord (s : State) (c g pcOff kinds w a : Nat) (label : Byte) : State :=
  if traceSrc s 2 then
    stageRecord s (recordOf s 2 label c (a % 2 ^ 48 + w <<< 48 + watchKind kinds <<< 56 + g <<< 64 + (pcOff % 2 ^ 32) <<< 72))
  else s

/-- Count a hit of an instruction (R575). -/
def watchCount (s : State) (c w : Nat) : State := bump s .region (regionOfCell c) (o_REGION_WP_HITS w) 1

/-! ## Intervals (R9) -/

/-- The time-stamp at which an interval was last marked; 0 before its first mark. -/
def timerAt (s : State) (t : Timer) : Nat := ((s.chores.timers.find? (fun x => x.1 == t)).map (·.2)).getD 0

/-- Mark an interval at a time-stamp. -/
def markTimer (s : State) (t : Timer) (n : Nat) : State :=
  { s with chores := { s.chores with timers := (t, n) :: s.chores.timers.filter (fun x => x.1 != t) } }

/-- An interval begins now. -/
def startTimer (s : State) (t : Timer) : State := markTimer s t s.time.toNat

/-- Whether an interval of `len` ns has passed since its mark. -/
def due (s : State) (t : Timer) (len : Nat) : Bool := timerAt s t + len ≤ s.time.toNat

/-- The latest of the ends of the intervals since the mark becomes the mark. -/
def passed (s : State) (t : Timer) (len : Nat) : State := markTimer s t (s.time.toNat - (s.time.toNat - timerAt s t) % max 1 len)

/-- What happens at the end of every interval of `len` ns; before it, nothing does. -/
def atEvery (t : Timer) (len : Nat) (f : State → State) (s : State) : State := if due s t len then f (passed s t len) else s

/-- Whether background work runs: from step 11 of bring-up until the phase leaves READY, RUN or TEST (R562). -/
def backgroundOn (s : State) : Bool := phase s == phReady || phase s == phRun || phase s == phTest

/-! ## The end of a meaning -/

/-- What a command answers: the state it reaches. A command changes neither the part, which R1 fixes, nor the queue of
commands that wait. -/
def done (s t : State) : Host.Outcome State Fault Refusal := .next { t with part := s.part, pending := s.pending }

/-- A meaning that the reset pins do not hold off. A command whose operands name a unit, an offset or a width that the device does
not have finds nothing to act on: it changes nothing (log entry 7). -/
def runAlways (ok : Bool) (s : State) (f : State → State) : Host.Outcome State Fault Refusal :=
  done s (if ok then f s else s)

/-- Whether every unit is held in reset: PERST# is low, or the strap TESTEN was sampled high (R605, R609). -/
def inReset (s : State) : Bool := s.pkg.perst || s.pkg.testen

/-- A meaning: the effect on operands that name something; a unit that is held in reset does nothing. -/
def run (ok : Bool) (s : State) (f : State → State) : Host.Outcome State Fault Refusal :=
  runAlways ok s (fun s => if inReset s then s else f s)

end Sys2Proof.Machine
end

