-- ==== Sys2Proof/Machine/Pause.lean ====
section
/-! DEFINITION. The mesh, and the pause ratio of a region (R21, R426, R427). -/
namespace Sys2Proof.Machine

/-- A region's rail. -/
def rail (s : State) (r : Nat) : Rail := mget {} s.power.rails r
/-- Store a region's rail. -/
def setRail (s : State) (r : Nat) (v : Rail) : State := { s with power := { s.power with rails := mset {} s.power.rails r v } }

/-- Mesh neighbours of a physical region (R21). -/
def meshOf (p : Nat) : List Nat :=
  (if p % 8 = 0 then [] else [p - 1]) ++ (if p % 8 = 7 then [] else [p + 1]) ++ (if p < 8 then [] else [p - 8]) ++ (if p + 8 < 32 then [p + 8] else [])

/-- Whether two regions are mesh neighbours. -/
def adjacent (s : State) (r q : Nat) : Bool := (meshOf (physRegion s r)).contains (physRegion s q)

/-- The mesh neighbours of a region that the part has. -/
def neighbours (s : State) (r : Nat) : List Nat := (List.range (partRegions s.part)).filter (adjacent s r)
/-- Its neighbours that are ON. -/
def onNeighbours (s : State) (r : Nat) : List Nat := (neighbours s r).filter (regionOn s)

/-- The partner of a region (R441): the other of regions 2k and 2k + 1, which are logical numbers (R5). -/
def partnerOf (s : State) (r : Nat) : Option Nat :=
  (List.range (partRegions s.part)).find? (fun q => q != r && q / 2 == r / 2)

/-- Whether an in-progress ramp holds a region by RAMP_NB (R438). -/
def rampHeld (s : State) (r : Nat) : Bool := s.power.rails.any (fun x => x.2.nbs.contains r)

/-- The demands on a region in the order of the bits of REG_SRC: THERM, STALE, STACK, ENV, ILIM, VIN, RAMP_NB, STOP (R427). -/
def demandsOn (s : State) (r : Nat) : List Nat :=
  let p := physRegion s r
  let step := fld s .therm 0 (f_THERM_REG_STEP p)
  let on := regionOn s r
  let stop := regionState s r == 5 || (on && ((rail s r).lending || s.therm.stop))
  let when' := fun (n : Nat) => if on then n else 0
  [when' (if flag s .therm 0 (f_THERM_REG_SUSPECT_HOT p) then max 1 step else step),
   when' (if flag s .therm 0 f_THERM_STATUS_STALE then 8 else 0),
   when' (fld s .pwr 0 f_PWR_STATUS_STACK_STEP), when' (fld s .pwr 0 f_PWR_STATUS_ENV_STEP), when' (rail s r).ilim,
   when' (fld s .pwr 0 f_PWR_STATUS_VIN_STEP), when' (b2n (rampHeld s r)), if stop then 16 else 0]

/-- The ratio in force: the largest demand, one step more beside a stretched ramp; STOP overrides. -/
def ratioOf (d : List Nat) : Nat :=
  if d.getD 7 0 = 16 then 16 else min 16 ((d.take 6).foldl max 0 + d.getD 6 0)

/-- Show a region's ratio and its demands. -/
def setPause (s : State) (r : Nat) : State :=
  let d := demandsOn s r
  setF (setF s .pwr 0 (f_PWR_REG_STATUS_PAUSE r) (ratioOf d)) .pwr 0 (f_PWR_REG_SRC_SRC r) (packN 1 (fun i => b2n (d.getD i 0 != 0)) 8)

/-- Every region's ratio. -/
def pauseAll (s : State) : State := (List.range (partRegions s.part)).foldl setPause s

/-- Whether every cycle of a region is held (R426). -/
def allHeld (s : State) (r : Nat) : Bool := fld s .pwr 0 (f_PWR_REG_STATUS_PAUSE r) ≥ 16

end Sys2Proof.Machine
end

