-- ==== Sys2Proof/Machine/Flags.lean ====
section
/-! DEFINITION. Synchronisation flags, their translation, locks and the level of frame-paced reaches (R161 to R164, R224 to
R236). -/
namespace Sys2Proof.Machine

/-- Subtract one from LEVEL, which holds at 0 (R224). -/
def levelDown (s : State) (b : Nat) : State :=
  setF s .block b f_BLOCK_REACH_STATUS_LEVEL (fld s .block b f_BLOCK_REACH_STATUS_LEVEL - 1)
/-- Add one to LEVEL, which holds at 255 (R224). -/
def levelUp (s : State) (b : Nat) : State :=
  setF s .block b f_BLOCK_REACH_STATUS_LEVEL (satAdd 255 (fld s .block b f_BLOCK_REACH_STATUS_LEVEL) 1)

/-! ## Physical flags (R226, R231) -/

/-- A physical flag. -/
def flagAt (s : State) (r i : Nat) : Flag := mget {} (region s r).flags i
/-- Store a physical flag. -/
def putFlag (s : State) (r i : Nat) (f : Flag) : State :=
  setRegion s r { region s r with flags := mset {} (region s r).flags i f }

/-- The lead block whose take flag this is (R224). -/
def takerOf (s : State) (r i : Nat) : Option Nat :=
  (s.blocks.find? (fun p => p.2.run.take == some (r, i))).map (·.1)

/-- Set a flag with no holder; a set of a set flag changes nothing (R164, R231). A take flag is consumed as it is set
(R224). -/
def flagSet (s : State) (r i : Nat) : State :=
  if (flagAt s r i).set then s
  else match takerOf s r i with
  | some b => levelDown s b
  | none => putFlag s r i { set := true }

/-- Clear a flag and erase its holder (R164, R231). -/
def flagClr (s : State) (r i : Nat) : State := putFlag s r i {}

/-- Whether a flag's segment is secure (R236). -/
def flagSecure (s : State) (r i : Nat) : Bool := bitN (fld s .region r f_REGION_FLAG_WORLD_SEG) (i / 256)

/-- A dropped flag write (R235, R236). -/
def flagDrop (s : State) (r : Nat) : State := raiseIrq s .region r 0

/-- A set or clear from this device (R158, R232, R236): true when it was performed. -/
def flagWrite (s : State) (r i : Nat) (set secure : Bool) (src srcId : Nat) (label : Byte) : State × Bool :=
  if flagSecure s r i && !secure then (flagDrop (secLogAdd s 4 src true srcId label 0 i) r, false)
  else (if set then flagSet s r i else flagClr s r i, true)

/-! ## Translation (R227 to R229) -/

/-- R227, R228: where an identifier translates through the table of region `r`. -/
def xlat (s : State) (r f : Nat) : Option FlagAt :=
  let e := (reg s .region r (o_REGION_FLAG_XLAT (f / 256 % 256))).toNat
  match bitsN e 31 30 with
  | 1 =>
    let q := bitsN e 24 20
    if partOfRegion s r == partOfRegion s q && (partOfRegion s r).isSome then
      some (.loc q (bitsN e 19 16 * 256 + f % 256))
    else none
  | 2 => some (.remote (bitsN e 29 22) (bitsN e 21 17) (bitsN e 16 13 * 256 + f % 256))
  | _ => none

/-- Whether a flag operation of a region waits: the region, or the one that holds the flag, is frozen (R495). -/
def flagHeld (s : State) (r : Nat) (t : Option FlagAt) : Bool :=
  frozen s .region r || (match t with | some (.loc q _) => frozen s .region q | _ => false)

/-! ## Locks (R162, R163) -/

/-- One lane of a TAKE: the result code. A take flag is consumed as it is set (R224). -/
def takeLock (s : State) (r i c g : Nat) : State × Nat :=
  let f := flagAt s r i
  if !f.set then
    (match takerOf s r i with
    | some b => levelDown s b
    | none => putFlag s r i { set := true, holder := some (c, g) }, 0)
  else if f.holder == some (c, g) then (s, 2)
  else (s, 1)

/-- One lane of a GIVE: the result code. -/
def giveLock (s : State) (r i c g : Nat) : State × Nat :=
  let f := flagAt s r i
  if !f.set then (s, 2)
  else if f.holder == some (c, g) then (putFlag s r i {}, 0)
  else (s, 1)

/-- The locks that a group holds in a region. -/
def locksIn (m : List (Nat × Flag)) (c g : Nat) : List Nat :=
  (m.filter (fun p => p.2.holder == some (c, g))).map (·.1)

/-- Release every lock that a group holds (R172): LOCK_ORPHAN once per lock when `tell`. -/
def releaseLocks (s : State) (c g : Nat) (tell : Bool) : State :=
  let n := (s.regions.map (fun p => (locksIn p.2.flags c g).length)).sum
  let s := s.regions.foldl (fun t p => setRegion t p.1 { p.2 with flags := p.2.flags.filter (fun f => f.2.holder != some (c, g)) }) s
  if tell then (List.range n).foldl (fun s _ => raiseIrq s .cell c 1) s else s

end Sys2Proof.Machine
end

