-- ==== Sys2Proof/Machine/Fabric.lean ====
section
/-! DEFINITION. The sending side of the fabric: packets on the wire, reachability, port choice and ordered flows, tags,
egress queues and shares, the survey event queue (R325 to R334, R346 to R350, R355, R356, R361, R408, R409). -/
namespace Sys2Proof.Machine

/-! ## Ports -/

/-- PORT.STATUS.STATE codes of R320. -/
abbrev pDisabled : Nat := 0
abbrev pDown : Nat := 1
abbrev pTraining : Nat := 2
abbrev pLinking : Nat := 3
abbrev pAuth : Nat := 4
abbrev pActive : Nat := 5
abbrev pHold : Nat := 6
abbrev pRefused : Nat := 7

/-- The state of a port (R320). -/
def portState (s : State) (p : Nat) : Nat := fld s .port p f_PORT_STATUS_STATE
/-- Whether a port is SECURE_OK (R365). -/
def secureOk (s : State) (p : Nat) : Bool := flag s .port p f_PORT_STATUS_SECURE_OK

/-- Enter a state; SECURE_OK follows (R365). -/
def setPortState (s : State) (p st : Nat) : State :=
  if portState s p = st then s
  else
    let s := setPort (setF s .port p f_PORT_STATUS_STATE st) p { port s p with stateAt := s.time.toNat }
    let ok := st == pActive && flag s .port p f_PORT_STATUS_AUTH && flag s .port p f_PORT_STATUS_ENC
    raiseIrq (setF s .port p f_PORT_STATUS_SECURE_OK (b2n ok)) .port p 0

/-- The device's EID, when VALID (R354). -/
def ownEid (s : State) : Option Nat :=
  if flag s .fab 0 f_FAB_EID_VALID then some (fld s .fab 0 f_FAB_EID_EID) else none

/-- FAB.CTRL.CTO in ns: 0 acts as 1 ms, values above 1,000 as 1,000 (R367). -/
def ctoNs (s : State) : Nat := max 1 (min 1000 (fld s .fab 0 f_FAB_CTRL_CTO)) * 1000000

/-! ## Survey events (R356) -/

/-- An event for the survey queue; `p` is 31 when no port is concerned. -/
def fabEvent (s : State) (type p lo hi code : Nat) : State :=
  if s.fab.events.length ≥ 64 then raiseIrq (bumpField s .fab 0 f_FAB_EVT_STATUS_LOST 1) .fab 0 3
  else
    let pp := if p < 24 then fld s .port p f_PORT_STATUS_PARTNER_PORT else 0
    let sw := if p < 24 then (reg s .port p o_PORT_PARTNER).toNat else 0
    let e : Nat := type <<< 124 + p <<< 119 + lo <<< 96 + hi <<< 80 + pp <<< 72 + (code % 256) <<< 64 + sw <<< 32 + timeBits s 41 10
    let s := { s with fab := { s.fab with events := s.fab.events ++ [BitVec.ofNat 128 e] } }
    raiseIrq (setF s .fab 0 f_FAB_EVT_STATUS_COUNT s.fab.events.length) .fab 0 0

/-! ## Reachability (R355) -/

/-- The parts of a range that lie outside another range. -/
def rangeMinus (lo hi a b : Nat) : List (Nat × Nat) :=
  if hi < a || b < lo then [(lo, hi)]
  else (if lo < a then [(lo, a - 1)] else []) ++ (if b < hi then [(b + 1, hi)] else [])

/-- The parts of ranges that no range of a list covers. -/
def rangesMinus (rs : List (Nat × Nat)) (cut : List (Nat × Nat)) : List (Nat × Nat) :=
  cut.foldl (fun rs c => rs.flatMap (fun r => rangeMinus r.1 r.2 c.1 c.2)) rs

/-- The ports that reach an EID, as its 24-bit mask (R355). -/
def reachMask (s : State) (e : Nat) : Nat :=
  (s.fab.reach.filter (fun r => r.2.1 ≤ e && e ≤ r.2.2)).foldl (fun m r => m ||| 2 ^ r.1) 0

/-- Every range that some port reaches. -/
def reachRanges (s : State) : List (Nat × Nat) := s.fab.reach.map (fun r => (r.2.1, r.2.2))

/-- Put a range into a list of disjoint ranges in rising order, joined with those that overlap or adjoin it. -/
def joinRange (lo hi : Nat) : List (Nat × Nat) → List (Nat × Nat)
  | [] => [(lo, hi)]
  | (a, b) :: t =>
    if hi + 1 < a then (lo, hi) :: (a, b) :: t
    else if b + 1 < lo then (a, b) :: joinRange lo hi t
    else joinRange (min lo a) (max hi b) t

/-- Ranges as the runs of consecutive EIDs that they hold. -/
def runsOfRanges (rs : List (Nat × Nat)) : List (Nat × Nat) := rs.foldl (fun m r => joinRange r.1 r.2 m) []

/-- Set a port's bit for ranges of EIDs, less the device's own EID; EIDs that become reachable are an event each run. -/
def reachAdd (s : State) (p : Nat) (rs : List (Nat × Nat)) : State :=
  let own := match ownEid s with | some e => [(e, e)] | none => []
  let add := runsOfRanges (rangesMinus rs own)
  let gain := rangesMinus add (reachRanges s)
  let mine := (s.fab.reach.filter (fun r => r.1 == p)).map (fun r => (r.2.1, r.2.2))
  let s := { s with fab := { s.fab with reach := s.fab.reach ++ (rangesMinus add mine).map (fun r => (p, r.1, r.2)) } }
  (runsOfRanges gain).foldl (fun s r => fabEvent s 5 p r.1 r.2 0) s

/-- Clear a port's bit for ranges of EIDs; EIDs that become unreachable are an event each run. -/
def reachDel (s : State) (p : Nat) (rs : List (Nat × Nat)) : State :=
  let mine := (s.fab.reach.filter (fun r => r.1 == p)).map (fun r => (r.2.1, r.2.2))
  let left := rangesMinus mine rs
  let s := { s with fab := { s.fab with reach := s.fab.reach.filter (fun r => r.1 != p) ++ left.map (fun r => (p, r.1, r.2)) } }
  let gone := rangesMinus (rangesMinus mine left) (reachRanges s)
  (runsOfRanges gone).foldl (fun s r => fabEvent s 6 p r.1 r.2 0) s

/-! ## Packets on the wire (R325, R326, R330) -/

/-- Bytes of a packet on the wire, with the counter and tag of an encrypted port (R363). -/
def wireLen (enc : Bool) (p : Packet) : Nat := 32 + padLen p + 8 + (if enc then 24 else 0)

/-- The header as one number (R325). -/
def headerBits (p : Packet) : Nat :=
  p.ts.toNat <<< 192 + p.check.toNat <<< 160 + p.pmask.toNat <<< 128 + (p.off % 2 ^ 42) <<< 86 + ((p.len - 1) % 256) <<< 78
    + b2n p.zl <<< 77 + (p.opst % 256) <<< 64 + (p.type % 16) <<< 60 + (p.vc % 4) <<< 58 + b2n p.world <<< 57 + b2n p.ord <<< 56
    + p.label.toNat <<< 48 + (p.seid % 65536) <<< 32 + (p.deid % 65536) <<< 16 + p.tag % 65536

/-- The fields of a header. -/
def headerOf (h : Nat) (payload : List Byte) : Packet :=
  let zl := bitN h 77
  { ts := BitVec.ofNat 64 (bitsN h 255 192), check := BitVec.ofNat 32 (bitsN h 191 160), pmask := BitVec.ofNat 32 (bitsN h 159 128),
    off := bitsN h 127 86, len := bitsN h 85 78 + 1, zl := zl, opst := bitsN h 71 64, type := bitsN h 63 60,
    vc := bitsN h 59 58, world := bitN h 57, ord := bitN h 56, label := BitVec.ofNat 8 (bitsN h 55 48), seid := bitsN h 47 32,
    deid := bitsN h 31 16, tag := bitsN h 15 0, payload := if zl then [] else payload.take (bitsN h 85 78 + 1) }

/-- CRC-32C of link bytes under the sequence number that the packet has (R326). -/
def linkCrc (seq : Nat) (bytes : List Byte) : Nat := crcBytes polyC (0xFFFFFFFF ^^^ (seq * 256)) bytes ^^^ 0xFFFFFFFF

/-- The 96-bit IV of a direction: its salt, then the counter (R363). -/
def gcmIv (salt ctr : Nat) : BitVec 96 := BitVec.ofNat 96 (salt % 2 ^ 32 * 2 ^ 64 + ctr % 2 ^ 64)

/-- Bytes under the key stream: sealing and opening are one operation. -/
def gcmCrypt (key : Nat) (iv : BitVec 96) (bytes : List Byte) : List Byte :=
  (List.range bytes.length).map (fun i => bytes.getD i 0 ^^^ Config.gcmStream key iv i)

/-- The 16 B tag of a ciphertext. -/
def gcmTagBytes (key : Nat) (iv : BitVec 96) (ct : List Byte) : List Byte := toBytes 16 (Config.gcmTag key iv ct).toNat

/-- The plaintext of a sealed packet, none when its tag fails (R363, R364). -/
def gcmOpen (key : Nat) (iv : BitVec 96) (ct tag : List Byte) : Option (List Byte) :=
  if gcmTagBytes key iv ct = tag then some (gcmCrypt key iv ct) else none

/-- The bytes of a packet with its trailer: ACKSEQ and LCRC (R326); sealed under a key, salt and counter on an encrypted port
(R363). -/
def packetBytes (key : Option (Nat × Nat × Nat)) (seq ack : Nat) (p : Packet) : List Byte :=
  let clear := toBytes 32 (headerBits p) ++ p.payload ++ List.replicate (padLen p - p.payload.length) 0
  let top := toBytes 4 (ack * 256)
  match key with
  | none => clear ++ toBytes 4 (linkCrc seq (clear ++ top)) ++ top
  | some (k, salt, ctr) =>
    let iv := gcmIv salt ctr
    let ct := gcmCrypt k iv clear
    let post := toBytes 8 ctr ++ gcmTagBytes k iv ct
    ct ++ toBytes 4 (linkCrc seq (ct ++ top ++ post)) ++ top ++ post

/-- CRC-16 with polynomial 0x1021, most significant bit first (R330). -/
def crc16Byte (c : Nat) (b : Byte) : Nat :=
  (List.range 8).foldl (fun c _ => if bitN c 15 then (c * 2 % 65536) ^^^ 0x1021 else c * 2 % 65536) (c ^^^ (b.toNat * 256))

/-- The CRC-16 of a link control packet with its bits [15:0] taken as 0 (R330). -/
def lcpCrc (w : Nat) : Nat := (toBytes 32 (w / 65536 * 65536)).foldl crc16Byte 0xFFFF

/-- The link control packet a port sends now (R330). -/
def lcpOf (s : State) (p : Nat) (nak : Bool) : Nat :=
  let q := port s p
  let cred := packN 32 (fun v => (mget 0 q.freedH v % 1024) <<< 16 + mget 0 q.freedD v % 4096) 4
  let w := 0xE <<< 60 + b2n nak <<< 59 + ((q.rxSeq + 2 ^ 24 - 1) % 2 ^ 24) <<< 24 + cred <<< 64
  w + lcpCrc w

/-- Send a link control packet; the counts have then been told. -/
def sendLcp (s : State) (p : Nat) (nak : Bool) : State :=
  let s := bump (emit s (.fabTx p (toBytes 32 (lcpOf s p nak)))) .port p o_PORT_TX_BYTES 32
  setPort s p { port s p with sinceLcp := 0, changed := false, lcpAt := s.time.toNat }

/-! ## Port choice (R348, R350, R365) -/

/-- ACTIVE ports that reach an EID, ascending; only SECURE_OK ports for a secure packet. -/
def routePorts (s : State) (e : Nat) (world : Bool) : List Nat :=
  let m := reachMask s e
  (List.range 24).filter (fun p => bitN m p && portState s p == pActive && (!world || secureOk s p))

/-- The flow of an ordered packet: one for each destination and 64 KiB page, or destination and flag (R348); the ports
that count for it depend on its world (R365). -/
def flowKey (p : Packet) : Nat :=
  b2n p.world * 2 ^ 61 + p.deid * 2 ^ 32 + (if p.type = 5 then 2 ^ 60 + bitsN p.ts.toNat 16 0 else p.off / 65536)

/-- The hash h of R348. -/
def flowHash (p : Packet) : Nat :=
  if p.type = 5 then
    p.deid ^^^ bitsN p.ts.toNat 11 0 ^^^ (bitsN p.ts.toNat 16 12 * 4096 % 65536)
  else p.deid ^^^ bitsN p.off 31 16 ^^^ bitsN p.off 41 32

/-- Bytes queued for a VC at a port. -/
def queuedBytes (s : State) (p vc : Nat) : Nat :=
  (((port s p).queue.filter (fun e => e.pkt.vc == vc)).map (fun e => wireLen false e.pkt)).sum

/-- The port of a packet (R348). -/
def choosePort (s : State) (p : Packet) : Option Nat :=
  let ps := routePorts s p.deid p.world
  if p.ord then (if ps.isEmpty then none else ps[flowHash p % ps.length]?)
  else ps.foldl (fun b q => match b with
    | none => some q
    | some x => if queuedBytes s q p.vc < queuedBytes s x p.vc then some q else some x) none

/-! ## Tags (R346) -/

/-- Tags that are not free: outstanding, of a flush, or timed out and not yet released. -/
def usedTags (s : State) : List Nat := s.fab.outst.map (·.1) ++ s.fab.flushes.map (·.1) ++ s.fab.stale.map (·.1)

/-- A free tag, by a search from a tag that the spec leaves open. -/
def freeTag (s : State) : Option Nat :=
  let used := usedTags s
  if used.length ≥ 32768 then none
  else ((List.range (used.length + 1)).map (fun i => ((Config.freeTag s.fresh).toNat + i) % 32768)).find? (fun t => !used.contains t)

/-! ## Entering the egress queue -/

/-- Put a packet in a port's egress queue, if a slot of its VC is free for its partition (R409). -/
def enqueue (s : State) (p : Nat) (k : Packet) (part : Nat) (lead : Option Nat) : Option State :=
  let q := port s p
  match slotFor s 64 ((q.queue.filter (fun e => e.pkt.vc == k.vc)).map (fun e => (e.part, e.resv))) part with
  | none => none
  | some r => some (setPort s p { q with queue := q.queue ++ [{ pkt := k, part := part, lead := lead, resv := r }] })

/-- Whether a request takes a tag: every non-posted request, and a flush (R347). -/
def needsTag (k : Packet) : Bool := !(k.type == 3 && bitN k.opst 0 == false)

/-- Whether a packet is a flush (R345). -/
def isFlush (k : Packet) : Bool := k.type == 3 && bitN k.opst 0

/-- The destination in a flow's key. -/
def keyDeid (key : Nat) : Nat := key / 2 ^ 32 % 65536

/-- A flush of a path for the wait list: its port is fixed, its label that of the group whose fence asks for it (R406, R411). -/
def flushReq (id p deid : Nat) (world : Bool) (label : Byte) : FabReq :=
  { id := id, src := .mgmt, line := 0, port := some p,
    pkt := { type := 3, vc := 0, opst := 1, zl := true, len := 1, ord := true, deid := deid, world := world, label := label } }

/-- A flush that has been sent covers every unacknowledged WRP of its path; flows that leave the path wait for it. -/
def noteFlush (s : State) (r : FabReq) (p t : Nat) : State :=
  let covers := (s.fab.wrps.filter (fun x => x.port == p && x.deid == r.pkt.deid)).map (·.id)
  let fl := s.fab.flushes ++ [(t, ⟨r.id, p, r.pkt.deid, covers, r.born⟩)]
  let mv := s.fab.moves.map (fun m => if m.old == p && m.flush.isNone && m.moveAt.isNone && keyDeid m.key == r.pkt.deid then { m with flush := some t } else m)
  { s with fab := { s.fab with flushes := fl, moves := mv } }

/-- Send a flush on its path; it waits while its port is in HOLD (R360), and where the port has departed it can only time out. -/
def sendFlush (s : State) (r : FabReq) (me p : Nat) : Option State :=
  match freeTag s with
  | none => none
  | some t =>
    if portState s p = pActive then
      (enqueue (nextFresh s) p { r.pkt with seid := me, tag := t } (labelPart r.pkt.label) none).map (fun s => noteFlush s r p t)
    else if portState s p = pHold then none
    else some (noteFlush (nextFresh s) r p t)

/-- The lead block of a request, for spate: of its source, or of the reach whose output flag it is (R412). -/
def leadOfReq (s : State) (r : FabReq) : Option Nat :=
  match r.outFlag with
  | some b => some b
  | none => leadOfSrc s r.src

/-- Whether a packet is a WRP other than a flush. -/
def isWrp (k : Packet) : Bool := k.type == 3 && !isFlush k

/-- Whether two ranges of one endpoint overlap. -/
def overlaps (d o n d' o' n' : Nat) : Bool := d == d' && o < o' + n' && o' < o + n

/-- Whether an earlier access of a request's group to the same bytes has not been acknowledged (R150): a WRP, which only a flush
acknowledges, or a request under a tag. WRPs keep their order by themselves (R349). -/
def afterOwn (s : State) (r : FabReq) : Bool :=
  match r.src with
  | .group _ _ =>
    r.pkt.type != 5 && !isFlush r.pkt
      && ((!isWrp r.pkt && s.fab.wrps.any (fun x => x.src == r.src && overlaps x.deid x.off x.len r.pkt.deid r.pkt.off r.pkt.len))
        || s.fab.outst.any (fun x => x.2.src == r.src && x.2.pkt.type != 5 && overlaps x.2.pkt.deid x.2.pkt.off x.2.pkt.len r.pkt.deid r.pkt.off r.pkt.len))
  | _ => false

/-- Send one waiting request into an egress queue: none while its NI is frozen (R495), while it has no EID to send from, no port, no tag, no slot, its flow moves,
or its group's earlier access to the same bytes is not acknowledged. -/
def trySend (s : State) (r : FabReq) : Option State :=
  match ownEid s with
  | none => none
  | some me =>
    if isFlush r.pkt then sendFlush s r me (r.port.getD 0)
    else if niFrozen s r.src || afterOwn s r || (r.pkt.ord && s.fab.moves.any (fun m => m.key == flowKey r.pkt)) then none
    else match choosePort s r.pkt with
    | none => none
    | some p =>
      let part := labelPart r.pkt.label
      if needsTag r.pkt then
        match freeTag s with
        | none => none
        | some t =>
          let k := { r.pkt with seid := me, tag := t }
          match enqueue (nextFresh s) p k part (leadOfReq s r) with
          | none => none
          | some s => some { s with fab := { s.fab with outst := s.fab.outst ++ [(t, { r with pkt := k, port := some p })] } }
      else
        let nid := r.nid.getD 0
        let k := { r.pkt with seid := me, tag := 32768 + nid }
        match enqueue s p k part (leadOfReq s r) with
        | none => none
        | some s =>
          let x : Wrp := { id := r.id, src := r.src, nid := nid, line := r.line, port := p, deid := k.deid, off := k.off, len := k.len, label := k.label, world := k.world }
          some { s with fab := { s.fab with wrps := s.fab.wrps ++ [x] } }

/-- Note the port of an ordered flow. -/
def noteFlow (s : State) (k : Packet) : State :=
  if k.ord && !isFlush k then
    match choosePort s k with
    | some p => { s with fab := { s.fab with flows := mins (flowKey k) p (mdel (flowKey k) s.fab.flows) } }
    | none => s
  else s

/-- Whether an earlier packet of the same flow (R349), or of the same group to the same bytes (R150), still waits. -/
def behind (s : State) (r : FabReq) : Bool :=
  let k := r.pkt
  !isFlush k && s.fab.wait.any (fun x => !isFlush x.pkt
    && ((k.ord && x.pkt.ord && flowKey x.pkt == flowKey k)
      || (match r.src with | .group _ _ => true | _ => false) && x.src == r.src && k.type != 5 && x.pkt.type != 5
        && overlaps k.deid k.off k.len x.pkt.deid x.pkt.off x.pkt.len))

/-- Send every waiting request that can go, in order; an ordered packet waits behind an earlier one of its flow (R349). -/
def pumpList (s : State) : List FabReq → State
  | [] => s
  | r :: t =>
    match (if behind s r then none else trySend s r) with
    | some s' => pumpList (noteFlow s' r.pkt) t
    | none => pumpList { s with fab := { s.fab with wait := s.fab.wait ++ [r] } } t

/-- Whether the source of a WRP waits for it to be acknowledged: a group at FENCE.F or at its last EXIT, or with a later access
to its bytes (R150), a copy, a drain. -/
def wantsFlush (s : State) (x : Wrp) : Bool :=
  match x.src with
  | .group c g =>
    (match (group s c g).await with
    | .fence 2 | .exit => true
    | _ => false)
    || s.fab.wait.any (fun r => r.src == x.src && !isWrp r.pkt && r.pkt.type != 5
        && overlaps x.deid x.off x.len r.pkt.deid r.pkt.off r.pkt.len)
  | .copy _ | .array _ => true
  | _ => false

/-- Ask for a flush of every path with a WRP that a source waits for and no flush covers (R345). -/
def addFlushes (s : State) : List Wrp → State
  | [] => s
  | x :: t =>
    let has := !wantsFlush s x || s.fab.flushes.any (fun f => f.2.covers.contains x.id)
      || s.fab.wait.any (fun r => isFlush r.pkt && r.port == some x.port && r.pkt.deid == x.deid)
    let s := if has then s
      else
        let w := s.fab.wait ++ [{ flushReq s.nextId x.port x.deid x.world x.label with born := s.time.toNat }]
        { s with nextId := s.nextId + 1, fab := { s.fab with wait := w } }
    addFlushes s t

/-- Send what can go. -/
def pump (s : State) : State :=
  let s := pumpList { s with fab := { s.fab with wait := [] } } s.fab.wait
  let s := addFlushes s s.fab.wrps
  pumpList { s with fab := { s.fab with wait := [] } } s.fab.wait

/-- A new request enters its NI (R339: its fabric address is found already). -/
def fabIssue (s : State) (r : FabReq) : State :=
  pump { s with fab := { s.fab with wait := s.fab.wait ++ [{ r with born := s.time.toNat }] } }

/-- A request to a window, from a master: the packet's destination fields, and the check value of a whole line at its
destination (R376, R377). -/
def fabPacket (s : State) (w a : Nat) (label : Byte) (world : Bool) (k : Packet) : Packet :=
  let (e, o) := fwMap (fwin s w) a
  let chk : W32 := if k.payload.length = 256 then checkValue .plain (o / 256) (BitVec.ofNat 2048 (ofBytes k.payload)) else 0
  { k with deid := e, off := o, label := label, world := world, check := chk }

/-- One flow after the set of ACTIVE ports has changed, `p` its port now: one that keeps or regains its port moves no
more; another begins a switch-over, with a flush on an old path that still exists (R350). No group asks for that flush: it has the
NI's fixed label of R411, DESIGN CHOICE, log entry 167. -/
def flowChanged (s : State) (p : Option Nat) (key old : Nat) : State :=
  let rest := s.fab.moves.filter (fun m => m.key != key)
  let at' := ((port s old).downAt.getD s.time.toNat) + ctoNs s
  match s.fab.moves.find? (fun m => m.key == key) with
  | some m =>
    if p = some old then { s with fab := { s.fab with moves := rest } }
    else if portState s old = pActive || m.moveAt.isSome then s
    else { s with fab := { s.fab with moves := rest ++ [⟨key, old, none, some at'⟩] } }
  | none =>
    if p = some old then s
    else if portState s old = pActive then
      let w := s.fab.wait ++ [{ flushReq s.nextId old (keyDeid key) (bitN key 61) 0x80 with born := s.time.toNat }]
      { s with nextId := s.nextId + 1, fab := { s.fab with wait := w, moves := rest ++ [⟨key, old, none, none⟩] } }
    else { s with fab := { s.fab with moves := rest ++ [⟨key, old, none, some at'⟩] } }

/-- The port that R348 gives a flow now, from its key. -/
def flowPort (s : State) (key : Nat) : Option Nat :=
  let k : Packet := { ord := true, world := bitN key 61, deid := key / 2 ^ 32 % 65536 }
  choosePort s (if bitN key 60 then { k with type := 5, ts := BitVec.ofNat 64 (key % 2 ^ 32) } else { k with type := 3, off := key % 2 ^ 32 * 65536 })

/-- The unordered requests (RD, WR, RED, ATOM) that wait unsent at the egress of a port go back to their NIs, where the next
choice of a port finds them another that reaches the EID (R361). -/
def unsend (s : State) (p : Nat) : State :=
  let back := (port s p).queue.filter (fun e => [1, 2, 4, 6].contains e.pkt.type)
  let mine := fun (x : Nat × FabReq) => back.any (fun e => e.pkt.tag == x.1)
  let rs := (s.fab.outst.filter mine).map (fun x => { x.2 with port := none })
  let s := setPort s p { port s p with queue := (port s p).queue.filter (fun e => !back.contains e) }
  { s with fab := { s.fab with outst := s.fab.outst.filter (fun x => !mine x), wait := rs ++ s.fab.wait } }

/-- The set of ports that reach some EID has changed. -/
def routesChanged (s : State) : State :=
  pump (s.fab.flows.foldl (fun s f => flowChanged s (flowPort s f.1) f.1 f.2) s)

end Sys2Proof.Machine
end

