-- ==== Sys2Proof/Machine/Cell.lean ====
section
/-! DEFINITION. Cells and groups: registers, local memory with its code, parking, the requests of the NI and the completion
of waits (R124 to R129, R143, R144, R148, R151, R167 to R171, R369 to R374). -/
namespace Sys2Proof.Machine

/-! ## Registers of a group (R126 to R129) -/

/-- Lane register `r` of a lane. -/
def getV (g : Group) (r lane : Nat) : W32 := mget 0 g.v (r * 32 + lane)
def setV (g : Group) (r lane : Nat) (x : W32) : Group := { g with v := mset 0 g.v (r * 32 + lane) x }
/-- Uniform register: u0 reads as 0 (R127). -/
def getU (g : Group) (r : Nat) : W64 := if r = 0 then 0 else mget 0 g.u r
/-- Writes to u0 have no effect (R127). -/
def setU (g : Group) (r : Nat) (x : W64) : Group := if r = 0 then g else { g with u := mset 0 g.u r x }
/-- Predicate: p0 reads as 1 in every lane (R127). -/
def getP (g : Group) (p : Nat) : W32 := if p = 0 then 0xFFFFFFFF else mget 0 g.p p
/-- Writes to p0 have no effect (R127). -/
def setP (g : Group) (p : Nat) (x : W32) : Group := if p = 0 then g else { g with p := mset 0 g.p p x }
/-- Set the bit of a lane in a predicate. -/
def setPLane (g : Group) (p lane : Nat) (b : Bool) : Group :=
  setP g p (BitVec.ofNat 32 (putBitsN (getP g p).toNat lane lane (b2n b)))

/-- The lanes of a mask, ascending. -/
def lanesOf (m : W32) : List Nat := (List.range 32).filter (fun l => bitN m.toNat l)
/-- The mask of a list of lanes. -/
def maskOf (l : List Nat) : W32 := BitVec.ofNat 32 (l.foldl (fun m i => m ||| 2 ^ i) 0)

/-- The lanes that a guard selects (R133): active lanes where p[GP] XOR GN is 1. -/
def guardLanes (g : Group) (w : W64) : W32 :=
  let p := getP g (bitsN w.toNat 54 52)
  g.active &&& (if bitN w.toNat 55 then ~~~p else p)

/-- Set bits of GSTAT (R129). -/
def orGstat (g : Group) (m : Nat) : Group := { g with gstat := g.gstat ||| BitVec.ofNat 64 m }
abbrev gsFTO : Nat := 256
abbrev gsWDROP : Nat := 512

/-- The state code of GROUP_STATE (R173). -/
def gstCode : GSt → Nat
  | .free => 0 | .run => 1 | .wait => 2 | .parked => 3

/-! ## Local memory (R143, R144, R369 to R374, R390) -/

/-- Bytes of local memory (R143). -/
abbrev lmSize : Nat := 0x80000

/-- Stored data of local word `w`. -/
def lmRaw (k : Cell) (w : Nat) : W64 := BitVec.ofNat 64 (packN 8 (fun i => (mget 0 k.lm (8 * w + i)).toNat) 8)

/-- Write the bytes of a local word as stored. -/
def lmSetRaw (m : List (Nat × Byte)) (w : Nat) (d : W64) : Nat → List (Nat × Byte)
  | 0 => m
  | n + 1 => lmSetRaw (mset 0 m (8 * w + n) (byteOf d.toNat n)) w d n

/-- Write a local word with new check bits and a poison bit; an armed flip mask on it alters what is stored (R390). -/
def lmPut (s : State) (c w : Nat) (d : W64) (pois : Bool) : State :=
  let hit := flag s .cell c f_CELL_FLIP_CTRL_ARM && fld s .cell c f_CELL_FLIP_POS_WORD == w
  let dm := if hit then (reg s .cell c o_CELL_FLIP_DATA_LO).toNat + (reg s .cell c o_CELL_FLIP_DATA_HI).toNat * 2 ^ 32 else 0
  let syn : Byte := if hit then flipSyndrome w dm (fld s .cell c f_CELL_FLIP_CTRL_FOLD) (fld s .cell c f_CELL_FLIP_CTRL_CHECK) else 0
  let s := if hit then setF s .cell c f_CELL_FLIP_CTRL_ARM 0 else s
  let k := cell s c
  setCell s c { k with
    lm := lmSetRaw k.lm w (d ^^^ BitVec.ofNat 64 dm) 8, lmPois := mset false k.lmPois w pois, lmSyn := mset 0 k.lmSyn w syn }

/-- Read a local word through its code: the data and whether it is delivered poisoned (R372, R374, R384). -/
def lmGet (s : State) (c w : Nat) : State × W64 × Bool :=
  let k := cell s c
  let d := lmRaw k w
  let p := mget false k.lmPois w
  match classify false (mget 0 k.lmSyn w) with
  | .good => (s, d, p)
  | .poison => (s, d, p)
  | .fix bit =>
    let d' := match bit with
      | some j => d ^^^ BitVec.ofNat 64 (2 ^ j)
      | none => d
    (lmPut (bump s .cell c o_CELL_LM_CE 1) c w d' p, d', p)
  | .bad => (raiseIrq (bump s .cell c o_CELL_LM_UE 1) .cell c 3, d, true)

/-- Read `n` bytes from a local address: the value and the first poisoned address. -/
def lmRead (s : State) (c a : Nat) : Nat → State × Nat × Option Nat
  | 0 => (s, 0, none)
  | n + 1 =>
    let (s, v, p) := lmRead s c a n
    let (s, d, bad) := if (a + n) % 8 = 0 || n = 0 then lmGet s c ((a + n) / 8) else (s, lmRaw (cell s c) ((a + n) / 8), false)
    (s, v + (byteOf d.toNat ((a + n) % 8)).toNat * 256 ^ n, match p with
      | some x => some x
      | none => if bad then some (a + n) else none)

/-- Store bytes in one local word: `m` is the byte mask. A whole word gets new check bits and loses its poison; a partial
store of a poisoned word leaves it poisoned (R144). -/
def lmStoreWord (s : State) (c w m : Nat) (d : W64) : State :=
  if m = 255 then lmPut s c w d false
  else
    let (s, old, p) := lmGet s c w
    let k := BitVec.ofNat 64 (packN 8 (fun i => if bitN m i then 255 else 0) 8)
    lmPut s c w ((old &&& ~~~k) ||| (d &&& k)) p

/-- Store `n` bytes of a value at a local address aligned to `n`. -/
def lmStore (s : State) (c a n v : Nat) : State :=
  if n ≤ 8 then lmStoreWord s c (a / 8) ((2 ^ n - 1) <<< (a % 8)) (BitVec.ofNat 64 (v <<< (8 * (a % 8))))
  else lmStoreWord (lmStoreWord s c (a / 8) 255 (BitVec.ofNat 64 v)) c (a / 8 + 1) 255 (BitVec.ofNat 64 (v >>> 64))

/-- Read a 256 B line of local memory: data and poison by word. -/
def lmLine (s : State) (c a : Nat) : Nat → State × Nat × Nat
  | 0 => (s, 0, 0)
  | n + 1 =>
    let (s, d, p) := lmLine s c a n
    let (s, x, b) := lmGet s c (a / 8 + n)
    (s, d + x.toNat <<< (64 * n), p + b2n b <<< n)

/-- Write a 256 B line of local memory with poison by word. -/
def lmPutLine (s : State) (c a : Nat) (d : Line) (pois : BitVec 32) : Nat → State
  | 0 => s
  | n + 1 => lmPut (lmPutLine s c a d pois n) c (a / 8 + n) (lineWord d n) (bitN pois.toNat n)

/-! ## Parking (R167 to R171) -/

/-- Cause codes of R167. -/
abbrev cPOISON : Nat := 1
abbrev cDEAD : Nat := 2
abbrev cACCESS : Nat := 3
abbrev cDIVERGENT : Nat := 4
abbrev cLOCK : Nat := 5
abbrev cWATCH : Nat := 6
abbrev cILLEGAL : Nat := 7
abbrev cDESC : Nat := 8
abbrev cALIGN : Nat := 9
abbrev cTIMEOUT : Nat := 10

/-- A group parks with a record (R167, R170). -/
def park (s : State) (c g : Nat) (r : Park) : State :=
  let s := setGroup s c g { group s c g with st := .parked, park := r, await := .none }
  pmc (raiseIrq s .cell c 0) c 0x0D 1

/-- Park for an illegal instruction: every active lane raised it. -/
def illegal (s : State) (c g detail : Nat) : State :=
  park s c g { cause := cILLEGAL, detail := detail, lanes := (group s c g).active }

/-- The park record as host software reads it (R171). -/
def parkWord (k : Group) : W128 :=
  if k.st = .parked then
    let r := k.park
    BitVec.ofNat 128 (r.cause <<< 124 + r.detail <<< 116 + r.aspace <<< 114 + b2n r.done <<< 113 + (r.addr % 2 ^ 48) <<< 64
      + wrapN 32 ((k.pc : Int) - k.base) <<< 32 + r.lanes.toNat)
  else 0

/-- The next instruction. -/
def nextPc (s : State) (c g : Nat) : State :=
  let k := group s c g
  setGroup s c g { k with pc := (k.pc + 8) % 2 ^ 48, skipWatch := [] }

/-- R123 to R125, R171: whether lane registers `r` to `r + n - 1` lie within the group's allocation (R126). -/
def inAlloc (k : Group) (r n : Nat) : Bool := r + n ≤ k.alloc

/-! ## Writes that have not been accepted (R151, R153) -/

/-- A posted write of a group is outstanding on this device, or over the fabric. -/
def addOut (s : State) (c g id : Nat) (fab : Bool) : State :=
  let k := group s c g
  setGroup s c g (if fab then { k with outF := k.outF ++ [id] } else { k with outD := k.outD ++ [id] })

/-- A write of a run was lost (R218). -/
def noteLost (s : State) (c g : Nat) : State :=
  let b := (group s c g).lead
  setRun s b { (block s b).run with lost := true }

/-- A posted write was dropped (R153): WDROP, and a lost write of its run (R218); a DEAD hint counts as a write. -/
def wdrop (s : State) (c g : Nat) : State :=
  let s := setGroup s c g (orGstat (group s c g) gsWDROP)
  noteLost s c g

/-- A fabric write completed by timeout (R153, R218). -/
def fto (s : State) (c g : Nat) : State :=
  let s := setGroup s c g (orGstat (group s c g) gsFTO)
  noteLost s c g

/-- Whether a group has a BUSY token. -/
def busyToken (k : Group) : Bool := k.tokens.any (fun t => t.2.st == 1)

/-- Whether a fence of a kind may complete (R151): 0 L, 1 D, 2 F. Local accesses are performed at issue. -/
def fenceDone (k : Group) (kind : Nat) : Bool :=
  kind == 0 || (k.outD.isEmpty && (kind == 1 || k.outF.isEmpty))

/-- A group ends (R148): its slot is FREE, its lane registers are released. -/
def freeGroup (s : State) (c g : Nat) : State := setGroup s c g {}

/-- A wait on a fence, or the last EXIT, ends when its condition holds (R148, R151). -/
def settleWait (s : State) (c g : Nat) : State :=
  let k := group s c g
  match k.await with
  | .fence kind =>
    if fenceDone k kind then nextPc (setGroup s c g { k with st := .run, await := .none }) c g else s
  | .exit => if k.outD.isEmpty && k.outF.isEmpty && !busyToken k then freeGroup s c g else s
  | _ => s

/-! ## Requests of the NI -/

/-- Send a request of a group's cell to its slice; HOME_REQ or REMOTE_REQ counts it (R570). -/
def niSend (s : State) (c : Nat) (src : Src) (label : Byte) (wins : W32) (line : Nat) (op : ReqOp) : State × Nat :=
  let (s, id) := newId s
  let o := (placeOf s line).slice
  let h := homeBase (physRegion s (regionOfCell c))
  let s := pmc s c (if h ≤ o && o < h + 4 then 7 else 8) 1
  (sendReq s { id := id, src := src, line := line, op := op, label := label, part := labelPart label, ingress := false, wins := wins }, id)

/-- Send a request of a cell through a fabric window (R328, R339). -/
def niFab (s : State) (c : Nat) (src : Src) (nid : Option Nat) (label : Byte) (w a : Nat) (k : Packet) : State × Nat :=
  let (s, id) := newId s
  let s := pmc s c 6 1
  let pk := fabPacket s w a label (secureCell s c) k
  (fabIssue s { id := id, src := src, line := lineOf a, pkt := pk, nid := nid, win := w }, id)

/-- REACH_WIN of a group's reach (R212). -/
def winsOf (s : State) (lead : Nat) : W32 := reg s .block lead o_BLOCK_REACH_WIN

/-! ## Tokens and copies -/

/-- A completion token of a group (R106). -/
def token (k : Group) (t : Nat) : Token := mget {} k.tokens t
def setToken (s : State) (c g t : Nat) (v : Token) : State :=
  let k := group s c g
  setGroup s c g { k with tokens := mset {} k.tokens t v }

/-- Keep the fault that comes first in the order ACCESS, TIMEOUT, POISON (R107); codes 3, 2, 1. -/
def faultJoin (old new : Nat) : Nat := max old new

/-! ## Read-only caches (R124, R154, R156) -/

/-- Keep a line in a read-only cache of `cap` lines and 4 ways: once 4 lines are held, which line it replaces, if any, is
left open; a full cache always loses one. -/
def roInsert {α : Type} (s : State) (cap : Nat) (m : List (Nat × α)) (l : Nat) (v : α) :
    State × List (Nat × α) :=
  let m := mdel l m
  if m.length < 4 then (s, mins l v m)
  else
    let n := if m.length ≥ cap then m.length else m.length + 1
    let i := Config.freeNat s.fresh % n
    (nextFresh s, mins l v (match m[i]? with
      | some e => mdel e.1 m
      | none => m))

end Sys2Proof.Machine
end

