-- ==== Sys2Proof/Machine/Issue.lean ====
section
/-! DEFINITION. Fetching and issuing an instruction of a group (R130, R133, R134, R154, R156, R378). A command of a group's
instruction carries the cell, the group and the 64-bit word; it has its effect when that word is the group's next
instruction. -/
namespace Sys2Proof.Machine

/-- A whole line read for a cell's cache or copy engine: it is verified as it lands (R378). None: the line is held. -/
def cellLine (s : State) (c : Nat) (src : Src) (label : Byte) (wins : W32) (l : Nat) : Option (State × LineRead) :=
  let (s, id) := newId s
  if niFrozen s src then none
  else match readLineNow s { id := id, src := src, line := l, op := .read allWords, label := label, part := labelPart label, ingress := false, wins := wins } with
  | none => none
  | some (s, r) => some (if r.ok then s else bump s .cell c o_CELL_FILL_CHECK_FAIL 1, r)

/-- A read of a line of a read-only fabric window that the cache die holds (R146, R257). -/
def remoteRead (s : State) (w : Nat) (src : Src) (label : Byte) (l : Nat) (words : BitVec 32) : Option (State × Reply) :=
  if !fwRo (fwin s w) || lineHeld s l || niFrozen s src then none
  else match remoteKey s l with
  | none => none
  | some (sl, key) =>
    let s := touch (bump s .slice sl o_SLICE_HITS 1) sl (key / 24) (key % 24)
    some (doRead s sl key { id := 0, src := src, line := l, op := .read words, label := label, part := labelPart label, ingress := false, wins := 0 } words)

/-- A cached line of a fabric window that fills a cell's cache or local memory: it is verified as it lands, and a mismatch reported
to its slice (R378, R380). -/
def remoteLine (s : State) (c w : Nat) (src : Src) (label : Byte) (l : Nat) : Option (State × Line × BitVec 32 × Bool) :=
  match remoteRead s w src label l allWords with
  | some (s, .data d p _ _) =>
    let ok := verifyRead s l d p
    some (if ok then s else bump (reportMismatch s l label) .cell c o_CELL_FILL_CHECK_FAIL 1, d, p, ok)
  | _ => none

/-- A fabric read of a whole line (R328). -/
def rdLine : Packet := { type := 1, vc := 0, len := 256, zl := true }

/-- Park a fetch (R383, R520). -/
def parkFetch (s : State) (c g cause detail a : Nat) (aspace : Nat := 2) : State :=
  park s c g { cause := cause, detail := detail, aspace := aspace, addr := a, lanes := (group s c g).active }

/-- The word of a fetched line at a PC; a poisoned word parks the group (R383). -/
def wordOf (s : State) (c g pc : Nat) (d : Line) (p : BitVec 32) (aspace : Nat) : State × Option W64 :=
  let i := pc % 256 / 8
  if bitN p.toNat i then (parkFetch s c g cPOISON 2 pc aspace, none) else (s, some (lineWord d i))

/-- Fetch the instruction at a group's PC through the instruction cache (R130, R154, R156). None: the group does not issue;
it waits for a line, or has parked. -/
def fetch (s : State) (c g : Nat) : State × Option W64 :=
  let k := group s c g
  let l := lineOf k.pc
  match k.fbuf with
  | some (fl, d, p) => if fl = l then wordOf (setGroup s c g { k with fbuf := none }) c g k.pc d p 3 else (setGroup s c g { k with fbuf := none }, none)
  | none =>
    match (cell s c).icache.find? (fun e => e.1 == l) with
    | some e => wordOf s c g k.pc e.2.1 e.2.2 (if backed l then 2 else 3)
    | none =>
      let lbl := cellLabel s k.label
      match cellEntry s c lbl k.pc true false with
      | (s, .refused d) => (parkFetch s c g cACCESS d k.pc, none)
      | (s, .window w) =>
        match remoteLine s c w (.group c g) lbl l with
        | some (s, d, p, ok) =>
          if !ok then (parkFetch s c g cPOISON 2 (256 * l) 3, none)
          else
            let (s, m) := if p = 0 then roInsert s 128 (cell s c).icache l (d, p) else (s, (cell s c).icache)
            wordOf (setCell s c { cell s c with icache := m }) c g k.pc d p 3
        | none =>
          let (s, id) := niFab s c (.group c g) none lbl w (256 * l) rdLine
          (setGroup s c g { group s c g with await := .mem ⟨6, 0, w, [], [(id, l)], [], s.time.toNat⟩ }, none)
      | (s', .hbm) =>
        match cellLine s' c (.group c g) lbl (winsOf s' k.lead) l with
        | none => (s, none)
        | some (s, r) =>
          if !r.ok then (parkFetch s c g cPOISON 2 (256 * l), none)
          else if r.dead then (parkFetch s c g cPOISON 2 k.pc, none)
          else
            let (s, m) := if r.pois = 0 then roInsert s 128 (cell s c).icache l (r.data, r.pois) else (s, (cell s c).icache)
            wordOf (setCell s c { cell s c with icache := m }) c g k.pc r.data r.pois 2

/-- Whether the thread engine may take an instruction from a group (R130, R246, R426, R435, R495). Which of the ready groups it takes
is the order of the commands (DESIGN CHOICE, log entry 173). -/
def canIssue (s : State) (c g : Nat) : Bool :=
  present s .cell c && g < 16 && unitOn s .cell c && !cellFrozen s c && (partOfRegion s (regionOfCell c)).isSome
    && (group s c g).st == .run && (group s c g).await == .none && !(cell s c).resetting && !allHeld s (regionOfCell c)

/-- Issue one instruction: fetch it, and when it is the command's word run its meaning. A meaning answers none when its
unit cannot accept it, and then nothing happens (R130). -/
def issue (s : State) (c g : Nat) (w : W64) (body : State → Option State) : State :=
  if !canIssue s c g then s
  else match fetch s c g with
  | (s', none) => s'
  | (s', some x) =>
    if x ≠ w then s
    else match body s' with
    | none => s
    | some t => pmc t c 2 1

/-! ## Instruction fields (R133, R135) -/

/-- The opcode. -/
def opc (w : W64) : Nat := bitsN w.toNat 63 56
/-- Bits of an instruction. -/
def ibits (w : W64) (hi lo : Nat) : Nat := bitsN w.toNat hi lo

/-- A group-wide instruction executes once when the guard is true in at least one active lane, and not at all otherwise
(R133). -/
def groupWide (s : State) (c g : Nat) (w : W64) (f : State → Option State) : Option State :=
  if guardLanes (group s c g) w = 0 then some (nextPc s c g) else f s

/-- Write a lane register of each executing lane from its old group. -/
def mapLanes (k : Group) (lanes : List Nat) (f : Group → Nat → Group) : Group := lanes.foldl f k

/-- Replace a group and go to the next instruction. -/
def retire (s : State) (c g : Nat) (k : Group) : State := nextPc (setGroup s c g k) c g

end Sys2Proof.Machine
end

