-- ==== Sys2Proof/Machine/Operands.lean ====
section
/-! DEFINITION. The operand forms of instructions: the fields of the formats of R135, lane addresses and sizes (R145),
packed elements (R53, R55), block-scaled formats in lanes (R53, R62, R63) and values that the spec leaves open. -/
namespace Sys2Proof.Machine

/-! ## Fields of the formats (R135) -/

def fVD (w : W64) : Nat := ibits w 51 45
def fVA (w : W64) : Nat := ibits w 44 38
def fVB (w : W64) : Nat := ibits w 37 31
def fVC (w : W64) : Nat := ibits w 30 24
def fPD (w : W64) : Nat := ibits w 23 21
def fIMM (w : W64) : Nat := ibits w 31 0
def fUD (w : W64) : Nat := ibits w 51 47
def fUA (w : W64) : Nat := ibits w 46 42
def fUB (w : W64) : Nat := ibits w 41 37
/-- The fields of format M. -/
def mVDS (w : W64) : Nat := ibits w 51 45
def mVA (w : W64) : Nat := ibits w 44 38
def mUB (w : W64) : Nat := ibits w 37 33
def mSIZE (w : W64) : Nat := ibits w 32 30
def mMOD (w : W64) : Nat := ibits w 29 24
def mOFFS (w : W64) : Int := signed 24 (ibits w 23 0)

/-- Bytes of a SIZE code (R145); codes 5 to 7 are reserved. -/
def sizeBytes (code : Nat) : Option Nat := if code ≤ 4 then some (2 ^ code) else none

/-- Lane registers that a value of `n` bytes takes. -/
def regsOf (n : Nat) : Nat := max 1 (n / 4)

/-- Bits of an address: 48 for device memory, 64 before the check of a local one. -/
def addrBits (local' : Bool) : Nat := if local' then 64 else 48

/-- The address of a lane (R145): u[UB] + v[VA] + OFFS, without v[VA] when MOD bit 0 is set. -/
def laneAddr (k : Group) (w : W64) (local' : Bool) (lane : Nat) : Nat :=
  let v : Nat := if bitN (mMOD w) 0 then 0 else (getV k (mVA w) lane).toNat
  wrapN (addrBits local') (((getU k (mUB w)).toNat : Int) + v + mOFFS w)

/-- The executing lanes with their addresses. -/
def laneAddrs (k : Group) (w : W64) (local' : Bool) : List (Nat × Nat) :=
  (lanesOf (guardLanes k w)).map (fun l => (l, laneAddr k w local' l))

/-- The value of `n` bytes in the lane registers from `r` on. -/
def laneValue (k : Group) (r n lane : Nat) : Nat :=
  packN 32 (fun i => (getV k (r + i) lane).toNat) (regsOf n) % 256 ^ n

/-! ## Values that the spec leaves open -/

/-- `n` known low bits with the bits above them left open. -/
def openAbove (n x free : Nat) : W32 := BitVec.ofNat 32 (x % 2 ^ n + (free >>> n) <<< n)

/-- A fresh 32-bit value for lane `l` of the instruction. -/
def freeLane (s : State) (l : Nat) : W32 := Config.freeWord (s.fresh + l)
/-- A fresh 64-bit value of the instruction. -/
def freeU (s : State) : Nat := (Config.freeWord (s.fresh + 32)).toNat + (Config.freeWord (s.fresh + 33)).toNat * 2 ^ 32
/-- The fresh values of an instruction have been drawn. -/
def drawn (s : State) : State := { s with fresh := s.fresh + 64 }

/-- A value of `n` bytes loaded to the lane registers from `r` on; bits above a 1 or 2 byte value are left open. -/
def putLane (s : State) (k : Group) (r n lane v : Nat) : Group :=
  if n < 4 then setV k r lane (openAbove (8 * n) v (freeLane s lane).toNat)
  else (List.range (n / 4)).foldl (fun k i => setV k (r + i) lane (BitVec.ofNat 32 (v >>> (32 * i)))) k

/-! ## Packed elements (R53, R55) -/

/-- The element format of a packing. -/
def packFmt : Pack → Fmt
  | .fp32 => .fp32 | .bf16 => .bf16 | .fp16 => .fp16 | .e4m3 => .e4m3 | .e5m2 => .e5m2 | .int8 => .int8

/-- Elements per lane. -/
def packCount (p : Pack) : Nat := 32 / fmtWidth (packFmt p)

/-- Element `i` of a lane register, low element first. -/
def elemBits (f : Fmt) (x : W32) (i : Nat) : Nat := bitsN x.toNat (fmtWidth f * (i + 1) - 1) (fmtWidth f * i)

/-- Element `i` as an FP32 value, widened exactly. -/
def elemF32 (f : Fmt) (x : W32) (i : Nat) : W32 := toF32 (decodeFmt f (elemBits f x i))

/-! ## CVT formats (R53) -/

/-- The element format of a CVT format. -/
def cvtElem : CvtFmt → Fmt
  | .fp32 => .fp32 | .bf16 => .bf16 | .fp16 => .fp16 | .e4m3 => .e4m3 | .e5m2 => .e5m2 | .int8 => .int8
  | .fp4 => .e2m1 | .fp6e3 => .e3m2 | .fp6e2 => .e2m3
  | .mxfp8e4 => .e4m3 | .mxfp8e5 => .e5m2 | .mxfp6e3 => .e3m2 | .mxfp6e2 => .e2m3 | .mxfp4 => .e2m1 | .mxint8 => .mxint8
  | .ss4 => .e2m1 | .wide => .fp32

/-- Whether a CVT format is block-scaled. -/
def cvtBlock : CvtFmt → Bool
  | .mxfp8e4 | .mxfp8e5 | .mxfp6e3 | .mxfp6e2 | .mxfp4 | .mxint8 | .ss4 => true
  | _ => false

/-- The 128-bit integer in four lane registers. -/
def laneWide (k : Group) (r lane : Nat) : Int := signed 128 (laneValue k r 16 lane)

/-- The source value of a lane of CVT: an element, an element of the block whose scale and sub-shifts are in u[us], or a
wide partial with its anchor in u[us] (R53, R62, R75). A 16-bit or 8-bit format is the low element of the lane's register
(DESIGN CHOICE, log entry 168). -/
def cvtSource (k : Group) (f : CvtFmt) (va us lane : Nat) : Val :=
  let u := (getU k us).toNat
  match f with
  | .wide => wideVal (signed 16 u) { n := laneWide k va lane }
  | f =>
    let b := elemBits (cvtElem f) (getV k va lane) 0
    if cvtBlock f then blockVal (cvtElem f) (bitsN u 7 0) (if f = .ss4 then bitsN u 15 8 else 0) lane b else decodeFmt (cvtElem f) b

end Sys2Proof.Machine
end

