-- ==== Sys2Proof/Machine/SfuCore.lean ====
section
/-! DEFINITION. The special-function unit: banks, directories, tables, micro-programs and the built-in functions (R174 to R184,
R190). -/
namespace Sys2Proof.Machine

/-! ## Stores (R174 to R177) -/

/-- Word `i` of a bank; entries 0x00 to 0x1F of its micro-program directory read as 0 (R175). -/
def bankWord (s : State) (b bank i : Nat) : W32 := if i < 32 then 0 else mget 0 (block s b).banks (bank * 8192 + i)
/-- Step word `i`. -/
def stepWord (s : State) (b i : Nat) : W32 := mget 0 (block s b).steps i
/-- The bank that is active (R191). -/
def activeBank (s : State) (b : Nat) : Nat := fld s .block b f_BLOCK_SF_CTRL_ACTIVE_BANK
/-- SS_COMPAT in force (R203). -/
def ssCompat (s : State) (b : Nat) : Bool := flag s .block b f_BLOCK_SF_CTRL_SS_COMPAT

/-- A micro-program directory word of a bank (R175). -/
def dirWord (s : State) (b bank e : Nat) : W32 := bankWord s b bank e

/-- The steps of an entry: first index and number; none when it is empty (R176). -/
def entrySteps (s : State) (b bank e : Nat) : Option (Nat × Nat) :=
  let w := dirWord s b bank e
  let st := fldW w 26 16; let n := fldW w 9 4
  if fldW w 31 31 = 0 || n = 0 || st + n > 2048 then none else some (st, n)

/-- The built-in entries that hold a function (R183). -/
def builtin (e : Nat) : Bool := (1 ≤ e && e ≤ 8) || e == 0x11 || e == 0x12

/-- Whether an entry is empty (R176, R183). -/
def entryEmpty (s : State) (b bank e : Nat) : Bool := if e < 32 then !builtin e else (entrySteps s b bank e).isNone

/-- A table: BASE, IDXB and ORDER (R177). -/
structure Table where
  base : Nat
  idxb : Nat
  order : Nat
  deriving DecidableEq, Repr

/-- The words of a table. -/
def tableWords (t : Table) : Nat := (if t.order = 0 then 1 else t.order + 1) * 2 ^ t.idxb

/-- A table of a bank; none when it is empty (R177). -/
def tableOf (s : State) (b bank n : Nat) : Option Table :=
  let w := bankWord s b bank (256 + n)
  let t : Table := ⟨fldW w 31 19, fldW w 18 15, fldW w 14 13⟩
  if t.idxb = 0 || t.order = 3 || t.base + tableWords t > 7680 then none else some t

/-- Data word `i` of a bank. -/
def dataWord (s : State) (b bank i : Nat) : W32 := bankWord s b bank (512 + i)

/-! ## Lookups (R181) -/

/-- A value as an exact multiple of 2^e: floor of value × 2^k, and whether it is a number at all. -/
def floorVal : Val → Int
  | .fin n m e => if 0 ≤ e then smant n m * 2 ^ e.toNat else smant n m / (2 ^ (-e).toNat : Nat)
  | _ => 0

/-- The nearest integer, ties to even. -/
def nearestVal : Val → Int
  | .fin n m e => let (x, y) := dyadQ m e; smant n (roundQ .rne n x y).1
  | _ => 0

/-- The segment of an input: i clamped, and f = u − i exactly; none for NaN. -/
def segment (t : Table) (x : W32) : Option (Nat × Val) :=
  let u := vscale (f32 x) t.idxb
  match u with
  | .nan => none
  | .inf neg => some (if neg then 0 else 2 ^ t.idxb - 1, u)
  | u =>
    let i := (max 0 (min (floorVal u) ((2 ^ t.idxb : Nat) - 1 : Int))).toNat
    some (i, vadd u (vneg (.fin false i 0)))

/-- LUT1 (order 1) or LUT2 (order 2) in a table. -/
def lookupTable (s : State) (b bank : Nat) (t : Table) (x : W32) : W32 :=
  match segment t x with
  | none => f32NaN
  | some (i, f) =>
    let c := fun j => f32 (dataWord s b bank (t.base + (t.order + 1) * i + j))
    if t.order = 1 then toF32 (vadd (c 0) (vmul f (c 1)))
    else toF32 (vadd (c 0) (vmul f (f32 (toF32 (vadd (c 1) (vmul f (c 2)))))))

/-- A LUT step: an empty table, or one of another order, gives the canonical NaN. -/
def lutStep (s : State) (b bank n order : Nat) (x : W32) : W32 :=
  match tableOf s b bank n with
  | some t => if t.order = order then lookupTable s b bank t x else f32NaN
  | none => f32NaN

/-! ## Micro-programs (R178 to R180) -/

/-- A temporary. -/
def tmpAt (t : List W32) (i : Nat) : W32 := t[i]?.getD 0

/-- 2^31 bounds of an integer pattern. -/
def fitsI32 (n : Int) : Bool := -(2 ^ 31) ≤ n && n < 2 ^ 31

/-- RRED: t[D] and t[C]. Inf, NaN and an N beyond 32 bits leave what the spec does not state open. -/
def stepRred (w : W32) (x : W32) : W32 × W32 :=
  let k : Nat := fldW w 8 4
  match f32 x with
  | .fin n m e =>
    let y := Val.fin n m (e + k)
    let i := if fldW w 0 0 = 0 then nearestVal y else floorVal y
    let r := vscale (vadd y (vneg (.fin (i < 0) i.natAbs 0))) (-(k : Int))
    (toF32 r, if fitsI32 i then BitVec.ofInt 32 i else Config.stepOpen w x)
  | .nan => (f32NaN, Config.stepOpen w x)
  | .inf _ => (Config.stepOpen (~~~w) x, Config.stepOpen w x)

/-- EXT: t[D] and t[C]. -/
def stepExt (x : W32) : W32 × W32 :=
  match f32 x with
  | .fin n m e =>
    if m = 0 then (x, 0)
    else
      let k := (Nat.log2 m : Int) + e
      (toF32 (.fin n m (e - k)), BitVec.ofInt 32 k)
  | _ => (x, 0)

/-- INS: scaling by a power beyond 1,000 binades always overflows or underflows. -/
def stepIns (x p : W32) : W32 :=
  let k := max (-1000) (min 1000 p.toInt)
  toF32 (vscale (f32 x) k)

/-- The condition of SEL; codes 6 and 7 are none of the spec's. -/
def selCond (code : Nat) (c : W32) : Option Bool :=
  let v := f32 c
  match code with
  | 0 => some (vlt v (.fin false 0 0))
  | 1 => some (vlt v (.fin false 0 0) || veq v (.fin false 0 0))
  | 2 => some (veq v (.fin false 0 0))
  | 3 => some (isNaN v)
  | 4 => some (match v with | .inf _ => true | _ => false)
  | 5 => some (bitN c.toNat 31)
  | _ => none

/-- One step: the temporaries after it; none for a reserved OP. -/
def runStep (s : State) (b bank : Nat) (w : W32) (t : List W32) : Option (List W32) :=
  let d := fldW w 27 25; let c := fldW w 18 16; let imm := fldW w 15 0
  let x := tmpAt t (fldW w 24 22); let y := tmpAt t (fldW w 21 19); let z := tmpAt t c
  match fldW w 31 28 with
  | 0 => some (setAt t d x)
  | 1 => let (r, n) := stepRred w x; some (setAt (setAt t d r) c n)
  | 2 => let (r, n) := stepExt x; some (setAt (setAt t d r) c n)
  | 3 => some (setAt t d (stepIns x y))
  | 4 => some (setAt t d (lutStep s b bank (imm % 16) 1 x))
  | 5 => some (setAt t d (lutStep s b bank (imm % 16) 2 x))
  | 6 => some (setAt t d (f32Fma x y z))
  | 7 => some (setAt t d (match selCond (imm % 8) z with
      | some true => x
      | some false => y
      | none => Config.stepOpen w z))
  | 8 => some (setAt t d (if imm % 256 < 240 then bankWord s b bank (272 + imm % 256) else f32NaN))
  | 9 => some (setAt t d (match imm % 4 with
      | 0 => x ^^^ 0x80000000
      | 1 => x &&& 0x7FFFFFFF
      | 2 => (x &&& 0x7FFFFFFF) ||| (y &&& 0x80000000)
      | _ => Config.stepOpen w x))
  | _ => none

/-- The steps of a loaded entry on one lane. -/
def runSteps (s : State) (b bank i : Nat) : Nat → List W32 → W32
  | 0, t => tmpAt t 0
  | n + 1, t =>
    match runStep s b bank (stepWord s b i) t with
    | none => f32NaN
    | some t => runSteps s b bank (i + 1) n t

/-! ## Built-in functions (R183, R184) -/

/-- The bits of ±Inf, ±0 and 1 in FP32. -/
abbrev f32Inf : W32 := 0x7F800000
abbrev f32NegInf : W32 := 0xFF800000
abbrev f32NegZero : W32 := 0x80000000
abbrev f32One : W32 := 0x3F800000

/-- An integer as a value. -/
def intVal (n : Int) : Val := .fin (n < 0) n.natAbs 0

/-- Whether a value is an integer, with the integer. -/
def asInt : Val → Option Int
  | .fin n m e =>
    if m = 0 then some 0
    else if 0 ≤ e then some (smant n m * 2 ^ e.toNat)
    else if m % 2 ^ (-e).toNat = 0 then some (smant n (m / 2 ^ (-e).toNat)) else none
  | _ => none

/-- Whether a positive value is a power of two, with its exponent. -/
def asPow2 : Val → Option Int
  | .fin _ m e => if m ≠ 0 && m = 2 ^ Nat.log2 m then some ((Nat.log2 m : Int) + e) else none
  | _ => none

/-- The special and exact cases of R183 and R184; none where only the error bound of R183 is given. -/
def builtinExact (e : Nat) (x : W32) : Option W32 :=
  match f32 x with
  | .nan => some f32NaN
  | .inf neg =>
    match e with
    | 1 => some (if neg then 0 else f32Inf)
    | 2 => some (if neg then f32NaN else f32Inf)
    | 3 => some (if neg then f32NegZero else 0)
    | 4 => some (if neg then f32NaN else 0)
    | 5 | 6 => some f32NaN
    | 7 => some (if neg then 0xBF800000 else f32One)
    | 8 => some (if neg then 0 else f32One)
    | _ => some (if neg then f32NegZero else f32Inf)
  | .fin neg m ex =>
    let v := Val.fin neg m ex
    match e with
    | 1 =>
      if !vlt v (intVal 128) then some f32Inf
      else if vlt v (intVal (-150)) then some 0
      else (asInt v).map (fun k => toF32 (.fin false 1 k))
    | 2 => if m = 0 then some f32NegInf else if neg then some f32NaN else none
    | 3 =>
      if m = 0 then some (if neg then f32NegInf else f32Inf)
      else (asPow2 (vabs v)).map (fun k => toF32 (.fin neg 1 (-k)))
    | 4 =>
      if m = 0 then some (if neg then f32NegInf else f32Inf)
      else if neg then some f32NaN
      else (asPow2 v).bind (fun k => if k % 2 = 0 then some (toF32 (.fin false 1 (-(k / 2)))) else none)
    | 5 => if m = 0 then some x else if !vlt (vabs v) (.fin false 1 20) then some f32NaN else none
    | 6 => if !vlt (vabs v) (.fin false 1 20) then some f32NaN else none
    | 0x11 | 0x12 => if m = 0 then some x else none
    | _ => none

/-- A built-in function (R183, R203): entry 0x12 has its native form in both modes. -/
def builtinRun (e : Nat) (compat : Bool) (x : W32) : W32 :=
  (builtinExact e x).getD (Config.sfu e (compat && e != 0x12) x)

/-- The function of an entry on one lane, with the bank and mode that the invocation latched (R190). -/
def sfuRun (s : State) (b bank : Nat) (compat : Bool) (e : Nat) (x : W32) : W32 :=
  if e < 32 then builtinRun e compat x
  else match entrySteps s b bank e with
  | some (i, n) => runSteps s b bank i n (x :: List.replicate 7 0)
  | none => f32NaN

end Sys2Proof.Machine
end

