-- ==== Sys2Proof/Machine/Desc.lean ====
section
/-! DEFINITION. The matrix descriptor: its fields (R97), format codes (R98), anchor modes (R99), shapes and layouts (R59, R85,
R86, R89, R100, R121), ranges (R110), and the checks of R103 and R122. -/
namespace Sys2Proof.Machine

/-! ## Fields (R97) -/

/-- Bits of a descriptor. -/
def dbits (d : BitVec 512) (hi lo : Nat) : Nat := bitsN d.toNat hi lo
def dSmxEn (d : BitVec 512) : Bool := bitN d.toNat 447
def dSmxFirst (d : BitVec 512) : Bool := bitN d.toNat 446
def dSmxAddr (d : BitVec 512) : Nat := dbits d 439 420
def dSmxScale (d : BitVec 512) : Nat := dbits d 419 404
def dCStride (d : BitVec 512) : Nat := dbits d 383 364
def dBiasAddr (d : BitVec 512) : Nat := dbits d 363 344
def dFmtBias (d : BitVec 512) : Nat := dbits d 343 339
def dBiasEn (d : BitVec 512) : Bool := bitN d.toNat 338
def dAct (d : BitVec 512) : Nat := dbits d 337 330
def dCAddr (d : BitVec 512) : Nat := dbits d 319 272
def dBAddr (d : BitVec 512) : Nat := dbits d 255 236
def dBStride (d : BitVec 512) : Nat := dbits d 235 216
def dAAddr (d : BitVec 512) : Nat := dbits d 191 172
def dAStride (d : BitVec 512) : Nat := dbits d 171 152
def dMT (d : BitVec 512) : Nat := dbits d 127 116
def dNT (d : BitVec 512) : Nat := dbits d 115 104
def dKT (d : BitVec 512) : Nat := dbits d 103 92
/-- 0 MMA, 1 MMA.T, 2 ELEM. -/
def dOp (d : BitVec 512) : Nat := dbits d 63 62
def dAcc (d : BitVec 512) : Bool := bitN d.toNat 61
/-- 0 LOCAL, 1 DEVICE, 2 REDUCE. -/
def dDst (d : BitVec 512) : Nat := dbits d 60 59
def dAmode (d : BitVec 512) : Nat := dbits d 58 57
def dRnd (d : BitVec 512) : Nat := dbits d 56 55
def dFmtA (d : BitVec 512) : Nat := dbits d 51 47
def dFmtB (d : BitVec 512) : Nat := dbits d 46 42
def dFmtC (d : BitVec 512) : Nat := dbits d 41 37
def dAnchor (d : BitVec 512) : Int := signed 16 (dbits d 31 16)
def dToken (d : BitVec 512) : Nat := dbits d 15 12
def dMLast (d : BitVec 512) : Nat := dbits d 11 6

/-- The reserved fields of a descriptor. -/
def descReserved : List (Nat × Nat) :=
  [(511, 448), (445, 440), (403, 384), (329, 320), (271, 256), (215, 192), (151, 128), (91, 64), (54, 52), (36, 32), (5, 0)]

/-! ## Formats (R86, R98) -/

/-- What a format code names. `ss` marks SS4. -/
inductive MxFmt where
  | plain (f : Fmt)
  | block (f : Fmt) (ss : Bool)
  | wide
  deriving DecidableEq, Repr

/-- R98. -/
def codeFmt (c : Nat) : Option MxFmt :=
  match c with
  | 0 => some (.plain .fp32) | 1 => some (.plain .bf16) | 2 => some (.plain .fp16) | 3 => some (.plain .e2m1)
  | 4 => some (.plain .e4m3) | 5 => some (.plain .e5m2) | 6 => some (.plain .int8) | 7 => some (.plain .e3m2)
  | 8 => some (.block .e4m3 false) | 9 => some (.block .e5m2 false) | 10 => some (.block .e3m2 false)
  | 11 => some (.block .e2m3 false) | 12 => some (.block .e2m1 false) | 13 => some (.block .mxint8 false)
  | 14 => some (.block .e2m1 true) | 15 => some (.plain .e2m3) | 16 => some .wide
  | _ => none

/-- The format of a code that the descriptor check has accepted. -/
def fmtOf (c : Nat) : MxFmt := (codeFmt c).getD (.plain .fp32)

/-- The element format. -/
def elemFmt : MxFmt → Fmt
  | .plain f => f
  | .block f _ => f
  | .wide => .fp32

/-- Bits of an element; a partial has 128. -/
def elemWidth : MxFmt → Nat
  | .wide => 128
  | m => fmtWidth (elemFmt m)

def isBlock : MxFmt → Bool
  | .block _ _ => true
  | _ => false

/-- BF16, FP16 or FP32. -/
def isFloat16Up : MxFmt → Bool
  | .plain .fp32 | .plain .bf16 | .plain .fp16 => true
  | _ => false

/-- The rate class of a format (R86): 0 4-bit, 1 8-bit, 2 16-bit, 3 FP32. -/
def fmtClass (m : MxFmt) : Nat :=
  match elemWidth m with
  | 4 => 0 | 6 => 1 | 8 => 1 | 16 => 2 | _ => 3

/-- The rate class of an operation (R54, R86). -/
def opClass (d : BitVec 512) : Nat := max (fmtClass (fmtOf (dFmtA d))) (fmtClass (fmtOf (dFmtB d)))

/-- Elements of a stationary tile along K (R86). -/
def tileK (d : BitVec 512) : Nat :=
  match opClass d with
  | 0 => 128 | 1 => 64 | _ => 32

/-! ## Anchor modes (R68, R99) -/

inductive AMode where
  | default | auto | supplied | ordered
  deriving DecidableEq, Repr

/-- The mode that a descriptor resolves to; none where its formats do not permit it. -/
def amodeOf (d : BitVec 512) : Option AMode :=
  let a := fmtOf (dFmtA d); let b := fmtOf (dFmtB d)
  let big := isFloat16Up a || isFloat16Up b
  let blk := isBlock a || isBlock b
  match dAmode d with
  | 0 => if big then some .ordered else if blk then none else some .default
  | 1 => if blk && !big then some .auto else none
  | 2 => some .supplied
  | _ => if big then some .ordered else none

/-- Whether an operation runs in ORDERED. -/
def isOrdered (d : BitVec 512) : Bool := amodeOf d == some .ordered

/-! ## Shapes (R85, R89, R121) -/

/-- Rows of the last row tile. -/
def lastRows (d : BitVec 512) : Nat := if dMLast d = 0 then 64 else dMLast d
/-- Rows of A and C. -/
def rowsM (d : BitVec 512) : Nat := (dMT d - 1) * 64 + lastRows d
/-- Rows of a row tile. -/
def rowsOfTile (d : BitVec 512) (rt : Nat) : Nat := if rt + 1 = dMT d then lastRows d else 64
/-- Columns of C. -/
def colsC (d : BitVec 512) : Nat := if dOp d = 1 then dKT d * tileK d else dNT d * 64
/-- Output tiles along the columns of C. -/
def nOut (d : BitVec 512) : Nat := (colsC d + 63) / 64
/-- Columns of output tile `ot`. -/
def tileCols (d : BitVec 512) (ot : Nat) : Nat := min 64 (colsC d - 64 * ot)
/-- Reduction tiles. -/
def nRed (d : BitVec 512) : Nat := if dOp d = 1 then dNT d else dKT d
/-- Reduction elements of a reduction tile. -/
def redTile (d : BitVec 512) : Nat := if dOp d = 1 then 64 else tileK d
/-- Elements of a row of A: the reduction length, or the row of ELEM. -/
def rowLenA (d : BitVec 512) : Nat := if dOp d = 2 then dNT d * 64 else nRed d * redTile d
/-- Elements of a stored column of B, or of a row of B in ELEM. -/
def rowLenB (d : BitVec 512) : Nat := if dOp d = 2 then dNT d * 64 else dKT d * tileK d
/-- Stored columns of B, or rows in ELEM. -/
def rowsB (d : BitVec 512) : Nat := if dOp d = 2 then rowsM d else dNT d * 64

/-! ## Layouts (R59, R60, R100) -/

/-- Element bytes of a block (R59). -/
def blockBytes (m : MxFmt) : Nat := 4 * elemWidth m
/-- Bytes of the element lines of a super-block. -/
def sbElem (m : MxFmt) : Nat := 256 * blockBytes m
/-- Bytes of a super-block. -/
def sbBytes (m : MxFmt) : Nat :=
  match m with
  | .block _ true => sbElem m + 512
  | _ => sbElem m + 256
/-- Addresses of a block's elements and of its scale; the sub-shift byte lies 256 B above the scale. -/
def blockAt (m : MxFmt) (base b : Nat) : Nat × Nat :=
  let sb := base + b / 256 * sbBytes m
  (sb + b % 256 * blockBytes m, sb + sbElem m + b % 256)

/-- The last byte that `rows` rows of `len` elements reach. -/
def lastByte (m : MxFmt) (base stride rows len : Nat) : Nat :=
  if isBlock m then
    let b := rows * (len / 32) - 1
    (blockAt m base b).2 + (if sbBytes m = sbElem m + 512 then 256 else 0)
  else base + (rows - 1) * stride + len * elemWidth m / 8 - 1

/-- Ranges that the operation reads in local memory (R110): A, B and the bias. -/
def readRanges (d : BitVec 512) : List (Nat × Nat) :=
  [(dAAddr d, lastByte (fmtOf (dFmtA d)) (dAAddr d) (dAStride d) (rowsM d) (rowLenA d)),
   (dBAddr d, lastByte (fmtOf (dFmtB d)) (dBAddr d) (dBStride d) (rowsB d) (rowLenB d))]
  ++ (if dBiasEn d then [(dBiasAddr d, lastByte (fmtOf (dFmtBias d)) (dBiasAddr d) 0 1 (colsC d))] else [])

/-- Ranges that the drain writes in local memory: C under LOCAL, and the row states of the soft maximum. -/
def writeRanges (d : BitVec 512) : List (Nat × Nat) :=
  (if dDst d = 0 then [(dCAddr d, lastByte (fmtOf (dFmtC d)) (dCAddr d) (dCStride d) (rowsM d) (colsC d))] else [])
  ++ (if dSmxEn d then [(dSmxAddr d, dSmxAddr d + 16 * rowsM d - 1)] else [])

/-- Whether two ranges share a byte. -/
def overlap (a b : Nat × Nat) : Bool := a.1 ≤ b.2 && b.1 ≤ a.2

/-! ## The checks of R122 -/

/-- A stride that its operand does not allow. -/
def badStride (m : MxFmt) (stride : Nat) : Bool :=
  if isBlock m then stride != 0 else stride % (if m = .wide then 256 else 64) != 0

/-- The detail of the first failing check; none for a descriptor that may be queued. `busy` says that the token is not
IDLE, `empty` that an activation entry is empty. -/
def descFault (d : BitVec 512) (busy : Bool) (empty : Nat → Bool) : Option Nat :=
  let fa := fmtOf (dFmtA d); let fb := fmtOf (dFmtB d); let fc := fmtOf (dFmtC d)
  let operand := fun c => (codeFmt c).isSome && codeFmt c != some .wide && !(dOp d == 2 && isBlock (fmtOf c))
  let smx := dSmxEn d
  if descReserved.any (fun r => dbits d r.1 r.2 != 0) || dOp d == 3 || dDst d == 3 then some 1
  else if !operand (dFmtA d) || !operand (dFmtB d) || (codeFmt (dFmtC d)).isNone || (dBiasEn d && 2 < dFmtBias d) then some 2
  else if (amodeOf d).isNone then some 3
  else if isBlock fc && dRnd d != 0 then some 4
  else if dAAddr d % 256 != 0 || dBAddr d % 256 != 0 || dCAddr d % (if isBlock fc || fc = .wide then 256 else 64) != 0
      || badStride fa (dAStride d) || badStride fb (dBStride d) || badStride fc (dCStride d)
      || (dBiasEn d && dBiasAddr d % 64 != 0) || (smx && dSmxAddr d % 256 != 0) then some 5
  else if dMT d == 0 || dNT d == 0 || dKT d == 0 || (dOp d == 2 && dKT d != 1)
      || (readRanges d).any (fun r => 0x80000 ≤ r.2)
      || (smx && 0x80000 < dSmxAddr d + 16 * rowsM d)
      || (dDst d == 0 && dCAddr d < 2 ^ 20 && 0x80000 ≤ lastByte fc (dCAddr d) (dCStride d) (rowsM d) (colsC d)) then some 6
  else if busy then some 7
  else if fc = .wide && (dAct d != 0 || smx || dOp d == 2 || isOrdered d) then some 8
  else if (dAcc d && dDst d != 0) || (dDst d == 2 && fc ≠ .wide) || (dDst d == 0 && 2 ^ 20 ≤ dCAddr d) then some 9
  else if smx && (dOp d != 0 || dDst d != 0 || dAct d != 0) then some 0xA
  else if dAct d != 0 && empty (dAct d) then some 0xB
  else none

end Sys2Proof.Machine
end

