-- ==== Sys2Proof/Machine/Memory.lean ====
section
/-! DEFINITION. The memory instructions of a group, and what comes back for them (R143 to R147, R153, R157, R167 to R169, R238
to R243, R267, R278 to R283, R343). -/
namespace Sys2Proof.Machine

/-! ## Faults of lanes (R167, R169) -/

/-- The causes in the order of R169. -/
def causeOrder : List Nat := [cILLEGAL, cALIGN, cDIVERGENT, cACCESS, cWATCH, cDEAD, cPOISON, cLOCK, cTIMEOUT, cDESC]

/-- What one lane raises. -/
structure LaneFault where
  lane : Nat
  cause : Nat
  detail : Nat
  aspace : Nat
  addr : Nat
  deriving DecidableEq, Repr

/-- Park for the first cause of R169; its lanes, and the address of the lowest of them. -/
def parkLanes (s : State) (c g : Nat) (fs : List LaneFault) (dn : Bool := false) : State :=
  match causeOrder.find? (fun x => fs.any (fun f => f.cause == x)) with
  | none => s
  | some x =>
    let l := fs.filter (fun f => f.cause == x)
    match l with
    | [] => s
    | h :: t =>
      let f := t.foldl (fun a b => if b.lane < a.lane then b else a) h
      park s c g { cause := x, detail := f.detail, aspace := f.aspace, addr := f.addr, done := dn, lanes := maskOf (l.map (·.lane)) }

/-- The address space of a device address in a park record (R171). -/
def aspaceOf (s : State) (a : Nat) : Nat := if backed (lineOf a) then 2 else if (fwinOf s a).isSome then 3 else 2

/-- Lanes whose address is not aligned to the access (R145), in the space that its address names (R171). -/
def alignFaults (la : List (Nat × Nat)) (n : Nat) (aspace : Nat → Nat) : List LaneFault :=
  (la.filter (fun x => x.2 % n != 0)).map (fun x => ⟨x.1, cALIGN, 1, aspace x.2, x.2⟩)

/-- The prologue of R126, R134, R145: SIZE and MOD as the instruction allows, registers within the allocation; then
nothing for a guard that selects no lane. -/
def memIssue (c g : Nat) (w : W64) (ok : Bool) (regs : List (Nat × Nat)) (eff : State → State) (s : State) : State :=
  issue s c g w (fun s =>
    let k := group s c g
    if !ok then some (illegal s c g 2)
    else if regs.any (fun r => !inAlloc k r.1 r.2) then some (illegal s c g 3)
    else if guardLanes k w = 0 then some (nextPc s c g)
    else some (eff s))

/-- Whether MOD has no bit outside a mask. -/
def modOnly (w : W64) (m : Nat) : Bool := mMOD w ||| m == m

/-- The lane registers that the address of a lane access reads. -/
def addrRegs (w : W64) : List (Nat × Nat) := if bitN (mMOD w) 0 then [] else [(mVA w, 1)]

/-! ## Local memory: LDL and STL (R143 to R145) -/

/-- Faults of local lane accesses. -/
def localFaults (la : List (Nat × Nat)) (n : Nat) : List LaneFault :=
  alignFaults la n (fun _ => 1) ++ (la.filter (fun x => x.2 + n > lmSize)).map (fun x => ⟨x.1, cACCESS, 3, 1, x.2⟩)

/-- LDL on the lanes given. -/
def loadLanes (s : State) (c : Nat) (k : Group) (vd n : Nat) : List (Nat × Nat) → State × Group × List LaneFault
  | [] => (s, k, [])
  | (l, a) :: t =>
    let (s, v, p) := lmRead s c a n
    let (s, k, fs) := loadLanes s c (putLane s k vd n l v) vd n t
    (s, k, (match p with | some x => [⟨l, cPOISON, 1, 1, x⟩] | none => []) ++ fs)

/-- LDL. -/
def ldl (c g : Nat) (w : W64) : State → State :=
  let n := sizeBytes (mSIZE w)
  memIssue c g w (n.isSome && modOnly w 1) ((mVDS w, regsOf (n.getD 1)) :: addrRegs w) (fun s =>
    let n := n.getD 1
    let k := group s c g
    let la := laneAddrs k w true
    match localFaults la n with
    | f :: t => parkLanes s c g (f :: t)
    | [] =>
      let (s, k', fs) := loadLanes s c k (mVDS w) n la
      if fs.isEmpty then retire (drawn s) c g k' else parkLanes s c g fs)

/-- Exec LDL. -/
def execLdl (c g : Nat) (w : W64) (s : State) : Host.Outcome State Fault Refusal := run (opc w == 0xA0) s (ldl c g w)

/-- STL. -/
def stl (c g : Nat) (w : W64) : State → State :=
  let n := sizeBytes (mSIZE w)
  memIssue c g w (n.isSome && modOnly w 1) ((mVDS w, regsOf (n.getD 1)) :: addrRegs w) (fun s =>
    let n := n.getD 1
    let k := group s c g
    let la := laneAddrs k w true
    match localFaults la n with
    | f :: t => parkLanes s c g (f :: t)
    | [] => nextPc (la.foldl (fun s x => lmStore s c x.2 n (laneValue k (mVDS w) n x.1)) s) c g)

/-- Exec STL. -/
def execStl (c g : Nat) (w : W64) (s : State) : Host.Outcome State Fault Refusal := run (opc w == 0xA1) s (stl c g w)

/-! ## Entry of device accesses (R304, R340, R520, R574) -/

/-- The distinct lines of lanes, in the order of their first lane, with that lane's address. -/
def laneLines (la : List (Nat × Nat)) : List (Nat × Nat) :=
  la.foldl (fun acc x => if acc.any (fun e => e.1 == lineOf x.2) then acc else acc ++ [(lineOf x.2, x.2)]) []

/-- Check each line once. -/
def checkEntries (s : State) (c : Nat) (label : Byte) (rd wr : Bool) : List (Nat × Nat) → State × List (Nat × Entry)
  | [] => (s, [])
  | (l, a) :: t =>
    let (s, e) := cellEntry s c label a rd wr
    let (s, es) := checkEntries s c label rd wr t
    (s, (l, e) :: es)

/-- The answer for a line. -/
def entryFor (es : List (Nat × Entry)) (l : Nat) : Entry :=
  match es.find? (fun e => e.1 == l) with
  | some e => e.2
  | none => .refused 2

/-- The lanes refused, as ACCESS faults. -/
def entryFaults (s : State) (la : List (Nat × Nat)) (es : List (Nat × Entry)) : List LaneFault :=
  la.filterMap (fun x => match entryFor es (lineOf x.2) with
    | .refused d => some ⟨x.1, cACCESS, d, aspaceOf s x.2, x.2⟩
    | _ => none)

/-- Watchpoints on an instruction's accesses of `n` bytes (R575): one that parks answers the lanes that hit, each with its own
address. R169 puts the address of the lowest of these lanes in the record, R575 the lowest address that hit: where they differ the
model takes the lowest lane's, DESIGN CHOICE, log entry 165. -/
def watchLanes (s : State) (c g kinds n : Nat) (la : List (Nat × Nat)) : State × List LaneFault :=
  let k := group s c g
  let lbl := cellLabel s k.label
  match watchOf s c kinds lbl (la.map (fun x => (x.2, n))) k.skipWatch with
  | none => (s, [])
  | some (wp, a, pk) =>
    let s := watchCount s c wp
    if pk then
      (s, (la.filter (fun x => !(wpHits s (regionOfCell c) wp kinds lbl [(x.2, n)]).isEmpty)).map (fun x => ⟨x.1, cWATCH, wp, aspaceOf s x.2, x.2⟩))
    else (watchRecord s c g (wrapN 32 ((k.pc : Int) - k.base)) kinds wp a lbl, [])

/-- The checks of a load at issue: alignment, entry, watchpoints; a park, or the entries. The lanes in `pre` have an ACCESS fault of
their own, which the others join (R169). -/
def loadEntry (s : State) (c g kinds n : Nat) (la : List (Nat × Nat)) (rd wr : Bool) (pre : List LaneFault := []) :
    State × Option (List (Nat × Entry)) :=
  match alignFaults la n (aspaceOf s) with
  | f :: t => (parkLanes s c g (f :: t), none)
  | [] =>
    let go := la.filter (fun x => !pre.any (fun f => f.lane == x.1))
    let (s, es) := checkEntries s c (cellLabel s (group s c g).label) rd wr (laneLines go)
    match pre ++ entryFaults s go es with
    | f :: t => (parkLanes s c g (f :: t), none)
    | [] =>
      match watchLanes s c g kinds n la with
      | (s, f :: t) => (parkLanes s c g (f :: t), none)
      | (s, []) => (s, some es)

/-- The checks of a posted write at issue: alignment and watchpoints park; refused lanes are dropped with WDROP (R153).
Answers the lanes that go on and the entries. -/
def storeEntry (s : State) (c g kinds n : Nat) (la : List (Nat × Nat)) : State × Option (List (Nat × Nat) × List (Nat × Entry)) :=
  match alignFaults la n (aspaceOf s) with
  | f :: t => (parkLanes s c g (f :: t), none)
  | [] =>
    match watchLanes s c g kinds n la with
    | (s, f :: t) => (parkLanes s c g (f :: t), none)
    | (s, []) =>
      let (s, es) := checkEntries s c (cellLabel s (group s c g).label) false true (laneLines la)
      let keep := la.filter (fun x => match entryFor es (lineOf x.2) with | .refused _ => false | _ => true)
      (if keep.length = la.length then s else wdrop s c g, some (keep, es))

/-- The words of a line that an access touches. -/
def wordsAt (a n : Nat) : BitVec 32 := wordsTouched (byteMask (a % 256) n)

/-- The words of line `l` that lanes touch. -/
def laneWords (la : List (Nat × Nat)) (n l : Nat) : BitVec 32 :=
  (la.filter (fun x => lineOf x.2 == l)).foldl (fun m x => m ||| wordsAt x.2 n) 0

/-! ## What comes back (R167, R168, R277, R283, R343) -/

/-- A reply as data: the line, its poison and OVF, or the fault it stands for. -/
inductive Got where
  | data (d : Line) (pois : BitVec 32) (ovf : Bool)
  | fault (cause detail aspace : Nat)
  deriving DecidableEq, Repr

/-- The address space of poison in a park record: a fabric response's words are of a fabric window (R343). -/
def gotOf (aspace : Nat) : Reply → Got
  | .data d p dead ovf => if dead then .fault cDEAD 0 aspace else .data d p ovf
  | .line d p _ _ => .data d p false
  | .fabStatus st =>
    if st = 0x01 then .fault cDEAD 0 3
    else if st = 0x11 then .fault cACCESS 1 3
    else if st = 0x10 || st = 0x12 then .fault cACCESS 2 3
    else .fault cPOISON 2 3
  | .timeout => .fault cPOISON 3 3
  | _ => .fault cPOISON 2 aspace

/-- The first poisoned address of an access. -/
def firstPoison (p : BitVec 32) (a n : Nat) : Option Nat :=
  ((List.range 32).find? (fun i => bitN (p &&& wordsAt a n).toNat i)).map (fun i => max a (a / 256 * 256 + 8 * i))

/-- What a lane takes from its reply: a fault, or the value. -/
def laneGot (s : State) (r : Got) (l a n : Nat) : LaneFault ⊕ Nat :=
  match r with
  | .fault cause d sp => .inl ⟨l, cause, d, sp, a⟩
  | .data d p _ =>
    match firstPoison p a n with
    | some x => .inl ⟨l, cPOISON, 2, aspaceOf s a, x⟩
    | none => .inr (bitsN d.toNat (8 * (a % 256 + n) - 1) (8 * (a % 256)))

/-- The faults of lanes, and the lanes' values. -/
def splitGot (xs : List (Nat × (LaneFault ⊕ Nat))) : List LaneFault × List (Nat × Nat) :=
  (xs.filterMap (fun x => match x.2 with | .inl f => some f | .inr _ => none),
   xs.filterMap (fun x => match x.2 with | .inl _ => none | .inr v => some (x.1, v)))

/-- Whether any reply of a load delivered a partial with OVF (R283). -/
def anyOvf (got : List (Nat × Nat × Reply)) : Bool :=
  got.any (fun x => match x.2.2 with | .data _ _ _ o => o | _ => false)

/-- The reply for a line, or for a lane. -/
def replyFor (got : List (Nat × Nat × Reply)) (key : Nat) : Reply :=
  match got.find? (fun x => x.2.1 == key) with
  | some x => x.2.2
  | none => .timeout

/-- Finish an ordinary or constant load: park, or write the registers (R145, R283). -/
def finishLoad (s : State) (c g : Nat) (a : AwaitMem) : State :=
  let k := { group s c g with await := .none, st := .run }
  let s := setGroup s c g k
  let key := fun (x : Nat × Nat) => if a.kind = 4 then x.1 else lineOf x.2
  let (fs, vs) := splitGot (a.lanes.map (fun x => (x.1, laneGot s (gotOf (aspaceOf s x.2) (replyFor a.got (key x))) x.1 x.2 a.size)))
  if !fs.isEmpty then parkLanes s c g fs
  else
    let k' := if a.kind = 2 then
        (match vs with
        | [] => k
        | (_, v) :: _ => setU k a.vd (BitVec.ofNat 64 (if a.size = 4 then v + (freeU s >>> 32) <<< 32 else v)))
      else vs.foldl (fun k x => putLane s k a.vd a.size x.1 x.2) k
    let k' := if a.kind = 0 && anyOvf a.got then orGstat k' 8 else k'
    retire (drawn s) c g k'

/-- The old value of an ATD lane: poisoned old values park with DONE (R168); a refused ATOM has not been performed. -/
def atdGot (s : State) (r : Reply) (l a : Nat) : LaneFault ⊕ Nat :=
  match r with
  | .olds ((v, false) :: _) => .inr v.toNat
  | .olds _ => .inl ⟨l, cPOISON, 2, aspaceOf s a, a⟩
  | r => laneGot s (gotOf 3 r) l a 8

/-- Finish an ATD (R145, R168). -/
def finishAtd (s : State) (c g : Nat) (a : AwaitMem) : State :=
  let k := { group s c g with await := .none, st := .run }
  let s := setGroup s c g k
  let (fs, vs) := splitGot (a.lanes.map (fun x => (x.1, atdGot s (replyFor a.got x.1) x.1 x.2)))
  if !fs.isEmpty then parkLanes s c g fs (!fs.any (fun f => f.cause == cACCESS))
  else retire s c g (vs.foldl (fun k x => putLane s k a.vd 8 x.1 x.2) k)

/-- Finish an instruction fetch from a fabric window: the line stands for the next issue, or is cached when the window is
read-only (R156). -/
def finishFetch (s : State) (c g l : Nat) (r : Reply) : State :=
  let k := { group s c g with await := .none }
  let s := setGroup s c g k
  match r with
  | .line d p ok keep =>
    if !ok then parkFetch (bump s .cell c o_CELL_FILL_CHECK_FAIL 1) c g cPOISON 2 (256 * l) 3
    else if keep && p = 0 then
      let (s, m) := roInsert s 128 (cell s c).icache l (d, p)
      setCell s c { cell s c with icache := m }
    else setGroup s c g { k with fbuf := some (l, d, p) }
  | r =>
    match gotOf 3 r with
    | .data d p _ => setGroup s c g { k with fbuf := some (l, d, p) }
    | .fault cause d sp => parkFetch s c g (if cause = cDEAD then cPOISON else cause) (if cause = cDEAD then 2 else d) k.pc sp

/-- R156, R378: a line of a fabric window brought to the constant cache. -/
def constLine (s : State) (c : Nat) (l : Nat) (r : Reply) : State × Reply :=
  match r with
  | .line d p ok keep =>
    if !ok then (bump s .cell c o_CELL_FILL_CHECK_FAIL 1, .line d allWords ok keep)
    else if keep && p = 0 then
      let (s, m) := roInsert s 64 (cell s c).ccache l (d, p)
      (setCell s c { cell s c with ccache := m }, r)
    else (s, r)
  | r => (s, r)

/-- A reply for a load, atomic, full/empty access or fetch of a group: it is kept until the last has come. -/
def groupReply (s : State) (c g id : Nat) (r : Reply) : State :=
  let k := group s c g
  match k.await with
  | .mem a =>
    match a.ids.find? (fun x => x.1 == id) with
    | none => s
    | some (_, key) =>
      if a.kind = 6 then finishFetch s c g key r
      else
        let (s, r) := if a.kind = 1 || a.kind = 2 then constLine s c key r else (s, r)
        let a := { a with ids := a.ids.filter (fun x => x.1 != id), got := a.got ++ [(id, key, r)] }
        if a.ids.isEmpty then
          (if a.kind = 3 then finishAtd s c g a
           else if a.kind = 5 then retire s c g { group s c g with st := .run, await := .none }
           else finishLoad s c g a)
        else setGroup s c g { group s c g with await := .mem a }
  | _ => s

/-- Wait for replies; with none out, finish at once. -/
def awaitMem (s : State) (c g : Nat) (a : AwaitMem) (wait : Bool) : State :=
  if a.ids.isEmpty then (if a.kind = 3 then finishAtd s c g a else finishLoad s c g a)
  else setGroup s c g { group s c g with await := .mem { a with born := s.time.toNat }, st := if wait then .wait else .run }

/-! ## LDD and LDC (R145, R146) -/

/-- Send the reads of the lines of a load; what a read-only window's cached line answers comes at once, verified when the whole line
fills the constant cache (R378). -/
def sendReads (s : State) (c g n : Nat) (la : List (Nat × Nat)) (whole : Bool) :
    List (Nat × Entry) → State × List (Nat × Nat) × List (Nat × Nat × Reply)
  | [] => (s, [], [])
  | (l, e) :: t =>
    let k := group s c g
    let lbl := cellLabel s k.label
    let words := if whole then allWords else laneWords la n l
    match e with
    | .hbm =>
      let (s, id) := niSend s c (.group c g) lbl (winsOf s k.lead) l (.read words)
      let (s, ids, got) := sendReads s c g n la whole t
      (s, (id, l) :: ids, got)
    | .window w =>
      let hit := if whole then (remoteLine s c w (.group c g) lbl l).map (fun x => constLine x.1 c l (.line x.2.1 x.2.2.1 x.2.2.2 true))
        else remoteRead s w (.group c g) lbl l words
      match hit with
      | some (s, r) =>
        let (s, ids, got) := sendReads s c g n la whole t
        (s, ids, (0, l, r) :: got)
      | none =>
        let (s, id) := niFab s c (.group c g) none lbl w (256 * l) rdLine
        let (s, ids, got) := sendReads s c g n la whole t
        (s, (id, l) :: ids, got)
    | .refused _ => sendReads s c g n la whole t

/-- LDD, ordinary (R145, R146). -/
def ldd (c g : Nat) (w : W64) : State → State :=
  let n := sizeBytes (mSIZE w)
  memIssue c g w (n.isSome && modOnly w 0x19 && ibits w 28 27 != 3) ((mVDS w, regsOf (n.getD 1)) :: addrRegs w) (fun s =>
    let n := n.getD 1
    let la := laneAddrs (group s c g) w false
    match loadEntry s c g 4 n la true false with
    | (s, none) => s
    | (s, some es) =>
      let (s, ids, got) := sendReads s c g n la false es
      awaitMem s c g ⟨0, mVDS w, n, la, ids, got, 0⟩ false)

/-- Exec LDD: MOD [4:3] is 0, or 3, which is illegal (R241). -/
def execLdd (c g : Nat) (w : W64) (s : State) : Host.Outcome State Fault Refusal :=
  run (opc w == 0xA2 && (ibits w 28 27 == 0 || ibits w 28 27 == 3)) s (ldd c g w)

/-- LDC: one address for the group (R145). The line comes through the constant cache (R124, R156, R378). -/
def ldc (c g : Nat) (w : W64) : State → State :=
  let n : Nat := 2 ^ mSIZE w
  let toU := bitN (mMOD w) 1
  memIssue c g w ((mSIZE w == 2 || mSIZE w == 3) && modOnly w 3)
    ((if toU then [] else [(mVDS w, regsOf n)]) ++ addrRegs w) (fun s =>
    let k := group s c g
    let lanes := lanesOf (guardLanes k w)
    let a := laneAddr k w false (lanes[0]?.getD 0)
    let la := lanes.map (fun l => (l, a))
    let l := lineOf a
    let aw : AwaitMem := ⟨if toU then 2 else 1, if toU then mVDS w % 32 else mVDS w, n, la, [], [], 0⟩
    match alignFaults la n (aspaceOf s) with
    | f :: t => parkLanes s c g (f :: t)
    | [] =>
    match (cell s c).ccache.find? (fun e => e.1 == l) with
    | some e => finishLoad s c g { aw with got := [(0, l, .data e.2.1 e.2.2 false false)] }
    | none =>
    match loadEntry s c g 4 n la true false with
    | (s, none) => s
    | (s, some [(_, .hbm)]) =>
      (match cellLine s c (.group c g) (cellLabel s k.label) (winsOf s k.lead) l with
      | none => s
      | some (s, r) =>
        let s := if r.ok && !r.dead && r.pois = 0 then
            let (s, m) := roInsert s 64 (cell s c).ccache l (r.data, r.pois)
            setCell s c { cell s c with ccache := m }
          else s
        finishLoad s c g { aw with got := [(0, l, .data r.data (if r.ok then r.pois else allWords) r.dead false)] })
    | (s, some es) =>
      let (s, ids, got) := sendReads s c g n la true es
      awaitMem s c g { aw with ids := ids, got := got } false)

/-- Exec LDC. -/
def execLdc (c g : Nat) (w : W64) (s : State) : Host.Outcome State Fault Refusal := run (opc w == 0xA4) s (ldc c g w)

/-! ## STD and the reductions (R145, R146, R153, R267) -/

/-- The runs of adjacent bytes in a byte mask: start and length. -/
def runsOf (m : Nat) : List (Nat × Nat) :=
  ((List.range 256).foldl (fun (acc : List (Nat × Nat)) i =>
    if !bitN m i then acc
    else match acc with
    | (o, n) :: t => if o + n = i then (o, n + 1) :: t else (i, 1) :: acc
    | [] => [(i, 1)]) []).reverse

/-- The NI's index of a group (R347). -/
def nidOf (c g : Nat) : Nat := (Config.niIndex c g).toNat

/-- Merge the lanes of an STD that fall in line `l`, in lane order: data and byte mask (R150, R267). -/
def mergeLanes (k : Group) (vd n l : Nat) (la : List (Nat × Nat)) : Line × BitVec 256 :=
  (la.filter (fun x => lineOf x.2 == l)).foldl (fun (acc : Line × BitVec 256) x =>
    let m := byteMask (x.2 % 256) n
    (mergeLine acc.1 (BitVec.ofNat 2048 (laneValue k vd n x.1 <<< (8 * (x.2 % 256)))) m, acc.2 ||| m)) (0, 0)

/-- A posted write of a line to HBM: a whole line leaves the cell with its PLAIN check value (R376). -/
def sendWrite (s : State) (c g l : Nat) (d : Line) (m : BitVec 256) : State :=
  let k := group s c g
  let whole := m == BitVec.allOnes 256
  let (s, id) := niSend s c (.group c g) (cellLabel s k.label) (winsOf s k.lead) l
    (.write d m 0 whole (if whole then checkValue .plain l d else 0) none)
  addOut s c g id false

/-- A posted write of `n` bytes from byte `o` of a line to a fabric window. -/
def sendWrp (s : State) (c g w l o n : Nat) (d : Line) : State :=
  let k := group s c g
  let bytes := ((lineBytes d).drop o).take n
  let (s, id) := niFab s c (.group c g) (some (nidOf c g)) (cellLabel s k.label) w (256 * l + o) { type := 3, vc := 0, ord := true, zl := false, len := n, payload := bytes }
  addOut s c g id true

/-- STD, ordinary (R145, R146). -/
def std (c g : Nat) (w : W64) : State → State :=
  let n := sizeBytes (mSIZE w)
  memIssue c g w (n.isSome && modOnly w 0x19 && ibits w 28 27 != 3) ((mVDS w, regsOf (n.getD 1)) :: addrRegs w) (fun s =>
    let n := n.getD 1
    let k := group s c g
    match storeEntry s c g 2 n (laneAddrs k w false) with
    | (s, none) => s
    | (s, some (la, es)) =>
      nextPc ((laneLines la).foldl (fun s x =>
        let (d, m) := mergeLanes k (mVDS w) n x.1 la
        match entryFor es x.1 with
        | .window wd => (runsOf m.toNat).foldl (fun s r => sendWrp s c g wd x.1 r.1 r.2 d) s
        | _ => sendWrite s c g x.1 d m) s) c g)

/-- Exec STD: MOD [4:3] is 0, or 3, which is illegal (R241). -/
def execStd (c g : Nat) (w : W64) (s : State) : Host.Outcome State Fault Refusal :=
  run (opc w == 0xA3 && (ibits w 28 27 == 0 || ibits w 28 27 == 3)) s (std c g w)

/-- A posted request of a group to HBM, of any operation. -/
def sendOp (s : State) (c g l : Nat) (op : ReqOp) : State :=
  let k := group s c g
  let (s, id) := niSend s c (.group c g) (cellLabel s k.label) (winsOf s k.lead) l op
  addOut s c g id false

/-- A request of a group to a fabric window that is acknowledged. -/
def sendFab (s : State) (c g w a : Nat) (p : Packet) : State :=
  let k := group s c g
  let (s, id) := niFab s c (.group c g) (some (nidOf c g)) (cellLabel s k.label) w a p
  addOut s c g id true

/-- Values that target different partials of a line can share a packet (R327); a second value for a partial goes in the
next. -/
def layer : List (List WideVal) → WideVal → List (List WideVal)
  | [], v => [[v]]
  | l :: t, v => if l.any (fun x => x.idx == v.idx) then l :: layer t v else (l ++ [v]) :: t

/-- The RED packet of an ADD.W contribution (R327). -/
def redPacket (anchor : Nat) (vals : List WideVal) : Packet :=
  let d : Line := vals.foldl (fun d v => setPartial d v.idx v.n) 0
  let spec := vals.foldl (fun m v => m + v.spec <<< (2 * v.idx)) 0
  let mask := vals.foldl (fun m v => m + 1 <<< v.idx) 0
  let pm := vals.foldl (fun m v => m + b2n v.pois <<< v.idx + b2n v.ovf <<< (16 + v.idx)) 0
  { type := 4, vc := 2, opst := 0, zl := false, len := 256, payload := lineBytes d, pmask := BitVec.ofNat 32 pm,
    ts := BitVec.ofNat 64 (spec <<< 32 + mask <<< 16 + anchor) }

/-- A lane's value for REDW: rounded once at the anchor (R67, R73, R74), with its numeric status (R79). -/
def redwVal (anchor : Int) (x : W32) (idx : Nat) : WideVal × Nat :=
  let v := f32 x
  let (k, ix) := toAnchor anchor v
  let (n, o) := wideAdd 0 false k
  (⟨idx, n, specOf v, o, false⟩, b2n ix + (if isNaN v then stNAN else 0) + (if o then stOVF else 0))

/-- REDW (R145). -/
def redw (c g : Nat) (w : W64) : State → State :=
  memIssue c g w (mSIZE w == 4 && modOnly w 1) ((mVDS w, 1) :: addrRegs w) (fun s =>
    let k := group s c g
    let anchor := (getU k (mVA w % 32)).toNat % 65536
    match storeEntry s c g 1 16 (laneAddrs k w false) with
    | (s, none) => s
    | (s, some (la, es)) =>
      let st := (laneAddrs k w false).foldl (fun m x => m ||| (redwVal (signed 16 anchor) (getV k (mVDS w) x.1) 0).2) 0
      let s := setGroup s c g (orGstat (group s c g) st)
      nextPc ((laneLines la).foldl (fun s x =>
        let vals := (la.filter (fun y => lineOf y.2 == x.1)).map (fun y => (redwVal (signed 16 anchor) (getV k (mVDS w) y.1) (y.2 % 256 / 16)).1)
        match entryFor es x.1 with
        | .window wd => (vals.foldl layer []).foldl (fun s vs => sendFab s c g wd (256 * x.1) (redPacket anchor vs)) s
        | _ => sendOp s c g x.1 (.addW (BitVec.ofNat 16 anchor) vals)) s) c g)

/-- Exec REDW. -/
def execRedw (c g : Nat) (w : W64) (s : State) : Host.Outcome State Fault Refusal := run (opc w == 0xA6) s (redw c g w)

/-- REDF and REDX: 4-byte contributions; `code` is the RED operation code of R327. -/
def redLanes (c g : Nat) (w : W64) (ok : Bool) (code : Nat) (op : List (Nat × W32 × Bool) → ReqOp) : State → State :=
  memIssue c g w (mSIZE w == 2 && ok) ((mVDS w, 1) :: addrRegs w) (fun s =>
    let k := group s c g
    match storeEntry s c g 1 4 (laneAddrs k w false) with
    | (s, none) => s
    | (s, some (la, es)) =>
      nextPc (la.foldl (fun s x =>
        let v := getV k (mVDS w) x.1
        match entryFor es (lineOf x.2) with
        | .window wd => sendFab s c g wd x.2 { type := 4, vc := 2, opst := code, zl := false, len := 4, payload := toBytes 4 v.toNat }
        | _ => sendOp s c g (lineOf x.2) (op [(x.2 % 256 / 4, v, false)])) s) c g)

/-- Exec REDF. -/
def execRedf (c g : Nat) (w : W64) (s : State) : Host.Outcome State Fault Refusal :=
  run (opc w == 0xA7) s (redLanes c g w (modOnly w 1) 1 .addF)

/-- Exec REDX, MAX. -/
def execRedxMax (c g : Nat) (w : W64) (s : State) : Host.Outcome State Fault Refusal :=
  run (opc w == 0xA8 && !bitN (mMOD w) 2) s (redLanes c g w (modOnly w 5) 2 (.maxMin false))

/-- Exec REDX, MIN. -/
def execRedxMin (c g : Nat) (w : W64) (s : State) : Host.Outcome State Fault Refusal :=
  run (opc w == 0xA8 && bitN (mMOD w) 2) s (redLanes c g w (modOnly w 5) 3 (.maxMin true))

/-! ## ATD (R145, R168) -/

/-- The atomic of each lane, a request of its own, in lane order. -/
def sendAtoms (s : State) (c g : Nat) (w : W64) (cas : Bool) (k : Group) (es : List (Nat × Entry)) :
    List (Nat × Nat) → State × List (Nat × Nat)
  | [] => (s, [])
  | (l, a) :: t =>
    let x := BitVec.ofNat 64 (laneValue k (mVDS w) 8 l)
    let y : W64 := if cas then BitVec.ofNat 64 (laneValue k (mVDS w + 2) 8 l) else 0
    let lbl := cellLabel s k.label
    let (s, id) := match entryFor es (lineOf a) with
      | .window wd =>
        niFab s c (.group c g) none lbl wd a { type := 6, vc := 0, opst := b2n cas, zl := false, len := if cas then 16 else 8, payload := toBytes 8 x.toNat ++ (if cas then toBytes 8 y.toNat else []) }
      | _ => niSend s c (.group c g) lbl (winsOf s k.lead) (lineOf a) (.atd cas [(a % 256 / 8, x, y)] 0)
    let (s, ids) := sendAtoms s c g w cas k es t
    (s, (id, l) :: ids)

/-- ATD. -/
def atd (c g : Nat) (w : W64) (cas : Bool) : State → State :=
  memIssue c g w (mSIZE w == 3 && modOnly w 5) ((mVDS w, if cas then 4 else 2) :: addrRegs w) (fun s =>
    let k := group s c g
    let la := laneAddrs k w false
    match loadEntry s c g 6 8 la true true with
    | (s, none) => s
    | (s, some es) =>
      let (s, ids) := sendAtoms s c g w cas k es la
      awaitMem s c g ⟨3, mVDS w, 8, la, ids, [], 0⟩ false)

/-- Exec ATD, fetch-add. -/
def execAtdFetchAdd (c g : Nat) (w : W64) (s : State) : Host.Outcome State Fault Refusal :=
  run (opc w == 0xA5 && !bitN (mMOD w) 2) s (atd c g w false)

/-- Exec ATD, compare-and-swap. -/
def execAtdCompareSwap (c g : Nat) (w : W64) (s : State) : Host.Outcome State Fault Refusal :=
  run (opc w == 0xA5 && bitN (mMOD w) 2) s (atd c g w true)

/-! ## Full/empty accesses (R241 to R243) -/

/-- Lanes with a size other than 8 B, or outside the window, or in a fabric window. -/
def feFaults (s : State) (n : Nat) (la : List (Nat × Nat)) : List LaneFault :=
  (la.filter (fun x => n != 8 || (feLine s (lineOf x.2)).isNone)).map (fun x => ⟨x.1, cACCESS, 6, aspaceOf s x.2, x.2⟩)

/-- Send one request for each lane, in lane order. -/
def sendFe (s : State) (c g : Nat) (k : Group) (vd : Nat) (store : Bool) (mode : Nat) : List (Nat × Nat) → State × List (Nat × Nat)
  | [] => (s, [])
  | (l, a) :: t =>
    let v : W64 := if store then BitVec.ofNat 64 (laneValue k vd 8 l) else 0
    let (s, id) := niSend s c (.group c g) (cellLabel s k.label) (winsOf s k.lead) (lineOf a) (.fe store mode (a % 256 / 8) v false)
    let (s, ids) := sendFe s c g k vd store mode t
    (s, (id, l) :: ids)

/-- A full/empty access of a mode; a refused load parks, a refused store is dropped. STF does not wait: it is posted. -/
def feOp (c g : Nat) (w : W64) (store : Bool) (mode : Nat) : State → State :=
  let n := sizeBytes (mSIZE w)
  memIssue c g w (n.isSome && modOnly w 0x19) ((mVDS w, regsOf (n.getD 1)) :: addrRegs w) (fun s =>
    let n := n.getD 1
    let k := group s c g
    let la := laneAddrs k w false
    if store then
      match alignFaults la n (aspaceOf s) ++ feFaults s n la with
      | f :: t => parkLanes s c g (f :: t)
      | [] =>
        match storeEntry s c g 2 8 la with
        | (s, none) => s
        | (s, some (la, _)) =>
          let (s, ids) := sendFe s c g k (mVDS w) true mode la
          if mode = 2 || ids.isEmpty then nextPc (ids.foldl (fun s x => addOut s c g x.1 false) s) c g
          else awaitMem s c g ⟨5, 0, 8, la, ids, [], 0⟩ true
    else
      match loadEntry s c g 4 n la true false (feFaults s n la) with
      | (s, none) => s
      | (s, some _) =>
        let (s, ids) := sendFe s c g k (mVDS w) false mode la
        awaitMem s c g ⟨4, mVDS w, 8, la, ids, [], 0⟩ true)

/-- Exec LDF. -/
def execLdf (c g : Nat) (w : W64) (s : State) : Host.Outcome State Fault Refusal :=
  run (opc w == 0xA2 && ibits w 28 27 == 1) s (feOp c g w false 1)

/-- Exec LDFE. -/
def execLdfe (c g : Nat) (w : W64) (s : State) : Host.Outcome State Fault Refusal :=
  run (opc w == 0xA2 && ibits w 28 27 == 2) s (feOp c g w false 2)

/-- Exec STE. -/
def execSte (c g : Nat) (w : W64) (s : State) : Host.Outcome State Fault Refusal :=
  run (opc w == 0xA3 && ibits w 28 27 == 1) s (feOp c g w true 1)

/-- Exec STF. -/
def execStf (c g : Nat) (w : W64) (s : State) : Host.Outcome State Fault Refusal :=
  run (opc w == 0xA3 && ibits w 28 27 == 2) s (feOp c g w true 2)

/-- Whether a timeout of 2^(n + 3) µs from `born` has passed (R160, R242). -/
def timedOut (s : State) (born n : Nat) : Bool := born + 2 ^ (n + 3) * 1000 ≤ s.time.toNat

/-- What a lane of a full/empty load or store raises at its timeout: what its reply brought, or the timeout itself (R169, R242). -/
def lateLane (s : State) (a : AwaitMem) (lim : Nat) (x : Nat × Nat) : Option LaneFault :=
  if a.ids.any (fun i => i.2 == x.1) then some ⟨x.1, cTIMEOUT, lim, 2, x.2⟩
  else if a.kind = 4 then
    (match laneGot s (gotOf (aspaceOf s x.2) (replyFor a.got x.1)) x.1 x.2 a.size with
    | .inl f => some f
    | .inr _ => none)
  else none

/-- R242: the timeout of a waiting full/empty access. Its accesses are withdrawn. -/
def feTimeout (c g : Nat) (s : State) : State :=
  let lim := fld s .region (regionOfCell c) f_REGION_FE_CTRL_TO
  match (group s c g).await with
  | .mem a =>
    if lim = 0 || !(a.kind == 4 || a.kind == 5) || (group s c g).st != .wait || !timedOut s a.born lim then s
    else
      let out := a.ids.map (·.1)
      let s := { s with reqs := s.reqs.filter (fun q => !out.contains q.id), resps := s.resps.filter (fun r => !out.contains r.id) }
      parkLanes s c g (a.lanes.filterMap (lateLane s a lim))
  | _ => s

/-- Exec FE_ACCESS_TIMEOUT. -/
def execFeAccessTimeout (c g : Nat) (s : State) : Host.Outcome State Fault Refusal :=
  run (present s .cell c && g < 16) s (feTimeout c g)

/-! ## STW and DEAD (R145, R157, R276) -/

/-- STW: a line of 16 wide partials from local memory (R145, R278, R376). Where both of its addresses are misaligned, which of them
the record carries is the model's choice: the device address (DESIGN CHOICE, log entry 166). -/
def stw (c g : Nat) (w : W64) : State → State :=
  memIssue c g w (mSIZE w == 0 && mMOD w == 0) [] (fun s =>
    let k := group s c g
    let lanes := lanesOf (guardLanes k w)
    let la := (getU k (mVA w % 32)).toNat
    let a := wrapN 48 (((getU k (mUB w)).toNat : Int) + mOFFS w)
    let anchor : W16 := (getU k (mVDS w % 32)).setWidth 16
    if a % 256 ≠ 0 then parkLanes s c g (lanes.map (fun l => ⟨l, cALIGN, 3, aspaceOf s a, a⟩))
    else if la % 256 ≠ 0 then parkLanes s c g (lanes.map (fun l => ⟨l, cALIGN, 3, 1, la⟩))
    else if la + 256 > lmSize then parkLanes s c g (lanes.map (fun l => ⟨l, cACCESS, 3, 1, la⟩))
    else
      match storeEntry s c g 2 256 (lanes.map (fun l => (l, a))) with
      | (s, none) => s
      | (s, some ([], _)) => nextPc s c g
      | (s, some (_, es)) =>
        let (s, d, p) := lmLine s c la 32
        let d : Line := BitVec.ofNat 2048 d
        let p : BitVec 32 := BitVec.ofNat 32 p
        nextPc (match entryFor es (lineOf a) with
          | .window wd => sendFab s c g wd a { type := 2, vc := 0, zl := false, len := 256, payload := lineBytes d, pmask := p }
          | _ => sendOp s c g (lineOf a) (.write d (BitVec.allOnes 256) p true (checkValue .wide (lineOf a) d) (some (anchor, 0, 0)))) c g)

/-- Exec STW. -/
def execStw (c g : Nat) (w : W64) (s : State) : Host.Outcome State Fault Refusal := run (opc w == 0xA9) s (stw c g w)

/-- One dead hint: dropped by a descriptor or where nothing is, without effect in a window, otherwise on its way (R157,
R276, R304). -/
def deadLine (s : State) (c g : Nat) (a : Nat) : State :=
  let k := group s c g
  let lbl := cellLabel s k.label
  match mrdCheck s a (secureCell s c) false true (some (labelPart lbl)) with
  | some (t, n) => wdrop (secLogAdd s t 0 true c lbl n a) c g
  | none =>
    if backed (lineOf a) then
      (if (feLine s (lineOf a)).isSome then s else sendOp s c g (lineOf a) .dead)
    else if (fwinOf s a).isSome then s
    else wdrop s c g

/-- DEAD (R136, R276): one hint per line. -/
def dead (c g : Nat) (w : W64) (s : State) : State :=
  issue s c g w (fun s =>
    let k := group s c g
    let n := ibits w 46 36 + 1
    let a := (getU k (fUD w)).toNat % 2 ^ 48
    if ibits w 35 0 ≠ 0 then some (illegal s c g 2)
    else groupWide s c g w (fun s =>
      let lanes := lanesOf k.active
      if a % 256 ≠ 0 then some (parkLanes s c g (lanes.map (fun l => ⟨l, cALIGN, 3, aspaceOf s a, a⟩)))
      else
        match watchLanes s c g 1 256 ((List.range n).map (fun i => (lanes[0]?.getD 0, (a + 256 * i) % 2 ^ 48))) with
        | (s, f :: _) => some (parkLanes s c g (lanes.map (fun l => { f with lane := l })))
        | (s, []) => some (nextPc ((List.range n).foldl (fun s i => deadLine s c g (a + 256 * i)) s) c g)))

/-- Exec DEAD. -/
def execDead (c g : Nat) (w : W64) (s : State) : Host.Outcome State Fault Refusal := run (opc w == 0xDA) s (dead c g w)

end Sys2Proof.Machine
end

