-- ==== Sys2Proof/Machine/Array.lean ====
section
/-! DEFINITION. The matrix array: issue and tokens (R103 to R109), fills and beats (R87 to R90, R94, R110 to R113), anchors (R71,
R95), the drain (R116 to R121) and the faults of an operation (R107, R122). -/
namespace Sys2Proof.Machine

/-! ## Reading operands from local memory (R59, R60, R100) -/

/-- `n` elements packed in a value. -/
def elemsOf (f : Fmt) (v n : Nat) : List Val :=
  (List.range n).map (fun i => decodeFmt f (bitsN v (fmtWidth f * i + fmtWidth f - 1) (fmtWidth f * i)))

/-- One block: its values and the first poisoned address. -/
def readBlock (s : State) (c : Nat) (m : MxFmt) (base b : Nat) : State × List Val × Option Nat :=
  let (ea, sa) := blockAt m base b
  let ss := m matches .block _ true
  let (s, v, p) := lmRead s c ea (blockBytes m)
  let (s, e, p2) := lmRead s c sa 1
  let (s, d, p3) := if ss then lmRead s c (sa + 256) 1 else (s, 0, none)
  let f := elemFmt m
  (s, (List.range 32).map (fun i => blockVal f e d i (bitsN v (fmtWidth f * i + fmtWidth f - 1) (fmtWidth f * i))), (p.or p2).or p3)

/-- `n` successive blocks. -/
def readBlocks (s : State) (c : Nat) (m : MxFmt) (base b : Nat) : Nat → State × List Val × Option Nat
  | 0 => (s, [], none)
  | n + 1 =>
    let (s, xs, p) := readBlocks s c m base b n
    let (s, ys, q) := readBlock s c m base (b + n)
    (s, xs ++ ys, p.or q)

/-- `n` elements from element `e0` of row `row`, in rows of `len` elements. -/
def readRow (s : State) (c : Nat) (m : MxFmt) (base stride len row e0 n : Nat) : State × List Val × Option Nat :=
  if isBlock m then readBlocks s c m base (row * (len / 32) + e0 / 32) (n / 32)
  else
    let w := elemWidth m
    let (s, v, p) := lmRead s c (base + row * stride + e0 * w / 8) (n * w / 8)
    (s, elemsOf (elemFmt m) v n, p)

/-- Scale exponents of `n` blocks, a NaN scale as none (R71). -/
def readScales (s : State) (c : Nat) (m : MxFmt) (base : Nat) : List Nat → State × List (Option Int)
  | [] => (s, [])
  | b :: t =>
    let (s, e, _) := lmRead s c (blockAt m base b).2 1
    let (s, es) := readScales s c m base t
    (s, scaleExp e :: es)

/-! ## Anchors (R68, R70, R71, R95) -/

/-- The larger of two exponents, where there are any. -/
def maxOpt : Option Int → Option Int → Option Int
  | some a, some b => some (max a b)
  | some a, none => some a
  | none, b => b

/-- The largest scale at block `k` over the rows of an operand; an unscaled operand counts as 0. -/
def scaleMax (s : State) (c : Nat) (m : MxFmt) (base rows len k : Nat) : State × Option Int :=
  if isBlock m then
    let (s, es) := readScales s c m base ((List.range rows).map (fun r => r * (len / 32) + k))
    (s, es.foldl maxOpt none)
  else (s, some 0)

/-- The largest scale at each of `n` block positions. -/
def scaleMaxes (s : State) (c : Nat) (m : MxFmt) (base rows len : Nat) : Nat → State × List (Option Int)
  | 0 => (s, [])
  | n + 1 =>
    let (s, xs) := scaleMaxes s c m base rows len n
    let (s, x) := scaleMax s c m base rows len n
    (s, xs ++ [x])

/-- The sum of two exponents, where there are both. -/
def sumOpt : Option Int → Option Int → Option Int
  | some a, some b => some (a + b)
  | _, _ => none

/-- The auto-anchor (R71): under MMA.T the largest scale of A and of B over the whole operation (R95). -/
def autoAnchor (s : State) (c : Nat) (d : BitVec 512) : State × Int :=
  let fa := fmtOf (dFmtA d); let fb := fmtOf (dFmtB d)
  let (s, xa) := scaleMaxes s c fa (dAAddr d) (rowsM d) (rowLenA d) (rowLenA d / 32)
  let (s, xb) := scaleMaxes s c fb (dBAddr d) (rowsB d) (rowLenB d) (rowLenB d / 32)
  let smax := if dOp d = 1 then sumOpt (xa.foldl maxOpt none) (xb.foldl maxOpt none)
    else ((xa.zip xb).map (fun p => sumOpt p.1 p.2)).foldl maxOpt none
  (s, match smax with
    | some x => x + (fmtT (elemFmt fa) + fmtT (elemFmt fb) + 2) - 100
    | none => 0)

/-- The anchor of an operation as it begins; none in ORDERED. -/
def anchorOf (s : State) (c : Nat) (d : BitVec 512) : State × Option Int :=
  match amodeOf d with
  | some .default => (s, some (fmtE (elemFmt (fmtOf (dFmtA d))) + fmtE (elemFmt (fmtOf (dFmtB d)))))
  | some .auto => let (s, a) := autoAnchor s c d; (s, some a)
  | some .supplied => (s, some (dAnchor d))
  | _ => (s, none)

/-! ## Tiles and positions (R85, R88 to R90, R94) -/

/-- A stored tile or part of one: its place along K and along N, and whether it is the lo part. -/
abbrev Tag := Nat × Nat × Bool

/-- Passes over a stored tile (R94). ELEM multiplies FP32 operands as they are, in one pass (DESIGN CHOICE, log entry 170). -/
def passesOf (d : BitVec 512) : Nat := if opClass d = 3 && dOp d != 2 then 3 else 1

/-- Streams of a row tile within one reduction tile of an output tile (R89, R94). -/
def subsOf (d : BitVec 512) (ot : Nat) : Nat :=
  if dOp d = 1 && 2 ≤ opClass d then (if 2 * ot + 1 < dKT d then 2 else 1) * passesOf d else passesOf d

/-- The stored tile that a stream uses. -/
def tagAt (d : BitVec 512) (ot kt sub : Nat) : Tag :=
  let lo := passesOf d == 3 && sub % 3 == 2
  if dOp d = 1 then
    match opClass d with
    | 0 => (ot / 2, kt, lo)
    | 1 => (ot, kt, lo)
    | _ => (2 * ot + sub / passesOf d, kt, lo)
  else (kt, ot, lo)

/-- The next stream in the order of R90: (ot, rt, kt, sub). -/
def nextStream (d : BitVec 512) : Nat × Nat × Nat × Nat → Option (Nat × Nat × Nat × Nat)
  | (ot, rt, kt, sub) =>
    if sub + 1 < subsOf d ot then some (ot, rt, kt, sub + 1)
    else if kt + 1 < nRed d then some (ot, rt, kt + 1, 0)
    else if rt + 1 < dMT d then some (ot, rt + 1, 0, 0)
    else if ot + 1 < nOut d then some (ot + 1, 0, 0, 0)
    else none

/-- The first tile after a stream that differs from its own. Where an output tile uses one tile only, its row tiles keep it. -/
def nextTag (d : BitVec 512) (cur : Tag) : Nat → Nat × Nat × Nat × Nat → Option Tag
  | 0, _ => none
  | n + 1, (ot, rt, kt, sub) =>
    let p := if nRed d = 1 && subsOf d ot = 1 then (ot, dMT d, kt, sub) else (ot, rt, kt, sub)
    match nextStream d p with
    | none => none
    | some q => if tagAt d q.1 q.2.2.1 q.2.2.2 = cur then nextTag d cur n q else some (tagAt d q.1 q.2.2.1 q.2.2.2)

/-- Whether a tile register holds a tile of an operation. -/
def holds (t : Option MxTile) (serial : Nat) (g : Tag) : Bool :=
  match t with
  | some t => t.serial == serial && t.kT == g.1 && t.nT == g.2.1 && t.lo == g.2.2
  | none => false

/-- Where an operation stands. -/
def posOf (o : MxOp) : Nat × Nat × Nat × Nat := (o.ot, o.rt, o.kt, o.sub)
/-- The tile of its next beat. -/
def curTag (o : MxOp) : Tag := tagAt o.desc o.ot o.kt o.sub
/-- Whether it uses stationary tiles. -/
def hasTiles (o : MxOp) : Bool := dOp o.desc != 2

/-- What the fill port finds for an operation: nothing more to fill, no free tile register, or a tile to fill. -/
inductive FillSt where
  | finished
  | full
  | need (t : Tag)
  deriving DecidableEq, Repr

/-- R88. -/
def fillSt (k : Cell) (o : MxOp) : FillSt :=
  if !hasTiles o || o.beatsDone then .finished
  else
    let t := curTag o
    if holds k.tile o.serial t then
      match nextTag o.desc t 6 (posOf o) with
      | none => .finished
      | some u => if holds k.shadowTile o.serial u then .full else .need u
    else if holds k.shadowTile o.serial t then .full else .need t

/-- The operation and tile that the fill port serves: an operation's first fill overlaps the last tiles of the one before
it (R105). -/
def fillTarget (k : Cell) : List MxOp → Option (MxOp × Tag)
  | [] => none
  | o :: t =>
    if o.beatsDone then fillTarget k t
    else if !o.started || o.held then none
    else match fillSt k o with
      | .need g => some (o, g)
      | .full => none
      | .finished => fillTarget k t

/-- The bank of an output tile. -/
def bankOf (k : Cell) (serial ot rt : Nat) : Option MxBank :=
  k.banks.find? (fun b => b.serial == serial && b.ot == ot && b.rt == rt)

/-- Replace the bank of an output tile. -/
def putBank (k : Cell) (b : MxBank) : Cell :=
  { k with banks := k.banks.map (fun x => if x.serial == b.serial && x.ot == b.ot && x.rt == b.rt then b else x) }

/-- Whether a tile is in the PEs or the shadow. -/
def tileHeld (k : Cell) (o : MxOp) (g : Tag) : Bool := holds k.tile o.serial g || holds k.shadowTile o.serial g

/-- The output tile whose preload comes next (R117): its first tile is filled and it has no bank. -/
def preloadTarget (k : Cell) : List MxOp → Option (MxOp × Nat × Nat)
  | [] => none
  | o :: t =>
    if o.beatsDone then preloadTarget k t
    else if !o.started || o.held || !dAcc o.desc then none
    else
      let d := o.desc
      let first := fun (ot : Nat) => !hasTiles o || tileHeld k o (tagAt d ot 0 0)
      if (bankOf k o.serial o.ot o.rt).isNone then (if first o.ot then some (o, o.ot, o.rt) else none)
      else if hasTiles o && !tileHeld k o (tagAt d o.ot (nRed d - 1) (subsOf d o.ot - 1)) then none
      else match nextStream d (o.ot, o.rt, nRed d, subsOf d o.ot) with
        | some (ot, rt, _, _) => if (bankOf k o.serial ot rt).isNone && first ot then some (o, ot, rt) else none
        | none => preloadTarget k t

/-! ## Faults of an operation (R107, R122) -/

/-- FAULT codes of R107 in rising precedence. -/
abbrev flPOISON : Nat := 1
abbrev flTIMEOUT : Nat := 2
abbrev flACCESS : Nat := 3

/-- An operation meets a fault: the code that comes first in the order of R107 stays, with its first address. -/
def opFault (o : MxOp) (code addr aspace : Nat) : MxOp :=
  if o.fault < code then { o with fault := code, faddr := addr, faspace := aspace } else o

/-- A poisoned operand. -/
def opPoison (o : MxOp) (p : Option Nat) : MxOp :=
  match p with
  | some a => opFault o flPOISON a 1
  | none => o

/-- Replace an operation of a cell, found by its serial number. -/
def putOp (s : State) (c : Nat) (o : MxOp) : State :=
  let k := cell s c
  setCell s c { k with ops := k.ops.map (fun x => if x.serial == o.serial then o else x) }

/-- Whether the cell's matrix counters count (R123). -/
def mxCounts (s : State) (c : Nat) : Bool := flag s .cell c f_CELL_MX_CTRL_CNT_EN

/-- Count in a matrix counter. -/
def mxBump (s : State) (c off n : Nat) : State := if mxCounts s c then bump s .cell c off n else s

/-! ## Issue (R97, R103 to R106, R142, R190) -/

/-- The descriptor at an address, through the descriptor cache; a poisoned word answers its address. -/
def readDesc (s : State) (c a : Nat) : State × Option (BitVec 512) × Nat :=
  match (cell s c).dcache.find? (fun e => e.1 == a / 64) with
  | some e => (s, some e.2, 0)
  | none =>
    let (s, v, p) := lmRead s c a 64
    match p with
    | some x => (s, none, x)
    | none =>
      let d := BitVec.ofNat 512 v
      let m := (cell s c).dcache
      let drop := m.length ≥ 128
      let m' := if drop then (match m[Config.freeNat s.fresh % m.length]? with | some e => mdel e.1 m | none => m) else m
      let s := if drop then nextFresh s else s
      (setCell s c { cell s c with dcache := mins (a / 64) d m' }, some d, 0)

/-- MXI. -/
def mxi (c g : Nat) (w : W64) (s : State) : State :=
  issue s c g w (fun s =>
    let k := group s c g
    if ibits w 46 44 ≠ 0 || ibits w 23 0 ≠ 0 then some (illegal s c g 2)
    else groupWide s c g w (fun s =>
      let a := ((getU k (ibits w 51 47)).toNat + ibits w 43 24) % 2 ^ 20
      if a % 64 ≠ 0 then some (park s c g { cause := cALIGN, detail := 2, aspace := 1, addr := a, lanes := k.active })
      else if k.active ≠ k.resident then some (park s c g { cause := cDIVERGENT, detail := 1, lanes := k.active })
      else if a + 64 > lmSize then some (park s c g { cause := cACCESS, detail := 3, aspace := 1, addr := a, lanes := k.active })
      else if (cell s c).ops.length ≥ 4 then none
      else
        let b := blockOfCell s c
        match readDesc s c a with
        | (s, none, x) => some (park s c g { cause := cPOISON, detail := 1, aspace := 1, addr := x, lanes := k.active })
        | (s, some d, _) =>
          match descFault d ((token k (dToken d)).st != 0) (entryEmpty s b (activeBank s b)) with
          | some n => some (park s c g { cause := cDESC, detail := n, aspace := 1, addr := a, lanes := k.active })
          | none =>
            let s := setToken s c g (dToken d) { st := 1 }
            let x := cell s c
            let o : MxOp := { grp := g, token := dToken d, desc := d, label := k.label, lead := k.lead, bank := activeBank s b, compat := ssCompat s b, serial := x.serial }
            some (nextPc (setCell s c { x with ops := x.ops ++ [o], serial := x.serial + 1 }) c g)))

/-- Exec MXI. -/
def execMxi (c g : Nat) (w : W64) (s : State) : Host.Outcome State Fault Refusal := run (opc w == 0xC8) s (mxi c g w)

/-- What MXW does on a token that is not BUSY (R106, R107, R122): the status word, or the park for its fault, once. -/
def mxwFinish (s : State) (c g t ud : Nat) : State :=
  let k := { group s c g with st := .run, await := .none }
  let s := setGroup s c g k
  let tk := token k t
  if tk.st ≠ 2 then retire s c g (setU k ud 0x100)
  else
    let f := fldW tk.status 23 16
    if f = 0 || tk.told then retire s c g { setU k ud (tk.status.setWidth 64) with tokens := mset {} k.tokens t {} }
    else
      let s := setToken s c g t { tk with told := true }
      let (cause, detail) := if f = flACCESS then (cACCESS, 5) else if f = flTIMEOUT then (cPOISON, 3) else (cPOISON, tk.src)
      park s c g { cause := cause, detail := detail, aspace := tk.aspace, addr := tk.addr, lanes := k.active }

/-- MXW. -/
def mxw (c g : Nat) (w : W64) (s : State) : State :=
  issue s c g w (fun s =>
    let k := group s c g
    if ibits w 42 0 ≠ 0 then some (illegal s c g 2)
    else groupWide s c g w (fun s =>
      let t := ibits w 51 48; let ud := ibits w 47 43
      if k.active ≠ k.resident then some (park s c g { cause := cDIVERGENT, detail := 2, lanes := k.active })
      else if (token k t).st = 1 then some (setGroup s c g { k with st := .wait, await := .mxw t ud })
      else some (mxwFinish s c g t ud)))

/-- Exec MXW. -/
def execMxw (c g : Nat) (w : W64) (s : State) : Host.Outcome State Fault Refusal := run (opc w == 0xC9) s (mxw c g w)

/-- A token becomes DONE: its group's MXW returns, or its last EXIT ends (R106, R148). A fault of a destination is a lost
write of the run (R218). -/
def tokenDone (s : State) (c g t lead : Nat) (v : Token) : State :=
  let s := setToken s c g t v
  let s := if 2 ≤ fldW v.status 23 16 then setRun s lead { (block s lead).run with lost := true } else s
  match (group s c g).await with
  | .mxw t' ud => if t' = t then mxwFinish s c g t ud else s
  | _ => settleWait s c g

/-! ## Start and hold (R95, R105, R110) -/

/-- Whether an operation still drains into local memory. -/
def stillDrains (k : Cell) (o : MxOp) : Bool := !o.beatsDone || k.banks.any (fun b => b.serial == o.serial)

/-- Whether a read of an operation overlaps what an earlier one still writes (R110). -/
def hazard (s : State) (c : Nat) (o : MxOp) : Bool :=
  let k := cell s c
  flag s .cell c f_CELL_MX_CTRL_HAZARD_CHK
    && ((k.ops.takeWhile (fun x => x.serial != o.serial)).any (fun x =>
      stillDrains k x && (writeRanges x.desc).any (fun a => (readRanges o.desc).any (overlap a))))

/-- Begin an operation: find its anchor. -/
def beginOp (s : State) (c : Nat) (o : MxOp) : State :=
  let (s, a) := anchorOf s c o.desc
  putOp s c { o with started := true, held := false, anchor := a }

/-- The next operation to start: those before it need the fill port no more. -/
def nextToStart (k : Cell) : List MxOp → Option MxOp
  | [] => none
  | o :: t =>
    if !o.started then some o
    else if o.beatsDone || (!o.held && fillSt k o == .finished) then nextToStart k t
    else none

/-- MX_OP_START. -/
def mxStart (c : Nat) (s : State) : State :=
  if allHeld s (regionOfCell c) then s
  else match nextToStart (cell s c) (cell s c).ops with
  | none => s
  | some o => if hazard s c o then putOp s c { o with started := true, held := true } else beginOp s c o

/-- Exec MX_OP_START. -/
def execMxOpStart (c : Nat) (s : State) : Host.Outcome State Fault Refusal := run (present s .cell c && !cellFrozen s c) s (mxStart c)

/-- MX_HAZARD_RELEASE. -/
def mxRelease (c : Nat) (s : State) : State :=
  match (cell s c).ops.find? (fun o => o.held && !o.beatsDone) with
  | none => s
  | some o => if hazard s c o then s else beginOp s c o

/-- Exec MX_HAZARD_RELEASE. -/
def execMxHazardRelease (c : Nat) (s : State) : Host.Outcome State Fault Refusal := run (present s .cell c && !cellFrozen s c) s (mxRelease c)

/-! ## Fill and preload (R83, R86, R88, R117) -/

/-- The hi or lo part of a value under the FP32 class: an operand that is not FP32 is its own hi part (R83). -/
def partOf (m : MxFmt) (lo : Bool) (v : Val) : Val :=
  if m = .plain .fp32 then (if lo then (splitF32 (toF32 v)).2 else (splitF32 (toF32 v)).1)
  else if lo then .fin false 0 0 else v

/-- The first `n` stored columns of a tile. -/
def fillCols (s : State) (c : Nat) (d : BitVec 512) (g : Tag) : Nat → State × List (List Val) × Option Nat
  | 0 => (s, [], none)
  | n + 1 =>
    let (s, cols, p) := fillCols s c d g n
    let m := fmtOf (dFmtB d)
    let (s, xs, q) := readRow s c m (dBAddr d) (dBStride d) (rowLenB d) (64 * g.2.1 + n) (g.1 * tileK d) (tileK d)
    (s, cols ++ [if passesOf d = 3 then xs.map (partOf m g.2.2) else xs], p.or q)

/-- The operation whose beats are next. -/
def beatOp (k : Cell) : Option MxOp := (k.ops.find? (fun o => !o.beatsDone)).bind (fun o => if o.started then some o else none)

/-- The active and shadow tiles swap between beats, once the last row for the active tile has entered and the shadow is filled
(R88). -/
def swapTiles (k : Cell) : Cell :=
  match beatOp k with
  | some o =>
    if hasTiles o && !o.held && !holds k.tile o.serial (curTag o) && holds k.shadowTile o.serial (curTag o)
    then { k with tile := k.shadowTile, shadowTile := none } else k
  | none => k

/-- A stationary tile is filled into the shadow, and becomes active when no row for another is left. -/
def fillTile (s : State) (c : Nat) (o : MxOp) (g : Tag) : State :=
  let (s, cols, p) := fillCols s c o.desc g 64
  let s := putOp s c (opPoison o p)
  setCell s c (swapTiles { cell s c with shadowTile := some ⟨o.serial, g.1, g.2.1, g.2.2, cols, p.isSome⟩ })

/-- An initial value of a partial, with its status: a WIDE one is an integer at the anchor, another is rounded to it; in
ORDERED it is an FP32 word (R94, R117). -/
def initCell (a : Option Int) (v : Val) : (Int × Nat × Bool) × Nat :=
  match a with
  | none => (((toF32 v).toNat, 0, false), if isNaN v then stNAN else 0)
  | some a => let (w, st) := wideAccum a {} v; ((w.n, w.spec, w.ovf), st)

/-- The initial values of one row of an output tile. -/
def preloadRow (s : State) (c : Nat) (o : MxOp) (ot rt r : Nat) : State × List ((Int × Nat × Bool) × Nat) × Option Nat :=
  let d := o.desc
  let m := fmtOf (dFmtC d)
  let n := tileCols d ot
  if m = .wide then
    let (s, v, p) := lmRead s c (dCAddr d + (64 * rt + r) * dCStride d + 1024 * ot) (16 * n)
    (s, (List.range n).map (fun i => ((signed 128 (v >>> (128 * i)), 0, false), 0)), p)
  else
    let (s, xs, p) := readRow s c m (dCAddr d) (dCStride d) (colsC d) (64 * rt + r) (64 * ot) n
    (s, xs.map (initCell o.anchor), p)

/-- The initial values of the first `n` rows of an output tile: cells, status and the first poisoned address. -/
def preloadRows (s : State) (c : Nat) (o : MxOp) (ot rt : Nat) : Nat → State × List (Nat × Int × Nat × Bool) × Nat × Option Nat
  | 0 => (s, [], 0, none)
  | n + 1 =>
    let (s, cs, st, p) := preloadRows s c o ot rt n
    let (s, xs, q) := preloadRow s c o ot rt n
    (s, (xs.zipIdx).foldl (fun m x => mset (0, 0, false) m (64 * n + x.2) x.1.1) cs, xs.foldl (fun a x => a ||| x.2) st, p.or q)

/-- A preload claims a free bank and loads it (R117). -/
def preload (s : State) (c : Nat) (o : MxOp) (ot rt : Nat) : State :=
  if (cell s c).banks.length ≥ 2 then s
  else
    let (s, cs, st, p) := preloadRows s c o ot rt (rowsOfTile o.desc rt)
    let s := putOp s c { opPoison o p with num := o.num ||| st }
    let k := cell s c
    setCell s c { k with banks := k.banks ++ [{ serial := o.serial, ot := ot, rt := rt, cells := cs, preloaded := true, pois := p.isSome }] }

/-- MX_TILE_FILL_DONE: the fill port serves a preload before any further fill (R117); during a PAUSE freeze it holds (R112). -/
def mxFill (c : Nat) (pre : Bool) (s : State) : State :=
  let k := swapTiles (cell s c)
  let s := setCell s c k
  if allHeld s (regionOfCell c) then s
  else match preloadTarget k k.ops, pre with
  | some (o, ot, rt), true => preload s c o ot rt
  | none, false =>
    (match fillTarget k k.ops with
    | some (o, g) => fillTile s c o g
    | none => s)
  | _, _ => s

/-- Exec MX_TILE_FILL_DONE. -/
def execMxTileFillDone (c : Nat) (pre : Bool) (s : State) : Host.Outcome State Fault Refusal :=
  run (present s .cell c && !cellFrozen s c) s (mxFill c pre)

/-! ## Beats (R67, R72, R85, R87, R89, R94, R111, R121) -/

/-- An FP32 addition under RNE with its status (R72, R79). -/
def addF32St (a b : W32) : W32 × Nat :=
  let v := vadd (f32 a) (f32 b)
  let (x, st) := encVal .fp32 .rne v
  (BitVec.ofNat 32 x, st &&& stINX ||| (if isNaN v then stNAN else 0))

/-- A product of ORDERED with its status. R72 has products exact and R121 adds in FP32: a product that FP32 does not hold exactly is
rounded RNE first, with INX and without SAT, in ELEM too (DESIGN CHOICE, log entry 162). -/
def mulF32St (a b : Val) : W32 × Nat :=
  let v := vmul a b
  let (x, st) := encVal .fp32 .rne v
  (BitVec.ofNat 32 x, st &&& stINX ||| (if isNaN v then stNAN else 0))

/-- One level of the pairwise tree. -/
def treeLevel : List W32 → List W32 × Nat
  | a :: b :: t =>
    let (x, st) := addF32St a b
    let (xs, st') := treeLevel t
    (x :: xs, st ||| st')
  | l => (l, 0)

/-- The pairwise tree of R94 over `n` levels. -/
def treeSum : Nat → List W32 → W32 × Nat
  | 0, l => ((l[0]?).getD 0, 0)
  | n + 1, l =>
    let (xs, st) := treeLevel l
    let (x, st') := treeSum n xs
    (x, st ||| st')

/-- The products of a column enter its accumulator. `first` says that an ORDERED accumulator holds nothing
yet: it then takes the first tile sum as it is, so that a sum of -0 stays -0 (DESIGN CHOICE, log entry 163). -/
def accumulate (a : Option Int) (first : Bool) (x : Int × Nat × Bool) (xs ys : List Val) : (Int × Nat × Bool) × Nat :=
  match a with
  | some a =>
    let (w, st) := (xs.zip ys).foldl (fun (acc : Wide × Nat) p =>
      let (w, st) := wideAccum a acc.1 (vmul p.1 p.2); (w, acc.2 ||| st)) (⟨x.1, x.2.1, x.2.2⟩, 0)
    ((w.n, w.spec, w.ovf), st)
  | none =>
    let ps := (xs.zip ys).map (fun p => mulF32St p.1 p.2)
    let (t, st) := treeSum (if xs.length ≤ 1 then 0 else if xs.length ≤ 32 then 5 else 6) (ps.map (·.1))
    let st := ps.foldl (fun m p => m ||| p.2) st
    if first then ((t.toNat, 0, false), st)
    else
      let (y, st') := addF32St (BitVec.ofInt 32 x.1) t
      ((y.toNat, 0, false), st ||| st')

/-- The values that column `j` of the stream multiplies: a stored column under MMA; under MMA.T, a place along K of every
stored column (R89). -/
def colVals (d : BitVec 512) (ot : Nat) (t : MxTile) (j : Nat) : List Val :=
  if dOp d = 1 then t.vals.map (fun col => (col[if opClass d = 0 then 64 * (ot % 2) + j else j]?).getD (.fin false 0 0))
  else (t.vals[j]?).getD []

/-- Output columns of a stream and the first of them within the bank. -/
def streamCols (d : BitVec 512) (sub : Nat) : Nat × Nat :=
  if dOp d = 1 && 2 ≤ opClass d then (32, 32 * (sub / passesOf d)) else (64, 0)

/-- Whether a pass takes the zero lo part of an operand that is not split (R83). -/
def idlePass (d : BitVec 512) (sub : Nat) : Bool :=
  passesOf d == 3 && ((sub % 3 == 1 && fmtOf (dFmtA d) != .plain .fp32) || (sub % 3 == 2 && fmtOf (dFmtB d) != .plain .fp32))

/-- The columns of one row enter the bank. -/
def beatCols (o : MxOp) (first : Bool) (xs : List Val) (ys : Nat → List Val) (off : Nat) :
    Nat → List (Nat × Int × Nat × Bool) → List (Nat × Int × Nat × Bool) × Nat
  | 0, cs => (cs, 0)
  | n + 1, cs =>
    let (cs, st) := beatCols o first xs ys off n cs
    let key := 64 * o.row + off + n
    let (x, st') := accumulate o.anchor first (mget (0, 0, false) cs key) xs (ys n)
    (mset (0, 0, false) cs key x, st ||| st')

/-- The products of ELEM: one for each column. -/
def elemCols (o : MxOp) (first : Bool) (xs ys : List Val) :
    Nat → List (Nat × Int × Nat × Bool) → List (Nat × Int × Nat × Bool) × Nat
  | 0, cs => (cs, 0)
  | n + 1, cs =>
    let (cs, st) := elemCols o first xs ys n cs
    let key := 64 * o.row + n
    let (x, st') := accumulate o.anchor first (mget (0, 0, false) cs key) ((xs.drop n).take 1) ((ys.drop n).take 1)
    (mset (0, 0, false) cs key x, st ||| st')

/-- One row of an operation enters the array: the operation and its bank after it. -/
def beatRow (s : State) (c : Nat) (o : MxOp) (b : MxBank) : State × MxOp × MxBank :=
  let d := o.desc
  let m := 64 * o.rt + o.row
  let fa := fmtOf (dFmtA d)
  if dOp d = 2 then
    let (s, xs, p) := readRow s c fa (dAAddr d) (dAStride d) (rowLenA d) m (64 * o.ot) 64
    let (s, ys, q) := readRow s c (fmtOf (dFmtB d)) (dBAddr d) (dBStride d) (rowLenB d) m (64 * o.ot) 64
    let (cs, st) := elemCols o (!dAcc d) xs ys 64 b.cells
    (s, { opPoison o (p.or q) with num := o.num ||| st }, { b with cells := cs, pois := b.pois || (p.or q).isSome })
  else
    let (s, xs, p) := readRow s c fa (dAAddr d) (dAStride d) (rowLenA d) m (o.kt * redTile d) (redTile d)
    let xs := if passesOf d = 3 then xs.map (partOf fa (o.sub % 3 == 1)) else xs
    match (cell s c).tile with
    | none => (s, o, b)
    | some t =>
      let (n, off) := streamCols d o.sub
      let first := o.kt == 0 && !dAcc d && o.sub % passesOf d == 0
      let (cs, st) := if idlePass d o.sub then (b.cells, 0) else beatCols o first xs (colVals d o.ot t) off n b.cells
      (s, { opPoison o p with num := o.num ||| st }, { b with cells := cs, pois := b.pois || p.isSome || t.pois })

/-- The next beat after this one; true when the row was the last of its output tile. -/
def advanceBeat (o : MxOp) : MxOp × Bool :=
  let d := o.desc
  if o.row + 1 < rowsOfTile d o.rt then ({ o with row := o.row + 1 }, false)
  else
    let last := !(o.sub + 1 < subsOf d o.ot || o.kt + 1 < nRed d)
    match nextStream d (posOf o) with
    | some (ot, rt, kt, sub) => ({ o with ot := ot, rt := rt, kt := kt, sub := sub, row := 0 }, last)
    | none => ({ o with row := 0, beatsDone := true }, last)

/-- Freeze causes (R111). -/
abbrev fzFEED : Nat := 1
abbrev fzFILL : Nat := 2
abbrev fzDRAIN : Nat := 3
abbrev fzPAUSE : Nat := 4

/-- A cycle in which the array takes no beat. -/
def freezeCycle (s : State) (c code : Nat) : State :=
  let s := setF s .cell c f_CELL_MX_STATUS_FREEZE code
  let off := if code = fzFEED then o_CELL_MX_STALL_FEED else if code = fzFILL then o_CELL_MX_STALL_FILL
    else if code = fzDRAIN then o_CELL_MX_STALL_DRAIN else o_CELL_MX_STALL_PAUSE
  mxBump (mxBump s c off 1) c o_CELL_MX_BUSY 1

/-- Whether an operation has had its first fill. -/
def begun (k : Cell) (o : MxOp) : Bool :=
  !hasTiles o || posOf o != (0, 0, 0, 0) || o.row != 0 || tileHeld k o (curTag o)

/-- The freeze that keeps the next beat from the array, `stall` being FEED, PAUSE or 0 from outside; none when it may go. -/
def freezeOf (k : Cell) (o : MxOp) (stall : Nat) : Option Nat :=
  let bank := bankOf k o.serial o.ot o.rt
  if stall = fzPAUSE then some fzPAUSE
  else if bank.isNone && k.banks.length ≥ 2 then some fzDRAIN
  else if (hasTiles o && !tileHeld k o (curTag o)) || (dAcc o.desc && bank.isNone) then some fzFILL
  else if stall ≠ 0 then some fzFEED
  else none

/-- MX_BEAT: one row enters, or the array freezes for a cycle; before the first fill of an operation no cycle counts (R111). -/
def mxBeat (c stall : Nat) (s : State) : State :=
  let k := cell s c
  match beatOp k with
  | none => s
  | some o =>
    if (!o.held && !begun k o) || (k.resetting && (bankOf k o.serial o.ot o.rt).isNone) then s
    else if allHeld s (regionOfCell c) then freezeCycle s c fzPAUSE
    else if o.held then freezeCycle s c fzFEED
    else match freezeOf k o stall with
      | some f => freezeCycle s c f
      | none =>
        let k := swapTiles k
        let new : MxBank := { serial := o.serial, ot := o.ot, rt := o.rt }
        let b := (bankOf k o.serial o.ot o.rt).getD new
        let k := if (bankOf k o.serial o.ot o.rt).isNone then { k with banks := k.banks ++ [new] } else k
        let (s, o, b) := beatRow (setCell s c k) c o b
        let (o, last) := advanceBeat o
        let s := putOp s c o
        let s := setCell s c (swapTiles (putBank (cell s c) { b with full := b.full || last }))
        mxBump (setF s .cell c f_CELL_MX_STATUS_FREEZE 0) c o_CELL_MX_BUSY (if dOp o.desc = 2 then 1 else 2)

/-- Exec MX_BEAT: the array's own freezes follow from the state; `stall` brings FEED or PAUSE from outside it. -/
def execMxBeat (c stall : Nat) (s : State) : Host.Outcome State Fault Refusal :=
  run (present s .cell c && !cellFrozen s c && (stall == 0 || stall == fzFEED || stall == fzPAUSE)) s (mxBeat c stall)

/-! ## The drain (R75, R102, R116, R118 to R121) -/

/-- A row of results on its way through the drain: partials, or FP32 words. -/
inductive Row where
  | wide (ws : List Wide)
  | f32 (xs : List W32)
  deriving DecidableEq, Repr

/-- The cells of row `r` of a bank. -/
def rowOf (o : MxOp) (b : MxBank) (r n : Nat) : Row :=
  let cs := (List.range n).map (fun j => mget (0, 0, false) b.cells (64 * r + j))
  match o.anchor with
  | some _ => .wide (cs.map (fun x => ⟨x.1, x.2.1, x.2.2⟩))
  | none => .f32 (cs.map (fun x => BitVec.ofInt 32 x.1))

/-- OR of a list of status bits. -/
def orAll (l : List Nat) : Nat := l.foldl (· ||| ·) 0

/-- Step 1 of R116. -/
def addBias (a : Option Int) (r : Row) (bias : List Val) : Row × Nat :=
  match r with
  | .wide ws =>
    let xs := (ws.zip bias).map (fun p => wideAccum (a.getD 0) p.1 p.2)
    (.wide (xs.map (·.1)), orAll (xs.map (·.2)))
  | .f32 xs =>
    let ys := (xs.zip bias).map (fun p => addF32St p.1 (toF32 p.2))
    (.f32 (ys.map (·.1)), orAll (ys.map (·.2)))

/-- Step 2 of R116. -/
def rowToF32 (a : Option Int) (r : Row) : List W32 × Nat :=
  match r with
  | .wide ws =>
    let xs := ws.map (encWide .fp32 .rne (a.getD 0))
    (xs.map (fun x => BitVec.ofNat 32 x.1), orAll (xs.map (·.2)))
  | .f32 xs => (xs, 0)

/-- The online soft maximum of one row (R119): the probabilities, μ, λ and γ. -/
def smxRow (s : State) (b : Nat) (o : MxOp) (mu lam : W32) (xs : List W32) : List W32 × W32 × W32 × W32 :=
  let scale : W32 := BitVec.ofNat 32 (dSmxScale o.desc <<< 16)
  let ts := xs.map (fun x => f32Mul x scale)
  let m := ts.foldl f32Max mu
  let exp2 := fun x => sfuRun s b o.bank o.compat 1 x
  let (ps, g) := if m = f32NegInf then (ts.map (fun _ => 0), f32One)
    else (ts.map (fun t => exp2 (f32Sub t m)), if mu = f32NegInf then 0 else exp2 (f32Sub mu m))
  (ps, m, f32Add (f32Mul lam g) (treeSum 6 ps).1, g)

/-- Step 5 of R116: element codes, and for a block-scaled C the scale and sub-shift byte of each block; with status. -/
def encodeRow (d : BitVec 512) (a : Option Int) (r : Row) : List Nat × List (Nat × Nat) × Nat :=
  let rnd := rndOf (dRnd d)
  let vals := match r with
    | .wide ws => ws.map (wideVal (a.getD 0))
    | .f32 xs => xs.map f32
  let ovf := match r with
    | .wide ws => if ws.any (fun w => w.spec == 0 && w.ovf) then stOVF else 0
    | .f32 _ => 0
  match fmtOf (dFmtC d) with
  | .wide => (match r with
    | .wide ws => (ws.map (fun w => wrapN 128 w.n), [], if ws.any (fun w => w.spec == 3) then stNAN else 0)
    | .f32 _ => ([], [], 0))
  | .plain f =>
    (match r with
    | .wide ws =>
      let xs := ws.map (encWide f rnd (a.getD 0))
      (xs.map (·.1), [], orAll (xs.map (·.2)))
    | .f32 xs =>
      let ys := xs.map (fun x => encVal f rnd (Sys2Proof.Machine.f32 x))
      (ys.map (·.1), [], orAll (ys.map (·.2))))
  | .block f ss =>
    let bs := (List.range (vals.length / 32)).map (fun i => encodeBlock f ss ((vals.drop (32 * i)).take 32))
    (bs.flatMap (·.2.2.1), bs.map (fun b => (b.1, b.2.1)), orAll (bs.map (·.2.2.2)) ||| ovf)

/-- A row as pieces of bytes: address, length, value. -/
def rowPieces (d : BitVec 512) (ot m : Nat) (codes : List Nat) (blocks : List (Nat × Nat)) : List (Nat × Nat × Nat) :=
  let f := fmtOf (dFmtC d)
  let w := elemWidth f
  let pack := fun (l : List Nat) => packN w (fun i => (l[i]?).getD 0) l.length
  if isBlock f then
    ((blocks.zipIdx).map (fun b =>
      let (ea, sa) := blockAt f (dCAddr d) (m * (colsC d / 32) + 2 * ot + b.2)
      [(ea, blockBytes f, pack ((codes.drop (32 * b.2)).take 32)), (sa, 1, b.1.1)]
        ++ (if f matches .block _ true then [(sa + 256, 1, b.1.2)] else []))).flatten
  else [(dCAddr d + m * dCStride d + 8 * ot * w, codes.length * w / 8, pack codes)]

/-- Write a piece to local memory; whole words carry the poison of the output tile. -/
def putLocal (s : State) (c : Nat) (pois : Bool) (p : Nat × Nat × Nat) : State :=
  if p.2.1 = 1 then lmStore s c p.1 1 p.2.2
  else (List.range (p.2.1 / 8)).foldl (fun s i => lmPut s c (p.1 / 8 + i) (BitVec.ofNat 64 (p.2.2 >>> (64 * i))) pois) s

/-- A piece cut at line boundaries; `n` is at least the number of lines it touches. -/
def splitLines : Nat → Nat × Nat × Nat → List (Nat × Nat × Nat)
  | 0, _ => []
  | k + 1, (a, n, v) =>
    let m := 256 - a % 256
    if n ≤ m then [(a, n, v)] else (a, m, v % 256 ^ m) :: splitLines k (a + m, n - m, v >>> (8 * m))

/-- Watchpoints on a request of a drain or a copy (R575): a PARK action is a record with GROUP 0xFF. -/
def watchUnit (s : State) (c kinds a n : Nat) (lbl : Byte) : State :=
  match watchOf s c kinds lbl [(a, n)] [] with
  | none => s
  | some (wp, x, _) => watchRecord (watchCount s c wp) c 0xFF 0 kinds wp x lbl

/-- A request of a drain to device memory: none sent where the destination refuses it (R122). `hbm` and `fab` build the
request. -/
def sendDrain (s : State) (c : Nat) (o : MxOp) (kinds a n : Nat) (hbm : ReqOp) (fab : Nat → Packet) : State × MxOp :=
  let lbl := cellLabel s o.label
  match cellEntry s c lbl a false true with
  | (s, .refused _) => (s, opFault o flACCESS a 2)
  | (s, e) =>
    let s := watchUnit s c kinds a n lbl
    match e with
    | .window w =>
      let (s, id) := niFab s c (.array c) (some (nidOf c o.grp)) lbl w a (fab w)
      (s, { o with outs := o.outs ++ [(id, a)] })
    | _ =>
      let (s, id) := niSend s c (.array c) lbl (winsOf s o.lead) (lineOf a) hbm
      (s, { o with outs := o.outs ++ [(id, a)] })

/-- Store a piece to device memory as ordinary stores (R102). -/
def putDevice (s : State) (c : Nat) (o : MxOp) (pois : Bool) (p : Nat × Nat × Nat) : State × MxOp :=
  (splitLines 6 p).foldl (fun (acc : State × MxOp) x =>
    let (a, n, v) := x
    let d : Line := BitVec.ofNat 2048 (v <<< (8 * (a % 256)))
    let m := byteMask (a % 256) n
    let ps : BitVec 32 := if pois then wordsTouched m else 0
    let whole := n == 256
    let pm : W32 := if pois then wordsTouched (byteMask 0 n) else 0
    sendDrain acc.1 c acc.2 2 a n (.write d m ps whole (if whole then checkValue .plain (lineOf a) d else 0) none)
      (fun _ => { type := 3, vc := 0, ord := true, zl := false, len := n, payload := toBytes n v, pmask := pm })) (s, o)

/-- Send a WIDE row as ADD.W contributions, one for each line (R102). -/
def putReduce (s : State) (c : Nat) (o : MxOp) (pois : Bool) (a : Nat) (ws : List Wide) : State × MxOp :=
  let anchor := wrapN 16 (o.anchor.getD 0)
  (List.range ((ws.length + 15) / 16)).foldl (fun (acc : State × MxOp) i =>
    let vals := (((ws.drop (16 * i)).take 16).zipIdx).map (fun x => (⟨x.2, x.1.n, x.1.spec, x.1.ovf, pois⟩ : WideVal))
    sendDrain acc.1 c acc.2 1 ((a + 256 * i) % 2 ^ 48) 256 (.addW (BitVec.ofNat 16 anchor) vals) (fun _ => redPacket anchor vals)) (s, o)

/-- Store the soft-maximum state of a row (R119). -/
def putSmx (s : State) (c a : Nat) (pois : Bool) (mu lam g : W32) : State :=
  let s := lmPut s c (a / 8) (BitVec.ofNat 64 (mu.toNat + lam.toNat * 2 ^ 32)) pois
  if pois then lmPut s c (a / 8 + 1) (BitVec.ofNat 64 (g.toNat + (lmRaw (cell s c) (a / 8 + 1)).toNat / 2 ^ 32 * 2 ^ 32)) true
  else lmStore s c (a + 8) 4 g.toNat

/-- Steps 3 and 4 of R116 on FP32 words: the words, status record writes, and the first poisoned address. -/
def functionRow (s : State) (c : Nat) (o : MxOp) (ot m : Nat) (pois : Bool) (xs : List W32) : State × List W32 × Option Nat :=
  let d := o.desc
  let b := blockOfCell s c
  let xs := if dAct d = 0 then xs else xs.map (sfuRun s b o.bank o.compat (dAct d))
  if !dSmxEn d then (s, xs, none)
  else
    let a := dSmxAddr d + 16 * m
    let init := dSmxFirst d && ot == 0
    let (s, v, p) := if init then (s, 0, none) else lmRead s c a 8
    let (mu, lam) : W32 × W32 := if init then (f32NegInf, 0) else (BitVec.ofNat 32 v, BitVec.ofNat 32 (v / 2 ^ 32))
    let (ps, mu, lam, g) := smxRow s b o mu lam xs
    (putSmx s c a (pois || p.isSome) mu lam g, ps, p)

/-- One row of a full bank through R116. -/
def drainRow (s : State) (c : Nat) (o : MxOp) (b : MxBank) : State × MxOp × MxBank :=
  let d := o.desc
  let m := 64 * b.rt + b.drained
  let n := tileCols d b.ot
  let r := rowOf o b b.drained n
  let (s, bias, p) := if dBiasEn d then readRow s c (fmtOf (dFmtBias d)) (dBiasAddr d) 0 (colsC d) 0 (64 * b.ot) n else (s, [], none)
  let (r, st1) := if dBiasEn d then addBias o.anchor r bias else (r, 0)
  let fn := dAct d != 0 || dSmxEn d
  let (xs, st2) := if fn then rowToF32 o.anchor r else ([], 0)
  let (s, xs, q) := if fn then functionRow s c o b.ot m (b.pois || p.isSome) xs else (s, xs, none)
  let r := if fn then .f32 xs else r
  let (codes, blocks, st3) := encodeRow d o.anchor r
  let pois := b.pois || (p.or q).isSome
  let o := { opPoison o (p.or q) with num := o.num ||| st1 ||| st2 ||| st3 }
  let b := { b with drained := b.drained + 1, pois := pois }
  let pieces := rowPieces d b.ot m codes blocks
  match dDst d with
  | 0 => (pieces.foldl (fun s p => putLocal s c pois p) s, o, b)
  | 1 =>
    let (s, o) := pieces.foldl (fun (acc : State × MxOp) p => putDevice acc.1 c acc.2 pois (p.1 % 2 ^ 48, p.2)) (s, o)
    (s, o, b)
  | _ =>
    let ws := match r with | .wide ws => ws | .f32 _ => []
    let (s, o) := putReduce s c o pois (dCAddr d + m * dCStride d + 1024 * b.ot) ws
    (s, o, b)

/-- MX_DRAIN_ROW: one bank at a time, in the order in which they were filled (R92); during a PAUSE freeze it holds (R112). -/
def mxDrain (c : Nat) (s : State) : State :=
  let k := cell s c
  if allHeld s (regionOfCell c) then s
  else match k.banks with
  | [] => s
  | b :: _ =>
    if !b.full then s
    else match k.ops.find? (fun o => o.serial == b.serial) with
    | none => s
    | some o =>
      let (s, o, b) := drainRow s c o b
      let s := putOp s c o
      let k := putBank (cell s c) b
      setCell s c (if b.drained < rowsOfTile o.desc b.rt then k
        else { k with banks := k.banks.filter (fun x => !(x.serial == b.serial && x.ot == b.ot && x.rt == b.rt)) })

/-- Exec MX_DRAIN_ROW. -/
def execMxDrainRow (c : Nat) (s : State) : Host.Outcome State Fault Refusal := run (present s .cell c && !cellFrozen s c) s (mxDrain c)

/-! ## Completion (R106 to R108) -/

/-- The status word of R107. -/
def statusWord (fault : Nat) (refused : Bool) (num : Nat) : W32 :=
  BitVec.ofNat 32 (fault <<< 16 + b2n refused <<< 9 + num % 16)

/-- Whether everything of an operation has been written and accepted. -/
def opFinished (k : Cell) (o : MxOp) : Bool := o.beatsDone && !k.banks.any (fun b => b.serial == o.serial) && o.outs.isEmpty

/-- MX_OP_COMPLETE: an operation that a kill stopped leaves without a token (R122). -/
def mxComplete (c : Nat) (s : State) : State :=
  let k := cell s c
  match k.ops.find? (opFinished k) with
  | none => s
  | some o =>
    let s := setCell s c { k with ops := k.ops.filter (fun x => x.serial != o.serial) }
    if o.stop then s
    else tokenDone (mxBump s c o_CELL_MX_OPS 1) c o.grp o.token o.lead
      { st := 2, status := statusWord o.fault o.refused o.num, addr := o.faddr, aspace := o.faspace, src := 6 }

/-- Exec MX_OP_COMPLETE. -/
def execMxOpComplete (c : Nat) (s : State) : Host.Outcome State Fault Refusal := run (present s .cell c && !cellFrozen s c) s (mxComplete c)

end Sys2Proof.Machine
end

