-- ==== Sys2Proof/Machine/Control.lean ====
section
/-! DEFINITION. Control instructions of a group: branches and reconvergence, fences, read-only caches, flags, locks, status
(R129, R136 to R142, R148, R149, R151 to R154, R158 to R165, R228, R229, R234, R236). -/
namespace Sys2Proof.Machine

/-- Issue a control instruction: a nonzero reserved field is ILLEGAL (R134). -/
def ctlIssue (c g : Nat) (w : W64) (reserved : Nat) (f : State → Option State) (s : State) : State :=
  issue s c g w (fun s => if reserved ≠ 0 then some (illegal s c g 2) else f s)

/-- Go to an address; instructions are aligned to 8 B. -/
def jump (s : State) (c g a : Nat) : State :=
  let k := group s c g
  setGroup s c g { k with pc := a % 2 ^ 48 / 8 * 8, skipWatch := [] }

/-- The target of a signed count of instructions from PC + 8. -/
def relPc (k : Group) (n : Nat) : Nat := wrapN 48 ((k.pc : Int) + 8 + 8 * signed 24 n)

/-! ## Branches and reconvergence (R136 to R141) -/

/-- R139. -/
def branch (s : State) (c g : Nat) (w : W64) : State :=
  let k := group s c g
  let t := guardLanes k w
  let f := k.active &&& ~~~t
  let target := relPc k (ibits w 51 28)
  let join := relPc k (ibits w 27 4)
  let next := (k.pc + 8) % 2 ^ 48
  if f = 0 then jump s c g target
  else if t = 0 then nextPc s c g
  else if ibits w 27 4 = 0 then illegal s c g 4
  else
    match k.stack with
    | e :: st =>
      if e.join = join && e.pendPc = next then
        jump (setGroup s c g { k with stack := { e with pendMask := e.pendMask ||| f } :: st, active := t }) c g target
      else if k.stack.length ≥ 32 then illegal s c g 6
      else jump (setGroup s c g { k with stack := ⟨join, k.active, next, f⟩ :: k.stack, active := t }) c g target
    | [] => jump (setGroup s c g { k with stack := [⟨join, k.active, next, f⟩], active := t }) c g target

/-- Exec BR. -/
def execBr (c g : Nat) (w : W64) (s : State) : Host.Outcome State Fault Refusal :=
  run (opc w == 0xC0) s (ctlIssue c g w (ibits w 3 0) (fun s => some (branch s c g w)))

/-- Exec CALL. -/
def execCall (c g : Nat) (w : W64) (s : State) : Host.Outcome State Fault Refusal :=
  run (opc w == 0xC1) s (ctlIssue c g w (ibits w 22 0) (fun s => groupWide s c g w (fun s =>
    let k := group s c g
    some (jump (setGroup s c g (setU k (ibits w 27 23) (BitVec.ofNat 64 ((k.pc + 8) % 2 ^ 48)))) c g (relPc k (ibits w 51 28))))))

/-- Exec RET. -/
def execRet (c g : Nat) (w : W64) (s : State) : Host.Outcome State Fault Refusal :=
  run (opc w == 0xC2) s (ctlIssue c g w (ibits w 46 0) (fun s => groupWide s c g w (fun s =>
    some (jump s c g (getU (group s c g) (ibits w 51 47)).toNat))))

/-- Exec CONV (R140). -/
def execConv (c g : Nat) (w : W64) (s : State) : Host.Outcome State Fault Refusal :=
  run (opc w == 0xC4) s (ctlIssue c g w (ibits w 51 0) (fun s => groupWide s c g w (fun s =>
    let k := group s c g
    match k.stack with
    | [] => some (nextPc s c g)
    | e :: t =>
      if e.join ≠ k.pc then some (illegal s c g 5)
      else if e.pendMask ≠ 0 && e.pendPc ≠ k.pc then
        some (jump (setGroup s c g { k with active := e.pendMask, stack := { e with pendMask := 0 } :: t }) c g e.pendPc)
      else some (nextPc (setGroup s c g { k with active := e.saved &&& k.resident, stack := t }) c g))))

/-- R141: the action of CONV at the join of the top entry, until the active mask is nonempty or the stack is empty: the
active mask, the PC and the stack. -/
def unwind (resident : W32) : List StackEnt → Option (W32 × Nat × List StackEnt)
  | [] => none
  | e :: t =>
    if e.pendMask ≠ 0 && e.pendPc ≠ e.join then some (e.pendMask, e.pendPc, { e with pendMask := 0 } :: t)
    else if e.saved &&& resident ≠ 0 then some (e.saved &&& resident, e.join + 8, t)
    else unwind resident t

/-- The group ends (R148): FREE, or WAIT while a token is BUSY or a write has not been accepted. -/
def endGroup (s : State) (c g : Nat) : State :=
  let k := group s c g
  if k.outD.isEmpty && k.outF.isEmpty && !busyToken k then freeGroup s c g
  else pump (setGroup s c g { k with st := .wait, await := .exit })

/-- R141. -/
def exitLanes (s : State) (c g : Nat) (w : W64) : State :=
  let k := group s c g
  let e := guardLanes k w
  let res := k.resident &&& ~~~e
  let stack := k.stack.map (fun x => { x with saved := x.saved &&& ~~~e, pendMask := x.pendMask &&& ~~~e })
  let act := k.active &&& ~~~e
  let s := setGroup s c g { k with resident := res, active := act, stack := stack }
  if res = 0 then endGroup s c g
  else if act ≠ 0 then nextPc s c g
  else match unwind res stack with
  | some (a, pc, st) => jump (setGroup s c g { group s c g with active := a, stack := st }) c g pc
  | none => nextPc (setGroup s c g { group s c g with stack := [] }) c g

/-- Exec EXIT. -/
def execExit (c g : Nat) (w : W64) (s : State) : Host.Outcome State Fault Refusal :=
  run (opc w == 0xC3) s (ctlIssue c g w (ibits w 51 0) (fun s =>
    if guardLanes (group s c g) w = 0 then some (nextPc s c g) else some (exitLanes s c g w)))

/-! ## Fences and the read-only caches (R151, R154) -/

/-- R151, R345: a fence of a kind. -/
def fence (c g : Nat) (w : W64) : State → State :=
  ctlIssue c g w (ibits w 49 0) (fun s =>
    let kind := ibits w 51 50
    if kind = 3 then some (illegal s c g 2)
    else groupWide s c g w (fun s =>
      let k := group s c g
      if fenceDone k kind then some (nextPc s c g)
      else
        let s := setGroup s c g { k with st := .wait, await := .fence kind }
        some (if kind = 2 then pump s else s)))

/-- Exec FENCE.L: local accesses are performed as they issue. -/
def execFenceL (c g : Nat) (w : W64) (s : State) : Host.Outcome State Fault Refusal :=
  run (opc w == 0xD8 && ibits w 51 50 == 0) s (fence c g w)

/-- Exec FENCE.D. -/
def execFenceD (c g : Nat) (w : W64) (s : State) : Host.Outcome State Fault Refusal :=
  run (opc w == 0xD8 && ibits w 51 50 == 1) s (fence c g w)

/-- Exec FENCE.F; the reserved kind is ILLEGAL. -/
def execFenceF (c g : Nat) (w : W64) (s : State) : Host.Outcome State Fault Refusal :=
  run (opc w == 0xD8 && 2 ≤ ibits w 51 50) s (fence c g w)

/-- Invalidate the selected read-only caches of a cell (R154). -/
def invRo (s : State) (c : Nat) (i k d : Bool) : State :=
  let x := cell s c
  setCell s c { x with icache := if i then [] else x.icache, ccache := if k then [] else x.ccache, dcache := if d then [] else x.dcache }

/-- Exec INV.RO. -/
def execInvRo (c g : Nat) (w : W64) (s : State) : Host.Outcome State Fault Refusal :=
  run (opc w == 0xD9) s (ctlIssue c g w (ibits w 48 0) (fun s =>
    if ibits w 51 49 = 0 then some (illegal s c g 2)
    else groupWide s c g w (fun s => some (nextPc (invRo s c (bitN w.toNat 51) (bitN w.toNat 50) (bitN w.toNat 49)) c g))))

/-- Exec RDST (R129). -/
def execRdst (c g : Nat) (w : W64) (s : State) : Host.Outcome State Fault Refusal :=
  run (opc w == 0xDC) s (ctlIssue c g w (ibits w 46 0) (fun s => groupWide s c g w (fun s =>
    let k := group s c g
    some (retire s c g (setU k (ibits w 51 47) k.gstat)))))

/-- Exec CLST (R129). -/
def execClst (c g : Nat) (w : W64) (s : State) : Host.Outcome State Fault Refusal :=
  run (opc w == 0xDD) s (ctlIssue c g w (ibits w 41 0) (fun s => groupWide s c g w (fun s =>
    let k := group s c g
    some (retire s c g { k with gstat := k.gstat &&& ~~~(BitVec.ofNat 64 (ibits w 51 42)) }))))

/-! ## Flags (R137, R158 to R160, R228, R234, R236) -/

/-- The identifier of FLW, FLS and FLC (R137). -/
def flagIdent (k : Group) (w : W64) : Nat := ((getU k (ibits w 51 47)).toNat + ibits w 46 31) % 65536

/-- Park for a flag: every active lane raised it. -/
def parkFlag (s : State) (c g detail f : Nat) : State :=
  park s c g { cause := cACCESS, detail := detail, addr := f, lanes := (group s c g).active }

/-- The FLAG packet of R327. -/
def flagPacket (w : FWin) (r i : Nat) (set world : Bool) (label : Byte) : Packet :=
  { type := 5, vc := 0, ord := true, zl := true, len := 1, opst := b2n set, ts := BitVec.ofNat 64 (r <<< 12 + i % 4096), deid := fldW w.tgt 31 16, world := world, label := label }

/-- The check of a flag write at its window (R340): false when it is refused at the source. -/
def flagWinOk (s : State) (w : Nat) (secure : Bool) (part : Nat) : Bool :=
  let x := fwin s w
  fwPart x == part && !(fwSecure x && !secure) && !fwRo x

/-- FLS or FLC (R158). -/
def flagOp (c g : Nat) (w : W64) (set : Bool) : State → State :=
  ctlIssue c g w (ibits w 30 0) (fun s => groupWide s c g w (fun s =>
    let k := group s c g
    let f := flagIdent k w
    let lbl := cellLabel s k.label
    let sec := secureCell s c
    if flagHeld s (regionOfCell c) (xlat s (regionOfCell c) f) then none
    else match xlat s (regionOfCell c) f with
    | none => some (parkFlag s c g 2 f)
    | some (.loc r i) =>
      let (s, ok) := flagWrite s r i set sec 0 c lbl
      some (nextPc (if ok then s else wdrop s c g) c g)
    | some (.remote wd r i) =>
      if !fwEn (fwin s wd) then some (parkFlag s c g 2 f)
      else if !flagWinOk s wd sec (labelPart lbl) then
        let s := if fwSecure (fwin s wd) && !sec && fwPart (fwin s wd) == labelPart lbl then secLogAdd s 6 0 true c lbl 0 f else s
        some (nextPc (wdrop s c g) c g)
      else
        let (s, id) := newId s
        let s := addOut (pmc s c 6 1) c g id true
        let s := fabIssue s { id := id, src := .group c g, line := 0, pkt := flagPacket (fwin s wd) r i set sec lbl, nid := some (nidOf c g), win := wd }
        some (nextPc s c g)))

/-- Exec FLS. -/
def execFls (c g : Nat) (w : W64) (s : State) : Host.Outcome State Fault Refusal := run (opc w == 0xD1) s (flagOp c g w true)

/-- Exec FLC. -/
def execFlc (c g : Nat) (w : W64) (s : State) : Host.Outcome State Fault Refusal := run (opc w == 0xD2) s (flagOp c g w false)

/-- Set PD in every lane, where NP asks for it (R160). -/
def flwPd (k : Group) (np : Bool) (pd : Nat) (v : Bool) : Group := if np then setP k pd (if v then 0xFFFFFFFF else 0) else k

/-- An FLW returns: a consuming wait for a set flag clears it (R159). -/
def flwReturn (s : State) (c g r i : Nat) (st consume np : Bool) (pd : Nat) : State :=
  let s := if st && consume then flagClr s r i else s
  retire s c g { flwPd (group s c g) np pd true with st := .run, await := .none }

/-- FLW (R159, R228, R236). -/
def flw (c g : Nat) (w : W64) : State → State :=
  ctlIssue c g w (ibits w 20 0) (fun s => groupWide s c g w (fun s =>
    let k := group s c g
    let f := flagIdent k w
    let st := bitN w.toNat 30
    if flagHeld s (regionOfCell c) (xlat s (regionOfCell c) f) then none
    else match xlat s (regionOfCell c) f with
    | none => some (parkFlag s c g 2 f)
    | some (.remote _ _ _) => some (parkFlag s c g 4 f)
    | some (.loc r i) =>
      if flagSecure s r i && !secureCell s c then some (parkFlag s c g 1 f)
      else if (flagAt s r i).set = st then some (flwReturn s c g r i st (bitN w.toNat 29) (bitN w.toNat 24) (ibits w 23 21))
      else some (setGroup s c g { k with st := .wait, await := .flw r i st (bitN w.toNat 29) (ibits w 28 25) (bitN w.toNat 24) (ibits w 23 21) f s.time.toNat })))

/-- Exec FLW. -/
def execFlw (c g : Nat) (w : W64) (s : State) : Host.Outcome State Fault Refusal := run (opc w == 0xD0) s (flw c g w)

/-- FLAG_WAKE: a waiting group whose flag reads the wanted state returns, unless a frozen region holds it (R495); the signal ungates its cell (R149, R159). -/
def flagWake (c g : Nat) (s : State) : State :=
  match (group s c g).await with
  | .flw r i st consume _ np pd _ _ =>
    if (flagAt s r i).set = st && !flagHeld s (regionOfCell c) (some (.loc r i)) then flwReturn (setCell s c { cell s c with gated := false }) c g r i st consume np pd else s
  | _ => s

/-- Exec FLAG_WAKE. -/
def execFlagWake (c g : Nat) (s : State) : Host.Outcome State Fault Refusal := run (present s .cell c && g < 16) s (flagWake c g)

/-- FLW_TIMEOUT: nothing before the timeout has passed since the FLW's issue (R160). -/
def flwTimeout (c g : Nat) (s : State) : State :=
  let k := group s c g
  match k.await with
  | .flw _ _ _ _ lim np pd f born =>
    if lim = 0 || !timedOut s born lim then s
    else
      let s := setCell s c { cell s c with gated := false }
      if np then retire s c g { flwPd k true pd false with st := .run, await := .none }
      else park s c g { cause := cTIMEOUT, detail := lim, addr := f, lanes := k.active }
  | _ => s

/-- Exec FLW_TIMEOUT. -/
def execFlwTimeout (c g : Nat) (s : State) : Host.Outcome State Fault Refusal := run (present s .cell c && g < 16) s (flwTimeout c g)

/-- Whether a request of a cell is on its way. -/
def ofCell (c : Nat) : Src → Bool
  | .group d _ => d == c
  | .array d => d == c
  | .copy d => d == c
  | _ => false

/-- Whether a cell's NI is idle: nothing of the cell on its way to a slice, in a miss register, on its way back or on the
fabric. -/
def niIdle (s : State) (c : Nat) : Bool :=
  !(s.reqs.any (fun q => ofCell c q.src) || s.resps.any (fun r => ofCell c r.src)
    || s.slices.any (fun x => x.2.miss.any (fun m => m.waiters.any (fun q => ofCell c q.src)))
    || s.fab.wait.any (fun r => ofCell c r.src) || s.fab.outst.any (fun r => ofCell c r.2.src) || s.fab.wrps.any (fun r => ofCell c r.src))

/-- R149: the cell's clock is gated when every group that is not FREE waits on a flag and its units are idle. -/
def cellGate (c : Nat) (s : State) : State :=
  let k := cell s c
  let waits := k.groups.all (fun g => g.2.st == .free || (g.2.st == .wait && (match g.2.await with | .flw _ _ _ _ _ _ _ _ _ => true | _ => false)))
  if waits && k.ops.isEmpty && k.copies.isEmpty && niIdle s c then setCell s c { k with gated := true } else s

/-- Exec CELL_GATE. -/
def execCellGate (c : Nat) (s : State) : Host.Outcome State Fault Refusal := run (present s .cell c) s (cellGate c)

/-! ## Locks (R161 to R165) -/

/-- Where the lane's lock is, or the fault of naming it (R161, R228, R236). -/
def lockAt (s : State) (c : Nat) (f lane : Nat) : LaneFault ⊕ (Nat × Nat) :=
  match xlat s (regionOfCell c) f with
  | none => .inl ⟨lane, cACCESS, 2, 0, f⟩
  | some (.remote _ _ _) => .inl ⟨lane, cACCESS, 4, 0, f⟩
  | some (.loc r i) => if flagSecure s r i && !secureCell s c then .inl ⟨lane, cACCESS, 1, 0, f⟩ else .inr (r, i)

/-- The locks of the lanes: the faults, and the translated lanes as (lane, identifier, region, index). -/
def lockLanes (s : State) (c : Nat) (xs : List (Nat × Nat)) : List LaneFault × List (Nat × Nat × Nat × Nat) :=
  (xs.filterMap (fun x => match lockAt s c x.2 x.1 with | .inl e => some e | .inr _ => none),
   xs.filterMap (fun x => match lockAt s c x.2 x.1 with | .inl _ => none | .inr p => some (x.1, x.2, p.1, p.2)))

/-- Act on the lanes in ascending order: the result codes as (lane, identifier, code). -/
def lockRun (op : State → Nat → Nat → State × Nat) : List (Nat × Nat × Nat × Nat) → State → State × List (Nat × Nat × Nat)
  | [], s => (s, [])
  | (l, f, r, i) :: t, s =>
    let (s, code) := op s r i
    let (s, rs) := lockRun op t s
    (s, (l, f, code) :: rs)

/-- Write VD and PD of the executing lanes. -/
def lockResults (k : Group) (w : W64) (rs : List (Nat × Nat × Nat)) : Group :=
  rs.foldl (fun k x => setPLane (setV k (ibits w 51 45) x.1 (BitVec.ofNat 32 x.2.2)) (ibits w 37 35) x.1 (x.2.2 == 0)) k

/-- R165: the spin count after a TAKE: its count and identifier, and the lanes that received SELF_HELD when it parks. -/
def spinNext (k : Group) (rs : List (Nat × Nat × Nat)) : Nat × Nat :=
  if rs.any (fun x => x.2.2 == 0) then (0, k.spinId)
  else match rs.find? (fun x => x.2.2 == 2) with
  | some (_, f, _) => if k.spinId = f && k.spin ≠ 0 then (k.spin + 1, f) else (1, f)
  | none => (k.spin, k.spinId)

/-- TAKE and GIVE share their operands and checks. -/
def lockIssue (c g : Nat) (w : W64) (eff : State → List (Nat × Nat × Nat × Nat) → State) : State → State :=
  ctlIssue c g w (ibits w 34 0) (fun s =>
    let k := group s c g
    if !(inAlloc k (ibits w 51 45) 1 && inAlloc k (ibits w 44 38) 1) then some (illegal s c g 3)
    else
      let xs := (lanesOf (guardLanes k w)).map (fun l => (l, (getV k (ibits w 44 38) l).toNat % 65536))
      if xs.any (fun x => flagHeld s (regionOfCell c) (xlat s (regionOfCell c) x.2)) then none
      else match lockLanes s c xs with
      | (f :: t, _) => some (parkLanes s c g (f :: t))
      | ([], ls) => some (eff s ls))

/-- TAKE (R162, R165). -/
def take (c g : Nat) (w : W64) : State → State :=
  lockIssue c g w (fun s ls =>
    let k := group s c g
    let (s, rs) := lockRun (fun s r i => takeLock s r i c g) ls s
    let (n, f) := spinNext k rs
    if n ≥ 65536 then
      parkLanes (setGroup s c g { k with spin := 0, spinId := f }) c g ((rs.filter (fun x => x.2.2 == 2)).map (fun x => ⟨x.1, cLOCK, 0, 0, f⟩))
    else retire s c g (lockResults { k with spin := n, spinId := f } w rs))

/-- Exec TAKE. -/
def execTake (c g : Nat) (w : W64) (s : State) : Host.Outcome State Fault Refusal := run (opc w == 0xD4) s (take c g w)

/-- GIVE (R163, R165). -/
def give (c g : Nat) (w : W64) : State → State :=
  lockIssue c g w (fun s ls =>
    let k := group s c g
    let (s, rs) := lockRun (fun s r i => giveLock s r i c g) ls s
    let k := if rs.any (fun x => x.2.2 == 0) then { k with spin := 0 } else k
    retire s c g (lockResults k w rs))

/-- Exec GIVE. -/
def execGive (c g : Nat) (w : W64) (s : State) : Host.Outcome State Fault Refusal := run (opc w == 0xD5) s (give c g w)

end Sys2Proof.Machine
end

