-- ==== Sys2Proof/Machine/Host.lean ====
section
/-! DEFINITION. What every access of host software has in common: bus errors, the order behind BAR2 writes, units that are not
powered, and the error of a window access (R435, R481, R482, R486, R487, R499, R500). -/
namespace Sys2Proof.Machine

/-! ## Error logs of the CHIP page (R487, R500) -/

/-- Bus error causes (R484, R486). -/
abbrev beLOCATION : Nat := 0
abbrev bePAGE : Nat := 1
abbrev beWORLD : Nat := 2
abbrev beSIZE : Nat := 3
abbrev beREFUSED : Nat := 4

/-- A bus error: captured if it is the first since VALID was cleared, counted, and raised. -/
def busError (s : State) (off : Nat) (write secure : Bool) (cause : Nat) : State :=
  let s := if flag s .chip 0 f_CHIP_BUS_ERR_INFO_VALID then s
    else
      let s := setF s .chip 0 f_CHIP_BUS_ERR_ADDR_OFFSET off
      let n := fld s .chip 0 f_CHIP_BUS_ERR_INFO_COUNT
      setReg s .chip 0 o_CHIP_BUS_ERR_INFO (BitVec.ofNat 32 (2 ^ 31 + b2n write <<< 30 + b2n secure <<< 29 + cause <<< 24 + n))
  raiseIrq (bumpField s .chip 0 f_CHIP_BUS_ERR_INFO_COUNT 1) .chip 0 0

/-- A BAR2 access that did not end OK (R481). -/
def winError (s : State) (addr : Nat) (write : Bool) (cause : Nat) : State :=
  let s := if flag s .chip 0 f_CHIP_WIN_ERR_INFO_VALID then s
    else
      let s := setReg s .chip 0 o_CHIP_WIN_ERR_ADDR_LO (BitVec.ofNat 32 addr)
      let s := setReg s .chip 0 o_CHIP_WIN_ERR_ADDR_HI (BitVec.ofNat 32 (addr / 2 ^ 32 % 65536))
      let n := fld s .chip 0 f_CHIP_WIN_ERR_INFO_COUNT
      setReg s .chip 0 o_CHIP_WIN_ERR_INFO (BitVec.ofNat 32 (2 ^ 31 + b2n write <<< 30 + cause <<< 24 + n))
  raiseIrq (bumpField s .chip 0 f_CHIP_WIN_ERR_INFO_COUNT 1) .chip 0 1

/-! ## Order and power -/

/-- Whether every earlier BAR2 write has been accepted, acknowledged or timed out (R482): the writes to HBM are performed
at once, those to a fabric window are outstanding until their response. -/
def barReady (s : State) : Bool :=
  !(s.fab.wait.any (fun r => r.src == .bar2 && r.pkt.type == 2) || s.fab.outst.any (fun x => x.2.src == .bar2 && x.2.pkt.type == 2))

/-- Whether a request of the host is secure: it comes on the bound IDE stream (R478, R523). -/
def hostSecure (s : State) (secure : Bool) : Bool := secure && flag s .sec 0 f_SEC_IDE_BOUND

/-- BAR0 offset of a location. -/
def bar0Of (k : PageKind) (i off : Nat) : Nat := pageNo k i * 4096 + off

/-- A request to a secure-only page that is not secure: a bus error and an entry of the secure log (R486, R524). A BAR0
request carries no label. -/
def worldError (s : State) (off : Nat) (write : Bool) : State :=
  busError (secLogAdd s 5 2 write 0 0 0 off) off write false beWORLD

/-- A write by host software to a command register of a page: lost while the link is down (R499), held while the
spine's clock is stopped (R30, R607), behind earlier BAR2 writes
(R482), a bus error in a page the part does not have or that is secure only (R486), and without effect in a unit that is not
powered (R435). -/
def hostCmd (s : State) (secure : Bool) (k : PageKind) (i off : Nat) (f : State → State) : State :=
  let secure := hostSecure s secure
  if !s.link.up || s.pkg.noClock || !barReady s then s
  else if !present s k i then busError s (bar0Of k i off) true secure bePAGE
  else if kindSecure k && !secure then worldError s (bar0Of k i off) true
  else if !unitOn s k i then s
  else f s

end Sys2Proof.Machine
end

