-- ==== Sys2Proof/Machine/Copy.lean ====
section
/-! DEFINITION. Copies between device and local memory (R147), the answers that matrix drains and copies receive (R107, R343),
and host software's commands to a cell: REPLAY, KILL, the read-only caches and the matrix counters (R122, R123, R154, R172). -/
namespace Sys2Proof.Machine

/-! ## Issue (R145, R147) -/

/-- CPD and CPL. Where both addresses are misaligned, the record carries the device address (DESIGN CHOICE, log entry 166). -/
def copyIssue (c g : Nat) (w : W64) (cpd : Bool) (s : State) : State :=
  issue s c g w (fun s =>
    let k := group s c g
    if ibits w 26 0 ≠ 0 then some (illegal s c g 2)
    else groupWide s c g w (fun s =>
      let t := ibits w 51 48
      let dev := (getU k (ibits w 47 43)).toNat % 2 ^ 48
      let loc := (getU k (ibits w 42 38)).toNat
      let n := ibits w 37 27 + 1
      if (token k t).st ≠ 0 || loc + 256 * n > lmSize then some (illegal s c g 7)
      else if dev % 256 ≠ 0 then some (park s c g { cause := cALIGN, detail := 3, aspace := aspaceOf s dev, addr := dev, lanes := k.active })
      else if loc % 256 ≠ 0 then some (park s c g { cause := cALIGN, detail := 3, aspace := 1, addr := loc, lanes := k.active })
      else if (cell s c).copies.length ≥ 16 then none
      else
        let s := setToken s c g t { st := 1 }
        let x := cell s c
        let q : Copy := { grp := g, token := t, label := k.label, lead := k.lead, cpd := cpd, dev := dev, loc := loc, lines := n }
        some (nextPc (setCell s c { x with copies := x.copies ++ [q] }) c g)))

/-- Exec CPD. -/
def execCpd (c g : Nat) (w : W64) (s : State) : Host.Outcome State Fault Refusal := run (opc w == 0xCA) s (copyIssue c g w true)
/-- Exec CPL. -/
def execCpl (c g : Nat) (w : W64) (s : State) : Host.Outcome State Fault Refusal := run (opc w == 0xCB) s (copyIssue c g w false)

/-! ## Lines -/

/-- A copy meets a fault: the code that comes first in the order of R107 stays, with its first address. -/
def copyFault (q : Copy) (code addr aspace : Nat) : Copy :=
  if q.fault < code then { q with fault := code, faddr := addr, faspace := aspace } else q

/-- Replace copy `i` of a cell. -/
def putCopy (s : State) (c i : Nat) (q : Copy) : State :=
  setCell s c { cell s c with copies := setAt (cell s c).copies i q }

/-- A line of a CPD lands in local memory: a bad one with every word poisoned (R147). -/
def landCopy (s : State) (c i n : Nat) (q : Copy) (d : Line) (bad : Bool) (code aspace : Nat) : State :=
  let a := (q.dev + 256 * n) % 2 ^ 48
  let s := lmPutLine s c (q.loc + 256 * n) d (if bad then allWords else 0) 32
  putCopy s c i (if bad then copyFault q code a aspace else q)

/-- The next line of a CPD. -/
def copyIn (s : State) (c i : Nat) (q : Copy) : State :=
  let a := (q.dev + 256 * q.next) % 2 ^ 48
  let l := lineOf a
  let lbl := cellLabel s q.label
  let nx := { q with next := q.next + 1 }
  match cellEntry s c lbl a true false with
  | (s, .refused _) => putCopy s c i (copyFault nx flACCESS a 2)
  | (s', .hbm) =>
    (match cellLine (watchUnit s' c 4 a 256 lbl) c (.copy c) lbl (winsOf s' q.lead) l with
    | none => s
    | some (s, r) => landCopy s c i q.next { nx with num := if r.ovf then nx.num ||| stOVF else nx.num } r.data (!r.ok || r.dead || r.pois ≠ 0) flPOISON 2)
  | (s', .window w) =>
    let s := watchUnit s' c 4 a 256 lbl
    match remoteLine s c w (.copy c) lbl l with
    | some (s, d, p, ok) => landCopy s c i q.next nx d (!ok || p ≠ 0) flPOISON 3
    | none =>
      let (s, id) := niFab s c (.copy c) none lbl w a rdLine
      putCopy s c i { nx with outs := nx.outs ++ [(id, q.next)] }

/-- The next line of a CPL: a whole-line write with its PLAIN check value, poisoned words as they are (R376, R383). -/
def copyOut (s : State) (c i : Nat) (q : Copy) : State :=
  let a := (q.dev + 256 * q.next) % 2 ^ 48
  let lbl := cellLabel s q.label
  let nx := { q with next := q.next + 1 }
  match cellEntry s c lbl a false true with
  | (s, .refused _) => putCopy s c i (copyFault nx flACCESS a 2)
  | (s, e) =>
    let s := watchUnit s c 2 a 256 lbl
    let (s, d, p) := lmLine s c (q.loc + 256 * q.next) 32
    let d : Line := BitVec.ofNat 2048 d
    let p : BitVec 32 := BitVec.ofNat 32 p
    let (s, id) := match e with
      | .window w => niFab s c (.copy c) (some (nidOf c q.grp)) lbl w a { type := 3, vc := 0, ord := true, zl := false, len := 256, payload := lineBytes d, pmask := p }
      | _ => niSend s c (.copy c) lbl (winsOf s q.lead) (lineOf a) (.write d (BitVec.allOnes 256) p true (checkValue .plain (lineOf a) d) none)
    putCopy s c i { nx with outs := nx.outs ++ [(id, q.next)] }

/-- COPY_LINE_DONE: the copy that runs moves its next line. -/
def copyLine (c : Nat) (s : State) : State :=
  let qs := (cell s c).copies
  match qs.findIdx? (fun q => q.next < q.lines && !q.killed && !(cell s c).resetting && !allHeld s (regionOfCell c)) with
  | none => s
  | some i =>
    match qs[i]? with
    | none => s
    | some q => if q.cpd then copyIn s c i q else copyOut s c i q

/-- Exec COPY_LINE_DONE. -/
def execCopyLineDone (c : Nat) (s : State) : Host.Outcome State Fault Refusal := run (present s .cell c && !frozen s .block (blockOfCell s c)) s (copyLine c)

/-- COPY_COMPLETE. -/
def copyComplete (c : Nat) (s : State) : State :=
  let k := cell s c
  let fin := fun (q : Copy) => q.lines ≤ q.next && q.outs.isEmpty && !q.killed
  match k.copies.find? fin with
  | none => s
  | some q =>
    let s := setCell s c { k with copies := k.copies.eraseP fin }
    tokenDone s c q.grp q.token q.lead
      { st := 2, status := statusWord q.fault false q.num, addr := q.faddr, aspace := q.faspace, src := 7 }

/-- Exec COPY_COMPLETE. -/
def execCopyComplete (c : Nat) (s : State) : Host.Outcome State Fault Refusal := run (present s .cell c && !frozen s .block (blockOfCell s c)) s (copyComplete c)

/-! ## Answers to the array and the copy engine (R343) -/

/-- The fault of R107 that an answer stands for, and whether it is a refusal by a confluence unit. -/
def unitFault : Reply → Nat × Bool
  | .fabStatus st => if st = 0x10 || st = 0x11 || st = 0x12 then (flACCESS, false) else (0, 0x20 ≤ st)
  | .timeout => (flTIMEOUT, false)
  | .refused _ => (0, true)
  | _ => (0, false)

/-- An answer to a store or contribution of the array. -/
def arrayReply (s : State) (c id : Nat) (r : Reply) : State :=
  match (cell s c).ops.find? (fun o => o.outs.any (fun x => x.1 == id)) with
  | none => s
  | some o =>
    let a := ((o.outs.find? (fun x => x.1 == id)).getD (0, 0)).2
    let (f, rf) := unitFault r
    let o := { o with outs := o.outs.filter (fun x => x.1 != id), refused := o.refused || rf }
    putOp s c (opFault o f a 3)

/-- A copy without anything left to do after a kill leaves the queue. -/
def dropCopies (k : Cell) : Cell := { k with copies := k.copies.filter (fun q => !(q.killed && q.outs.isEmpty)) }

/-- An answer to a line of a copy: the line of a CPD from a fabric window lands (R147, R378). -/
def copyReply (s : State) (c id : Nat) (r : Reply) : State :=
  match (cell s c).copies.findIdx? (fun q => q.outs.any (fun x => x.1 == id)) with
  | none => s
  | some i =>
    match (cell s c).copies[i]? with
    | none => s
    | some q =>
      let n := ((q.outs.find? (fun x => x.1 == id)).getD (0, 0)).2
      let a := (q.dev + 256 * n) % 2 ^ 48
      let q := { q with outs := q.outs.filter (fun x => x.1 != id) }
      let s := if !q.cpd then putCopy s c i (copyFault q (unitFault r).1 a 3)
        else match r with
        | .line d p ok _ =>
          let s := if ok then s else bump s .cell c o_CELL_FILL_CHECK_FAIL 1
          landCopy s c i n q d (!ok || p ≠ 0) flPOISON 3
        | r => landCopy s c i n q 0 true (max flPOISON (unitFault r).1) 3
      setCell s c (dropCopies (cell s c))

/-! ## KILL (R122, R172) -/

/-- The operations and banks of a cell after its group `g` is killed: a queued operation goes; a running one stops, its
full banks drain and the tile in progress is dropped. -/
def killOps (k : Cell) (g : Nat) : Cell :=
  let mine := fun (n : Nat) => k.ops.any (fun o => o.serial == n && o.grp == g && !o.stop)
  let banks := k.banks.filter (fun b => b.full || !mine b.serial)
  let ops := k.ops.map (fun o => if o.grp == g then { o with stop := true, beatsDone := true } else o)
  { k with banks := banks, ops := ops.filter (fun o => !o.stop || banks.any (fun b => b.serial == o.serial) || !o.outs.isEmpty) }

/-- The copies after a kill: queued ones go; one with a line in progress ends when that line has landed. -/
def killCopies (k : Cell) (g : Nat) : Cell :=
  dropCopies { k with copies := k.copies.map (fun q => if q.grp == g then { q with killed := true } else q) }

/-- A group stops and its slot is FREE (R172). Its waiting full/empty accesses are withdrawn. -/
def killGroup (s : State) (c g : Nat) : State :=
  if (group s c g).st = .free then s
  else
    let s := setRun s (group s c g).lead { (block s (group s c g).lead).run with killed := true }
    let s := setCell s c (killCopies (killOps (cell s c) g) g)
    let s := releaseLocks s c g true
    let s := { s with reqs := s.reqs.filter (fun q => !(q.src == .group c g && (q.op matches .fe _ _ _ _ _))) }
    freeGroup s c g

/-! ## Commands of host software (R123, R154, R172, R173) -/

/-- CMD_STATUS after a command; a refusal is raised (R172). -/
def cmdStatus (s : State) (c g cmd res : Nat) : State :=
  let s := setReg s .cell c o_CELL_CMD_STATUS (BitVec.ofNat 32 (g <<< 12 + cmd <<< 8 + res))
  if res = 1 then s else raiseIrq s .cell c 2

/-- REPLAY (R168, R172). -/
def replay (c g : Nat) (inv : Bool) (s : State) : State :=
  let k := group s c g
  if k.st = .free then cmdStatus s c g 1 3
  else if k.st ≠ .parked then cmdStatus s c g 1 2
  else
    let s := if inv then invRo s c true true true else s
    let k' := { k with st := .run, park := {} }
    let k' := if k.park.cause = cWATCH then { k' with skipWatch := k.park.detail :: k.skipWatch } else k'
    let k' := if k.park.cause = cLOCK then { k' with spin := 0 } else k'
    let s := setGroup s c g k'
    cmdStatus (if k.park.done then nextPc s c g else s) c g 1 1

/-- KILL (R172). -/
def kill (c g : Nat) (s : State) : State :=
  if (group s c g).st = .free then cmdStatus s c g 2 3 else cmdStatus (killGroup s c g) c g 2 1

/-- A command register of a cell's page. -/
def cellCmd (secure : Bool) (c off : Nat) (f : State → State) (s : State) : State := hostCmd s secure .cell c off f

/-- Exec REPLAY. -/
def execReplay (secure : Bool) (c g : Nat) (inv : Bool) (s : State) : Host.Outcome State Fault Refusal :=
  run (c < 1440 && g < 16) s (cellCmd secure c o_CELL_GROUP_CMD (replay c g inv))
/-- Exec KILL. -/
def execKill (secure : Bool) (c g : Nat) (s : State) : Host.Outcome State Fault Refusal :=
  run (c < 1440 && g < 16) s (cellCmd secure c o_CELL_GROUP_CMD (kill c g))
/-- Exec RO_INV, I. -/
def execRoInvI (secure : Bool) (c : Nat) (s : State) : Host.Outcome State Fault Refusal :=
  run (c < 1440) s (cellCmd secure c o_CELL_RO_INV (fun s => invRo s c true false false))
/-- Exec RO_INV, C. -/
def execRoInvC (secure : Bool) (c : Nat) (s : State) : Host.Outcome State Fault Refusal :=
  run (c < 1440) s (cellCmd secure c o_CELL_RO_INV (fun s => invRo s c false true false))
/-- Exec RO_INV, D. -/
def execRoInvD (secure : Bool) (c : Nat) (s : State) : Host.Outcome State Fault Refusal :=
  run (c < 1440) s (cellCmd secure c o_CELL_RO_INV (fun s => invRo s c false false true))

/-- The six counters of R123. -/
def mxCounters : List Nat :=
  [o_CELL_MX_STALL_FEED, o_CELL_MX_STALL_FILL, o_CELL_MX_STALL_DRAIN, o_CELL_MX_STALL_PAUSE, o_CELL_MX_BUSY, o_CELL_MX_OPS]

/-- Exec MX_CNT_CLR. -/
def execMxCntClr (secure : Bool) (c : Nat) (s : State) : Host.Outcome State Fault Refusal :=
  run (c < 1440) s (cellCmd secure c o_CELL_MX_CNT_CLR (fun s => mxCounters.foldl (fun s o => clearCtr s .cell c o) s))

end Sys2Proof.Machine
end

