-- ==== Sys2Proof/Machine/Sfu.lean ====
section
/-! DEFINITION. SFX and TLU (R185 to R187), and loads of special-function banks and step words (R188 to R192). -/
namespace Sys2Proof.Machine

/-! ## SFX and TLU -/

/-- Whether the drain has a row ready for ACT or SMX_EN, which it puts through the unit first (R187). -/
def sfuBusy (s : State) (c : Nat) : Bool :=
  match (cell s c).banks with
  | [] => false
  | b :: _ => b.full && (cell s c).ops.any (fun o => o.serial == b.serial && (dAct o.desc != 0 || dSmxEn o.desc))

/-- The common course of SFX and TLU: `bad` when the entry or table is empty in the bank that the instruction latches. -/
def sfuIssue (c g : Nat) (w : W64) (bad : State → Nat → Nat → Bool) (lane : State → Nat → Nat → Bool → Group → Group → Nat → Group)
    (s : State) : State :=
  issue s c g w (fun s =>
    let k := group s c g
    let b := blockOfCell s c
    if sfuBusy s c then none
    else if ibits w 29 0 ≠ 0 then some (illegal s c g 2)
    else if !(inAlloc k (fVD w) 1 && inAlloc k (fVA w) 1) then some (illegal s c g 3)
    else if guardLanes k w = 0 then some (nextPc s c g)
    else if bad s b (activeBank s b) then some (illegal s c g 8)
    else some (retire s c g (mapLanes k (lanesOf (guardLanes k w)) (lane s b (activeBank s b) (ssCompat s b) k))))

/-- SFX: t0 of the micro-program. -/
def sfx (c g : Nat) (w : W64) : State → State :=
  let e := ibits w 37 30
  sfuIssue c g w (fun s b bank => entryEmpty s b bank e)
    (fun s b bank compat old k l => setV k (fVD w) l (sfuRun s b bank compat e (getV old (fVA w) l)))

/-- Exec SFX. -/
def execSfx (c g : Nat) (w : W64) (s : State) : Host.Outcome State Fault Refusal := run (opc w == 0xB0) s (sfx c g w)

/-- A lane of TLU: the result and PD (R186). -/
def tluLane (s : State) (b bank n : Nat) (interp : Bool) (x : W32) : W32 × Bool :=
  match tableOf s b bank n with
  | none => (f32NaN, false)
  | some t =>
    if interp then (if t.order = 0 then (f32NaN, false) else (lookupTable s b bank t x, true))
    else if x.toNat < tableWords t then (dataWord s b bank (t.base + x.toNat), true) else (0, false)

/-- TLU. -/
def tlu (c g : Nat) (w : W64) : State → State :=
  let n := ibits w 37 34
  sfuIssue c g w (fun s b bank => (tableOf s b bank n).isNone)
    (fun s b bank _ old k l =>
      let (r, p) := tluLane s b bank n (bitN w.toNat 33) (getV old (fVA w) l)
      setPLane (setV k (fVD w) l r) (ibits w 32 30) l p)

/-- Exec TLU. -/
def execTlu (c g : Nat) (w : W64) (s : State) : Host.Outcome State Fault Refusal := run (opc w == 0xB1) s (tlu c g w)

/-! ## Latched invocations (R190, R192) -/

/-- The matrix operations of a block's cells that hold latched references: those with ACT or SMX_EN until their last row
is drained. -/
def latchedOps (s : State) (b : Nat) : List MxOp :=
  (cellsIn s b).flatMap (fun c => (cell s c).ops.filter (fun o => (dAct o.desc != 0 || dSmxEn o.desc) && stillDrains (cell s c) o))

/-- Latched invocations on a bank. -/
def usersOf (s : State) (b bank : Nat) : Nat := ((latchedOps s b).filter (fun o => o.bank == bank)).length

/-- OLD_USERS (R192, R206). -/
def oldUsers (s : State) (b : Nat) : Nat :=
  match (block s b).prev with
  | some bank => min 255 (usersOf s b bank)
  | none => 0

/-! ## Loads (R188, R189) -/

/-- Whether a range of steps overlaps an entry's steps. -/
def stepsHit (lo n : Nat) (e : Option (Nat × Nat)) : Bool :=
  match e with
  | some (st, k) => st < lo + n && lo < st + k
  | none => false

/-- Whether a load of step words `lo` to `lo + n - 1` touches a step that the active bank's directory references or a
latched invocation runs (R188). -/
def stepsInUse (s : State) (b lo n : Nat) : Bool :=
  (List.range 256).any (fun e => stepsHit lo n (entrySteps s b (activeBank s b) e))
    || (latchedOps s b).any (fun o => dAct o.desc != 0 && stepsHit lo n (entrySteps s b o.bank (dAct o.desc)))

/-- Whether R188 refuses a load. -/
def loadRefused (s : State) (b target lines off : Nat) : Bool :=
  (block s b).load.isSome || target == 3
    || (target ≤ 1 && (target == activeBank s b || off + lines + 1 > 128))
    || (target == 2 && (off + lines + 1 > 32 || stepsInUse s b (64 * off) (64 * (lines + 1))))

/-- The source address of the next load. -/
def sfSource (s : State) (b : Nat) : Nat :=
  fld s .block b f_BLOCK_SF_LOAD_SRC_HI_ADDR_HI * 2 ^ 32 + fld s .block b f_BLOCK_SF_LOAD_SRC_LO_ADDR_LO * 256

/-- SF_LOAD_GO: a write of SF_LOAD_CTRL with GO = 1. -/
def sfGo (secure : Bool) (b target lines off : Nat) (s : State) : State :=
  if loadRefused s b target lines off then
    busError s (bar0Of .block b o_BLOCK_SF_LOAD_CTRL) true (hostSecure s secure) beREFUSED
  else
    let s := setF s .block b f_BLOCK_SF_LOAD_CTRL_TARGET target
    let s := setF s .block b f_BLOCK_SF_LOAD_CTRL_LINES lines
    let s := setF s .block b f_BLOCK_SF_LOAD_CTRL_OFFSET off
    let hold := (block s b).prev == some target && usersOf s b target != 0
    setBlock s b { block s b with load := some { target := target, src := sfSource s b, offset := off, lines := lines + 1, hold := hold } }

/-- Exec SF_LOAD_GO. -/
def execSfLoadGo (secure : Bool) (b target lines off : Nat) (s : State) : Host.Outcome State Fault Refusal :=
  run (b < 192 && !frozen s .block b && target < 4 && lines < 256 && off < 256) s
    (hostCmd · secure .block b o_BLOCK_SF_LOAD_CTRL (sfGo secure b target lines off))

/-- SF_LOAD_RESUME (R192). -/
def sfResume (b : Nat) (s : State) : State :=
  match (block s b).load with
  | some l => if l.hold && usersOf s b l.target = 0 then setBlock s b { block s b with load := some { l with hold := false } } else s
  | none => s

/-- Exec SF_LOAD_RESUME. -/
def execSfLoadResume (b : Nat) (s : State) : Host.Outcome State Fault Refusal := run (present s .block b && !frozen s .block b) s (sfResume b)

/-- The valid bit of a bank. -/
def setValid (k : Block) (bank : Nat) (v : Bool) : Block :=
  if bank = 0 then { k with invalid0 := !v } else if bank = 1 then { k with invalid1 := !v } else k

/-- A failing line stops the load. -/
def sfStop (s : State) (b : Nat) (l : SfLoad) : State :=
  let s := setBlock s b { setValid (block s b) l.target (l.target == 2) with load := none }
  raiseIrq (setF s .block b f_BLOCK_SF_STATUS_LOAD_ERR 1) .block b 9

/-- The words of a line in their target, `n` of them. -/
def sfWords (k : Block) (l : SfLoad) (d : Line) : Nat → Block
  | 0 => k
  | n + 1 =>
    let k := sfWords k l d n
    let x : W32 := BitVec.ofNat 32 (bitsN d.toNat (32 * n + 31) (32 * n))
    let i := 64 * (l.offset + l.next) + n
    if l.target = 2 then { k with steps := mset 0 k.steps i x } else { k with banks := mset 0 k.banks (l.target * 8192 + i) x }

/-- A line lands, or fails. -/
def sfLand (s : State) (b : Nat) (l : SfLoad) (d : Line) (bad : Bool) : State :=
  if bad then sfStop s b l
  else
    let k := sfWords (block s b) l d 64
    if l.next + 1 < l.lines then setBlock s b { k with load := some { l with next := l.next + 1, out := none } }
    else raiseIrq (setBlock s b { setValid k l.target true with load := none }) .block b 8

/-- The check of a line at its entry (R304, R340, R520): a loader's requests are not secure and carry label 0x70. -/
def masterEntry (s : State) (label : Byte) (secure : Bool) (a : Nat) (rd wr : Bool) : State × Entry :=
  match mrdCheck s a secure rd wr (some (labelPart label)) with
  | some (t, n) => (secLogAdd s t 3 wr 0 label n a, .refused (if t = 1 then 1 else 2))
  | none =>
    if a < 2 ^ 48 && backed (lineOf a) then (s, .hbm)
    else match fwinOf s a with
    | none => (s, .refused 2)
    | some n =>
      let w := fwin s n
      if fwPart w != labelPart label then (s, .refused 2)
      else if fwSecure w && !secure then (secLogAdd s 6 3 wr 0 label 0 a, .refused 2)
      else if wr && fwRo w then (s, .refused 2)
      else (s, .window n)

/-- SF_LOAD_LINE: the next source line is read and verified, or asked for over the fabric. -/
def sfLine (b : Nat) (s : State) : State :=
  match (block s b).load with
  | none => s
  | some l =>
    if l.hold || l.out.isSome then s
    else
      let a := (l.src + 256 * l.next) % 2 ^ 48
      match masterEntry s 0x70 false a true false with
      | (s, .refused _) => sfStop s b l
      | (s', .hbm) =>
        let (s1, id) := newId s'
        (match readLineNow s1 { id := id, src := .block b, line := lineOf a, op := .read allWords, label := 0x70, part := 0, ingress := false, wins := 0 } with
        | none => s
        | some (s, r) => sfLand s b l r.data (!r.ok || r.dead || r.pois ≠ 0))
      | (s, .window w) =>
        let (s, id) := newId s
        let pk := fabPacket s w a 0x70 false rdLine
        let s := setBlock s b { block s b with load := some { l with out := some id } }
        fabIssue s { id := id, src := .block b, line := lineOf a, pkt := pk, win := w }

/-- Exec SF_LOAD_LINE. -/
def execSfLoadLine (b : Nat) (s : State) : Host.Outcome State Fault Refusal := run (present s .block b && !frozen s .block b) s (sfLine b)

/-- The answer to a loader's read over the fabric. -/
def sfReply (s : State) (b id : Nat) (r : Reply) : State :=
  match (block s b).load with
  | none => s
  | some l =>
    if l.out ≠ some id then s
    else match r with
    | .line d p ok _ => sfLand s b l d (!ok || p ≠ 0)
    | _ => sfStop s b l

end Sys2Proof.Machine
end

