-- ==== Sys2Proof/Machine/Cache.lean ====
section
/-! DEFINITION. The slices' events and commands: requests performed at their serving slice, fills, writebacks, holds, maintenance,
buckets, bond groups and the patrol of the cache die (R267 to R298, R386 to R396). -/
namespace Sys2Proof.Machine

/-! ## Requests at their serving slice (R287, R372, R393, R395) -/

/-- Whether a request waits at its slice's input for a miss register, or for room in its line's register (R274). -/
def missBlocked (s : State) (q : Req) : Bool :=
  let sp := placeOf s q.line
  (feLine s q.line).isNone && fetches s q && (slice s sp.slice).miss.length ≥ 256
    || (match missOf s sp.slice q.line with | some m => m.waiters.length ≥ 32 | none => false)

/-- The request of a number, if its slice has granted it, its NI is not frozen (R495), no earlier request of its NI to its line is on its way (R287), and no
earlier request of its source waits at the same slice for a miss register (R274). -/
def nextReq (s : State) (id : Nat) : Option Req :=
  match s.reqs.find? (fun q => q.id == id) with
  | none => none
  | some q =>
    let before := s.reqs.takeWhile (fun x => x.id != id)
    let stuck := before.any (fun x => sameNi x.src q.src && (placeOf s x.line).slice == (placeOf s q.line).slice && missBlocked s x)
    if q.granted && !laterOf q before && !stuck && !niFrozen s q.src then some q else none

/-- A request whose words in the mask arrive poisoned (R372, R382). -/
def poisonOp (op : ReqOp) (m : BitVec 32) : ReqOp :=
  match op with
  | .write d k p whole c w => .write d k (p ||| (m &&& wordsTouched k)) whole c w
  | .atd cas ops p => .atd cas ops (p ||| m)
  | .addW a vals => .addW a (vals.map (fun v => { v with pois := v.pois || bitN m.toNat (2 * v.idx) || bitN m.toNat (2 * v.idx + 1) }))
  | .addF vals => .addF (vals.map (fun v => (v.1, v.2.1, v.2.2 || bitN m.toNat (v.1 / 2))))
  | .maxMin k vals => .maxMin k (vals.map (fun v => (v.1, v.2.1, v.2.2 || bitN m.toNat (v.1 / 2))))
  | .fe st mode word v p => .fe st mode word v (p || bitN m.toNat word)
  | .read w => .read w
  | .dead => .dead

/-- Whether a request carries data to the slice. -/
def carriesData (op : ReqOp) : Bool :=
  match op with
  | .read _ => false
  | .dead => false
  | .fe st _ _ _ _ => st
  | _ => true

/-- Poison every word of a line: where the cache die holds it, or by its mark. -/
def poisonLine (s : State) (l : Nat) : State :=
  match servedKey s l with
  | some (sl, key) => poisonWay s sl key
  | none => markLost s l

/-- Perform a request; the upset happens to the transfer that carries data: its way in for a write, its way out for a read. A write
in flight on the group whose retirement retires the slice poisons every word of its line (R395). -/
def performReq (up : Upset) (q : Req) (s : State) : State :=
  let sl := (placeOf s q.line).slice
  let u := if carriesData q.op && !q.atWord then up else .none
  let q' := { q with op := poisonOp q.op (transfer s sl true u q.label q.line).2.1 }
  match slicePerform { s with reqs := s.reqs.filter (fun x => x.id != q.id) } q' with
  | none => s
  | some (s, r) =>
    let (s, _, lost) := transfer s sl true u q.label q.line
    let s := if lost then poisonLine s q.line else s
    match r with
    | none => s
    | some r =>
      if carriesData q.op then respond s q r
      else
        let (s, r) := linkReply s sl up q r
        respond s q r

/-- Perform the request of a number, of the kind that `p` names. -/
def sliceCmd (p : ReqOp → Bool) (id : Nat) (up : Upset) (s : State) : State :=
  match nextReq s id with
  | some q => if p q.op then performReq up q s else s
  | none => s

/-- An upset flips one or two bits of a word of a line. -/
def upsetOk (u : Upset) : Bool :=
  let ok := fun (w : Nat) (d : W64) (c : Byte) => decide (w < 32) &&
    decide ((List.range 64).countP (fun i => bitN d.toNat i) + (List.range 8).countP (fun i => bitN c.toNat i) ≤ 2)
  match u with
  | .none => true
  | .link w d c => ok w d c
  | .mesh w d c => ok w d c

/-- Exec SLICE_READ. -/
def execSliceRead (id : Nat) (up : Upset) (s : State) : Host.Outcome State Fault Refusal :=
  run (upsetOk up) s (sliceCmd (fun o => match o with | .read _ => true | .fe st _ _ _ _ => !st | _ => false) id up)
/-- Exec SLICE_WRITE. -/
def execSliceWrite (id : Nat) (up : Upset) (s : State) : Host.Outcome State Fault Refusal :=
  run (upsetOk up) s (sliceCmd (fun o => match o with | .write _ _ _ _ _ _ => true | .fe st _ _ _ _ => st | _ => false) id up)
/-- Exec SLICE_ATD. -/
def execSliceAtd (id : Nat) (up : Upset) (s : State) : Host.Outcome State Fault Refusal :=
  run (upsetOk up) s (sliceCmd (fun o => match o with | .atd _ _ _ => true | _ => false) id up)
/-- Exec ADD_W_CONTRIBUTION. -/
def execAddWContribution (id : Nat) (up : Upset) (s : State) : Host.Outcome State Fault Refusal :=
  run (upsetOk up) s (sliceCmd (fun o => match o with | .addW _ _ => true | _ => false) id up)
/-- Exec ADD_F32_CONTRIBUTION. -/
def execAddF32Contribution (id : Nat) (up : Upset) (s : State) : Host.Outcome State Fault Refusal :=
  run (upsetOk up) s (sliceCmd (fun o => match o with | .addF _ => true | _ => false) id up)
/-- Exec MAX_MIN_CONTRIBUTION. -/
def execMaxMinContribution (id : Nat) (up : Upset) (s : State) : Host.Outcome State Fault Refusal :=
  run (upsetOk up) s (sliceCmd (fun o => match o with | .maxMin _ _ => true | _ => false) id up)
/-- Exec DEAD_HINT. -/
def execDeadHint (id : Nat) (s : State) : Host.Outcome State Fault Refusal :=
  run true s (sliceCmd (fun o => match o with | .dead => true | _ => false) id .none)

/-! ## Fills, writebacks, holds (R271, R273, R275, R284) -/

/-- Exec SLICE_FILL_LANDED: the channel that granted the fetch answers it. -/
def execSliceFillLanded (sl l : Nat) (s : State) : Host.Outcome State Fault Refusal :=
  run (sl < 128 && !sliceFrozen s sl) s (fun s => if hbmGranted s sl l false then fillLand (hbmRelease s sl l false) sl l else s)
/-- Exec SLICE_WRITEBACK_DONE. -/
def execSliceWritebackDone (sl l : Nat) (s : State) : Host.Outcome State Fault Refusal :=
  run (sl < 128 && !sliceFrozen s sl) s (fun s => if hbmGranted s sl l true then wbDone (hbmRelease s sl l true) sl l else s)
/-- Exec BYPASS_RETRY. -/
def execBypassRetry (sl l : Nat) (s : State) : Host.Outcome State Fault Refusal :=
  run (sl < 128 && !sliceFrozen s sl) s (fun s => bypassRetry s sl l)

/-- The ways of a slice that hold a line of this device. -/
def keyOfLine (s : State) (sl l : Nat) : Option Nat :=
  ((slice s sl).ways.find? (fun p => p.2.valid && !p.2.remote && p.2.tag == l)).map (·.1)

/-- HOLD_EXPIRE: a held line's time since its last contribution has reached the period of the code now active; code 0 gives no expiry
(R284). -/
def lineHoldExpire (sl l : Nat) (s : State) : State :=
  let h := fld s .slice sl f_SLICE_RED_CTRL_HOLD
  match keyOfLine s sl l with
  | some k =>
    let w := wayAt s sl k
    if h = 0 || !w.hold || s.time.toNat < w.heldAt + 2 ^ (h + 3) * 1000 then s else setWay s sl k { w with hold := false }
  | none => s

/-- Exec HOLD_EXPIRE. -/
def execHoldExpire (sl l : Nat) (s : State) : Host.Outcome State Fault Refusal := run (sl < 128 && !sliceFrozen s sl) s (lineHoldExpire sl l)

/-! ## Maintenance (R291, R395) -/

/-- Write back one line and keep it, clean; a held line is written raw and stays held. A dead tag stays as it is. -/
def cleanWay (sl : Nat) (s : State) (key : Nat) : State :=
  let w := wayAt s sl key
  if !w.valid || w.remote || w.dead || !(w.dirty || w.hold) then s
  else
    let (s, b) := decodeWay s sl key 0 w.lbl allWords true
    let s := bump (hbmWriteBody s w.tag { b with syn := [] }) .slice sl o_SLICE_WRITEBACKS 1
    setWay s sl key { wayAt s sl key with dirty := false }

/-- Write back and invalidate one line; a dead tag leaves its mark. -/
def flushWay (sl : Nat) (s : State) (key : Nat) : State :=
  let w := wayAt s sl key
  if w.valid then setWay (writeOut s sl key) sl key {} else s

/-- The keys of a slice's valid ways. -/
def wayKeys (s : State) (sl : Nat) : List Nat := (slice s sl).ways.map (·.1)

/-- Write back every dirty line of a slice. -/
def cleanSlice (s : State) (sl : Nat) : State := (wayKeys s sl).foldl (cleanWay sl) s

/-- Write back and invalidate every line of a slice. -/
def flushSlice (s : State) (sl : Nat) : State := (wayKeys s sl).foldl (flushWay sl) s

/-- A maintenance command: 1 WB, 2 WBI, 3 INV_REMOTE; other codes are BAD_CMD. -/
def maintCmd (sl cmd : Nat) (s : State) : State :=
  if flag s .slice sl f_SLICE_MAINT_STATUS_BUSY then setF s .slice sl f_SLICE_MAINT_STATUS_RESULT 2
  else if cmd = 0 || 3 < cmd then setF s .slice sl f_SLICE_MAINT_STATUS_RESULT 3
  else
    let s := setSlice s sl { slice s sl with maint := cmd }
    let s := setF (setF s .slice sl f_SLICE_MAINT_STATUS_RESULT 0) .slice sl f_SLICE_MAINT_STATUS_BUSY 1
    if cmd = 1 then cleanSlice s sl else if cmd = 2 then flushSlice s sl else invRemote s sl

/-- A write of MAINT_CMD by host software. -/
def hostMaint (secure : Bool) (sl cmd : Nat) (s : State) : State := hostCmd s secure .slice sl o_SLICE_MAINT_CMD (maintCmd sl cmd)

/-- Exec MAINT_WB. -/
def execMaintWb (secure : Bool) (sl : Nat) (s : State) : Host.Outcome State Fault Refusal := run (sl < 128 && !sliceFrozen s sl) s (hostMaint secure sl 1)
/-- Exec MAINT_WBI. -/
def execMaintWbi (secure : Bool) (sl : Nat) (s : State) : Host.Outcome State Fault Refusal := run (sl < 128 && !sliceFrozen s sl) s (hostMaint secure sl 2)
/-- Exec MAINT_INV_REMOTE. -/
def execMaintInvRemote (secure : Bool) (sl : Nat) (s : State) : Host.Outcome State Fault Refusal := run (sl < 128 && !sliceFrozen s sl) s (hostMaint secure sl 3)

/-- MAINT_DONE. -/
def maintDone (sl : Nat) (s : State) : State :=
  if !flag s .slice sl f_SLICE_MAINT_STATUS_BUSY then s
  else
    let s := setSlice s sl { slice s sl with maint := 0 }
    raiseIrq (setF (setF s .slice sl f_SLICE_MAINT_STATUS_BUSY 0) .slice sl f_SLICE_MAINT_STATUS_RESULT 1) .slice sl 3

/-- Exec MAINT_DONE. -/
def execMaintDone (sl : Nat) (s : State) : Host.Outcome State Fault Refusal := run (sl < 128 && !sliceFrozen s sl) s (maintDone sl)

/-- Whether a fetch of a line that `p` names is in flight at some slice that `at` names. -/
def fetchBusy (s : State) (at' : Nat → Bool) (p : Nat → Bool) : Bool :=
  s.slices.any (fun x => at' x.1 && x.2.miss.any (fun m => p m.line && m.held.isNone))

/-- Reductions that wait for a way leave their miss registers when their lines change their slice: the fetched line goes back to
HBM, and its waiters are requests again (R266, R271, R395). -/
def freeHeld (at' : Nat → Bool) (p : Nat → Bool) (s : State) : State :=
  s.slices.foldl (fun s x => if !at' x.1 then s else (x.2.miss.filter (fun m => p m.line)).foldl (fun s m =>
    match m.held with
    | none => s
    | some (b, dead) =>
      let s := putMiss s x.1 m.line none
      let s := if dead then hbmMarkDead s m.line else hbmWriteBody s m.line { b with syn := [] }
      { s with reqs := m.waiters.foldl (fun r q => insertReq { q with granted := false } r) s.reqs }) s) s

/-- SLICE_RETIRE_DONE: the fetches in flight have landed, the lines of a retired slice are written back, and the slice is
RETIRED: nothing is installed in it afterwards (R395, R396). -/
def retireDone (sl : Nat) (s : State) : State :=
  if !(slice s sl).retiring || fetchBusy s (· == sl) (fun _ => true) then s
  else
    let s := flushSlice (freeHeld (· == sl) (fun _ => true) s) sl
    let s := setSlice s sl { slice s sl with retiring := false }
    raiseIrq (setF s .slice sl f_SLICE_BOND_STATUS_RETIRED 1) .slice sl 10

/-- Exec SLICE_RETIRE_DONE. -/
def execSliceRetireDone (sl : Nat) (s : State) : Host.Outcome State Fault Refusal := run (sl < 128 && !sliceFrozen s sl) s (retireDone sl)

/-- The window of a slice's wire counts, in ns (R393). -/
def bondWindow (s : State) (sl : Nat) : Nat := 2 ^ (fld s .slice sl f_SLICE_BOND_CFG_WINDOW + 10) * 1000

/-- Exec BOND_WINDOW_END: the wire counts clear at the end of each window (R393). -/
def execBondWindowEnd (sl : Nat) (s : State) : Host.Outcome State Fault Refusal :=
  run (sl < 128 && !sliceFrozen s sl) s (atEvery (.bond sl) (bondWindow s sl) (fun s => setSlice s sl { slice s sl with wires := [] }))

/-! ## Logs and buckets (R296, R386, R401, R402) -/

/-- Empty a slice's event log. -/
def clearSliceLog (sl : Nat) (s : State) : State :=
  setReg (setSlice s sl { slice s sl with log := [] }) .slice sl o_SLICE_LOG_STATUS 0

/-- Exec SLICE_LOG_CLR. -/
def execSliceLogClr (secure : Bool) (sl : Nat) (s : State) : Host.Outcome State Fault Refusal :=
  run (sl < 128) s (fun s => hostCmd s secure .slice sl o_SLICE_LOG_CLR (clearSliceLog sl))

/-- Empty the error log of a slice, or of an HBM controller. -/
def clearErrLog (hbm : Bool) (i : Nat) (s : State) : State :=
  if hbm then setReg (setHbmc s i { hbmc s i with elog := [] }) .hbm i o_HBM_ERR_LOG_STATUS 0
  else setReg (setSlice s i { slice s i with elog := [] }) .slice i o_SLICE_ERR_LOG_STATUS 0

/-- Exec ERR_LOG_CLR. -/
def execErrLogClr (secure hbm : Bool) (i : Nat) (s : State) : Host.Outcome State Fault Refusal :=
  run (if hbm then i < 8 else i < 128) s (fun s =>
    hostCmd s secure (if hbm then .hbm else .slice) i (if hbm then o_HBM_ERR_LOG_CLR else o_SLICE_ERR_LOG_CLR) (clearErrLog hbm i))

/-- One unit leaks from a bucket (R386): ABOVE clears once the level lies below THRESH − HYST. -/
def leak (s : State) (k : PageKind) (i off cfg : Nat) : State :=
  let lv := fld s k i ⟨off, 15, 0⟩ - 1
  let s := setF s k i ⟨off, 15, 0⟩ lv
  if lv < fld s k i ⟨cfg, 31, 16⟩ - fld s k i ⟨cfg, 15, 8⟩ then setF s k i ⟨off, 31, 31⟩ 0 else s

/-- The leak period in ns of a BUCKET_CFG (R386). -/
def leakPeriod (s : State) (k : PageKind) (i cfg : Nat) : Nat := 2 ^ (fld s k i ⟨cfg, 3, 0⟩ + 10) * 1000

/-- BUCKET_LEAK: the leak period has passed since the last leak. -/
def bucketLeak (hbm : Bool) (i c : Nat) (s : State) : State :=
  if hbm then
    let t := mget 0 (hbmc s i).leakAt c + leakPeriod s .hbm i o_HBM_BUCKET_CFG
    if s.time.toNat < t then s
    else leak (setHbmc s i { hbmc s i with leakAt := mset 0 (hbmc s i).leakAt c t }) .hbm i (o_HBM_BUCKET c) o_HBM_BUCKET_CFG
  else
    let t := (slice s i).leakAt + leakPeriod s .slice i o_SLICE_BUCKET_CFG
    if s.time.toNat < t then s else leak (setSlice s i { slice s i with leakAt := t }) .slice i o_SLICE_BUCKET o_SLICE_BUCKET_CFG

/-- Exec BUCKET_LEAK: of a slice, or of channel `c` of an HBM controller. -/
def execBucketLeak (hbm : Bool) (i c : Nat) (s : State) : Host.Outcome State Fault Refusal :=
  run (if hbm then i < 8 && c < 16 && !frozen s .hbm i else i < 128 && c = 0 && !sliceFrozen s i) s (bucketLeak hbm i c)

/-! ## Scour (R387 to R389) -/

/-- Positions of a pass: the ways of a slice in ascending set and way, the lines of a channel with its check table. -/
abbrev slicePass : Nat := 8192 * 24
abbrev chanPass : Nat := 0x1800000

/-- Patrol one way of a slice (R388). -/
def scourWay (sl key : Nat) (s : State) : State :=
  let w := wayAt s sl key
  if !w.valid || w.dead then s
  else
    let (s, b) := decodeWay s sl key 2 0x20 allWords true
    if checkOk (homeLine s w.tag) b then s
    else sliceCheckFail (poisonWay s sl key) sl 3 2 0x20 (homeLine s w.tag)

/-- The line of channel `o` at index J (R254, R302). -/
def lineAt (o j : Nat) : Nat := 128 * j + (owner (128 * j) ^^^ o)

/-- Patrol one check-table word; a correctable one is rewritten (R305, R388). -/
def scourTableWord (o w : Nat) (s : State) : State :=
  let key := hbmKey o w
  let l := lineAt o ((w - 0x17A0000 * 32) * 2)
  match classify true (mget 0 s.hbm.syn key) with
  | .fix bit =>
    let s := hbmCE s o 2 (w % 32) (mget 0 s.hbm.syn key) 0x20 (w / 32)
    let s := match bit with
      | some j => if j < 32 then setEntryRaw s l (entryOf s l ^^^ BitVec.ofNat 32 (2 ^ j)) else
          setEntryRaw s (entryMate l) (entryOf s (entryMate l) ^^^ BitVec.ofNat 32 (2 ^ (j - 32)))
      | none => s
    let s := (hbmEncode s o w false).1
    s
  | .bad =>
    let s := hbmUE s o 2 (w % 32) (mget 0 s.hbm.syn key) 0x20 (w / 32)
    (hbmEncode s o w true).1
  | _ => s

/-- Patrol one line of a channel (R388). -/
def scourHbm (o j : Nat) (s : State) : State :=
  if 0x17A0000 ≤ j then (List.range 32).foldl (fun s i => scourTableWord o (j * 32 + i) s) s
  else
    let l := lineAt o j
    let raw := memLine s.hbm.mem l
    let deadTag := match servedKey s l with
      | some (sl, key) => (wayAt s sl key).dead
      | none => false
    if deadTag || entryOf s l = deadValue l then s
    else
      let (s, r) := hbmDecode s l 2 0x20 raw 32
      let (d, p, fixed) := (r.data, r.pois, r.fixed)
      let (s, e) := readEntry s l 2 0x20
      if (servedKey s l).isSome then s
      else if p = 0 && (formOf l d e).isNone then
        hbmLog (hbmPutData s l d allWords) (o / 16) 3 2 0 0 (o % 16) 0x20 l
      else
        let bad := (List.range 32).any (fun i => classify true (mget 0 s.hbm.syn (hbmKey o (dataPos l i))) == .bad)
        if fixed || bad then hbmPutData s l d p else s

/-- The next pass of a band's slices, or of a stack's channels, starts, and its period with it. -/
def restartBand (s : State) (b : Nat) : State :=
  let s := startTimer { s with chores := { s.chores with lateBand := s.chores.lateBand.filter (· != b) } } (.passBand b)
  (List.range 16).foldl (fun s i => setSlice s (16 * b + i) { slice s (16 * b + i) with scour := 0 }) s
def restartStack (s : State) (b : Nat) : State :=
  let s := startTimer { s with chores := { s.chores with lateHbm := s.chores.lateHbm.filter (· != b) } } (.passStack b)
  setHbmc s b { hbmc s b with scour := [] }

/-- A pass of a band, or of a stack, has finished. -/
def bandDone (s : State) (b : Nat) : Bool := (List.range 16).all (fun i => slicePass ≤ (slice s (16 * b + i)).scour)
def stackDone (s : State) (b : Nat) : Bool := (List.range 16).all (fun c => chanPass ≤ mget 0 (hbmc s b).scour c)

/-- The way that a patrol position names: way 23 of a set holds a line of the full/empty window while that is enabled (R238). -/
def scourKey (s : State) (sl p : Nat) : Nat :=
  let n := p / 24 * 128 + sl
  if feEnabled s && p % 24 == 23 && n < feLines s then feKey n else p

/-- The period of a pass in ns: of a band in seconds, of a stack in minutes. -/
def bandPeriod (s : State) (b : Nat) : Nat := fld s .band b f_BAND_SCOUR_CTRL_PERIOD * 10 ^ 9
def stackPeriod (s : State) (b : Nat) : Nat := fld s .hbm b f_HBM_SCOUR_CTRL_PERIOD * 60 * 10 ^ 9

/-- The time between two accesses of a patrol in ns: an even share of its period, and never so little that its accesses, each of
`a / b` ns, would take more than CAP/256 of a port or channel (R387). -/
def spacing (period n a b cap : Nat) : Nat := max (period / n) ((256 * a + b * cap - 1) / (b * cap))

/-- Whether the patrol of a slice, or of a channel, may make its next access now: it is enabled and has a share, background work runs
(R562), and the spacing has passed since its last. A line takes one cycle of a slice port's 850 MHz, and 256 B of a channel's 76.8 GB/s
(R28, R299). The rate of a pass never rises to make up a delay (R389). -/
def mayPatrolSlice (s : State) (sl : Nat) : Bool :=
  let cap := fld s .band (sl / 16) f_BAND_SCOUR_CTRL_CAP
  backgroundOn s && flag s .band (sl / 16) f_BAND_SCOUR_CTRL_EN && cap != 0
    && due s (.patrolSlice sl) (spacing (bandPeriod s (sl / 16)) slicePass 20 17 cap)
def mayPatrolChan (s : State) (o : Nat) : Bool :=
  let cap := fld s .hbm (o / 16) f_HBM_SCOUR_CTRL_CAP
  backgroundOn s && flag s .hbm (o / 16) f_HBM_SCOUR_CTRL_EN && cap != 0
    && due s (.patrolChan o) (spacing (stackPeriod s (o / 16)) chanPass 10 3 cap)

/-- SCOUR_LINE for a slice. A late pass that ends is followed at once by the next (R389). -/
def scourSlice (sl : Nat) (s : State) : State :=
  let b := sl / 16
  let p := (slice s sl).scour
  if !mayPatrolSlice s sl || slicePass ≤ p then s
  else
    let s := bump (scourWay sl (scourKey s sl p) (startTimer s (.patrolSlice sl))) .slice sl o_SLICE_SCOUR_LINES 1
    let s := setSlice s sl { slice s sl with scour := p + 1 }
    if bandDone s b && s.chores.lateBand.contains b then restartBand s b else s

/-- SCOUR_LINE for a channel. -/
def scourChan (o : Nat) (s : State) : State :=
  let b := o / 16
  let p := mget 0 (hbmc s b).scour (o % 16)
  if !mayPatrolChan s o || chanPass ≤ p then s
  else
    let s := scourHbm o p (startTimer s (.patrolChan o))
    let s := setHbmc s b { hbmc s b with scour := mset 0 (hbmc s b).scour (o % 16) (p + 1) }
    if !stackDone s b then s
    else
      let s := setF s .hbm b f_HBM_SCOUR_STATUS_PASSES (fld s .hbm b f_HBM_SCOUR_STATUS_PASSES + 1)
      if s.chores.lateHbm.contains b then restartStack s b else s

/-- Exec SCOUR_LINE: the next way of slice `i`, or the next line of channel `i`. -/
def execScourLine (hbm : Bool) (i : Nat) (s : State) : Host.Outcome State Fault Refusal :=
  run (i < 128 && !(if hbm then frozen s .hbm (i / 16) else sliceFrozen s i)) s (if hbm then scourChan i else scourSlice i)

/-- Whether the period of a band's, or of a stack's, pass has ended. -/
def passEnded (s : State) (hbm : Bool) (b : Nat) : Bool :=
  backgroundOn s && (if hbm then due s (.passStack b) (stackPeriod s b) else due s (.passBand b) (bandPeriod s b))

/-- SCOUR_PERIOD_END: the next pass starts, or the one that has not finished is late (R389). -/
def scourEnd (hbm : Bool) (b : Nat) (s : State) : State :=
  if !passEnded s hbm b then s
  else if hbm then
    if stackDone s b then restartStack s b
    else if !flag s .hbm b f_HBM_SCOUR_CTRL_EN || s.chores.lateHbm.contains b then s
    else
      let s := { s with chores := { s.chores with lateHbm := b :: s.chores.lateHbm.filter (· != b) } }
      raiseIrq (setF s .hbm b f_HBM_SCOUR_STATUS_LATE 1) .hbm b 6
  else if bandDone s b then restartBand s b
  else if !flag s .band b f_BAND_SCOUR_CTRL_EN || s.chores.lateBand.contains b then s
  else
    let s := { s with chores := { s.chores with lateBand := b :: s.chores.lateBand.filter (· != b) } }
    raiseIrq (setF s .band b f_BAND_SCOUR_STATUS_LATE 1) .band b 0

/-- Exec SCOUR_PERIOD_END. -/
def execScourPeriodEnd (hbm : Bool) (b : Nat) (s : State) : Host.Outcome State Fault Refusal := run (b < 8 && !frozen s (if hbm then .hbm else .band) b) s (scourEnd hbm b)

end Sys2Proof.Machine
end

