-- ==== Sys2Proof/Machine/Rowstat.lean ====
section
/-! DEFINITION. ROWSTAT (R194 to R204). -/
namespace Sys2Proof.Machine

/-! ## Records (R195) -/

/-- A record as its fields. In compatibility `s1` and `s2` are FP32 patterns. -/
structure Stat where
  n : Nat := 0
  e : Int := 0
  flags : Nat := 0
  s1 : Int := 0
  s2 : Nat := 0
  deriving DecidableEq, Repr

/-- COMPAT, and the flags of R195. -/
def stCompat (r : Stat) : Bool := bitN r.flags 7
abbrev rfMISMATCH : Nat := 64
abbrev rfNOVF : Nat := 32
abbrev rfRANGE : Nat := 16

/-- The record in 64 bytes. -/
def statOf (v : Nat) : Stat :=
  let f := bitsN v 55 48
  if bitN f 7 then { n := bitsN v 31 0, e := signed 16 (bitsN v 47 32), flags := f, s1 := bitsN v 95 64, s2 := bitsN v 191 160 }
  else { n := bitsN v 31 0, e := signed 16 (bitsN v 47 32), flags := f, s1 := signed 96 (bitsN v 159 64), s2 := bitsN v 351 160 }

/-- The 64 bytes of a record. -/
def statBits (r : Stat) : Nat :=
  r.n + wrapN 16 r.e <<< 32 + r.flags <<< 48 + (if stCompat r then wrapN 32 r.s1 else wrapN 96 r.s1) <<< 64
    + (r.s2 % 2 ^ 192) <<< 160

/-- Write a record. -/
def putStat (s : State) (c a : Nat) (r : Stat) : State :=
  (List.range 8).foldl (fun s i => lmPut s c (a / 8 + i) (BitVec.ofNat 64 (statBits r >>> (64 * i))) false) s

/-- Park for a record address: misaligned, or beyond local memory. -/
def statAddr (k : Group) (a : Nat) : Option Park :=
  if a % 64 ≠ 0 then some { cause := cALIGN, detail := 1, aspace := 1, addr := a, lanes := k.active }
  else if a + 64 > lmSize then some { cause := cACCESS, detail := 3, aspace := 1, addr := a, lanes := k.active }
  else none

/-- Read a record: its value, or the park for a poisoned word. -/
def getStat (s : State) (c g a : Nat) : State × (Park ⊕ Stat) :=
  match lmRead s c a 64 with
  | (s, _, some x) => (s, .inl { cause := cPOISON, detail := 1, aspace := 1, addr := x, lanes := (group s c g).active })
  | (s, v, none) => (s, .inr (statOf v))

/-! ## Values (R194) -/

/-- The element format of SRC and F8. -/
def statFmt (w : W64) : Fmt :=
  match ibits w 31 30 with
  | 0 => .fp32
  | 1 => .bf16
  | 2 => .fp16
  | _ => if bitN w.toNat 29 then .e5m2 else .e4m3

/-- The values of a lane, low element first. -/
def laneVals (k : Group) (w : W64) (lane : Nat) : List Val :=
  let f := statFmt w
  (List.range (32 / fmtWidth f)).map (fun i => decodeFmt f (elemBits f (getV k (ibits w 48 42) lane) i))

/-- The values of the executing lanes in order of position. -/
def rowVals (k : Group) (w : W64) : List Val := (lanesOf (guardLanes k w)).flatMap (laneVals k w)

/-! ## The sub-operations -/

/-- The common course of ROWSTAT: a group that finds the unit busy is not ready (R187). -/
def rowstat (c g : Nat) (w : W64) (eff : State → State) (s : State) : State :=
  issue s c g w (fun s =>
    let k := group s c g
    let sub := ibits w 51 49
    let vr := ibits w 48 42
    if sfuBusy s c then none
    else if ibits w 28 0 ≠ 0 || 5 ≤ sub then some (illegal s c g 2)
    else if ((sub == 1 || sub == 2) && !inAlloc k vr 1) || (sub == 4 && !inAlloc k vr 3) then some (illegal s c g 3)
    else groupWide s c g w (fun s => some (eff s)))

/-- The registers UR and US. -/
def rsUR (w : W64) : Nat := ibits w 41 37
def rsUS (w : W64) : Nat := ibits w 36 32

/-- INIT (R196); in compatibility E is 0 (R195). -/
def rsInit (c g : Nat) (w : W64) : State → State :=
  rowstat c g w (fun s =>
    let k := group s c g
    let a := (getU k (rsUR w)).toNat
    match statAddr k a with
    | some p => park s c g p
    | none =>
      let compat := ssCompat s (blockOfCell s c)
      let e : Int := if compat then 0 else signed 16 ((getU k (rsUS w)).toNat % 65536)
      nextPc (putStat s c a { e := e, flags := b2n compat <<< 7 }) c g)

/-- Exec ROWSTAT, INIT. -/
def execRowstatInit (c g : Nat) (w : W64) (s : State) : Host.Outcome State Fault Refusal :=
  run (opc w == 0xB2 && ibits w 51 49 == 0) s (rsInit c g w)

/-- MAXE (R196). -/
def rsMaxe (c g : Nat) (w : W64) : State → State :=
  rowstat c g w (fun s =>
    let k := group s c g
    let xs := (rowVals k w).filter (fun v => !isSpecial v && !isZero v)
    let m := xs.foldl (fun m v => max m (vlog2 v)) (signed 16 ((getU k (rsUR w)).toNat % 65536))
    retire s c g (setU k (rsUR w) (BitVec.ofNat 64 (wrapN 16 m))))

/-- Exec ROWSTAT, MAXE. -/
def execRowstatMaxe (c g : Nat) (w : W64) (s : State) : Host.Outcome State Fault Refusal :=
  run (opc w == 0xB2 && ibits w 51 49 == 1) s (rsMaxe c g w)

/-- Count `m` more values: NOVF sets and N holds when it would pass its width (R197). -/
def statCount (r : Stat) (m : Nat) : Stat :=
  if r.n + m < 2 ^ 32 then { r with n := r.n + m } else { r with flags := r.flags ||| rfNOVF }

/-- SPEC of a record. -/
def statSpec (r : Stat) : Nat := r.flags % 4
/-- Combine a special state. -/
def joinSpec (r : Stat) (x : Nat) : Stat := { r with flags := r.flags / 4 * 4 + specJoin (statSpec r) x }

/-- One value of a native ACC (R197). -/
def accNative (r : Stat) (v : Val) : Stat :=
  if isSpecial v then joinSpec r (specOf v)
  else if !isZero v && (r.e = -32768 || r.e + 1 ≤ vlog2 v) then { r with flags := r.flags ||| rfRANGE }
  else
    let a := if isZero v then 0 else (toAnchor (r.e - 62) v).1
    let r := statCount r 1
    { r with s1 := r.s1 + a, s2 := r.s2 + a.natAbs * a.natAbs }

/-- A compatibility ACC (R204): positions of lanes that do not execute contribute +0. -/
def accCompat (k : Group) (w : W64) (r : Stat) : Stat :=
  let ex := guardLanes k w
  let p := 32 / fmtWidth (statFmt w)
  let xs : List W32 := (List.range 32).flatMap (fun l => if bitN ex.toNat l then (laneVals k w l).map toF32 else List.replicate p 0)
  let lv := if p = 1 then 5 else if p = 2 then 6 else 7
  let t1 := (treeSum lv xs).1
  let t2 := (treeSum lv (xs.map (fun x => f32Mul x x))).1
  let r := statCount r (p * (lanesOf ex).length)
  { r with s1 := (f32Add (BitVec.ofInt 32 r.s1) t1).toNat, s2 := (f32Add (BitVec.ofNat 32 r.s2) t2).toNat }

/-- ACC (R197, R203, R204). -/
def rsAcc (c g : Nat) (w : W64) : State → State :=
  rowstat c g w (fun s =>
    let k := group s c g
    let a := (getU k (rsUR w)).toNat
    match statAddr k a with
    | some p => park s c g p
    | none =>
      match getStat s c g a with
      | (s, .inl p) => park s c g p
      | (s, .inr r) => nextPc (putStat s c a (if stCompat r then accCompat k w r else (rowVals k w).foldl accNative r)) c g)

/-- Exec ROWSTAT, ACC. -/
def execRowstatAcc (c g : Nat) (w : W64) (s : State) : Host.Outcome State Fault Refusal :=
  run (opc w == 0xB2 && ibits w 51 49 == 2) s (rsAcc c g w)

/-- One record combined into another (R198, R204): counts, SPEC and flags combine; the sums add only between records of one E and
one COMPAT. -/
def statJoin (r q : Stat) : Stat :=
  let apart := r.e ≠ q.e || stCompat r ≠ stCompat q
  let t := joinSpec r (statSpec q)
  let t := statCount { t with flags := t.flags ||| (q.flags &&& (rfNOVF ||| rfRANGE)) } q.n
  if apart then { t with flags := t.flags ||| rfMISMATCH }
  else if stCompat r then
    { t with s1 := (f32Add (BitVec.ofInt 32 r.s1) (BitVec.ofInt 32 q.s1)).toNat, s2 := (f32Add (BitVec.ofNat 32 r.s2) (BitVec.ofNat 32 q.s2)).toNat }
  else { t with s1 := r.s1 + q.s1, s2 := r.s2 + q.s2 }

/-- CMB. -/
def rsCmb (c g : Nat) (w : W64) : State → State :=
  rowstat c g w (fun s =>
    let k := group s c g
    let a := (getU k (rsUR w)).toNat
    let b := (getU k (rsUS w)).toNat
    let mis := fun (p : Option Park) (x : Nat) => (p.map (·.cause)) == some x
    let pa := statAddr k a; let pb := statAddr k b
    match (if mis pa cALIGN then pa else if mis pb cALIGN then pb else pa.or pb) with
    | some p => park s c g p
    | none =>
      match getStat s c g a with
      | (s, .inl p) => park s c g p
      | (s, .inr r) =>
        match getStat s c g b with
        | (s, .inl p) => park s c g p
        | (s, .inr q) => nextPc (putStat s c a (statJoin r q)) c g)

/-- Exec ROWSTAT, CMB. -/
def execRowstatCmb (c g : Nat) (w : W64) (s : State) : Host.Outcome State Fault Refusal :=
  run (opc w == 0xB2 && ibits w 51 49 == 3) s (rsCmb c g w)

/-- num × 2^e / den in FP32 under RNE. -/
def ratioF32 (num : Int) (e : Int) (den : Nat) : W32 :=
  let (a, b) := dyadQ num.natAbs e
  BitVec.ofNat 32 (encQ .fp32 .rne (num < 0) a (b * den)).1

/-- The exact variance plus ε, rounded once: num × 2^e / den + ε (R199). -/
def varPlus (num : Int) (e : Int) (den : Nat) (eps : W32) : W32 :=
  match f32 eps with
  | .nan => f32NaN
  | .inf n => BitVec.ofNat 32 (encInf .fp32 n)
  | .fin n m x =>
    let q := min e x
    ratioF32 (num * 2 ^ (e - q).toNat + smant n m * 2 ^ (x - q).toNat * den) q den

/-- A quotient of an FP32 word by a count, rounded once, with IEEE 754 specials. -/
def f32DivNat (x : W32) (n : Nat) : W32 :=
  match f32 x with
  | .nan => f32NaN
  | .inf neg => BitVec.ofNat 32 (encInf .fp32 neg)
  | .fin neg m e =>
    if n = 0 then (if m = 0 then f32NaN else BitVec.ofNat 32 (encInf .fp32 neg))
    else
      let (a, b) := dyadQ m e
      BitVec.ofNat 32 (encQ .fp32 .rne neg a (b * n)).1

/-- What FIN writes: mean, variance, variance plus ε (R199, R204). -/
def statFin (r : Stat) (eps : W32) : W32 × W32 × W32 :=
  if statSpec r = 3 || r.flags &&& (rfMISMATCH ||| rfNOVF ||| rfRANGE) ≠ 0 || r.n = 0 then (f32NaN, f32NaN, f32NaN)
  else if statSpec r = 1 then (f32Inf, f32NaN, f32NaN)
  else if statSpec r = 2 then (f32NegInf, f32NaN, f32NaN)
  else if stCompat r then
    let m := f32DivNat (BitVec.ofInt 32 r.s1) r.n
    let q := f32DivNat (BitVec.ofNat 32 r.s2) r.n
    let v := f32Sub q (f32Mul m m)
    let v := if vlt (f32 v) (.fin false 0 0) then 0 else v
    (m, v, f32Add v eps)
  else
    let num : Int := (r.n : Int) * r.s2 - r.s1 * r.s1
    (ratioF32 r.s1 (r.e - 62) r.n, ratioF32 num (2 * r.e - 124) (r.n * r.n), varPlus num (2 * r.e - 124) (r.n * r.n) eps)

/-- FIN. -/
def rsFin (c g : Nat) (w : W64) : State → State :=
  rowstat c g w (fun s =>
    let k := group s c g
    let a := (getU k (rsUR w)).toNat
    let vr := ibits w 48 42
    match statAddr k a with
    | some p => park s c g p
    | none =>
      match getStat s c g a with
      | (s, .inl p) => park s c g p
      | (s, .inr r) =>
        let (x, y, z) := statFin r ((getU k (rsUS w)).setWidth 32)
        let k := mapLanes (group s c g) (lanesOf (guardLanes k w)) (fun k l => setV (setV (setV k vr l x) (vr + 1) l y) (vr + 2) l z)
        retire s c g k)

/-- Exec ROWSTAT, FIN; the reserved sub-operations are ILLEGAL. -/
def execRowstatFin (c g : Nat) (w : W64) (s : State) : Host.Outcome State Fault Refusal :=
  run (opc w == 0xB2 && 4 ≤ ibits w 51 49) s (rsFin c g w)

end Sys2Proof.Machine
end

