-- ==== Sys2Proof/Machine/Absorb.lean ====
section
/-! DEFINITION. What a reset absorbs and what a region that loses power loses (R221, R434, R435, R553, R555). -/
namespace Sys2Proof.Machine

/-- Groups of a cell that are not FREE. -/
def liveGroups (s : State) (c : Nat) : List Nat := (List.range 16).filter (fun g => (group s c g).st != .free)

/-- A group's run has lost it (R218). -/
def noteKilled (s : State) (c g : Nat) : State :=
  setRun s (group s c g).lead { (block s (group s c g).lead).run with killed := true }

/-- R553: a cell absorbs. Its local memory stays; requests that left the NI stand, and nothing waits for their answers. `tell`
is false where its groups go without events (R248). -/
def absorbCell (tell : Bool) (s : State) (c : Nat) : State :=
  let s := (liveGroups s c).foldl (fun s g => releaseLocks (noteKilled s c g) c g tell) s
  let s := { s with reqs := s.reqs.filter (fun q => !(ofCell c q.src && (q.op matches .fe _ _ _ _ _))) }
  let k := cell s c
  setCell s c { lm := k.lm, lmPois := k.lmPois, lmSyn := k.lmSyn, serial := k.serial, lastSample := k.lastSample }

/-- Cells of a region. -/
def cellsOfRegion (r : Nat) : List Nat := (List.range 45).map (fun i => 45 * r + i)
/-- Blocks of a region. -/
def blocksOfRegion (r : Nat) : List Nat := (List.range 6).map (fun i => 6 * r + i)

/-- The live groups of a run, by cell and group. -/
def runGroups (s : State) (b : Nat) : List (Nat × Nat) :=
  ((block s b).run.blocks.flatMap (cellsIn s)).flatMap (fun c =>
    ((liveGroups s c).filter (fun g => (group s c g).lead == b)).map (fun g => (c, g)))

/-- Kill every group of a run (R220). -/
def killRun (s : State) (b : Nat) : State := (runGroups s b).foldl (fun s x => killGroup s x.1 x.2) s

/-- A reach enters OFF: what it held since ARM goes; the time of its start stays (R215, R223). -/
def reachOff (s : State) (b : Nat) : State :=
  let s := setF (setF s .block b f_BLOCK_REACH_STATUS_STATE rOff) .block b f_BLOCK_REACH_STATUS_DISARM_PEND 0
  setRun s b { lastStart := (block s b).run.lastStart }

/-- The reset of a lead block (R214, R221). -/
def resetReach (s : State) (b : Nat) : State :=
  let st := reachState s b
  if st = rOff then s
  else
    let s := if st = rRunning || st = rCompleting then setF (killRun s b) .block b f_BLOCK_REACH_STATUS_LAST 3 else s
    reachOff s b

/-- The runs of which a block is a member while it is reset are FAILED, whatever its groups did before (R218, R221). -/
def failRuns (s : State) (b : Nat) : State :=
  s.blocks.foldl (fun s x =>
    if (reachState s x.1 == rRunning || reachState s x.1 == rCompleting) && x.2.run.blocks.contains b then
      setRun s x.1 { (block s x.1).run with killed := true }
    else s) s

/-- A block absorbs (R221, R555). -/
def absorbBlock (s : State) (b : Nat) : State := resetReach ((cellsIn s b).foldl (absorbCell true) (failRuns s b)) b

/-- A region absorbs (R555). -/
def absorbRegion (s : State) (r : Nat) : State := (blocksOfRegion r).foldl absorbBlock s

/-- The page of a unit that loses power: active values and single copies return to reset, what was staged and the counters go;
shadows, mailboxes and the strobe group stay (R435, R590). -/
def wipePage (s : State) (k : PageKind) (i : Nat) : State :=
  let g := page s k i
  setPage s k i { shd := g.shd, mbxH := g.mbxH, mbxM := g.mbxM, act := mkeep (· == o_COMMON_PAGE_STROBE_GROUP) g.act }

/-- What a region loses when it leaves ON (R435): it is then as a partition reset leaves it. -/
def wipeRegion (s : State) (r : Nat) : State :=
  let s := (blocksOfRegion r).foldl (fun s b => setBlock (wipePage s .block b) b {}) s
  let s := (cellsOfRegion r).foldl (fun s c => setCell (wipePage s .cell c) c {}) s
  setRegion (wipePage s .region r) r {}

/-- Set a region's power state. -/
def setRegionState (s : State) (r st : Nat) : State := setF s .pwr 0 (f_PWR_REG_STATUS_STATE r) st

/-- A region leaves ON for another state (R434, R435); a power-down no longer waits, and no pair of neighbours that it belongs to
stands apart (R425). -/
def leaveOn (s : State) (r st : Nat) : State :=
  let s := setRegionState (wipeRegion (absorbRegion s r) r) r st
  let s := setRail s r { rail s r with moving := false, nbs := [], asked := none, lending := false }
  let s := { s with power := { s.power with apart := s.power.apart.filter (fun x => x.1 != r && x.2 != r) } }
  setPause (setF s .pwr 0 (f_PWR_REG_STATUS_DEFERRED r) 0) r

/-- Whether a reach with a block in a region is RUNNING or COMPLETING. -/
def regionBusy (s : State) (r : Nat) : Bool :=
  s.blocks.any (fun x =>
    (reachState s x.1 == rRunning || reachState s x.1 == rCompleting) && x.2.run.blocks.any (fun b => b / 6 == r))

/-- A partition is drained (R247). -/
def partDrained (s : State) (p : Nat) : Bool :=
  (List.range 32).all (fun r => !(partOfRegion s r == some p) || !regionBusy s r)

/-- Whether a region lends its rail to one that is not OFF (R442). -/
def lends (s : State) (r : Nat) : Bool :=
  flag s .pwr 0 (f_PWR_REG_STATUS_LEND r) && (match partnerOf s r with | some q => regionState s q != 0 | none => false)

/-- A region that is no longer wanted stops, or waits with DEFERRED for the runs that hold it (`busy`); one that lends its rail waits
until its borrower is OFF, with REFUSE = LENDING (R434, R442). -/
def stopRegion (busy : Bool) (s : State) (r : Nat) : State :=
  let s := if lends s r then setF s .pwr 0 (f_PWR_REG_STATUS_REFUSE r) 2 else s
  if busy || lends s r then setF s .pwr 0 (f_PWR_REG_STATUS_DEFERRED r) 1 else leaveOn s r 5

/-- Whether a region is wanted (R432). -/
def wanted (s : State) (r : Nat) : Bool :=
  flag s .pwr 0 (f_PWR_REG_REQ_POWER r) && (match partOfRegion s r with | some p => profileOf s p != 3 | none => true)

/-- The ON regions of a partition. -/
def partOn (s : State) (p : Nat) : List Nat := (List.range 32).filter (fun r => partOfRegion s r == some p && regionOn s r)

/-- A partition's CACHE power-down at its drain (R247, R434): its regions that are ON stop. -/
def cacheDown (s : State) (p : Nat) : State :=
  if flag s .chip 0 (f_CHIP_PART_STATUS_DEFERRED p) && partDrained s p then
    setF ((partOn s p).foldl (stopRegion false) s) .chip 0 (f_CHIP_PART_STATUS_DEFERRED p) 0
  else s

/-- The ON regions of a partition of profile CACHE power down at its next drain, and show DEFERRED until then (R247, R434). -/
def cacheWait (s : State) (p : Nat) : State :=
  let rs := partOn s p
  if profileOf s p ≠ 3 || rs.isEmpty then s
  else
    let s := setF (rs.foldl (stopRegion true) s) .chip 0 (f_CHIP_PART_STATUS_DEFERRED p) 1
    cacheDown s p

/-- A region that is ON: wanted, nothing of it waits; not wanted by host software, it stops once no run holds it (R433, R434); not
wanted by its partition's profile, it waits for the partition's drain (R247). -/
def stopUnwanted (s : State) (r : Nat) : State :=
  if !regionOn s r then s
  else if wanted s r then setF s .pwr 0 (f_PWR_REG_STATUS_DEFERRED r) 0
  else if !flag s .pwr 0 (f_PWR_REG_REQ_POWER r) then stopRegion (regionBusy s r) s r
  else match partOfRegion s r with
  | some p => cacheWait s p
  | none => s

/-- The regions that host software no longer wants stop once no run holds them. -/
def stopIdle (s : State) : State :=
  (List.range (partRegions s.part)).foldl (fun s r => if flag s .pwr 0 (f_PWR_REG_REQ_POWER r) then s else stopUnwanted s r) s

end Sys2Proof.Machine
end

