-- ==== Sys2Proof/Machine/Reach.lean ====
section
/-! DEFINITION. Reaches, flags by host software, partitions and the phase RUN (R34 to R37, R207 to R225, R232, R244 to R248,
R433, R434, R559). -/
namespace Sys2Proof.Machine

/-! ## Self-tests that delay a claim (R557 to R559) -/

/-- Whether a cell or a region is the target of an item: 0x10 and 0x11 name a cell, 0x13 a region (R557). -/
def itemHits (s : State) (x : TestItem) (b : Nat) : Bool :=
  ((x.item == 0x10 || x.item == 0x11) && (cellsIn s b).contains x.target) || (x.item == 0x13 && b / 6 == x.target)

/-- A claim waits for a running disruptive item in a block of the reach, and for a queued one with HOLD (R559). -/
def claimDelayed (s : State) (bs : List Nat) : Bool :=
  bs.any (fun b => s.chores.run.any (fun x => itemHits s x b) || s.chores.tests.any (fun x => x.hold && itemHits s x b))

/-! ## Commands to a reach (R215, R220) -/

/-- A refused command or configuration (R209, R215). -/
def reachRefuse (s : State) (b code : Nat) : State :=
  raiseIrq (setF s .block b f_BLOCK_REACH_STATUS_REFUSE code) .block b 12

/-- Whether the active fields make a block a member of another block's reach. -/
def isMember (s : State) (b : Nat) : Bool :=
  flag s .block b f_BLOCK_REACH_CTRL_EN && !flag s .block b f_BLOCK_REACH_CTRL_LEAD

/-- The blocks of the reach that `b` leads, ascending (R215). -/
def gather (s : State) (b : Nat) : List Nat :=
  (List.range (instCount s.part .block)).filter (fun x =>
    x == b || (isMember s x && fld s .block x f_BLOCK_REACH_CTRL_LEAD_BLK == b))

/-- The enabled inputs of a lead: translation and CONSUME. -/
def inputsOf (s : State) (b : Nat) : List (Option FlagAt × Bool) :=
  ((List.range 4).filter (fun k => flag s .block b (f_BLOCK_REACH_IN_EN k))).map (fun k =>
    (xlat s (b / 6) (fld s .block b (f_BLOCK_REACH_IN_FLAG k)), flag s .block b (f_BLOCK_REACH_IN_CONSUME k)))

/-- The enabled outputs of a lead: index and translation. -/
def outputsOf (s : State) (b : Nat) : List (Nat × Option FlagAt) :=
  ((List.range 4).filter (fun k => flag s .block b (f_BLOCK_REACH_OUT_EN k))).map (fun k =>
    (k, xlat s (b / 6) (fld s .block b (f_BLOCK_REACH_OUT_FLAG k))))

/-- A flag of this device. -/
def localFlag : Option FlagAt → Option (Nat × Nat)
  | some (.loc r i) => some (r, i)
  | _ => none

/-- Why an ARM is refused (R215), the lowest code first. -/
def armRefusal (s : State) (b : Nat) : Option Nat :=
  let st := reachState s b
  if !isLead s b then some 3
  else if (partOfRegion s (b / 6)).isSome && (gather s b).any (fun x => partOfRegion s (x / 6) != partOfRegion s (b / 6)) then some 4
  else if (partOfRegion s (b / 6)).isNone then some 5
  else if st = rArmed || st = rRunning || st = rCompleting then some 6
  else if (inputsOf s b).any (fun x => (localFlag x.1).isNone) || (outputsOf s b).any (fun x => x.2.isNone) then some 7
  else if flag s .block b f_BLOCK_REACH_CTRL_REPEAT && !flag s .block b f_BLOCK_REACH_CTRL_FP_EN && (inputsOf s b).isEmpty then some 8
  else none

/-- A take flag that is set already is consumed as the reach comes to observe it, as an FLW with CONSUME would (R224). -/
def takeSet (s : State) (b : Nat) : Option (Nat × Nat) → State
  | some (r, i) => if (flagAt s r i).set then levelDown (flagClr s r i) b else s
  | none => s

/-- ARM (R215, R224). -/
def arm (b : Nat) (s : State) : State :=
  match armRefusal s b with
  | some c => reachRefuse s b c
  | none =>
    let take := if flag s .block b f_BLOCK_REACH_CTRL_FP_EN then localFlag (xlat s (b / 6) (fld s .block b f_BLOCK_FP_MARKS_TAKE)) else none
    let r : Run := {
      blocks := gather s b
      ins := (inputsOf s b).filterMap (fun x => (localFlag x.1).map (fun f => (f.1, f.2, x.2)))
      outs := (outputsOf s b).filterMap (fun x => x.2.map (fun f => (x.1, f)))
      take := take
      lastStart := (block s b).run.lastStart }
    let s := if reachState s b = rOff then setF s .block b f_BLOCK_REACH_STATUS_LEVEL 0 else s
    takeSet (setRun (setF (setF s .block b f_BLOCK_REACH_STATUS_DISARM_PEND 0) .block b f_BLOCK_REACH_STATUS_STATE rArmed) b r) b take

/-- DISARM (R214, R220). -/
def disarm (b : Nat) (s : State) : State :=
  let st := reachState s b
  if isMember s b then reachRefuse s b 3
  else if st = rArmed || st = rHalted then reachOff s b
  else if st = rRunning || st = rCompleting then setF s .block b f_BLOCK_REACH_STATUS_DISARM_PEND 1
  else s

/-- ABORT (R218, R220). -/
def abort (b : Nat) (s : State) : State :=
  if reachState s b = rRunning then
    killRun (setRun s b { (block s b).run with aborted := true }) b
  else reachRefuse s b 6

/-- A command of the lead block's page. -/
def reachCmd (secure : Bool) (b : Nat) (f : State → State) (s : State) : State := hostCmd s secure .block b o_BLOCK_REACH_CMD f

/-- Exec REACH_ARM. -/
def execReachArm (secure : Bool) (b : Nat) (s : State) : Host.Outcome State Fault Refusal := run (b < 192 && !frozen s .block b) s (reachCmd secure b (arm b))
/-- Exec REACH_DISARM. -/
def execReachDisarm (secure : Bool) (b : Nat) (s : State) : Host.Outcome State Fault Refusal := run (b < 192 && !frozen s .block b) s (reachCmd secure b (disarm b))
/-- Exec REACH_ABORT. -/
def execReachAbort (secure : Bool) (b : Nat) (s : State) : Host.Outcome State Fault Refusal := run (b < 192 && !frozen s .block b) s (reachCmd secure b (abort b))
/-- Exec FP_TAKE (R224). -/
def execFpTake (secure : Bool) (b : Nat) (s : State) : Host.Outcome State Fault Refusal :=
  run (b < 192 && !frozen s .block b) s (reachCmd secure b (fun s => levelDown s b))

/-! ## The claim and the launch (R128, R211, R216, R223) -/

/-- Whether PERIOD has passed since the previous start (R223). -/
def periodPassed (s : State) (b : Nat) : Bool :=
  match (block s b).run.lastStart with
  | some t => t + fld s .block b f_BLOCK_FP_PERIOD_PERIOD * 1000 ≤ s.time.toNat
  | none => true

/-- The frame-pacing part of a start condition (R223). -/
def paceMet (s : State) (b : Nat) : Bool :=
  !flag s .block b f_BLOCK_REACH_CTRL_FP_EN
    || (fld s .block b f_BLOCK_REACH_STATUS_LEVEL < fld s .block b f_BLOCK_FP_MARKS_HIGH && periodPassed s b)

/-- Whether a reach is frozen: a block of it is, or a region whose flags it observes or sets, or its own (R495). -/
def reachFrozen (s : State) (b : Nat) : Bool :=
  let r := (block s b).run
  (b :: r.blocks).any (frozen s .block) || frozen s .region (regionOfBlock b) || r.ins.any (fun f => frozen s .region f.1)
    || r.outs.any (fun x => flagHeld s (regionOfBlock b) (some x.2))

/-- Whether an ARMED reach meets its start condition and may claim (R216, R468, R559). -/
def startMet (s : State) (b : Nat) : Bool :=
  let r := (block s b).run
  reachState s b == rArmed && phase s == phRun && !s.chores.runEnding
    && r.ins.all (fun f => (flagAt s f.1 f.2.1).set) && paceMet s b && !claimDelayed s r.blocks && !s.therm.stop && !reachFrozen s b

/-- Clear the CONSUME flags of a claim in turn; a flag found clear, because an earlier input named the same flag, ends the
claim and the flags it cleared are set again (R216). -/
def claimFlags (s : State) : List (Nat × Nat × Bool) → List (Nat × Nat) → State × Bool
  | [], _ => (s, true)
  | (r, i, c) :: t, took =>
    if !c then claimFlags s t took
    else if (flagAt s r i).set then claimFlags (flagClr s r i) t (took ++ [(r, i)])
    else (took.foldl (fun s x => flagSet s x.1 x.2) s, false)

/-- A group as it is launched (R128, R211). -/
def launchGroup (s : State) (b c g rank cells : Nat) : Group :=
  let lanes := fld s .block b f_BLOCK_REACH_SHAPE_LANES
  let m : W32 := BitVec.ofNat 32 (2 ^ lanes - 1)
  let base := fld s .block b f_BLOCK_REACH_PROG_HI_BASE_HI * 2 ^ 32 + fld s .block b f_BLOCK_REACH_PROG_LO_BASE_LO * 8
  let lbl : Byte := BitVec.ofNat 8 (fld s .block b f_BLOCK_REACH_CTRL_CLASS * 16 + (partOfRegion s (b / 6)).getD 0)
  let k : Group := {
    st := .run, pc := base, base := base, resident := m, active := m
    alloc := 8 * fld s .block b f_BLOCK_REACH_SHAPE_ALLOC_U, lead := b, label := lbl }
  let k := (List.range 32).foldl (fun k l => setV k 0 l (BitVec.ofNat 32 l)) k
  let u := [(1, c), (2, g), (3, rank), (4, cells), (5, fld s .block b f_BLOCK_REACH_SHAPE_GROUPS), (6, lbl.toNat)]
  u.foldl (fun k x => setU k x.1 (BitVec.ofNat 64 x.2)) k

/-- Launch the groups of one cell, its clock running and its read-only caches invalid (R149, R154, R211). -/
def launchCell (s : State) (b c rank cells : Nat) : State :=
  let s := invRo (setCell s c { cell s c with gated := false }) c true true true
  (List.range (fld s .block b f_BLOCK_REACH_SHAPE_GROUPS)).foldl (fun s g => setGroup s c g (launchGroup s b c g rank cells)) s

/-- Launch a run in every enabled cell of its blocks, in ascending order (R211). -/
def launch (s : State) (b : Nat) : State :=
  let cs := (block s b).run.blocks.flatMap (cellsIn s)
  let s := (List.range cs.length).foldl (fun s i => launchCell s b (cs.getD i 0) i cs.length) s
  let s := setRun s b { (block s b).run with lastStart := some s.time.toNat, killed := false, aborted := false, lost := false }
  setF s .block b f_BLOCK_REACH_STATUS_STATE rRunning

/-- REACH_CLAIM (R216). -/
def claim (b : Nat) (s : State) : State :=
  if !startMet s b then s
  else match claimFlags s (block s b).run.ins [] with
  | (s, false) => s
  | (s, true) => launch s b

/-- Exec REACH_CLAIM. -/
def execReachClaim (b : Nat) (s : State) : Host.Outcome State Fault Refusal := run (present s .block b) s (claim b)

/-- FP_PERIOD_EXPIRE: once the period since the previous start has passed, the reach evaluates its start condition (R217, R223). -/
def fpPeriodExpire (b : Nat) (s : State) : State := if periodPassed s b then claim b s else s

/-- Exec FP_PERIOD_EXPIRE. -/
def execFpPeriodExpire (b : Nat) (s : State) : Host.Outcome State Fault Refusal := run (present s .block b) s (fpPeriodExpire b)

/-! ## The end of a run (R214, R218, R219, R247) -/

/-- Exec REACH_LAST_GROUP_FREE (R214). -/
def execReachLastGroupFree (b : Nat) (s : State) : Host.Outcome State Fault Refusal :=
  run (present s .block b && !reachFrozen s b) s (fun s =>
    if reachState s b = rRunning && (runGroups s b).isEmpty then setF s .block b f_BLOCK_REACH_STATUS_STATE rCompleting else s)

/-- The outcome of a run (R218): 1 OK, 2 FAILED, 3 ABORTED. -/
def outcome (s : State) (b : Nat) : Nat :=
  let r := (block s b).run
  if r.aborted then 3
  else if r.killed || (flag s .block b f_BLOCK_REACH_CTRL_FAIL_ON_LOSS && r.lost) then 2
  else 1

/-- An output flag was lost (R235, R237). -/
def outLost (s : State) (b : Nat) : State := setF s .block b f_BLOCK_REACH_STATUS_OUT_LOST 1

/-- Set one output flag of a run (R219, R234 to R237). -/
def outFlag (b : Nat) (s : State) (x : Nat × FlagAt) : State :=
  let lbl : Byte := BitVec.ofNat 8 (fld s .block b f_BLOCK_REACH_CTRL_CLASS * 16 + (partOfRegion s (b / 6)).getD 0)
  let sec := secureBlock s b
  match x.2 with
  | .loc r i =>
    let (s, ok) := flagWrite s r i true sec 3 b lbl
    if ok then s else outLost s b
  | .remote w r i =>
    if !fwEn (fwin s w) then outLost s b
    else if !flagWinOk s w sec (labelPart lbl) then
      outLost (if fwSecure (fwin s w) && !sec && fwPart (fwin s w) == labelPart lbl then secLogAdd s 6 3 true b lbl 0 i else s) b
    else
      let (s, id) := newId s
      fabIssue s { id := id, src := .block b, line := 0, pkt := flagPacket (fwin s w) r i true sec lbl, outFlag := some b, win := w }

/-- REACH_SETTLE (R214, R219, R220). -/
def settle (b : Nat) (s : State) : State :=
  if reachState s b ≠ rCompleting then s
  else
    let o := outcome s b
    let dp := flag s .block b f_BLOCK_REACH_STATUS_DISARM_PEND
    let s := setF s .block b f_BLOCK_REACH_STATUS_LAST o
    let s :=
      if o = 1 then
        let s := (block s b).run.outs.foldl (outFlag b) s
        let s := bump s .block b o_BLOCK_REACH_RUNS 1
        let s := if flag s .block b f_BLOCK_REACH_CTRL_FP_EN then levelUp s b else s
        if flag s .block b f_BLOCK_REACH_CTRL_REPEAT && !dp then setF s .block b f_BLOCK_REACH_STATUS_STATE rArmed else reachOff s b
      else
        let s := raiseIrq s .block b 11
        if dp then reachOff s b else setF s .block b f_BLOCK_REACH_STATUS_STATE rHalted
    stopIdle s

/-- Exec REACH_SETTLE. -/
def execReachSettle (b : Nat) (s : State) : Host.Outcome State Fault Refusal := run (present s .block b && !reachFrozen s b) s (settle b)

/-- Exec CACHE_POWER_DOWN (R247). -/
def execCachePowerDown (p : Nat) (s : State) : Host.Outcome State Fault Refusal := run (p < 8) s (fun s => cacheDown s p)

/-! ## Flags by host software (R232) -/

/-- A host write of a flag, by the world `secure`: a frozen region keeps it until it thaws (R495). -/
def flagByHost (secure : Bool) (r i : Nat) (set : Bool) (s : State) : State :=
  if frozen s .region r then setRegion s r { region s r with held := (region s r).held ++ [(i, set, secure)] }
  else (flagWrite s r i set secure 2 0 0).1

/-- FLAG_SET and FLAG_CLR of REGION (R232). -/
def hostFlag (secure : Bool) (r i : Nat) (set : Bool) (s : State) : State :=
  hostCmd s secure .region r (if set then o_REGION_FLAG_SET else o_REGION_FLAG_CLR) (flagByHost (hostSecure s secure) r i set)

/-- The writes that waited while a region was frozen, in order (R495). -/
def heldFlags (s : State) (r : Nat) : State :=
  (region s r).held.foldl (fun s x => (flagWrite s r x.1 x.2.1 x.2.2 2 0 0).1) (setRegion s r { region s r with held := [] })

/-- Exec FLAG_SET. -/
def execFlagSet (secure : Bool) (r i : Nat) (s : State) : Host.Outcome State Fault Refusal :=
  run (r < 32 && i < 4096) s (hostFlag secure r i true)
/-- Exec FLAG_CLR. -/
def execFlagClr (secure : Bool) (r i : Nat) (s : State) : Host.Outcome State Fault Refusal :=
  run (r < 32 && i < 4096) s (hostFlag secure r i false)

/-! ## The phase RUN (R35, R37) -/

/-- Note whether the phase RUN is to end at the drain of the last partition. -/
def setRunEnding (s : State) (v : Bool) : State := { s with chores := { s.chores with runEnding := v } }

/-- A write of CHIP.CTRL by host software (R35, R37, R500): RUN reads the value last written; 1 in any phase but READY is refused. -/
def writeRun (v : Nat) (s : State) : State :=
  if v = 1 then
    let s := setF s .chip 0 f_CHIP_CTRL_RUN 1
    if phase s = phReady then setPhase (setRunEnding s false) phRun else setF s .chip 0 f_CHIP_STATE_RUN_REFUSED 1
  else
    let s := setF s .chip 0 f_CHIP_CTRL_RUN 0
    if phase s = phRun then setRunEnding s true else s

/-- Exec RUN_ENTER. -/
def execRunEnter (secure : Bool) (s : State) : Host.Outcome State Fault Refusal :=
  run true s (fun s => hostCmd s secure .chip 0 o_CHIP_CTRL (writeRun 1))
/-- Exec RUN_LEAVE. -/
def execRunLeave (secure : Bool) (s : State) : Host.Outcome State Fault Refusal :=
  run true s (fun s => hostCmd s secure .chip 0 o_CHIP_CTRL (writeRun 0))
/-- Exec RUN_DRAINED (R35). -/
def execRunDrained (s : State) : Host.Outcome State Fault Refusal :=
  run true s (fun s =>
    if phase s = phRun && s.chores.runEnding && (List.range 8).all (partDrained s) then setPhase (setRunEnding s false) phReady else s)

end Sys2Proof.Machine
end

