-- ==== Sys2Proof/Machine/Reset.lean ====
section
/-! DEFINITION. Resets of cells, blocks, regions and partitions (R193, R221, R248, R552 to R556). -/
namespace Sys2Proof.Machine

/-! ## Units -/

/-- The cells of a unit of a scope: 0 cell, 1 block, 2 region. -/
def unitCells (s : State) (sc u : Nat) : List Nat :=
  match sc with
  | 0 => [u]
  | 1 => cellsIn s u
  | _ => cellsOfRegion u

/-- The region of a unit. -/
def unitRegion (sc u : Nat) : Nat :=
  match sc with
  | 0 => u / 45
  | 1 => u / 6
  | _ => u

/-- Whether a unit lies within another. -/
def within (s : State) (a b : Nat × Nat) : Bool :=
  a.1 ≤ b.1 && (unitCells s a.1 a.2).all (fun c => (unitCells s b.1 b.2).contains c)

/-- The regions of a partition. -/
def regionsOfPart (s : State) (p : Nat) : List Nat :=
  (List.range (partRegions s.part)).filter (fun r => partOfRegion s r == some p)

/-- Whether a unit lies in a partition. -/
def inPart (s : State) (a : Nat × Nat) (p : Nat) : Bool := partOfRegion s (unitRegion a.1 a.2) == some p

/-! ## Self-test items whose target is reset or goes DARK (R559, R561) -/

/-- Write a completion record (R561): outcome 1 PASS, 2 FAIL, 3 ABANDONED. -/
def testRecord (s : State) (x : TestItem) (out detail : Nat) : State :=
  let e : Nat := s.time.toNat <<< 64 + x.item <<< 56 + out <<< 52 + (x.target % 65536) <<< 32 + detail % 2 ^ 32
  let s := { s with chores := { s.chores with log := (BitVec.ofNat 128 e :: s.chores.log).take 16 } }
  raiseIrq s .chip 0 6

/-- SELFTEST_STATUS shows the queue and the item that runs. -/
def testStatus (s : State) : State :=
  let s := setF s .chip 0 f_CHIP_SELFTEST_STATUS_QUEUED s.chores.tests.length
  setF s .chip 0 f_CHIP_SELFTEST_STATUS_RUNNING (match s.chores.run with | x :: _ => x.item % 256 * 256 + x.target % 256 | [] => 0xFFFF)

/-- Abandon the queued items that `p` names. -/
def abandonTests (s : State) (p : TestItem → Bool) : State :=
  let xs := s.chores.tests.filter p
  let s := { s with chores := { s.chores with tests := s.chores.tests.filter (fun x => !p x) } }
  testStatus (xs.foldl (fun s x => testRecord s x 3 0) s)

/-- Whether an item's target lies in a set of cells, or is a region. -/
def itemIn (cs : List Nat) (r : Option Nat) (x : TestItem) : Bool :=
  ((x.item == 0x10 || x.item == 0x11) && cs.contains x.target) || (x.item == 0x13 && r == some x.target)

/-- Abandon the items of a unit that is reset. -/
def abandonUnit (s : State) (sc u : Nat) : State :=
  abandonTests s (itemIn (unitCells s sc u) (if sc = 2 then some u else none))

/-! ## The course of a reset -/

/-- The record of a request in RESET_STATUS: 0 none yet, 1 DONE, 2 BUSY, 3 BAD_UNIT, 4 BAD_KEY, 5 PHASE. -/
def resetStatus (s : State) (sc u res : Nat) : State :=
  setF (setF (setF s .chip 0 f_CHIP_RESET_STATUS_SCOPE sc) .chip 0 f_CHIP_RESET_STATUS_UNIT u) .chip 0 f_CHIP_RESET_STATUS_RESULT res

/-- A reset ended. -/
def resetEnded (s : State) : State :=
  let s := if fld s .chip 0 f_CHIP_RESET_STATUS_RESULT = 0 then setF s .chip 0 f_CHIP_RESET_STATUS_RESULT 1 else s
  raiseIrq (setF s .chip 0 f_CHIP_RESET_STATUS_BUSY 0) .chip 0 4

/-- The cells of a draining unit issue nothing further (R554). -/
def stopCells (s : State) (cs : List Nat) : State := cs.foldl (fun s c => setCell s c { cell s c with resetting := true }) s

/-- A frozen page thaws (R495). -/
def thaw (s : State) (k : PageKind) (i : Nat) : State :=
  if frozen s k i then setF s k i f_COMMON_PAGE_STATUS_FROZEN 0 else s

/-- The pages of a unit and of the units inside it, whose resets its own contains (R554, R556), thaw. -/
def thawUnit (s : State) (sc u : Nat) : State :=
  match sc with
  | 0 => thaw s .cell u
  | 1 => (cellsIn s u).foldl (fun s c => thaw s .cell c) (thaw s .block u)
  | _ => (cellsOfRegion u).foldl (fun s c => thaw s .cell c) ((blocksOfRegion u).foldl (fun s b => thaw s .block b) (thaw s .region u))

/-- A unit absorbs (R553, R555). -/
def absorbUnit (s : State) (sc u : Nat) : State :=
  let s := abandonUnit s sc u
  stopIdle (match sc with
  | 0 => thawUnit (absorbCell true s u) 0 u
  | 1 => thawUnit (absorbBlock s u) 1 u
  | _ => heldFlags (thawUnit (absorbRegion s u) 2 u) u)

/-- A request by RESET_CMD for a cell, block or region (R552 to R556). -/
def unitReset (sc u : Nat) (s : State) : State :=
  let k : PageKind := if sc = 0 then .cell else if sc = 1 then .block else .region
  if !present s k u then resetStatus s sc u 3
  else if phase s ≠ phReady && phase s ≠ phRun then resetStatus s sc u 5
  else
    let inside := (match s.chores.unit with | some v => within s (sc, u) v | none => false) || s.chores.parts.any (inPart s (sc, u))
    let isOver := match s.chores.unit with | some v => within s v (sc, u) | none => false
    if inside then resetStatus s sc u 0
    else if (s.chores.unit.isSome && !isOver) || !s.chores.parts.isEmpty then resetStatus s sc u 2
    else
      let s := setF (resetStatus s sc u 0) .chip 0 f_CHIP_RESET_STATUS_BUSY 1
      if sc = 0 then resetEnded (absorbUnit s sc u)
      else stopCells { s with chores := { s.chores with unit := some (sc, u), drainAt := s.time.toNat } } (unitCells s sc u)

/-- A write of RESET_CMD by host software. -/
def resetCmd (secure : Bool) (sc u : Nat) (s : State) : State := hostCmd s secure .chip 0 o_CHIP_RESET_CMD (unitReset sc u)

/-- Exec CELL_RESET. -/
def execCellReset (secure : Bool) (c : Nat) (s : State) : Host.Outcome State Fault Refusal := run (c < 65536) s (resetCmd secure 0 c)
/-- Exec BLOCK_RESET. -/
def execBlockReset (secure : Bool) (b : Nat) (s : State) : Host.Outcome State Fault Refusal := run (b < 65536) s (resetCmd secure 1 b)
/-- Exec REGION_RESET. -/
def execRegionReset (secure : Bool) (r : Nat) (s : State) : Host.Outcome State Fault Refusal := run (r < 65536) s (resetCmd secure 2 r)

/-! ## Partitions (R193, R248, R555) -/

/-- A register returns to its reset value in its three copies. -/
def clearReg (s : State) (k : PageKind) (i off : Nat) : State :=
  let v := regReset s.part k i off
  setReg (setStg (setShd s k i off v) k i off v) k i off v

/-- The special-function stores of a block after a partition reset (R193). A load that is BUSY then is dropped, with neither DONE nor
ERR (DESIGN CHOICE, log entry 172). -/
def clearSf (s : State) (b : Nat) : State :=
  let s := setBlock s b { run := (block s b).run }
  setF3 s .block b f_BLOCK_SF_CTRL_ACTIVE_BANK 0

/-- A region's part of a partition reset: groups go without events, reaches enter OFF, flags and their registers clear. -/
def clearRegion (s : State) (r : Nat) : State :=
  let s := abandonUnit s 2 r
  let s := (cellsOfRegion r).foldl (absorbCell false) s
  let s := (blocksOfRegion r).foldl (fun s b => clearSf (if reachState s b = rOff then s else reachOff s b) b) s
  let s := setRegion s r {}
  let s := (List.range 256).foldl (fun s e => clearReg s .region r (o_REGION_FLAG_XLAT e)) s
  thawUnit ([o_REGION_FLAG_INGRESS, o_REGION_FLAG_WORLD, o_REGION_FE_CTRL].foldl (fun s o => clearReg s .region r o) s) 2 r

/-- A partition reset ends (R248). -/
def partDone (s : State) (p : Nat) : State :=
  let s := stopIdle ((regionsOfPart s p).foldl clearRegion s)
  let s := { s with chores := { s.chores with parts := s.chores.parts.filter (· != p) } }
  resetEnded (setF s .chip 0 (f_CHIP_PART_STATUS_RESETTING p) 0)

/-- A request by PART_CMD (R248, R552, R556). -/
def partReset (p : Nat) (s : State) : State :=
  if phase s ≠ phReady && phase s ≠ phRun then setF s .chip 0 f_CHIP_RESET_STATUS_RESULT 5
  else if s.chores.parts.contains p then s
  else
    let isOver := match s.chores.unit with | some v => inPart s v p | none => true
    if !isOver || !s.chores.parts.isEmpty then setF s .chip 0 f_CHIP_RESET_STATUS_RESULT 2
    else
      let s := { s with chores := { s.chores with unit := none, parts := [p], drainAt := s.time.toNat } }
      let s := setF (setF s .chip 0 (f_CHIP_PART_STATUS_RESETTING p) 1) .chip 0 f_CHIP_RESET_STATUS_BUSY 1
      stopCells (setF s .chip 0 f_CHIP_RESET_STATUS_RESULT 0) ((regionsOfPart s p).flatMap cellsOfRegion)

/-- Exec PART_RESET. -/
def execPartReset (secure : Bool) (p : Nat) (s : State) : Host.Outcome State Fault Refusal :=
  run (p < 8) s (fun s => hostCmd s secure .chip 0 o_CHIP_PART_CMD (partReset p))

/-- Whether a partition's cells have no request outstanding (R554). -/
def partIdle (s : State) (p : Nat) : Bool := ((regionsOfPart s p).flatMap cellsOfRegion).all (niIdle s)

/-- Exec PART_RESET_DONE. -/
def execPartResetDone (p : Nat) (s : State) : Host.Outcome State Fault Refusal :=
  run (p < 8) s (fun s => if s.chores.parts.contains p && partIdle s p then partDone s p else s)

/-! ## The end of a drain (R554) -/

/-- A block or region reset ends. -/
def unitDone (s : State) (v : Nat × Nat) : State :=
  resetEnded (absorbUnit { s with chores := { s.chores with unit := none } } v.1 v.2)

/-- RESET_DRAIN_DONE: every outstanding request of the unit has been answered or accepted. -/
def drainDone (s : State) : State :=
  match s.chores.unit with
  | some v => if (unitCells s v.1 v.2).all (niIdle s) then unitDone s v else s
  | none => s

/-- DRAIN_LIMIT_EXPIRE: the limit of DRAIN_LIM µs, 0 for 1, has passed; what is outstanding is absorbed. -/
def drainExpire (s : State) : State :=
  if s.time.toNat < s.chores.drainAt + max 1 (fld s .chip 0 f_CHIP_RESET_CTRL_DRAIN_LIM) * 1000 then s
  else match s.chores.unit with
  | some v => unitDone s v
  | none => s.chores.parts.foldl partDone s

/-- Exec RESET_DRAIN_DONE. -/
def execResetDrainDone (s : State) : Host.Outcome State Fault Refusal := run true s drainDone
/-- Exec DRAIN_LIMIT_EXPIRE. -/
def execDrainLimitExpire (s : State) : Host.Outcome State Fault Refusal := run true s drainExpire

end Sys2Proof.Machine
end

