-- ==== Sys2Proof/Machine/Chk.lean ====
section
/-! DEFINITION. The check-value engines (R397 to R400, R404). -/
namespace Sys2Proof.Machine

/-- A check-value engine. -/
def chkOf (s : State) (n : Nat) : Chk := mget {} s.chk n
def setChk (s : State) (n : Nat) (v : Chk) : State := { s with chk := mset {} s.chk n v }

/-- CHK.STATUS errors: 1 POISON, 2 DEAD, 3 ACCESS, 4 TIMEOUT, 5 CONFIG. -/
def chkError (s : State) (n code a : Nat) : State :=
  let s := setChk s n { job := none, result := 0, addr := a }
  let s := setF (setF s .chk n f_CHK_STATUS_STATE 3) .chk n f_CHK_STATUS_ERR code
  raiseIrq s .chk n 2

/-- All ones in the width of a CRC. -/
def crcOnes (crc64 : Bool) : Nat := if crc64 then 2 ^ 64 - 1 else 2 ^ 32 - 1

/-- The fold of R397. -/
def chkFold (s : State) (n fold src : Nat) (crc64 : Bool) : Nat :=
  match fold with
  | 1 => if crc64 then src / 256 else crcG (src / 256)
  | 2 =>
    let q := (reg s .chk n o_CHK_SEQ_LO).toNat + (reg s .chk n o_CHK_SEQ_HI).toNat * 2 ^ 32
    if crc64 then q else q % 2 ^ 32
  | _ => 0

/-- CHK_GO: the write of CHK.CTRL with GO set (R398, R400). -/
def chkGo (n : Nat) (secure : Bool) (w : W32) (s : State) : State :=
  let s := setReg s .chk n o_CHK_CTRL (BitVec.ofNat 32 (w.toNat % 2 ^ 31) &&& 0x4E007F00)
  if fld s .chk n f_CHK_STATUS_STATE = 1 then raiseIrq (setF s .chk n f_CHK_STATUS_REFUSED 1) .chk n 3
  else
    let s := setF (setF s .chk n f_CHK_STATUS_ERR 0) .chk n f_CHK_STATUS_MISMATCH 0
    let mode := flag s .chk n f_CHK_CTRL_MODE
    let fold := fld s .chk n f_CHK_CTRL_FOLD
    let crc64 := flag s .chk n f_CHK_CTRL_ALGO
    let src := (reg s .chk n o_CHK_SRC_LO).toNat + fld s .chk n f_CHK_SRC_HI_ADDR_HI * 2 ^ 32
    let len := (reg s .chk n o_CHK_LEN).toNat
    if len = 0 || fold = 3 || (mode && fold = 1) then chkError s n 5 0
    else
      let lbl : Byte := if phase s = phRun then
        BitVec.ofNat 8 (fld s .chk n f_CHK_CTRL_CLASS * 16 + fld s .chk n f_CHK_CTRL_PART) else 0x60
      let expect := BitVec.ofNat 64 ((reg s .chk n o_CHK_EXPECT_LO).toNat + (reg s .chk n o_CHK_EXPECT_HI).toNat * 2 ^ 32)
      let job : ChkJob := { src := src, len := len, pos := 0, crc64 := crc64, reg := crcOnes crc64 ^^^ chkFold s n fold src crc64
                            ek600 := mode, expect := expect, label := lbl, secure := secure }
      setF (setChk s n { job := some job }) .chk n f_CHK_STATUS_STATE 1

/-- Exec CHK_GO. -/
def execChkGo (secure : Bool) (n : Nat) (w : W32) (s : State) : Host.Outcome State Fault Refusal :=
  run (n < 16 && !frozen s .chk n) s (fun s => hostCmd s secure .chk n o_CHK_CTRL (chkGo n (hostSecure s secure) w))

/-- The bytes of a line that a job takes next: address and number. -/
def chkNext (j : ChkJob) : Nat × Nat :=
  let a := (j.src + j.pos) % 2 ^ 48
  (a, min (256 - a % 256) (j.len - j.pos))

/-- Bytes of a line reach a job: a poisoned word among them ends it; otherwise the CRC goes on. -/
def chkLand (s : State) (n : Nat) (j : ChkJob) (d : Line) (p : BitVec 32) : State :=
  let (a, k) := chkNext j
  let o := a % 256
  match (List.range k).find? (fun i => bitN p.toNat ((o + i) / 8)) with
  | some i => chkError s n 1 (a + i)
  | none =>
    let bytes := ((lineBytes d).drop o).take k
    let j := { j with pos := j.pos + k, out := none, reg := crcBytes (if j.crc64 then poly64 else polyC) j.reg bytes }
    setChk s n { chkOf s n with job := some j }

/-- The end of a job (R399, R400). -/
def chkFinish (s : State) (n : Nat) (j : ChkJob) : State :=
  let r : W64 := BitVec.ofNat 64 (j.reg ^^^ crcOnes j.crc64)
  let s := setF (setChk s n { job := none, result := r, addr := 0 }) .chk n f_CHK_STATUS_STATE 2
  if j.ek600 && r ≠ j.expect then raiseIrq (setF s .chk n f_CHK_STATUS_MISMATCH 1) .chk n 1
  else raiseIrq s .chk n 0

/-- Read on, line by line, until the job ends or waits for a fabric window; `fuel` bounds the lines. -/
def chkReads (n : Nat) : Nat → State → State
  | 0, s => s
  | fuel + 1, s =>
    match (chkOf s n).job with
    | none => s
    | some j =>
      if j.out.isSome then s
      else if j.len ≤ j.pos then chkFinish s n j
      else
        let a := (chkNext j).1
        match masterEntry s j.label j.secure a true false with
        | (s, .refused _) => chkError s n 3 a
        | (s', .hbm) =>
          let (s1, id) := newId s'
          (match readWhole s1 { id := id, src := .chk n, line := lineOf a, op := .read allWords, label := j.label, part := labelPart j.label, ingress := false, wins := 0 } with
          | none => s
          | some (s, d, p, dead) => chkReads n fuel (if dead then chkError s n 2 a else chkLand s n j d p))
        | (s, .window w) =>
          let (s, id) := newId s
          let pk := fabPacket s w (256 * lineOf a) j.label j.secure rdLine
          let s := setChk s n { chkOf s n with job := some { j with out := some id } }
          fabIssue s { id := id, src := .chk n, line := lineOf a, pkt := pk, win := w }

/-- CHK_JOB_DONE. -/
def chkDone (n : Nat) (s : State) : State :=
  match (chkOf s n).job with
  | none => s
  | some j => chkReads n (j.len / 256 + 3) s

/-- Exec CHK_JOB_DONE. -/
def execChkJobDone (n : Nat) (s : State) : Host.Outcome State Fault Refusal := run (n < 16 && !frozen s .chk n) s (chkDone n)

/-- The line of a fabric window returns to a job. -/
def chkReply (s : State) (n id : Nat) (r : Reply) : State :=
  match (chkOf s n).job with
  | none => s
  | some j =>
    if j.out ≠ some id then s
    else
      let a := (chkNext j).1
      match r with
      | .line d p _ _ => chkLand s n j d p
      | .data d p dead _ => if dead then chkError s n 2 a else chkLand s n j d p
      | .timeout => chkError s n 4 a
      | _ => chkError s n 3 a

end Sys2Proof.Machine
end

