-- ==== Sys2Proof/Machine/Bar2.lean ====
section
/-! DEFINITION. The BAR2 window into device memory (R479 to R483). -/
namespace Sys2Proof.Machine

/-- Outcomes of R481. -/
abbrev weNOADDR : Nat := 1
abbrev weWORLD : Nat := 2
abbrev wePARTITION : Nat := 3
abbrev wePOISON : Nat := 4
abbrev weDEAD : Nat := 5
abbrev weTIMEOUT : Nat := 6
abbrev weCHECK : Nat := 7
abbrev weNOTREADY : Nat := 8

/-- Whether the cache die serves: HBM is trained, and the phase is neither ROM nor STOPPED (R481). -/
def serving (s : State) : Bool :=
  phase s != phRom && phase s != phStopped && (List.range 8).all (fun b => fld s .hbm b f_HBM_STATUS_TRAIN == 1)

/-- The label of the window's requests (R406, R411). -/
def barLabel (s : State) : Byte := if phase s = phRun then BitVec.ofNat 8 (fld s .qos 0 f_QOS_HOST_LABEL_LABEL) else 0x90

/-- The device address of a window offset (R479). -/
def winAddr (s : State) (x : Nat) : Nat := (fld s .chip 0 f_CHIP_WIN_BASE_BASE * 2 ^ 28 + x) % 2 ^ 48

/-- The check of one line of a BAR2 request at entry (R340, R481, R520, R521): none when it passes. -/
def barEntry (s : State) (secure : Bool) (a : Nat) (write : Bool) : State × Option Nat × Option Nat :=
  let lbl := barLabel s
  match mrdCheck s a secure (!write) write (some (labelPart lbl)) with
  | some (t, n) => (secLogAdd s t 2 write 0 lbl n a, some (if t = 1 then weWORLD else wePARTITION), none)
  | none =>
    if backed (lineOf a) then (s, none, none)
    else match fwinOf s a with
    | none => (s, some weNOADDR, none)
    | some n =>
      let w := fwin s n
      if fwPart w != labelPart lbl then (s, some wePARTITION, none)
      else if fwSecure w && !secure then (secLogAdd s 6 2 write 0 lbl 0 a, some weWORLD, none)
      else if write && fwRo w then (s, some wePARTITION, none)
      else (s, none, some n)

/-- The pieces of a range at line boundaries: address and length. -/
def linePieces : Nat → Nat → Nat → List (Nat × Nat)
  | 0, _, _ => []
  | fuel + 1, a, n =>
    if n = 0 then []
    else
      let k := min n (256 - a % 256)
      (a, k) :: linePieces fuel (a + k) (n - k)

/-! ## Writes -/

/-- Whether a line's served copy, or its mark in the check table, is dead. -/
def lineDead (s : State) (l : Nat) : Bool :=
  match servedKey s l with
  | some (sl, key) => (wayAt s sl key).dead
  | none => entryOf s l == deadValue l

/-- The byte mask of a piece and its data, placed in their line. -/
def pieceMask (a : Nat) (en : List Bool) : BitVec 256 :=
  BitVec.ofNat 256 ((packN 1 (fun i => b2n (en.getD i false)) en.length) <<< (a % 256))
def pieceData (a : Nat) (bytes : List Byte) : Line := BitVec.ofNat 2048 (ofBytes bytes <<< (8 * (a % 256)))

/-- Perform one piece of a write: its line's address, bytes and byte enables; `whole` marks a TLP that covers a line, `ep` its EP
bit (R376, R382). None: the line is held, and the write waits. -/
def writePiece (secure whole ep : Bool) (a : Nat) (bytes : List Byte) (en : List Bool) (s : State) : Option State :=
  let lbl := barLabel s
  match barEntry s secure a true with
  | (s, some c, _) => some (winError s a true c)
  | (s, none, some w) =>
    let (s, id) := newId s
    let m := pieceMask a en
    let pm : BitVec 32 := if ep then wordsTouched m >>> (a % 256 / 8) else 0
    let pk := fabPacket s w a lbl secure { type := 2, vc := 0, zl := false, len := bytes.length, payload := bytes, pmask := pm }
    let s := { s with link := { s.link with writes := s.link.writes ++ [(id, a)] } }
    some (fabIssue s { id := id, src := .bar2, line := lineOf a, pkt := pk, win := w })
  | (s, none, none) =>
    let l := lineOf a
    let m := pieceMask a en
    let d := pieceData a bytes
    let pois : BitVec 32 := if ep then wordsTouched m else 0
    let chk : W32 := if whole then checkValue .plain l d else 0
    let (s, id) := newId s
    let q : Req := { id := id, src := .bar2, line := l, op := .write d m pois whole chk none, label := lbl, part := labelPart lbl, ingress := false, wins := 0 }
    match syncAccess s q with
    | none => none
    | some (s, _) => some (if !whole && lineDead s l then winError s a true weDEAD else s)

/-- The runs of enabled bytes of a piece, each with its address: a packet carries contiguous bytes only. -/
def enRuns (a : Nat) : List Byte → List Bool → List (Nat × List Byte)
  | b :: bs, true :: es =>
    match enRuns (a + 1) bs es with
    | (a', r) :: t => if a' = a + 1 then (a, b :: r) :: t else (a, [b]) :: (a', r) :: t
    | [] => [(a, [b])]
  | _ :: bs, false :: es => enRuns (a + 1) bs es
  | _, _ => []

/-- The pieces of a write TLP: one for each line, or each run of bytes where the line lies in a fabric window. -/
def writePieces (s : State) (a : Nat) (bytes : List Byte) (en : List Bool) : List (Nat × List Byte × List Bool) :=
  (linePieces 3 a bytes.length).flatMap (fun p =>
    let bs := (bytes.drop (p.1 - a)).take p.2
    let es := (en.drop (p.1 - a)).take p.2
    let a' := p.1 % 2 ^ 48
    if backed (lineOf a') then [(a', bs, es)]
    else if (fwinOf s a').isSome then (enRuns a' bs es).map (fun r => (r.1, r.2, r.2.map (fun _ => true)))
    else [(a', bs, es)])

/-- Perform the pieces of a write in turn; none when one must wait. -/
def writeAll (secure whole ep : Bool) : List (Nat × List Byte × List Bool) → State → Option State
  | [], s => some s
  | (a, b, e) :: t, s =>
    if e.all (! ·) then writeAll secure whole ep t s
    else match writePiece secure whole ep a b e s with
      | none => none
      | some s => writeAll secure whole ep t s

/-- BAR2_WRITE: a write TLP at window offset `x`, with a byte enable for each byte. Once the core clock has stopped the bridge holds
what is offered to it, until PERST# (R30, R606). -/
def bar2Write (secure : Bool) (x : Nat) (bytes : List Byte) (en : List Bool) (ep : Bool) (s : State) : State :=
  let secure := hostSecure s secure
  let a := winAddr s x
  if !s.link.up || s.pkg.noClock then s
  else if !serving s then winError s a true weNOTREADY
  else
    let whole := a % 256 == 0 && bytes.length == 256 && en.all id
    (writeAll secure whole ep (writePieces s a bytes en) s).getD s

/-- Exec BAR2_WRITE. -/
def execBar2Write (secure : Bool) (x : Nat) (bytes : List Byte) (en : List Bool) (ep : Bool) (s : State) : Host.Outcome State Fault Refusal :=
  run (x < 2 ^ 28 && 0 < bytes.length && bytes.length ≤ 256 && x + bytes.length ≤ 2 ^ 28 && en.length == bytes.length) s
    (bar2Write secure x bytes en ep)

/-! ## Reads -/

/-- Return the pieces of each read in ascending order, as far as they have come (R480). -/
def flushReads : List Nat → List BarPiece → List OutMsg × List BarPiece
  | _, [] => ([], [])
  | stuck, p :: t =>
    match p.got with
    | some (b, ep) =>
      if stuck.contains p.rd then
        let (o, r) := flushReads stuck t
        (o, p :: r)
      else
        let (o, r) := flushReads stuck t
        (.bar2Data p.addr b ep :: o, r)
    | none =>
      let (o, r) := flushReads (p.rd :: stuck) t
      (o, p :: r)

/-- Put out what can be returned. -/
def barFlush (s : State) : State :=
  let (o, r) := flushReads [] s.link.reads
  { s with out := s.out ++ o, link := { s.link with reads := r } }

/-- What a piece of a read returns: bytes, EP, and the cause that is captured (R481). -/
def readResult (a n : Nat) (d : Line) (p : BitVec 32) (dead ok : Bool) : List Byte × Bool × Option Nat :=
  let o := a % 256
  let bytes := ((lineBytes d).drop o).take n
  if dead then (List.replicate n 0, true, some weDEAD)
  else if !ok then (bytes, true, some weCHECK)
  else if (wordsTouched (byteMask o n)) &&& p ≠ 0 then (bytes, true, some wePOISON)
  else (bytes, false, none)

/-- A piece of a read has its result. -/
def pieceGot (s : State) (rd a n : Nat) (r : List Byte × Bool × Option Nat) : State :=
  let s := match r.2.2 with
    | some c => winError s a false c
    | none => s
  { s with link := { s.link with reads := s.link.reads ++ [⟨rd, a, n, none, some (r.1, r.2.1)⟩] } }

/-- Perform the pieces of a read in turn. A refused piece ends the read with Completer Abort. None: it must wait. -/
def readPieces (secure : Bool) (rd : Nat) : List (Nat × Nat) → State → Option State
  | [], s => some s
  | (a, n) :: t, s =>
    let lbl := barLabel s
    let a := a % 2 ^ 48
    match barEntry s secure a false with
    | (s, some c, _) => some (emit (winError s a false c) (.bar2Abort a))
    | (s, none, some w) =>
      if s.link.writes.any (fun x => lineOf x.2 == lineOf a) then none
      else
        let (s, id) := newId s
        let pk := fabPacket s w a lbl secure { rdLine with len := n }
        let s := { s with link := { s.link with reads := s.link.reads ++ [⟨rd, a, n, some id, none⟩] } }
        readPieces secure rd t (fabIssue s { id := id, src := .bar2, line := lineOf a, pkt := pk, win := w })
    | (s, none, none) =>
      let (s, id) := newId s
      match readLineNow s { id := id, src := .bar2, line := lineOf a, op := .read allWords, label := lbl, part := labelPart lbl, ingress := false, wins := 0 } with
      | none => none
      | some (s, r) => readPieces secure rd t (pieceGot s rd a n (readResult a n r.data r.pois r.dead r.ok))

/-- BAR2_READ. -/
def bar2Read (secure : Bool) (x n : Nat) (s : State) : State :=
  let secure := hostSecure s secure
  let a := winAddr s x
  if !s.link.up || s.pkg.noClock then s
  else if !serving s then emit (winError s a false weNOTREADY) (.bar2Abort a)
  else
    let (s', rd) := newId s
    match readPieces secure rd (linePieces 18 a n) s' with
    | none => s
    | some s => barFlush s

/-- Exec BAR2_READ. -/
def execBar2Read (secure : Bool) (x n : Nat) (s : State) : Host.Outcome State Fault Refusal :=
  run (0 < n && n ≤ 4096 && x + n ≤ 2 ^ 28) s (bar2Read secure x n)

/-! ## Answers from fabric windows -/

/-- The bytes of a read return; a piece is returned once those before it are. -/
def pieceReply (s : State) (p : BarPiece) (r : List Byte × Bool × Option Nat) : State :=
  let s := match r.2.2 with
    | some c => winError s p.addr false c
    | none => s
  barFlush { s with link := { s.link with reads := s.link.reads.map (fun x => if x == p then { x with out := none, got := some (r.1, r.2.1) } else x) } }

/-- A refused read ends with Completer Abort; what is left of it is not returned. -/
def pieceAbort (s : State) (p : BarPiece) (c : Nat) : State :=
  let s := emit (winError s p.addr false c) (.bar2Abort p.addr)
  barFlush { s with link := { s.link with reads := s.link.reads.filter (fun x => x.rd != p.rd || x.addr < p.addr) } }

/-- The cause of a refusal by a destination (R342, R481): world 2, otherwise 3. -/
def statusCause (st : Nat) : Nat := if st = 0x11 then weWORLD else if st = 0x10 then weNOADDR else wePARTITION

/-- An answer to a BAR2 request through a fabric window (R343, R481). -/
def barReply (s : State) (id : Nat) (r : Reply) : State :=
  match s.link.writes.find? (fun x => x.1 == id) with
  | some x =>
    let s := { s with link := { s.link with writes := s.link.writes.filter (fun y => y.1 != id) } }
    (match r with
    | .timeout => winError s x.2 true weTIMEOUT
    | .fabStatus st => if st = 0 then s else winError s x.2 true (statusCause st)
    | _ => s)
  | none =>
    match s.link.reads.find? (fun p => p.out == some id) with
    | none => s
    | some p =>
      match r with
      | .line d pm ok _ => pieceReply s p (readResult p.addr p.len d pm false ok)
      | .data d pm dead _ => pieceReply s p (readResult p.addr p.len d pm dead true)
      | .timeout => pieceReply s p (List.replicate p.len 0, true, some weTIMEOUT)
      | .fabStatus st => pieceAbort s p (statusCause st)
      | _ => s

end Sys2Proof.Machine
end

