-- ==== Sys2Proof/Machine/Link.lean ====
section
/-! DEFINITION. The ports of the fabric: their states, link frames, replay and credits, and the grant of their egress (R318 to
R335, R357, R358, R360, R363, R364, R378, R410, R580). -/
namespace Sys2Proof.Machine

/-! ## The survey against the expected topology (R357, R358) -/

/-- Whether a port fails its expectation. -/
def portMismatch (s : State) (p : Nat) : Bool :=
  let e := fld s .fab 0 (f_FAB_TOPO_PEER_EXPECT p)
  let exact := fld s .fab 0 (f_FAB_TOPO_SW_SWITCH_ID p) == (reg s .port p o_PORT_PARTNER).toNat
    && fld s .fab 0 (f_FAB_TOPO_PEER_PARTNER_PORT p) == fld s .port p f_PORT_STATUS_PARTNER_PORT
  let secure := (!flag s .fab 0 (f_FAB_TOPO_PEER_AUTH p) || flag s .port p f_PORT_STATUS_AUTH)
    && (!flag s .fab 0 (f_FAB_TOPO_PEER_ENC p) || flag s .port p f_PORT_STATUS_ENC)
  (e == 1 || e == 2) && !(portState s p == pActive && (e == 1 || exact) && secure)

/-- Whether a required range is not wholly reachable. -/
def rangeMiss (s : State) (k : Nat) : Bool :=
  let lo := fld s .fab 0 (f_FAB_TOPO_RANGE_EID_LO k)
  let hi := fld s .fab 0 (f_FAB_TOPO_RANGE_EID_HI k)
  bitN (fld s .fab 0 f_FAB_TOPO_CTRL_RANGE_EN) k && lo ≤ hi && !(rangesMinus [(lo, hi)] (reachRanges s)).isEmpty

/-- Whether the surveyed topology matches. -/
def topoMatches (s : State) : Bool :=
  !(List.range 24).any (portMismatch s) && !(List.range 16).any (rangeMiss s)

/-- A change of AGREE. -/
def setAgree (s : State) (on : Bool) : State :=
  raiseIrq (fabEvent (setF s .fab 0 f_FAB_TOPO_STATUS_AGREE (b2n on)) (if on then 9 else 10) 31 0 0 0) .fab 0 1

/-- The survey or the expected topology has changed. -/
def surveyChanged (s : State) : State :=
  let s := setF s .fab 0 f_FAB_TOPO_STATUS_PORT_MISMATCH (packN 1 (fun p => b2n (portMismatch s p)) 24)
  let s := setF s .fab 0 f_FAB_TOPO_MISS_RANGE_MISS (packN 1 (fun k => b2n (rangeMiss s k)) 16)
  let s := { s with fab := { s.fab with settleFrom := s.time.toNat } }
  if flag s .fab 0 f_FAB_TOPO_STATUS_AGREE && !topoMatches s then setAgree s false else s

/-- Whether a match waits out the settle time, as SETTLING shows (R358). -/
def settling (s : State) : Bool := topoMatches s && !flag s .fab 0 f_FAB_TOPO_STATUS_AGREE

/-- TOPO_SETTLE_EXPIRE: the topology has matched for FAB.CTRL.SETTLE milliseconds (R358). -/
def topoSettle (s : State) : State :=
  if settling s && s.fab.settleFrom + fld s .fab 0 f_FAB_CTRL_SETTLE * 1000000 ≤ s.time.toNat then setAgree s true else s

/-- Exec TOPO_SETTLE_EXPIRE. -/
def execTopoSettleExpire (s : State) : Host.Outcome State Fault Refusal := run (!frozen s .fab 0) s topoSettle

/-! ## States of a port (R320, R321, R360) -/

/-- Whether the link of a port carries packets. -/
def linkUp (s : State) (p : Nat) : Bool :=
  let st := portState s p
  st == pLinking || st == pAuth || st == pActive || (st == pHold && (port s p).back)

/-- A port leaves ACTIVE and enters HOLD; `keys` tells whether its keys stay good (R364). What it has not sent of the unordered
requests takes another port (R361). -/
def enterHold (keys : Bool) (p : Nat) (s : State) : State :=
  let q := port s p
  let s := setPort s p { q with downAt := some s.time.toNat, back := false, flapReplays := 0, tagFailed := q.tagFailed || !keys, keys := if keys then q.keys else none }
  let s := if keys then s else setF (setF s .port p f_PORT_STATUS_AUTH 0) .port p f_PORT_STATUS_ENC 0
  surveyChanged (routesChanged (unsend (setPortState s p pHold) p))

/-- A port gives up its link and enters a state: its replay buffer and what waits at its egress are discarded but for unordered
requests, which go back to their NIs (R361); its reachability is cleared (R355, R360, R362). -/
def dropLink (p st : Nat) (s : State) : State :=
  let s := unsend s p
  let q := port s p
  let left := if portState s p = pActive then some s.time.toNat else q.downAt
  let s := setPort s p { rxQ := q.rxQ, grants := q.grants, wrr := q.wrr, downAt := left, stateAt := q.stateAt }
  let s := setF (setF s .port p f_PORT_STATUS_AUTH 0) .port p f_PORT_STATUS_ENC 0
  surveyChanged (routesChanged (reachDel (setPortState s p st) p [(0, 65535)]))

/-- A port in HOLD departs (R356, R360). -/
def depart (p : Nat) (s : State) : State := dropLink p pDown (fabEvent s 2 p 0 0 0)

/-- A port returns from HOLD to ACTIVE (R356, R360). -/
def flap (p : Nat) (s : State) : State :=
  let q := port s p
  let s := bump (fabEvent s 3 p 0 0 (min 255 q.flapReplays)) .port p o_PORT_FLAPS 1
  let s := setPortState (setPort s p { q with downAt := none, back := false, resent := 0 }) p pActive
  surveyChanged (routesChanged s)

/-- EN of a port or of the fabric took effect (R320, R321). -/
def portEnabled (p : Nat) (s : State) : State :=
  let en := flag s .port p f_PORT_CTRL_EN && flag s .fab 0 f_FAB_CTRL_EN
  if !en then (if portState s p = pDisabled then s else dropLink p pDisabled s)
  else if portState s p = pDisabled then setPortState s p pDown
  else s

/-- Exec PORT_SIGNAL_DETECT. -/
def execPortSignalDetect (p : Nat) (s : State) : Host.Outcome State Fault Refusal :=
  run (p < 24 && !portFrozen s p) s (fun s => if portState s p = pDown then setPortState s p pTraining else s)

/-- PORT_RETRY_TIMER: 100 ms after the port went DOWN or was last tried, with a signal or without (R320). -/
def portRetry (p : Nat) (signal : Bool) (s : State) : State :=
  if portState s p ≠ pDown || s.time.toNat < (port s p).stateAt + 100000000 then s
  else if signal then setPortState s p pTraining
  else setPort s p { port s p with stateAt := s.time.toNat }

/-- Exec PORT_RETRY_TIMER. -/
def execPortRetryTimer (p : Nat) (signal : Bool) (s : State) : Host.Outcome State Fault Refusal := run (p < 24 && !portFrozen s p) s (portRetry p signal)

/-- Exec PORT_LOCK_LOSS. -/
def execPortLockLoss (p : Nat) (s : State) : Host.Outcome State Fault Refusal :=
  run (p < 24 && !portFrozen s p) s (fun s => if portState s p = pActive then enterHold true p s else s)

/-- LINK_HOLD_EXPIRE: FAB.CTRL.HOLD milliseconds after the port left ACTIVE (R321, R360). -/
def holdExpire (p : Nat) (s : State) : State :=
  if portState s p = pHold && ((port s p).downAt.getD 0) + fld s .fab 0 f_FAB_CTRL_HOLD * 1000000 ≤ s.time.toNat then depart p s else s

/-- Exec LINK_HOLD_EXPIRE. -/
def execLinkHoldExpire (p : Nat) (s : State) : Host.Outcome State Fault Refusal := run (p < 24 && !portFrozen s p) s (holdExpire p)

/-! ## Sending (R330, R331, R334, R363) -/

/-- Headers and data units that the partner's buffers still take on a VC. -/
def creditLeft (s : State) (p v : Nat) : Nat × Nat :=
  let q := port s p
  let i := match q.hello with
    | some h => h.credits.getD v (0, 0)
    | none => (0, 0)
  (i.1 + mget 0 q.hdr v - mget 0 q.usedH v, i.2 + mget 0 q.data v - mget 0 q.usedD v)

/-- Bytes that wait in a replay buffer. -/
def replayBytes (s : State) (p : Nat) : Nat := ((port s p).replay.map (fun r => wireLen false r.2)).sum

/-- Whether a port's state lets a packet leave: an ACTIVE port carries traffic once the device has an EID (R354), a secure packet
only while it is SECURE_OK (R365); every other link that is up carries management messages only (R320). -/
def carries (s : State) (p : Nat) (k : Packet) : Bool :=
  (portState s p == pActive && (k.type == 7 || (ownEid s).isSome) && (!k.world || secureOk s p)) || (k.type == 7 && linkUp s p)

/-- Whether a port may send a packet now: its state lets it leave; it has credits (a HELLO goes before credits are known); the
replay buffer has room (R333, R334). -/
def sendable (s : State) (p : Nat) (k : Packet) : Bool :=
  let c := creditLeft s p k.vc
  carries s p k && replayBytes s p + wireLen false k ≤ 96 * 1024
    && ((port s p).hello.isNone || (1 ≤ c.1 && unitsOf k ≤ c.2))

/-- Whether a packet belongs to the exchange that ends with AUTH, and so is never encrypted (R351, R363). -/
def inClear (k : Packet) : Bool := k.type == 7 && k.opst ≤ 5

/-- Put a packet on the wire under its sequence number; an encrypted port's counter advances (R363). -/
def transmit (s : State) (p seq : Nat) (k : Packet) : State :=
  let q := port s p
  let key := if flag s .port p f_PORT_STATUS_ENC && !inClear k then q.keys.map (fun x => (x.1, q.salts.1, q.txCtr)) else none
  let b := packetBytes key seq ((q.rxSeq + 2 ^ 24 - 1) % 2 ^ 24) k
  let s := emit (setPort s p { q with txCtr := if key.isSome then q.txCtr + 1 else q.txCtr }) (.fabTx p b)
  bump s .port p o_PORT_TX_BYTES b.length

/-- Whether the trace takes a record of a packet at a port (R580). -/
def fabTraced (s : State) (p : Nat) (k : Packet) : Bool :=
  flag s .trace 0 f_TRACE_FAB_CTRL_EN && bitN (fld s .trace 0 f_TRACE_FAB_PORTS_PORTS) p && traceSrc s 1
    && [1, 2, 4, 5, 6, 8, 9].contains k.type && !bitN k.tag 15 && k.tag % 2 ^ fld s .trace 0 f_TRACE_FAB_CTRL_RATE == 0

/-- A FAB_SEND (3) or FAB_RECV (4) record (R579, R580). -/
def fabRecord (s : State) (type p : Nat) (k : Packet) : State :=
  if fabTraced s p k then
    stageRecord s (recordOf s type k.label p (k.tag % 65536 + (k.seid % 65536) <<< 16 + (k.deid % 65536) <<< 32 + k.type <<< 48 + k.vc <<< 56))
  else s

/-- R378: a whole line whose check value fails as the port forms the packet leaves poisoned. -/
def egressCheck (k : Packet) : Packet :=
  let whole := (k.type == 2 || k.type == 3 || k.type == 8) && k.payload.length == 256
  if whole && k.pmask = 0 && checkValue .plain (k.off / 256) (BitVec.ofNat 2048 (ofBytes k.payload)) ≠ k.check then
    { k with pmask := allWords }
  else k

/-- The first transmission of a packet. -/
def sendFirst (s : State) (p : Nat) (e : EgressEnt) : State :=
  let k := egressCheck e.pkt
  let q := port s p
  let seq := q.txSeq
  let s := setPort s p { q with
    txSeq := (seq + 1) % 2 ^ 24
    progAt := if q.replay.isEmpty then s.time.toNat else q.progAt
    replay := q.replay ++ [(seq, k)]
    usedH := if q.hello.isNone then q.usedH else mset 0 q.usedH k.vc (mget 0 q.usedH k.vc + 1)
    usedD := if q.hello.isNone then q.usedD else mset 0 q.usedD k.vc (mget 0 q.usedD k.vc + unitsOf k) }
  let s := bump (transmit s p seq k) .fab 0 o_FAB_TX_PKTS 1
  if e.quiet then s else fabRecord s 3 p k

/-- A waiting packet as a candidate (R410): its class is that of its label, of a response outside RUN the fixed class of ingress
(R36, R411). -/
def portCand (s : State) (e : EgressEnt) : Cand :=
  ⟨e.part, if e.pkt.vc = 1 && phase s ≠ phRun then 10 else e.pkt.label.toNat / 16, e.pkt.vc,
    (match e.lead with | some b => reachSpate s b | none => false), e.pkt.vc == 3⟩

/-- Whether a packet of the queue goes before another: an earlier one of its ordered flow (R349), and before a flush every earlier
WRP of its path (R345, R350). -/
def goesBefore (k x : Packet) : Bool :=
  if isFlush k then isWrp x && x.deid == k.deid else k.ord && x.ord && !isFlush x && flowKey x == flowKey k

/-- The packets of a port's queue that it could send now, with their places: a packet that the port may not send yet, or that
another goes before, holds back the later ones of its partition, class and VC. -/
def readyAt (s : State) (p : Nat) : List (Nat × Cand) :=
  let q := (port s p).queue
  let all := q.map (portCand s)
  (List.range q.length).filterMap (fun j =>
    match q[j]?, all[j]? with
    | some e, some c =>
      if firstOfKind all j c && sendable s p e.pkt && !((q.take j).any (fun x => goesBefore e.pkt x.pkt)) then some (j, c) else none
    | _, _ => none)

/-- QOS_GRANT at a port's egress: the packet at place `i` of its queue is sent (R335, R410). -/
def grantPort (p i : Nat) (s : State) : State :=
  let q := port s p
  let ready := readyAt s p
  let cs := ready.map (·.2)
  match q.queue[i]?, ready.findIdx? (·.1 == i) with
  | some e, some n =>
    if !mayGrant s q.grants q.wrr cs n then s
    else
      let c := portCand s e
      let s' := setPort s p { q with
        queue := q.queue.eraseIdx i
        grants := pushGrant q.grants (spateGrant c)
        wrr := afterGrant s q.grants q.wrr cs c }
      pump (sendFirst (countGrant s' (spateGrant c)) p e)
  | _, _ => s

/-- QOS_GRANT. -/
def execQosGrant (a : Arb) (s : State) : Host.Outcome State Fault Refusal :=
  match a with
  | .slice sl id => run (sl < 128 && !sliceFrozen s sl && !frozen s .qos 0) s (grantSlice sl id)
  | .hbm o sl line write => run (o < 128 && sl < 128 && !frozen s .hbm (o / 16) && !frozen s .qos 0) s (grantHbm o sl line write)
  | .port p i => run (p < 24 && !portFrozen s p) s (grantPort p i)

/-- A management message for the partner (R351), with the fixed label of R411: it needs no slot of R409. -/
def sendMsg (s : State) (p op : Nat) (payload : List Byte) : State :=
  let q := port s p
  let k : Packet := { type := 7, vc := 3, opst := op, zl := payload.isEmpty, len := max 1 payload.length, seid := (ownEid s).getD 0, label := 0xF0, payload := payload }
  setPort s p { q with queue := q.queue ++ [{ pkt := k, part := 0, lead := none, resv := false }] }

/-- A management message of given contents, whose layout the spec leaves open (R351). -/
def sendSurvey (s : State) (p op : Nat) (contents : List (List Byte)) : State := sendMsg s p op ((Config.message op contents).take 256)

/-! ## Acknowledgement and replay (R331 to R333) -/

/-- The partner has received everything up to a sequence number. -/
def acked (p ack : Nat) (s : State) : State :=
  let q := port s p
  let rest := q.replay.filter (fun r => (ack + 2 ^ 24 - r.1) % 2 ^ 24 ≥ 2 ^ 23)
  if rest.length = q.replay.length then s else setPort s p { q with replay := rest, resent := 0, progAt := s.time.toNat }

/-- Resend every unacknowledged packet that the port's state lets leave (R333, R365); the ninth time without progress takes the port
to HOLD. -/
def replayAll (p : Nat) (s : State) : State :=
  let q := port s p
  if q.replay.isEmpty || !linkUp s p then s
  else if q.resent ≥ 8 then (if portState s p = pActive then enterHold true p s else s)
  else
    let n := if portState s p = pHold then q.flapReplays + 1 else q.flapReplays
    let s := bump (setPort s p { q with resent := q.resent + 1, flapReplays := n, progAt := s.time.toNat }) .port p o_PORT_REPLAYS 1
    (q.replay.filter (fun r => carries s p r.2)).foldl (fun s r => transmit s p r.1 r.2) s

/-- REPLAY_TIMEOUT: 10 µs have passed without progress of ACKSEQ (R333). -/
def replayTimeout (p : Nat) (s : State) : State := if (port s p).progAt + 10000 ≤ s.time.toNat then replayAll p s else s

/-- Exec REPLAY_TIMEOUT. -/
def execReplayTimeout (p : Nat) (s : State) : Host.Outcome State Fault Refusal := run (p < 24 && !portFrozen s p) s (replayTimeout p)

/-- LCP_TIMER: a count has changed, and 1 µs has passed without an LCP (R330). -/
def lcpTimer (p : Nat) (s : State) : State :=
  if linkUp s p && (port s p).changed && (port s p).lcpAt + 1000 ≤ s.time.toNat then sendLcp s p false else s

/-- Exec LCP_TIMER. -/
def execLcpTimer (p : Nat) (s : State) : Host.Outcome State Fault Refusal := run (p < 24 && !portFrozen s p) s (lcpTimer p)

/-- A cumulative count of the partner, extended from its low bits. -/
def extendCount (old lo m : Nat) : Nat := old + (lo + m - old % m) % m

/-- A link control packet that passed its CRC. -/
def lcpIn (p w : Nat) (s : State) : State :=
  let q := port s p
  let s := setPort s p { q with
    hdr := (List.range 4).foldl (fun m v => mset 0 m v (extendCount (mget 0 m v) (bitsN w (32 * v + 89) (32 * v + 80)) 1024)) q.hdr
    data := (List.range 4).foldl (fun m v => mset 0 m v (extendCount (mget 0 m v) (bitsN w (32 * v + 75) (32 * v + 64)) 4096)) q.data }
  let s := acked p (bitsN w 47 24) s
  if bitN w 59 then replayAll p s else s

/-- Exec LCP_RECEIVED. -/
def execLcpReceived (p : Nat) (w : BitVec 256) (s : State) : Host.Outcome State Fault Refusal :=
  run (p < 24 && !portFrozen s p) s (fun s =>
    let n := w.toNat
    if !linkUp s p then s
    else
      let s := bump s .port p o_PORT_RX_BYTES 32
      if bitsN n 63 60 == 0xE && lcpCrc n == n % 65536 then pump (lcpIn p n s) else s)

/-! ## Receiving (R326, R329, R332, R363, R364) -/

/-- The parts of a received packet: header and payload, LCRC, trailer bits [63:32], and the counter and tag of an encrypted
port. -/
def splitPacket (enc : Bool) (bytes : List Byte) : List Byte × Nat × List Byte × List Byte :=
  let n := bytes.length - (if enc then 32 else 8)
  let rest := bytes.drop n
  (bytes.take n, ofBytes (rest.take 4), (rest.drop 4).take 4, rest.drop 8)

/-- The packet that header and payload spell: a continuation extends the train before it, with no poison, no TS and an operation
code or status of 0 (R329). None: a continuation without a train. -/
def decodePacket (train : Option (Nat × Packet)) (body : List Byte) : Option Packet :=
  let first := ofBytes (body.take 8)
  if bitsN first 63 60 = 0xF then
    match train with
    | none => none
    | some (n, t) =>
      if n ≥ 16 then none
      else
        let off := if t.type = 8 then t.off else t.off + 256
        some { t with tag := bitsN first 59 44, check := BitVec.ofNat 32 first, pmask := 0, ts := 0, opst := 0, off := off, payload := body.drop 8 }
  else some (headerOf (ofBytes (body.take 32)) (body.drop 32))

/-- The train that a packet begins or extends. -/
def trainAfter (train : Option (Nat × Packet)) (cont : Bool) (k : Packet) : Option (Nat × Packet) :=
  if (k.type == 2 || k.type == 3 || k.type == 8) && k.payload.length == 256 then
    (match train with
    | some (n, _) => some (if cont then n + 1 else 1, k)
    | none => some (1, k))
  else none

/-- The device's buffers no longer hold a packet of a VC (R330). -/
def freeCredit (s : State) (p : Nat) (k : Packet) : State :=
  let q := port s p
  setPort s p { q with freedH := mset 0 q.freedH k.vc (mget 0 q.freedH k.vc + 1), freedD := mset 0 q.freedD k.vc (mget 0 q.freedD k.vc + unitsOf k), changed := true }

/-- Take the oldest received packet that a command acts on. -/
def popRx (s : State) (p : Nat) (want : Packet → Bool) : Option (Packet × State) :=
  let q := port s p
  match q.rxQ.find? want with
  | none => none
  | some k => some (k, freeCredit (setPort s p { q with rxQ := q.rxQ.eraseP want }) p k)

/-- The port of a response (R348): the one that reaches its source with the fewest bytes queued; while none does, the request's own
port, where it waits (R362). None: that port has departed. -/
def answerPort (s : State) (p : Nat) (r : Packet) : Option Nat :=
  match choosePort s r with
  | some q => some q
  | none => if portState s p = pActive || portState s p = pHold then some p else none

/-- Answer an ingress request (R342): a response on VC 1, charged as ingress (R407); the refusal of a secure request at a port that
is not SECURE_OK is not secure itself (R365). A response whose port has departed is discarded (R362). None: no slot is free, or the
device has no EID yet (R354). -/
def ingressAnswer (s : State) (p : Nat) (k : Packet) (r : Packet) : Option State :=
  let r := { r with vc := 1, seid := k.deid, deid := k.seid, tag := k.tag, off := k.off, label := k.label, world := k.world && secureOk s p }
  if (ownEid s).isNone then none
  else match answerPort s p r with
    | none => some s
    | some n =>
      (enqueue s n r (ingressPart s) none).map (fun s =>
        if isFlush k then
          let q := port s n
          setPort s n { q with queue := q.queue.dropLast ++ q.queue.getLast?.toList.map (fun e => { e with quiet := true }) }
        else s)

/-- An ACK with a status. -/
def ackPacket (st : Nat) : Packet := { type := 9, opst := st, zl := true, len := 1 }

/-- An ingress request is refused (R341): counted, and answered with its status. None: the answer finds no slot. -/
def ingressRefuse (s : State) (p : Nat) (k : Packet) (st : Nat) : Option State :=
  let cpl := k.type == 1 || k.type == 6
  let r : Packet := if cpl then { ackPacket st with type := 8 } else ackPacket st
  (ingressAnswer s p k r).map (fun s => raiseIrq (bump s .fab 0 o_FAB_INGRESS_REFUSED 1) .fab 0 4)

/-- The transaction types of R328. -/
def knownType (t : Nat) : Bool := 1 ≤ t && t ≤ 9

/-- A packet accepted in order enters the receive buffers; on a port that is not ACTIVE only a management message does (R320). One
of a reserved type is refused at once (R328, R341). -/
def acceptPacket (p : Nat) (body : List Byte) (s : State) : State :=
  let q := port s p
  let cont := bitsN (ofBytes (body.take 8)) 63 60 == 0xF
  let s := bump s .fab 0 o_FAB_RX_PKTS 1
  match decodePacket q.rxTrain body with
  | none => setPort s p { q with rxTrain := none }
  | some k =>
    let s := setPort s p { q with rxTrain := trainAfter q.rxTrain cont k }
    let flushAck := k.type == 9 && s.fab.flushes.any (fun f => f.1 == k.tag)
    let s := if flushAck then s else fabRecord s 4 p k
    if k.type ≠ 7 && portState s p ≠ pActive then freeCredit s p k
    else if knownType k.type then setPort s p { port s p with rxQ := (port s p).rxQ ++ [k] }
    else freeCredit ((ingressRefuse s p k 0x12).getD s) p k

/-- A packet that cannot be accepted is discarded; the first discard is told (R332). -/
def discardPacket (p : Nat) (s : State) : State :=
  if (port s p).nak then s else sendLcp (setPort s p { port s p with nak := true }) p true

/-- A tag failed (R364). -/
def tagFail (p : Nat) (s : State) : State :=
  let s := raiseIrq (bump s .port p o_PORT_TAG_FAIL 1) .port p 1
  let s := fabEvent s 8 p 0 0 0
  if portState s p = pActive then enterHold false p s else s

/-- FAB_PACKET_RECEIVED. -/
def packetIn (p : Nat) (bytes : List Byte) (s : State) : State :=
  if !linkUp s p then s
  else
    let s := bump s .port p o_PORT_RX_BYTES bytes.length
    let q := port s p
    let enc := flag s .port p f_PORT_STATUS_ENC
    let (body, crc, top, post) := splitPacket enc bytes
    if bytes.length < (if enc then 40 else 16) || linkCrc q.rxSeq (body ++ top ++ post) ≠ crc then discardPacket p s
    else
      let plain := if enc then (match q.keys with
        | some x => gcmOpen x.2 (gcmIv q.salts.2 (ofBytes (post.take 8))) body (post.drop 8)
        | none => none) else some body
      match plain with
      | none => tagFail p s
      | some body =>
        let s := setPort s p { q with rxSeq := (q.rxSeq + 1) % 2 ^ 24, nak := false, sinceLcp := q.sinceLcp + 1 }
        let s := acceptPacket p body (acked p (ofBytes (top.drop 1)) s)
        if (port s p).sinceLcp ≥ 8 then sendLcp s p false else s

/-- Exec FAB_PACKET_RECEIVED: the bytes that the FEC passed on, with the codewords it corrected and could not (R324). -/
def execFabPacketReceived (p : Nat) (bytes : List Byte) (corr uncorr : Nat) (s : State) : Host.Outcome State Fault Refusal :=
  run (p < 24 && !portFrozen s p && bytes.length ≤ 320) s (fun s =>
    packetIn p bytes (bump (bump s .port p o_PORT_FEC_CORR corr) .port p o_PORT_FEC_UNCORR uncorr))

end Sys2Proof.Machine
end

