-- ==== Sys2Proof/Machine/Survey.lean ====
section
/-! DEFINITION. Survey: the end of training, the management messages, and the event queue (R321, R351 to R356, R360, R364). -/
namespace Sys2Proof.Machine

/-- The message that a command stands for leaves the receive buffers. -/
def takeMsg (s : State) (p op : Nat) : State :=
  match popRx s p (fun k => k.type == 7 && k.opst == op) with
  | some (_, s) => s
  | none => s

/-! ## Refusal and arrival (R352, R354, R356, R364) -/

/-- The partner is refused with a code: from LINKING or AUTH the port is REFUSED; one that authenticates again stays in HOLD, and
departs when the hold expires (R321, R364). -/
def refusePort (p code : Nat) (s : State) : State :=
  let s := setF s .port p f_PORT_STATUS_REFUSE code
  if portState s p = pHold then
    fabEvent (setPort s p { port s p with back := false, chal := none, verified := none }) 4 p 0 0 code
  else fabEvent (dropLink p pRefused s) 4 p 0 0 code

/-- The device takes its EID from the first port to reach ACTIVE (R354); it never stands in the reachability table (R355). -/
def takeEid (p : Nat) (s : State) : State :=
  match (port s p).hello with
  | some h =>
    if (ownEid s).isSome || h.eid = 0 then s
    else
      let s := fabEvent (setF (setF s .fab 0 f_FAB_EID_EID h.eid) .fab 0 f_FAB_EID_VALID 1) 7 p h.eid h.eid 0
      (List.range 24).foldl (fun s q => reachDel s q [(h.eid, h.eid)]) s
  | none => s

/-- A port reaches ACTIVE. -/
def activate (p : Nat) (s : State) : State :=
  let s := takeEid p (fabEvent (setPortState s p pActive) 1 p 0 0 0)
  surveyChanged (routesChanged s)

/-- Whether a port passes through AUTH (R321, R363). -/
def authNeeded (s : State) (p : Nat) : Bool :=
  flag s .port p f_PORT_SEC_CTRL_AUTH_REQ || flag s .port p f_PORT_SEC_CTRL_ENC_REQ
    || (match (port s p).hello with | some h => h.reqAuth || h.reqEnc | none => false)

/-- Whether a port encrypts after AUTH (R363). -/
def encNeeded (s : State) (p : Nat) : Bool :=
  flag s .port p f_PORT_SEC_CTRL_ENC_REQ || (match (port s p).hello with | some h => h.reqEnc | none => false)

/-- The refusal of a partner, in the order of R352. -/
def helloRefusal (s : State) (p : Nat) (h : Hello) : Option Nat :=
  let authReq := flag s .port p f_PORT_SEC_CTRL_AUTH_REQ
  let encReq := flag s .port p f_PORT_SEC_CTRL_ENC_REQ
  if h.role ≠ 1 then some 1
  else if !h.ver then some 3
  else if (List.range 4).any (fun v => let c := h.credits.getD v (0, 0); c.1 < 16 || c.2 < 128) then some 2
  else if ((authReq || encReq) && !h.auth) || (encReq && !h.enc) then some 7
  else match ownEid s with
    | some e => if h.eid ≠ 0 && h.eid ≠ e then some 6 else none
    | none => none

/-- HELLO. -/
def helloIn (p : Nat) (h : Hello) (s : State) : State :=
  let s := takeMsg s p 1
  if portState s p ≠ pLinking then s
  else
    let s := setReg (setF s .port p f_PORT_STATUS_PARTNER_PORT h.port) .port p o_PORT_PARTNER h.switchId
    match helloRefusal s p h with
    | some code => refusePort p code s
    | none =>
      let s := setPort s p { port s p with hello := some h }
      if authNeeded s p then setPortState s p pAuth else activate p s

/-- Exec HELLO. -/
def execHello (p : Nat) (h : Hello) (s : State) : Host.Outcome State Fault Refusal :=
  run (p < 24 && !portFrozen s p && h.port < 256 && h.eid < 65535 && h.credits.length == 4) s (helloIn p h)

/-- The receive buffers that the device advertises (R334): headers and 32 B data units of each VC. -/
def buffers : List (Nat × Nat) := [(128, 1024), (128, 1024), (64, 512), (8, 64)]

/-- The contents of the device's HELLO (R334, R351): role 2, its part identity, its capabilities and what it requires, its port number
and its buffers. -/
def helloOf (s : State) (p : Nat) : List (List Byte) :=
  let bit := fun (b : Bool) => toBytes 1 (b2n b)
  [toBytes 1 2, toBytes 4 (regReset s.part .chip 0 o_CHIP_IDENT).toNat, bit true, bit true, bit (flag s .port p f_PORT_SEC_CTRL_AUTH_REQ),
   bit (flag s .port p f_PORT_SEC_CTRL_ENC_REQ), toBytes 1 p] ++ buffers.flatMap (fun b => [toBytes 2 b.1, toBytes 2 b.2])

/-- PORT_TRAINING_DONE: lock on all lanes or failure, and the identity of the partner on a port that returns. -/
def trainingDone (p : Nat) (ok : Bool) (sw : W32) (pp : Nat) (s : State) : State :=
  let st := portState s p
  if st = pTraining then
    (if ok then sendSurvey (setPortState s p pLinking) p 1 (helloOf s p) else setPortState s p pDown)
  else if st = pHold && ok && !(port s p).back then
    if sw ≠ reg s .port p o_PORT_PARTNER || pp ≠ fld s .port p f_PORT_STATUS_PARTNER_PORT then depart p s
    else if (port s p).tagFailed then setPort s p { port s p with back := true, chal := none, verified := none }
    else flap p s
  else s

/-- Exec PORT_TRAINING_DONE. -/
def execPortTrainingDone (p : Nat) (ok : Bool) (sw : W32) (pp : Nat) (s : State) : Host.Outcome State Fault Refusal :=
  run (p < 24 && !portFrozen s p && pp < 256) s (trainingDone p ok sw pp)

/-! ## Authentication (R353) -/

/-- Whether a port authenticates now: in AUTH, or when a link with failed keys has come back (R364). -/
def authenticating (s : State) (p : Nat) : Bool := portState s p == pAuth || (portState s p == pHold && (port s p).back)

/-- AUTH_CHAL: the device sends its challenge, a nonce and an ephemeral key of its own, with its identity key. -/
def authChal (p : Nat) (s : State) : State :=
  if authenticating s p && (port s p).chal.isNone then
    let n := s.fresh
    let s := nextFresh (setPort s p { port s p with chal := some n, verified := none })
    sendSurvey s p 2 [Config.nonce n, Config.ephemeralKey n, Config.identityKey]
  else s

/-- The fabric trust anchors that are in use (R353, R539). -/
def anchors (s : State) : List Nat :=
  ((List.range 4).filter (fun n => bitN (fld s .sec 0 f_SEC_FAB_ANCHOR_EN_EN) n)).map
    (fun n => packN 32 (fun w => (reg s .sec 0 (o_SEC_FAB_ANCHOR0 (8 * n + w))).toNat) 8)

/-- The message that both sides sign: Nd, Ns, Ed, Es, both identity public keys and both port numbers (R353). -/
def authMessage (s : State) (p n : Nat) (k : SwitchKeys) : List Byte :=
  Config.nonce n ++ k.ns ++ Config.ephemeralKey n ++ k.es ++ Config.identityKey ++ k.key ++ toBytes 1 p ++ toBytes 1 (fld s .port p f_PORT_STATUS_PARTNER_PORT)

/-- AUTH_RESP: the switch's nonce, ephemeral key, identity key and signature. -/
def authResp (p : Nat) (k : SwitchKeys) (sig : List Byte) (s : State) : State :=
  let s := takeMsg s p 3
  match (port s p).chal with
  | none => s
  | some n =>
    if !authenticating s p then s
    else if !Config.sm2Check k.key (authMessage s p n k) sig then refusePort p 4 s
    else if !(anchors s).contains (ofBytes (Config.sm3 k.key)) then refusePort p 5 s
    else setPort s p { port s p with verified := some k }

/-- AUTH_FIN: the device signs, both sides derive their keys, and the port is ACTIVE. -/
def authFin (p : Nat) (s : State) : State :=
  match (port s p).chal, (port s p).verified with
  | some n, some sw =>
    if !authenticating s p then s
    else
    let was := portState s p
    let s := sendSurvey (nextFresh s) p 4 [Config.identitySign s.fresh (authMessage s p n sw)]
    let q := port s p
    let k := Config.sessionKeys n sw.es sw.key
    let s := setPort s p { q with chal := none, verified := none, keys := some k.1, salts := k.2, txCtr := 0, tagFailed := false }
    let s := setF (setF s .port p f_PORT_STATUS_AUTH 1) .port p f_PORT_STATUS_ENC (b2n (encNeeded s p))
    if was = pHold then flap p s else activate p s
  | _, _ => s

/-- Exec AUTH_CHAL. -/
def execAuthChal (p : Nat) (s : State) : Host.Outcome State Fault Refusal := run (p < 24 && !portFrozen s p) s (authChal p)
/-- Exec AUTH_RESP. -/
def execAuthResp (p : Nat) (k : SwitchKeys) (sig : List Byte) (s : State) : Host.Outcome State Fault Refusal :=
  run (p < 24 && !portFrozen s p && k.ns.length == 32 && k.es.length == 64 && k.key.length == 64 && sig.length == 64) s (authResp p k sig)
/-- Exec AUTH_FIN. -/
def execAuthFin (p : Nat) (s : State) : Host.Outcome State Fault Refusal := run (p < 24 && !portFrozen s p) s (authFin p)
/-- Exec AUTH_ABORT: the partner gives up, and the authentication has failed. -/
def execAuthAbort (p code : Nat) (s : State) : Host.Outcome State Fault Refusal :=
  run (p < 24 && !portFrozen s p && code < 256) s (fun s =>
    let s := takeMsg s p 5
    if authenticating s p then refusePort p 4 s else s)

/-! ## Reachability (R355) -/

/-- Ranges of a message. -/
def rangesOk (rs : List (Nat × Nat)) : Bool := rs.length ≤ 32 && rs.all (fun r => r.1 ≤ r.2 && r.2 < 65536)

/-- A change of a port's reachability. -/
def reachMsg (p op : Nat) (f : State → State) (s : State) : State :=
  let s := takeMsg s p op
  if portState s p = pActive then surveyChanged (routesChanged (f s)) else s

/-- Exec REACH_ADD. -/
def execReachAdd (p : Nat) (rs : List (Nat × Nat)) (s : State) : Host.Outcome State Fault Refusal :=
  run (p < 24 && !portFrozen s p && rangesOk rs) s (reachMsg p 0x10 (fun s => reachAdd s p rs))
/-- Exec REACH_DEL. -/
def execReachDel (p : Nat) (rs : List (Nat × Nat)) (s : State) : Host.Outcome State Fault Refusal :=
  run (p < 24 && !portFrozen s p && rangesOk rs) s (reachMsg p 0x11 (fun s => reachDel s p rs))
/-- Exec REACH_SYNC: a list begins, or ends. -/
def execReachSync (p : Nat) (ends : Bool) (s : State) : Host.Outcome State Fault Refusal :=
  run (p < 24 && !portFrozen s p) s (reachMsg p 0x12 (fun s => if ends then s else reachDel s p [(0, 65535)]))

/-! ## PING and PONG (R351) -/

/-- Exec PING. -/
def execPing (p : Nat) (v : W64) (s : State) : Host.Outcome State Fault Refusal :=
  run (p < 24 && !portFrozen s p) s (fun s =>
    let s := takeMsg s p 0x20
    if linkUp s p then sendMsg s p 0x21 (toBytes 8 v.toNat) else s)
/-- Exec PONG: nothing but its receipt. -/
def execPong (p : Nat) (_ : W64) (s : State) : Host.Outcome State Fault Refusal := run (p < 24 && !portFrozen s p) s (fun s => takeMsg s p 0x21)

/-! ## The event queue (R356) -/

/-- EVT_POP: the `n` + 1 oldest events are removed. -/
def evtPop (n : Nat) (s : State) : State :=
  let s := { s with fab := { s.fab with events := s.fab.events.drop (n + 1) } }
  setF s .fab 0 f_FAB_EVT_STATUS_COUNT s.fab.events.length

/-- Exec EVT_POP. -/
def execEvtPop (secure : Bool) (n : Nat) (s : State) : Host.Outcome State Fault Refusal :=
  run (n < 64) s (fun s => hostCmd s secure .fab 0 o_FAB_EVT_POP (evtPop n))

end Sys2Proof.Machine
end

