-- ==== Sys2Proof/Machine/Respond.lean ====
section
/-! DEFINITION. Responses of the fabric and what takes their place: timeouts, released tags, moved flows (R342, R343, R345 to
R347, R350, R361). -/
namespace Sys2Proof.Machine

/-! ## Completing requests -/

/-- A request's answer travels to its source. -/
def fabRespond (s : State) (id : Nat) (src : Src) (line : Nat) (r : Reply) : State := { s with resps := s.resps ++ [⟨id, src, line, r⟩] }

/-- Flows whose move ends take the port that R348 gives them now. -/
def endMoves (s : State) (isOver : FlowMove → Bool) : State :=
  let keys := (s.fab.moves.filter isOver).map (·.key)
  let s := { s with fab := { s.fab with moves := s.fab.moves.filter (fun m => !isOver m) } }
  keys.foldl (fun s k =>
    let rest := mdel k s.fab.flows
    { s with fab := { s.fab with flows := match flowPort s k with | some p => mins k p rest | none => rest } }) s

/-- The WRPs that a flush covers are known to be accepted, or have timed out with it. -/
def endWrps (s : State) (covered : Wrp → Bool) (r : Reply) : State :=
  let xs := s.fab.wrps.filter covered
  let s := { s with fab := { s.fab with wrps := s.fab.wrps.filter (fun x => !covered x) } }
  xs.foldl (fun s x => fabRespond s x.id x.src x.line r) s

/-- A flush under tag `t` ends. -/
def endFlush (s : State) (t : Nat) (f : Flush) (r : Reply) : State :=
  let s := { s with fab := { s.fab with flushes := s.fab.flushes.filter (fun x => x.1 != t) } }
  endMoves (endWrps s (fun x => f.covers.contains x.id) r) (fun m => m.flush == some t)

/-! ## A response (R343) -/

/-- Poison of the words of a line that payload words from offset `o` carry. -/
def spreadPoison (o : Nat) (pm : BitVec 32) (n : Nat) : BitVec 32 :=
  (List.range ((n + 7) / 8)).foldl (fun m i =>
    if bitN pm.toNat i then m ||| wordsTouched (byteMask (o + 8 * i) (min 8 (n - 8 * i))) else m) 0

/-- Whether the CHECK of a whole-line CPL matches at the request's OFFSET; a line with a poisoned word is not verified (R377,
R378). -/
def lineSound (q k : Packet) : Bool :=
  k.pmask ≠ 0 || checkValue .plain (q.off / 256) (BitVec.ofNat 2048 (ofBytes k.payload)) == k.check

/-- What a response to a request says; `keep` as in `Reply.line`. None: it does not carry what was asked for. -/
def replyOf (keep : Bool) (q k : Packet) : Option Reply :=
  if q.type = 1 then
    if k.opst = 1 then some (.data 0 allWords true false)
    else if k.opst ≠ 0 then some (.fabStatus k.opst)
    else if k.payload.length ≠ q.len then none
    else
      let d := ofBytes k.payload
      if q.len = 256 then some (.line (BitVec.ofNat 2048 d) k.pmask (lineSound q k) keep)
      else some (.data (BitVec.ofNat 2048 (d <<< (8 * (q.off % 256)))) (spreadPoison (q.off % 256) k.pmask q.len) false false)
  else if q.type = 6 then
    if k.opst ≠ 0 then some (.fabStatus k.opst)
    else if k.payload.length ≠ 8 then none
    else some (.olds [(BitVec.ofNat 64 (ofBytes k.payload), bitN k.pmask.toNat 0)])
  else if k.opst = 0 then some .accepted
  else some (.fabStatus k.opst)

/-- Whether a request's window is still read-only and maps its line as it did at issue (R156, R289, R339). -/
def stillMaps (s : State) (r : FabReq) : Bool :=
  let w := fwin s r.win
  fwEn w && fwRo w && fwMap w (256 * r.line) == (r.pkt.deid, r.pkt.off)

/-- Whether a line is to be kept in the cache die: it came whole and sound for a cell through a window that still maps it
(R257, R289, R377), and its slice serves (R396). -/
def keepsLine (s : State) (r : FabReq) (k : Packet) : Bool :=
  let cellReq := match r.src with
    | .group _ _ => true
    | .copy _ => true
    | _ => false
  cellReq && r.pkt.type == 1 && r.pkt.len == 256 && k.opst == 0 && k.pmask == 0 && stillMaps s r
    && !lineHeld s r.line && (remoteKey s r.line).isNone && lineSound r.pkt k

/-- The line of a completion enters the cache die. -/
def keepLine (s : State) (r : FabReq) (k : Packet) : State :=
  if keepsLine s r k then
    remoteFill s { id := r.id, src := r.src, line := r.line, op := .read allWords, label := r.pkt.label, part := labelPart r.pkt.label, ingress := false, wins := 0 }
      (wholeBody (BitVec.ofNat 2048 (ofBytes k.payload)) 0 k.check none)
  else s

/-- A response that answers nothing (R346). -/
def stray (s : State) : State := bump s .fab 0 o_FAB_STRAY 1

/-- The refusal of a WRP (R347): the first one sent that it fits. -/
def wrpRefused (s : State) (k : Packet) : State :=
  let fits := fun (x : Wrp) => x.nid == k.tag % 32768 && x.deid == k.seid && x.off == k.off
  match s.fab.wrps.find? fits with
  | none => stray s
  | some x => fabRespond { s with fab := { s.fab with wrps := s.fab.wrps.eraseP fits } } x.id x.src x.line (.fabStatus k.opst)

/-- A response reaches its source. -/
def responseIn (s : State) (k : Packet) : State :=
  if bitN k.tag 15 then wrpRefused s k
  else match s.fab.flushes.find? (fun f => f.1 == k.tag) with
  | some (t, f) => endFlush s t f .accepted
  | none =>
    match s.fab.outst.find? (fun x => x.1 == k.tag) with
    | none => stray s
    | some (t, r) =>
      match replyOf (stillMaps s r) r.pkt k with
      | none => stray s
      | some y =>
        let s := { s with fab := { s.fab with outst := s.fab.outst.filter (fun x => x.1 != t) } }
        fabRespond (keepLine s r k) r.id r.src r.line y

/-- Exec FAB_RESPONSE_RECEIVED: the oldest response in the buffers of a port. -/
def execFabResponseReceived (p : Nat) (s : State) : Host.Outcome State Fault Refusal :=
  run (p < 24 && !portFrozen s p) s (fun s =>
    match popRx s p (fun k => k.type == 8 || k.type == 9) with
    | none => s
    | some (k, s) => pump (responseIn s k))

/-! ## Timeouts (R345 to R347, R350, R361) -/

/-- A completion timeout is counted and raised. -/
def countTimeout (s : State) : State := raiseIrq (bump s .fab 0 o_FAB_CTO_COUNT 1) .fab 0 2

/-- Whether the completion timeout of a request has passed since its issue (R347). -/
def ctoPassed (s : State) (born : Nat) : Bool := born + ctoNs s ≤ s.time.toNat

/-- FAB_COMPLETION_TIMEOUT of request `id`: it waits in its NI, is outstanding under a tag, or is a flush. -/
def fabTimeout (id : Nat) (s : State) : State :=
  match s.fab.wait.find? (fun r => r.id == id) with
  | some r =>
    if !ctoPassed s r.born then s
    else
    let s := countTimeout { s with fab := { s.fab with wait := s.fab.wait.filter (fun x => x.id != id) } }
    let p := r.port.getD 0
    pump (if isFlush r.pkt then
        endMoves (endWrps s (fun x => x.port == p && x.deid == r.pkt.deid) .timeout)
          (fun m => m.old == p && m.flush.isNone && m.moveAt.isNone && keyDeid m.key == r.pkt.deid)
      else fabRespond s r.id r.src r.line .timeout)
  | none =>
    match s.fab.outst.find? (fun x => x.2.id == id) with
    | some (t, r) =>
      if !ctoPassed s r.born then s
      else
        let s := countTimeout { s with fab := { s.fab with outst := s.fab.outst.filter (fun x => x.1 != t), stale := s.fab.stale ++ [(t, s.time.toNat)] } }
        pump (fabRespond s r.id r.src r.line .timeout)
    | none =>
      match s.fab.flushes.find? (fun f => f.2.id == id) with
      | some (t, f) =>
        if !ctoPassed s f.born then s
        else
          let s := countTimeout { s with fab := { s.fab with stale := s.fab.stale ++ [(t, s.time.toNat)] } }
          pump (endFlush s t f .timeout)
      | none => s

/-- Exec FAB_COMPLETION_TIMEOUT. -/
def execFabCompletionTimeout (id : Nat) (s : State) : Host.Outcome State Fault Refusal := run (!frozen s .fab 0) s (fabTimeout id)

/-- TAG_RELEASE_TIMEOUT: a further completion timeout after a tag timed out, it is free (R346). -/
def tagRelease (t : Nat) (s : State) : State :=
  if s.fab.stale.any (fun x => x.1 == t && ctoPassed s x.2) then
    pump { s with fab := { s.fab with stale := s.fab.stale.filter (fun x => x.1 != t) } }
  else s

/-- Exec TAG_RELEASE_TIMEOUT. -/
def execTagReleaseTimeout (t : Nat) (s : State) : Host.Outcome State Fault Refusal := run (t < 32768 && !frozen s .fab 0) s (tagRelease t)

/-- FLOW_SWITCHOVER_TIMEOUT: a flow whose old port left ACTIVE moves one completion timeout after that (R350). -/
def flowSwitchover (key : Nat) (s : State) : State :=
  pump (endMoves s (fun m => m.key == key && (match m.moveAt with | some t => decide (t ≤ s.time.toNat) | none => false)))

/-- Exec FLOW_SWITCHOVER_TIMEOUT. -/
def execFlowSwitchoverTimeout (key : Nat) (s : State) : Host.Outcome State Fault Refusal := run (!frozen s .fab 0) s (flowSwitchover key)

end Sys2Proof.Machine
end

