-- ==== Sys2Proof/Machine/Ingress.lean ====
section
/-! DEFINITION. Requests that arrive over the fabric (R235, R341, R342, R344, R349, R376 to R378, R406, R407). -/
namespace Sys2Proof.Machine

/-! ## The checks of R341 -/

/-- The label of an ingress request: the packet's in RUN, class 10 otherwise (R406, R411). -/
def ingressLabel (s : State) (k : Packet) : Byte := if phase s = phRun then k.label else 0xA0

/-- Whether a payload is what LEN says and stays in one line. -/
def fitsLine (k : Packet) : Bool := !k.zl && k.payload.length == k.len && k.off % 256 + k.len ≤ 256

/-- Step 1 for a request with an offset. -/
def wellShaped (k : Packet) : Bool :=
  match k.type with
  | 1 => k.zl && k.off % 256 + k.len ≤ 256
  | 2 => fitsLine k
  | 3 => k.zl || fitsLine k
  | 4 => fitsLine k && (if k.opst = 0 then k.len == 256 else k.opst ≤ 3 && k.off % 4 == 0 && k.len % 4 == 0)
  | 6 => !k.zl && k.payload.length == k.len && k.off % 8 == 0 && ((k.opst == 0 && k.len == 8) || (k.opst == 1 && k.len == 16))
  | _ => false

/-- Steps 1 to 4: a refusal's status, with what it logs. A flush names no offset. -/
def ingressCheck (s : State) (p : Nat) (k : Packet) (rd wr : Bool) : State × Option Nat :=
  if !wellShaped k then (s, some 0x12)
  else if k.world && !secureOk s p then (secLogAdd s 7 1 wr k.seid k.label 0 k.off, some 0x11)
  else if isFlush k && k.zl then (s, none)
  else if k.off ≥ 0xBD00000000 then (s, some 0x10)
  else match mrdCheck s k.off k.world rd wr none with
  | some (t, n) => (secLogAdd s t 1 wr k.seid k.label n k.off, some 0x11)
  | none => (s, none)

/-- The request that a slice performs for a packet that came in by port `p`. -/
def ingressReq (s : State) (p : Nat) (k : Packet) (id : Nat) (op : ReqOp) : Req :=
  { id := id, src := .fabric k.seid, line := lineOf k.off, op := op, label := ingressLabel s k, part := ingressPart s, ingress := true, wins := 0
    inp := some (p, k.vc) }

/-! ## Answers (R342) -/

/-- The status of a refusal by a slice. -/
def refusedStatus (code : Nat) : Nat := if code = 1 then 0x22 else if code = 2 then 0x23 else if code = 3 then 0x20 else 0x21

/-- Poison of a payload that starts at offset `o` of a line. -/
def gatherPoison (o n : Nat) (p : BitVec 32) : BitVec 32 :=
  BitVec.ofNat 32 (packN 1 (fun i => b2n ((p &&& wordsTouched (byteMask (o + 8 * i) (min 8 (n - 8 * i)))) ≠ 0)) ((n + 7) / 8))

/-- A CPL with the bytes of a line that were asked for (R377): every word poisoned for a dead line, or one that fails its check. -/
def cplPacket (k : Packet) (d : Line) (p : BitVec 32) (dead ok : Bool) : Packet :=
  let o := k.off % 256
  let bytes := ((lineBytes d).drop o).take k.len
  let r : Packet := { type := 8, opst := b2n dead, zl := false, len := k.len, payload := bytes }
  let pm := if dead || !ok then BitVec.ofNat 32 (2 ^ ((k.len + 7) / 8) - 1) else gatherPoison o k.len p
  { r with pmask := pm, check := if k.len = 256 then checkValue .plain (k.off / 256) d else 0 }

/-- The response to a request that a slice has answered; none where it takes none (R344). -/
def answerOf (k : Packet) (r : Reply) : Option Packet :=
  match r with
  | .data d p dead _ => some (cplPacket k d p dead true)
  | .olds ((v, b) :: _) => some { type := 8, zl := false, len := 8, payload := toBytes 8 v.toNat, pmask := if b then 1 else 0 }
  | .refused c => some (if k.type = 6 then { ackPacket (refusedStatus c) with type := 8 } else ackPacket (refusedStatus c))
  | _ => if k.type = 3 && !bitN k.opst 0 then none else some (ackPacket 0)

/-- Send the answer to an ingress request. None: no slot is free. -/
def ingressReply (s : State) (p : Nat) (k : Packet) (r : Reply) : Option State :=
  match answerOf k r with
  | none => some s
  | some a => ingressAnswer s p k a

/-- Perform an ingress request at its slice: it is answered at once, or when the slice has done it. None: it must wait. -/
def ingressPerform (s : State) (p : Nat) (k : Packet) (op : ReqOp) : Option State :=
  let (s, id) := newId s
  let q := ingressReq s p k id op
  match syncAccess s q with
  | none => none
  | some (s, some r) => ingressReply s p k r
  | some (s, none) => some { s with fab := { s.fab with ingress := s.fab.ingress ++ [(id, p, k)] } }

/-- Take the oldest packet that a command acts on, check it and act; it stays where it is while it must wait, as it does while the
core clock has stopped (R30). In STOPPED no request is answered (R469). -/
def ingress (p : Nat) (want : Packet → Bool) (rd wr : Bool) (act : State → Packet → Option State) (s : State) : State :=
  match popRx s p want with
  | none => s
  | some (k, s') =>
    if s.pkg.noClock then s
    else if phase s = phStopped then s'
    else match ingressCheck s' p k rd wr with
    | (s1, some st) => (ingressRefuse s1 p k st).getD s
    | (s1, none) => ((act s1 k).map pump).getD s

/-! ## RD, WR and WRP -/

/-- A read: a whole line is verified as the port forms its packet (R378). -/
def ingressRead (p : Nat) (s : State) (k : Packet) : Option State :=
  if k.len = 256 then
    let (s, id) := newId s
    (match readLineNow s (ingressReq s p k id (.read allWords)) with
    | none => none
    | some (s, r) => ingressAnswer s p k (cplPacket k r.data r.pois r.dead r.ok))
  else ingressPerform s p k (.read (wordsTouched (byteMask (k.off % 256) k.len)))

/-- Exec FAB_RD_RECEIVED. -/
def execFabRdReceived (p : Nat) (s : State) : Host.Outcome State Fault Refusal :=
  run (p < 24 && !portFrozen s p) s (ingress p (fun k => k.type == 1) true false (ingressRead p))

/-- A write: a whole line is verified (R376, R378); a flush carries nothing, and finds every earlier WRP performed (R344, R345). -/
def ingressWrite (p : Nat) (s : State) (k : Packet) : Option State :=
  if k.zl then ingressReply s p k .accepted
  else
    let l := lineOf k.off
    let whole := k.len == 256
    let m := byteMask (k.off % 256) k.len
    let d : Line := BitVec.ofNat 2048 (ofBytes k.payload <<< (8 * (k.off % 256)))
    let plain := checkValue .plain l d
    if whole && k.pmask = 0 && plain ≠ k.check then
      let s := sliceCheckFail s (placeOf s l).slice 5 5 (ingressLabel s k) l
      ingressPerform s p k (.write d m allWords true plain none)
    else ingressPerform s p k (.write d m (spreadPoison (k.off % 256) k.pmask k.len) whole (if whole then k.check else 0) none)

/-- Exec FAB_WR_RECEIVED: the oldest WR or WRP. -/
def execFabWrReceived (p : Nat) (s : State) : Host.Outcome State Fault Refusal :=
  run (p < 24 && !portFrozen s p) s (ingress p (fun k => k.type == 2 || k.type == 3) false true (ingressWrite p))

/-! ## RED and ATOM -/

/-- Whether the CHECK of an ADD.W contribution fails; one with a poisoned partial is not verified (R378). -/
def redBad (k : Packet) : Bool :=
  k.opst == 0 && bitsN k.pmask.toNat 15 0 == 0 && checkValue .plain (k.off / 256) (BitVec.ofNat 2048 (ofBytes k.payload)) != k.check

/-- The partials of an ADD.W contribution (R327); all poisoned when CHECK fails (R378). -/
def redVals (k : Packet) : List WideVal :=
  let ts := k.ts.toNat
  let data := ofBytes k.payload
  let bad := redBad k
  ((List.range 16).filter (fun i => bitN ts (16 + i))).map (fun i =>
    ⟨i, signed 128 (data >>> (128 * i)), bitsN ts (33 + 2 * i) (32 + 2 * i), bitN k.pmask.toNat (16 + i), bad || bitN k.pmask.toNat i⟩)

/-- The values of another contribution: index in the line, value, poison. -/
def redFloats (k : Packet) : List (Nat × W32 × Bool) :=
  (List.range (k.len / 4)).map (fun i =>
    (k.off % 256 / 4 + i, BitVec.ofNat 32 (ofBytes k.payload >>> (32 * i)), bitN k.pmask.toNat (i / 2)))

/-- The contribution of a RED. -/
def redOp (k : Packet) : ReqOp :=
  match k.opst with
  | 0 => .addW (BitVec.ofNat 16 k.ts.toNat) (redVals k)
  | 1 => .addF (redFloats k)
  | 2 => .maxMin false (redFloats k)
  | _ => .maxMin true (redFloats k)

/-- Exec FAB_RED_RECEIVED. -/
def execFabRedReceived (p : Nat) (s : State) : Host.Outcome State Fault Refusal :=
  run (p < 24 && !portFrozen s p) s (ingress p (fun k => k.type == 4) false true (fun s k =>
    let l := lineOf k.off
    let s := if redBad k then sliceCheckFail s (placeOf s l).slice 5 5 (ingressLabel s k) l else s
    ingressPerform s p k (redOp k)))

/-- Exec FAB_ATOM_RECEIVED. -/
def execFabAtomReceived (p : Nat) (s : State) : Host.Outcome State Fault Refusal :=
  run (p < 24 && !portFrozen s p) s (ingress p (fun k => k.type == 6) true true (fun s k =>
    let x : W64 := BitVec.ofNat 64 (ofBytes k.payload)
    let y : W64 := BitVec.ofNat 64 (ofBytes (k.payload.drop 8))
    ingressPerform s p k (.atd (k.opst == 1) [(k.off % 256 / 8, x, y)] 0)))

/-! ## FLAG (R235) -/

/-- A FLAG write is performed, or refused with its status. -/
def ingressFlag (s : State) (p : Nat) (k : Packet) : State × Option Nat :=
  let r := bitsN k.ts.toNat 16 12
  let i := bitsN k.ts.toNat 11 0
  if !k.zl || k.opst > 1 then (s, some 0x12)
  else if k.world && !secureOk s p then (secLogAdd s 7 1 true k.seid k.label 0 i, some 0x11)
  else if !present s .region r then (s, some 0x13)
  else
    match partOfRegion s r with
    | none => (flagDrop s r, some 0x13)
    | some n =>
      if flag s .chip 0 (f_CHIP_PART_STATUS_RESETTING n) || !bitN (fld s .region r f_REGION_FLAG_INGRESS_SEG) (i / 256) then
        (flagDrop s r, some 0x13)
      else
        let (s, ok) := flagWrite s r i (k.opst == 1) k.world 1 k.seid k.label
        (s, if ok then none else some 0x13)

/-- Exec FAB_FLAG_RECEIVED. -/
def execFabFlagReceived (p : Nat) (s : State) : Host.Outcome State Fault Refusal :=
  run (p < 24 && !portFrozen s p) s (fun s =>
    match popRx s p (fun k => k.type == 5) with
    | none => s
    | some (k, s') =>
      if s.pkg.noClock || frozen s .region (bitsN k.ts.toNat 16 12) then s
      else if phase s = phStopped then s'
      else match ingressFlag s' p k with
      | (s1, some st) => (ingressRefuse s1 p k st).getD s
      | (s1, none) => (ingressAnswer s1 p k (ackPacket 0)).getD s)

end Sys2Proof.Machine
end

