-- ==== Sys2Proof/Machine/Ni.lean ====
section
/-! DEFINITION. What returns to a network interface from the slices and from the fabric (R153, R218, R280, R288, R343). -/
namespace Sys2Proof.Machine

/-- Whether a reply answers a read, where its source no longer tells. -/
def replyLoads : Reply → Bool
  | .data _ _ _ _ => true
  | .line _ _ _ _ => true
  | .olds _ => true
  | _ => false

/-- Whether a reply answers a load, an atomic or another read of its source. -/
def isLoad (s : State) (r : Resp) : Bool :=
  match r.src with
  | .group c g =>
    (match (group s c g).await with
    | .mem a => a.ids.any (fun x => x.1 == r.id)
    | _ => replyLoads r.reply)
  | .array _ => false
  | .copy c => (cell s c).copies.any (fun q => q.cpd && q.outs.any (fun x => x.1 == r.id))
  | .block b => (match (block s b).load with | some l => l.out == some r.id | none => false)
  | .bar2 => s.link.reads.any (fun p => p.out == some r.id)
  | .chk _ => true
  | _ => replyLoads r.reply

/-- Whether a status is a refusal at the destination that the source reports as a dropped write (R343). -/
def dropStatus (st : Nat) : Bool := 0x10 ≤ st && st ≤ 0x13

/-- The acceptance, refusal or timeout of a group's posted write. A refusal by a confluence unit is not reported (R280). -/
def groupWrite (s : State) (c g : Nat) (r : Resp) : State :=
  let k := group s c g
  if !(k.outD.contains r.id || k.outF.contains r.id) then s
  else
    let s := setGroup s c g { k with outD := k.outD.filter (· != r.id), outF := k.outF.filter (· != r.id) }
    let s := match r.reply with
      | .timeout => fto s c g
      | .fabStatus st => if dropStatus st then wdrop s c g else s
      | _ => s
    settleWait s c g

/-- The answer to an output flag of a reach (R237, R343). -/
def outReply (s : State) (b : Nat) (r : Reply) : State :=
  match r with
  | .timeout => outLost s b
  | .fabStatus _ => outLost s b
  | _ => s

/-- The slice has performed a contribution of the fabric that waited; none: its answer finds no slot. -/
def ingressLate (s : State) (r : Resp) : Option State :=
  match s.fab.ingress.find? (fun x => x.1 == r.id) with
  | none => some s
  | some (_, p, k) => (ingressReply s p k r.reply).map (fun s => { s with fab := { s.fab with ingress := s.fab.ingress.filter (fun x => x.1 != r.id) } })

/-- A reply reaches its source. None: it must wait. -/
def deliver (s : State) (r : Resp) : Option State :=
  match r.src with
  | .group c g => some (if isLoad s r then groupReply s c g r.id r.reply else groupWrite s c g r)
  | .array c => some (arrayReply s c r.id r.reply)
  | .copy c => some (copyReply s c r.id r.reply)
  | .block b => some (if isLoad s r then sfReply s b r.id r.reply else outReply s b r.reply)
  | .bar2 => some (barReply s r.id r.reply)
  | .chk n => some (chkReply s n r.id r.reply)
  | .fabric _ => ingressLate s r
  | .scour => some s
  | .trace => some s
  | .mgmt => some s

/-- A reply of a kind is taken from those on their way. -/
def takeResp (load : Bool) (id : Nat) (s : State) : State :=
  match s.resps.find? (fun r => r.id == id && isLoad s r == load) with
  | none => s
  | some r => if niFrozen s r.src then s else (deliver { s with resps := s.resps.filter (fun x => x.id != id) } r).getD s

/-- Exec NI_LOAD_RESPONSE. -/
def execNiLoadResponse (id : Nat) (s : State) : Host.Outcome State Fault Refusal := run true s (takeResp true id)
/-- Exec NI_WRITE_ACK. -/
def execNiWriteAck (id : Nat) (s : State) : Host.Outcome State Fault Refusal := run true s (takeResp false id)

end Sys2Proof.Machine
end

