-- ==== Sys2Proof/Machine/Sense.lean ====
section
/-! DEFINITION. The channels of the sense front end and the demands on it (R449, R452 to R454, R458). -/
namespace Sys2Proof.Machine

/-- Whether a channel is enabled. -/
def chEnabled (s : State) (c : Nat) : Bool :=
  if c < 32 then bitN (hostSet s .therm f_THERM_CH_EN_LO_EN) c else bitN (hostSet s .therm f_THERM_CH_EN_HI_EN) (c - 32)

/-- The compute diode of a physical region (R449). -/
def diodeOf (p : Nat) : Nat := 6 * (p / 8) + 3 * (p % 8) / 4

/-- Whether a demand is URGENT. -/
def urgent : Demander → Bool
  | .host => false
  | .cal => false
  | _ => true

/-- Whether an entry of a demand waits for a measurement that has not begun. -/
def entryWaits (s : State) (e : Nat × Bool) : Bool := s.therm.busy != some e.1 || e.2

/-- Channels that wait at a priority. -/
def waitingAt (s : State) (u : Bool) : List Nat :=
  (List.range 46).filter (fun c => s.therm.demands.any (fun d => urgent d.who == u && d.chans.any (fun e => e.1 == c && entryWaits s e)))

/-- The front end takes its next channel when it is free; STATUS follows. -/
def senseNext (s : State) : State :=
  let s := if s.therm.busy.isSome then s
    else match waitingAt s true ++ waitingAt s false with
      | c :: _ => { s with therm := { s.therm with busy := some c } }
      | [] => s
  let n := (List.range 46).countP (fun c => (waitingAt s true).contains c || (waitingAt s false).contains c)
  setF (setF s .therm 0 f_THERM_STATUS_BUSY (b2n s.therm.busy.isSome)) .therm 0 f_THERM_STATUS_PENDING n

/-- A demand: disabled channels are dropped; one in measurement needs its next measurement. -/
def demand (s : State) (who : Demander) (cs : List Nat) : State :=
  let xs := (cs.filter (chEnabled s)).map (fun c => (c, s.therm.busy == some c))
  if xs.isEmpty then s else senseNext { s with therm := { s.therm with demands := s.therm.demands ++ [⟨who, xs⟩] } }

/-- Channels of a mask of 46 bits. -/
def maskChannels (m : Nat) : List Nat := (List.range 46).filter (bitN m)

/-- The channels of THERM_REQ (R453). -/
def pinChannels (s : State) : List Nat :=
  maskChannels (hostSet s .therm f_THERM_PIN_MASK_LO_MASK + hostSet s .therm f_THERM_PIN_MASK_HI_MASK * 2 ^ 32)

/-- The staleness guard is in force while an enabled channel is stale; each onset is raised (R457). -/
def guardStale (s : State) : State :=
  let on := (List.range 46).any (fun c => chEnabled s c && flag s .therm 0 (f_THERM_CH_STALE c))
  let s := if on && !flag s .therm 0 f_THERM_STATUS_STALE then raiseIrq s .therm 0 3 else s
  pauseAll (setF s .therm 0 f_THERM_STATUS_STALE (b2n on))

/-- The channels of a physical region (R449), and of a region. -/
def physChannels (p : Nat) : List Nat := [diodeOf p, 24 + bandOf p, 32 + bandOf p]
def regionChannels (s : State) (r : Nat) : List Nat := physChannels (physRegion s r)

end Sys2Proof.Machine
end

