-- ==== Sys2Proof/Machine/Power.lean ====
section
/-! DEFINITION. The power controller (R416 to R448). -/
namespace Sys2Proof.Machine

/-! ## The power log (R448) -/

/-- An event for the power log. -/
def pwrLog (s : State) (type unit other phases : Nat) (sram : Bool) (dat : Nat) : State :=
  if s.power.log.length ≥ 16 then raiseIrq s .pwr 0 5
  else
    let e : Nat := type <<< 124 + unit <<< 119 + other <<< 114 + phases <<< 109 + b2n sram <<< 108 + (dat % 256) <<< 100 + s.time.toNat
    { s with power := { s.power with log := s.power.log ++ [BitVec.ofNat 128 e] } }

/-- LOG_CLR empties the power log. -/
def pwrLogClear (s : State) : State := { s with power := { s.power with log := [] } }

/-- Exec PWR_LOG_CLR. -/
def execPwrLogClr (secure : Bool) (s : State) : Host.Outcome State Fault Refusal :=
  run true s (fun s => hostCmd s secure .pwr 0 o_PWR_LOG_CLR pwrLogClear)

/-! ## Levels and voltages (R419, R421 to R424) -/

/-- The VMIN table of a physical region in mV: it does not fall, and rises by at most 50 mV a level. -/
def vmin (p : Nat) : Nat → Nat
  | 0 => Config.vminBase p
  | n + 1 => vmin p n + min 50 (Config.vminStep p (n + 1))

/-- A signed value held to a range. -/
def clampI (lo hi x : Int) : Int := max lo (min hi x)

/-- A signed byte of a row of offsets in the CAL page. -/
def calByte (s : State) (off i : Nat) : Int := signed 8 (fldW (reg s .cal 0 (off + 4 * (i / 4))) (8 * (i % 4) + 7) (8 * (i % 4)))

/-- The next multiple of 5 at or above. -/
def up5 (x : Int) : Nat := ((x + 4) / 5 * 5).toNat

/-- V(r, n) in mV (R419). -/
def levelVolt (s : State) (r n : Nat) : Nat :=
  let p := physRegion s r
  let v : Int := (vmin p n : Nat) + (mget 0 s.repair.guard p : Nat) + 5 * clampI (-10) 10 (calByte s (o_CAL_V_OFS 0) p)
  max 550 (min 850 (up5 v))

/-- The rail voltage of a region, and its target, in mV. -/
def railVolt (s : State) (r : Nat) : Nat := 5 * fld s .pwr 0 (f_PWR_REG_STATUS_VOLT r)
def railTarget (s : State) (r : Nat) : Nat := if (rail s r).moving then 5 * (rail s r).toVolt else railVolt s r

/-- A region and, where it borrows or lends, its partner. -/
def railGroup (s : State) (r : Nat) : List Nat :=
  if flag s .pwr 0 (f_PWR_REG_STATUS_BORROW r) || flag s .pwr 0 (f_PWR_REG_STATUS_LEND r) then r :: (partnerOf s r).toList else [r]

/-- The permitted interval of R422 in mV; none where no neighbour is ON. -/
def permitted (s : State) (r : Nat) : Option (Int × Int) :=
  let g := railGroup s r
  let ns := (g.flatMap (onNeighbours s)).filter (fun q => !g.contains q)
  let vs := ns.flatMap (fun q => [railVolt s q, railTarget s q])
  match vs with
  | [] => none
  | v :: t => some (((t.foldl max v : Nat) : Int) - 200, ((t.foldl min v : Nat) : Int) + 200)

/-- Whether a voltage is permitted. -/
def admits (i : Option (Int × Int)) (v : Nat) : Bool :=
  match i with
  | none => true
  | some (lo, hi) => decide (lo ≤ (v : Int) ∧ (v : Int) ≤ hi)

/-- Levels whose voltage is permitted. -/
def levelsIn (s : State) (r : Nat) : List Nat := (List.range 16).filter (fun n => admits (permitted s r) (levelVolt s r n))

/-- The level in a list nearest to `n`. -/
def nearest (n : Nat) (ls : List Nat) : Option Nat :=
  ls.foldl (fun b x => match b with
    | none => some x
    | some y => if (x - n) + (n - x) < (y - n) + (n - y) then some x else some y) none

/-- A request is refused with LIMIT. -/
def limitRefused (s : State) (r : Nat) : State :=
  bump (setF s .pwr 0 (f_PWR_REG_STATUS_REFUSE r) 1) .pwr 0 o_PWR_LIMIT_REFUSED 1

/-- VOLT shows a region's core rail in units of 5 mV; its SRAM regulator gives the larger of that and 0.70 V (R416). -/
def putVolt (s : State) (r v : Nat) : State :=
  setF (setRail s r { rail s r with sramMv := if v = 0 then 0 else max (5 * v) 700 }) .pwr 0 (f_PWR_REG_STATUS_VOLT r) v

/-- The rail of a region has a voltage: the low-water mark follows (R444). -/
def setVolt (s : State) (r v : Nat) : State :=
  let s := putVolt s r v
  if 5 * v < (rail s r).lwm then setRail s r { rail s r with lwm := 5 * v, lwmTime := s.time } else s

/-- The level that a region has or moves to, and the voltage of its rail or the one it moves to, in mV. -/
def aimLevel (s : State) (r : Nat) : Nat := if (rail s r).moving then (rail s r).toLevel else fld s .pwr 0 (f_PWR_REG_STATUS_LEVEL r)

/-- The voltage in units of 5 mV of the rail that a region shares, when the region needs `v`: the higher of a pair's two (R442). -/
def groupVolt (s : State) (r v : Nat) : Nat :=
  ((railGroup s r).filter (fun q => q != r && regionOn s q)).foldl (fun m q => max m (levelVolt s q (aimLevel s q) / 5)) v

/-- A region moves to a level and a rail voltage in units of 5 mV; a lower level takes the clock at once (R420). A pair shares
the higher voltage (R442). -/
def moveRail (s : State) (r n v : Nat) : State :=
  let g := railGroup s r
  let v := groupVolt s r v
  let s := g.foldl (fun s q =>
    setRail s q { rail s q with moving := true, toVolt := v, toLevel := if q = r then n else aimLevel s q }) s
  if n < fld s .pwr 0 (f_PWR_REG_STATUS_LEVEL r) then setF s .pwr 0 (f_PWR_REG_STATUS_LEVEL r) n else s

/-- A region's rail goes to a level and its voltage, unless it is there or on its way. -/
def aimAt (s : State) (r n v : Nat) : State :=
  if aimLevel s r = n && railTarget s r = 5 * groupVolt s r v then s else moveRail s r n v

/-- The level nearest to `n` that is permitted, with its voltage in units of 5 mV; or level 15 with the rail raised to the lower edge
of the interval (R422, R423). -/
def permittedAt (s : State) (r n : Nat) : Option (Nat × Nat) :=
  match nearest n (levelsIn s r), permitted s r with
  | some m, _ => some (m, levelVolt s r m / 5)
  | none, some (lo, _) => if lo > (levelVolt s r 15 : Int) then some (15, up5 lo / 5) else none
  | none, none => none

/-- The evaluation of one region's request. A refused request is counted when it is made and when a neighbour's rail has
reached its target since; a rail raised above level 15 returns to V(r, 15) as soon as that is permitted (R423). -/
def evalLevel (s : State) (r : Nat) : State :=
  if !regionOn s r then s
  else
    let k := rail s r
    let n := fld s .pwr 0 (f_PWR_REG_REQ_LEVEL r)
    let top := levelVolt s r 15
    if admits (permitted s r) (levelVolt s r n) then
      aimAt (setRail s r { k with asked := none, again := false }) r n (levelVolt s r n / 5)
    else if aimLevel s r = 15 && railTarget s r > 5 * groupVolt s r (top / 5) && admits (permitted s r) top then moveRail s r 15 (top / 5)
    else if k.asked = some n && !k.again then s
    else
      let s := limitRefused (setRail s r { k with asked := some n, again := false }) r
      match permittedAt s r n with
      | some (m, v) => aimAt s r m v
      | none => s

/-- Exec PWR_LEVEL_EVAL: one pass in ascending physical order (R424). -/
def execPwrLevelEval (s : State) : Host.Outcome State Fault Refusal :=
  run true s (fun s => (List.range 32).foldl (fun s p =>
    match (List.range (partRegions s.part)).find? (fun r => physRegion s r == p) with
    | some r => evalLevel s r
    | none => s) s)

/-- RAIL_TARGET_REACHED: the clock follows, and the neighbours are evaluated again (R420, R422, R423). -/
def railReached (r : Nat) (s : State) : State :=
  if !regionOn s r || !(rail s r).moving then s
  else
    let g := railGroup s r
    let s := g.foldl (fun s q =>
      let k := rail s q
      let s := setVolt (setRail s q { k with moving := false }) q k.toVolt
      setF s .pwr 0 (f_PWR_REG_STATUS_LEVEL q) k.toLevel) s
    (g.flatMap (neighbours s)).foldl (fun s q =>
      let k := rail s q
      setRail s q { k with again := k.asked.isSome || k.again, barred := k.barred && (levelsIn s q).isEmpty }) s

/-- Exec RAIL_TARGET_REACHED. -/
def execRailTargetReached (r : Nat) (s : State) : Host.Outcome State Fault Refusal := run (present s .region r) s (railReached r)

/-! ## Regulator phases (R439 to R443) -/

/-- A chip-scope fault (R35). -/
def chipFault (s : State) : State :=
  if phase s = phReady || phase s = phRun || phase s = phTest then setPhase s phRecovery else s

/-- A step of bring-up is complete. -/
def stepDone (s : State) (n : Nat) : State :=
  setF { s with chores := { s.chores with stepAt := s.time.toNat } } .chip 0 f_CHIP_BRINGUP_STATUS_STEP n

/-- A step of bring-up fails (R542); the loss of a region changes no phase. -/
def stepFailed (s : State) (n : Nat) : State :=
  let s := raiseIrq (setF s .chip 0 f_CHIP_BRINGUP_STATUS_FAIL_STEP n) .chip 0 5
  if n = 6 || n = 7 || n = 9 || n = 10 then setPhase s phRecovery else s

/-- Whether step 8 of bring-up, the staged power-up of the regions, is in progress (R541). -/
def inStep8 (s : State) : Bool := (phase s = phBringup || phase s = phRecovery) && fld s .chip 0 f_CHIP_BRINGUP_STATUS_STEP = 7

/-- Whether a region's regulators are healthy enough (R439). -/
def railHealthy (k : Rail) : Bool := k.core ≥ 12 && k.sram ≥ 3

/-- A region goes DARK by way of STOPPING (R440); in step 8 that is a failure, which changes no phase (R542). -/
def goDark (s : State) (r : Nat) : State :=
  let s := setF (setRail s r { rail s r with dark := true, nbs := [] }) .pwr 0 (f_PWR_REG_STATUS_STRETCH r) 0
  let s := pauseAll (if regionOn s r then leaveOn s r 5 else setRegionState s r 5)
  let s := (List.range 8).foldl (fun s p => setF s .chip 0 ⟨o_CHIP_PART_MAP p, r, r⟩ 0) s
  let s := abandonUnit { s with repair := { s.repair with dead := s.repair.dead ++ [physRegion s r] } } 2 r
  let s := raiseIrq (pwrLog s 2 r 0 (rail s r).core false 0) .pwr 0 1
  if inStep8 s then stepFailed s 8 else s

/-- Whether a region's partner may lend its rail (R441). -/
def lenderOf (s : State) (r : Nat) : Option Nat :=
  match partnerOf s r with
  | some q =>
    if bitN (hostSet s .pwr f_PWR_LEND_EN_PAIR) (r / 2) && regionOn s q && (rail s q).core ≥ 14 && (rail s q).sram ≥ 3
      && !flag s .pwr 0 (f_PWR_REG_STATUS_BORROW q) then some q else none
  | none => none

/-- A region whose regulators have failed borrows, or goes DARK (R433, R439, R441, R442). -/
def phaseCheck (s : State) (r : Nat) : State :=
  let st := regionState s r
  if !(1 ≤ st && st ≤ 4) || railHealthy (rail s r) || flag s .pwr 0 (f_PWR_REG_STATUS_BORROW r) || (rail s r).lending then s
  else if flag s .pwr 0 (f_PWR_REG_STATUS_LEND r) then
    ((partnerOf s r).toList.filter (fun q => 1 ≤ regionState s q && regionState s q ≤ 4)).foldl goDark (goDark s r)
  else if (lenderOf s r).isSome then setPause (setRail s r { rail s r with lending := true }) r
  else goDark s r

/-- A phase of a region's core or SRAM regulator fails. -/
def regionPhaseFail (r : Nat) (sram : Bool) (s : State) : State :=
  let k := rail s r
  let k := if sram then { k with sram := k.sram - 1 } else { k with core := k.core - 1 }
  let s := setF (setRail s r k) .pwr 0 (f_PWR_REG_STATUS_PHASES r) k.core
  let s := raiseIrq (pwrLog s 1 r 0 (if sram then k.sram else k.core) sram 0) .pwr 0 0
  phaseCheck s r

/-- A phase of a band's regulator fails; the step that limits its slices is left open (R439, R443). -/
def bandPhaseFail (b : Nat) (s : State) : State :=
  let n := fld s .pwr 0 (f_PWR_BAND_STATUS_PHASES b) - 1
  let s := setF s .pwr 0 (f_PWR_BAND_STATUS_PHASES b) n
  let s := raiseIrq (pwrLog s 1 b 0 n false 0) .pwr 0 0
  let s := if n < 10 then nextFresh (setF s .pwr 0 (f_PWR_BAND_STATUS_LIMIT b) (Config.freeNat s.fresh % 17)) else s
  if n < 8 && !flag s .pwr 0 (f_PWR_BAND_STATUS_FAIL b) then
    chipFault (raiseIrq (pwrLog (setF s .pwr 0 (f_PWR_BAND_STATUS_FAIL b) 1) 6 b 0 n false 0) .pwr 0 4)
  else s

/-- Exec REG_PHASE_FAIL: `kind` 0 region core, 1 region SRAM, 2 band. -/
def execRegPhaseFail (kind u : Nat) (s : State) : Host.Outcome State Fault Refusal :=
  run (kind ≤ 2 && (if kind = 2 then u < 8 else present s .region u)) s
    (if kind = 2 then bandPhaseFail u else regionPhaseFail u (kind == 1))

/-- A region of a new pair keeps its level if the neighbours of both permit it, and otherwise takes the nearest that they do
(R421, R422, R442). -/
def settleLevel (s : State) (r : Nat) : State :=
  match permittedAt s r (aimLevel s r) with
  | some (n, v) => moveRail s r n v
  | none => moveRail s r (aimLevel s r) (levelVolt s r (aimLevel s r) / 5)

/-- LEND_COMPLETE: the bridge switch is closed (R441, R442). -/
def lendComplete (r : Nat) (s : State) : State :=
  if !(rail s r).lending then s
  else match lenderOf s r with
  | none => goDark (setRail s r { rail s r with lending := false }) r
  | some q =>
    let s := setF (setF s .pwr 0 (f_PWR_REG_STATUS_BORROW r) 1) .pwr 0 (f_PWR_REG_STATUS_LEND q) 1
    let i := max (rail s r).ilim (rail s q).ilim
    let s := setRail (setRail s r { rail s r with lending := false, ilim := i }) q { rail s q with ilim := i }
    let s := raiseIrq (pwrLog s 3 r q (rail s r).core false 0) .pwr 0 2
    pauseAll ([r, q].foldl (fun s x => if regionOn s x then settleLevel s x else s) s)

/-- Exec LEND_COMPLETE. -/
def execLendComplete (r : Nat) (s : State) : Host.Outcome State Fault Refusal := run (present s .region r) s (lendComplete r)

/-! ## Power-up (R432, R433, R436 to R438) -/

/-- The start level and voltage of R437, or none (R423). -/
def startLevel (s : State) (r : Nat) : Option (Nat × Nat) :=
  match levelsIn s r, permitted s r with
  | n :: _, _ => some (n, levelVolt s r n / 5)
  | [], some (lo, _) => if lo > (levelVolt s r 15 : Int) then some (15, up5 lo / 5) else none
  | [], none => none

/-- The measurement of a region in DEMAND is complete (R433). -/
def powerUpDecide (s : State) (r : Nat) : State :=
  if regionState s r ≠ 1 then s
  else if fld s .therm 0 f_THERM_STATUS_THROT ≠ 0 then setRegionState s r 0
  else
    let s := if (levelsIn s r).isEmpty then limitRefused s r else s
    match startLevel s r with
    | none => setRegionState (setRail s r { rail s r with barred := true }) r 0
    | some x => setRegionState (setRail s r { rail s r with start := x, ramp := 0, nbs := [] }) r 2

/-- Whether the staged order would admit a region now (R436). -/
def admissible (s : State) (r : Nat) : Bool :=
  let busy := (List.range (partRegions s.part)).filter (fun q => 1 ≤ regionState s q && regionState s q ≤ 3)
  regionState s r == 0 && wanted s r && !(rail s r).barred && busy.length < 2 && !busy.any (adjacent s r)
    && (!flag s .pwr 0 (f_PWR_REG_STATUS_BORROW r) || (match partnerOf s r with | some q => regionOn s q | none => false))

/-- Whether the failure of step 7 is cleared: every slice that failed its self-test is remapped (R542). -/
def failRemapped (s : State) : Bool :=
  fld s .chip 0 f_CHIP_BRINGUP_STATUS_FAIL_STEP == 7 && (List.range 128).all (fun i =>
    !flag s .slice i f_SLICE_BOND_STATUS_RETIRED || fldW (reg s .chip 0 (o_CHIP_SLICE_REMAP i)) 31 31 == 1)

/-- Whether step 8 is complete: no region powers up or is about to. -/
def regionsSettled (s : State) : Bool :=
  (List.range (partRegions s.part)).all (fun r => !(1 ≤ regionState s r && regionState s r ≤ 3) && !admissible s r)

/-- The end of step 8: the map of partition 0 loses the regions that are DARK. -/
def darkOut (s : State) : State :=
  ((List.range (partRegions s.part)).filter (fun r => regionState s r == 6)).foldl (fun s r => setF3 s .chip 0 ⟨o_CHIP_PART_MAP 0, r, r⟩ 0) s

/-- Step 7 is complete once its failure is cleared. -/
def closeStep7 (s : State) : State :=
  if phase s = phRecovery && fld s .chip 0 f_CHIP_BRINGUP_STATUS_STEP = 6 && failRemapped s then stepDone s 7 else s

/-- Step 8 is complete once the staged order finds every region settled. -/
def closeStep8 (s : State) : State := if inStep8 s && regionsSettled s then stepDone (darkOut s) 8 else s

/-- REGION_ADMIT: the lowest-numbered region that the staged order admits enters DEMAND; where none is left, step 8 ends. -/
def regionAdmit (s : State) : State :=
  let s := closeStep7 s
  let early := (phase s = phBringup || phase s = phRecovery) && fld s .chip 0 f_CHIP_BRINGUP_STATUS_STEP < 7
  if phase s = phRom || phase s = phStopped || s.therm.stop || s.pkg.noClock || early then s
  else match (List.range (partRegions s.part)).find? (admissible s) with
  | none => closeStep8 s
  | some r =>
    let s := setF (setRegionState s r 1) .pwr 0 (f_PWR_REG_STATUS_PHASES r) (rail s r).core
    let s := phaseCheck s r
    let cs := (regionChannels s r).take 2
    if regionState s r ≠ 1 then s
    else if cs.any (chEnabled s) then demand s (.powerUp r) cs
    else powerUpDecide s r

/-- Exec REGION_ADMIT. -/
def execRegionAdmit (s : State) : Host.Outcome State Fault Refusal := run true s regionAdmit

/-- The limit on a region's current in 0.1 A (R428, R439); a pair has its lender's (R442). -/
def effLimit (s : State) (r : Nat) : Nat :=
  let q := if flag s .pwr 0 (f_PWR_REG_STATUS_BORROW r) then (partnerOf s r).getD r else r
  min (min 280 (hostSet s .pwr (f_PWR_REG_REQ_ILIM q))) (if (rail s q).core ≥ 14 then 280 else 18 * (rail s q).core)

/-- The current that the limit is compared with. -/
def limitedCurrent (s : State) (r : Nat) : Nat := ((railGroup s r).map (fun q => (rail s q).cur)).sum

/-- A quotient that a register cannot hold exactly is rounded one way or the other. -/
def freeDiv (a : Int) (b : Nat) : Int := a / (b : Int) + (if a % (b : Int) = 0 then 0 else if Config.roundUp a b then 1 else 0)

/-- REGION_RAMP_STEP (R438). -/
def rampStep (r : Nat) (s : State) : State :=
  let k := rail s r
  if regionState s r ≠ 2 || k.ramp ≥ 32 then s
  else
    let near := (onNeighbours s r).filter (fun q => 100 * limitedCurrent s q > 85 * effLimit s q)
    let s := if near.isEmpty then s else setF s .pwr 0 (f_PWR_REG_STATUS_STRETCH r) 1
    let s := setRail s r { k with ramp := k.ramp + 1, nbs := k.nbs ++ near.filter (fun q => !k.nbs.contains q) }
    pauseAll (if flag s .pwr 0 (f_PWR_REG_STATUS_BORROW r) then s else putVolt s r (freeDiv ((k.start.2 * (k.ramp + 1) : Nat) : Int) 32).toNat)

/-- Exec REGION_RAMP_STEP. -/
def execRegionRampStep (r : Nat) (s : State) : Host.Outcome State Fault Refusal := run (present s .region r) s (rampStep r)

/-- Exec REGION_RAMP_DONE. -/
def execRegionRampDone (r : Nat) (s : State) : Host.Outcome State Fault Refusal :=
  run (present s .region r) s (fun s =>
    if regionState s r ≠ 2 || (rail s r).ramp < 32 then s
    else
      let s := setF (setRail s r { rail s r with nbs := [] }) .pwr 0 (f_PWR_REG_STATUS_STRETCH r) 0
      pauseAll (setRegionState s r 3))

/-- REGION_RAIL_OFF: a stopping region is OFF, or DARK; a lender that waited for it may stop (R433, R440, R442). -/
def railOff (r : Nat) (s : State) : State :=
  if regionState s r ≠ 5 then s
  else
    let s := setF (putVolt (setRegionState s r (if (rail s r).dark then 6 else 0)) r 0) .pwr 0 (f_PWR_REG_STATUS_LEVEL r) 0
    let s := (partnerOf s r).toList.foldl (fun s q => if flag s .pwr 0 (f_PWR_REG_STATUS_DEFERRED q) then stopUnwanted s q else s) s
    pauseAll s

/-- Exec REGION_RAIL_OFF. -/
def execRegionRailOff (r : Nat) (s : State) : Host.Outcome State Fault Refusal := run (present s .region r) s (railOff r)

/-! ## Current and power (R428 to R431) -/

/-- A step that rises above a limit and falls after 64 samples in a row below 90% of it: the step and the count. -/
def loopStep (step below cur lim : Nat) : Nat × Nat :=
  if cur > lim then (min 16 (step + 1), 0)
  else if 10 * cur < 9 * lim then (if below + 1 ≥ 64 then (step - 1, 0) else (step, below + 1))
  else (step, 0)

/-- One region's sample is compared with its limit; a pair has one step (R442). -/
def limitRegion (s : State) (r : Nat) : State :=
  if flag s .pwr 0 (f_PWR_REG_STATUS_BORROW r) then s
  else
    let (i, b) := loopStep (rail s r).ilim (rail s r).below (limitedCurrent s r) (effLimit s r)
    (railGroup s r).foldl (fun s q => setRail s q { rail s q with ilim := i, below := b }) s

/-- PWR_CURRENT_SAMPLE: the regions' core currents and that of VIN_CORE, in 0.1 A. -/
def currentSample (cur : List Nat) (vin : Nat) (s : State) : State :=
  let rs := List.range (partRegions s.part)
  let s := rs.foldl (fun s r => setRail s r { rail s r with cur := cur.getD r 0 }) s
  let s := rs.foldl limitRegion s
  let (i, b) := loopStep (fld s .pwr 0 f_PWR_STATUS_VIN_STEP) s.power.vinBelow vin 4200
  pauseAll (setF { s with power := { s.power with vinBelow := b } } .pwr 0 f_PWR_STATUS_VIN_STEP i)

/-- Exec PWR_CURRENT_SAMPLE. -/
def execPwrCurrentSample (cur : List Nat) (vin : Nat) (s : State) : Host.Outcome State Fault Refusal :=
  run (cur.length == partRegions s.part) s (currentSample cur vin)

/-- What a loop does for a measurement and its budget in 0.1 W: raise by steps, lower by one, or hold (R430). By how many steps a
measurement of 0 above its budget raises the loop is not given: `open'`. -/
def loopMove (open' : Nat) (p : Nat) (b : Int) : Nat × Bool :=
  if p = 0 ∧ b < 0 then (open', false)
  else if (p : Int) > b then ((((16 * ((p : Int) - b)) + (p : Int) - 1) / (p : Int)).toNat, false)
  else (0, decide (100 * (p : Int) < 95 * b))

/-- One step up of the envelope loop, the `i`-th of its window (R431). -/
def envUp (prio i : Nat) (x : Nat × Nat) : Nat × Nat :=
  let (e, h) := x
  let toRegion := (min 16 (e + 1), h)
  let toHbm := (e, min 12 (h + 1))
  match prio with
  | 1 => if h < 12 then toHbm else toRegion
  | 2 => toRegion
  | _ => if (i % 2 = 0 && e < 16) || h ≥ 12 then toRegion else toHbm

/-- One step down of the envelope loop. -/
def envDown (prio : Nat) (x : Nat × Nat) : Nat × Nat :=
  let (e, h) := x
  match prio with
  | 1 => if e = 0 then (e, h - 1) else (e - 1, h)
  | 2 => (e - 1, h)
  | _ => if h > e then (e, h - 1) else (e - 1, h)

/-- PWR_WINDOW: stack power, package power, and the output power of each region's regulators, in 0.1 W. -/
def powerWindow (stack pkg : Nat) (ps : List Nat) (s : State) : State :=
  let e := fld s .pwr 0 f_PWR_STATUS_ENV_STEP
  let h := fld s .pwr 0 f_PWR_STATUS_HBM_STEP
  let st := fld s .pwr 0 f_PWR_STATUS_STACK_STEP
  let s := if st ≠ 0 then bump s .pwr 0 o_PWR_STACK_MS 1 else s
  let s := if e ≠ 0 || h ≠ 0 then bump s .pwr 0 o_PWR_ENV_MS 1 else s
  let s := if flag s .therm 0 f_THERM_STATUS_STALE then bump s .therm 0 o_THERM_STALE_MS 1 else s
  let free := Config.freeNat s.fresh
  let s := nextFresh s
  let (up, down) := loopMove free stack 5600
  let st := if up > 0 then min 16 (st + up) else if down then st - 1 else st
  let past := s.power.windows.sum
  let (up, down) := loopMove free pkg (min 10050 (700000 - (past : Int)))
  let prio := hostSet s .pwr f_PWR_CTRL_PRIORITY
  let (e, h) := if up > 0 then (List.range (min 32 up)).foldl (fun x i => envUp prio i x) (e, h) else if down then envDown prio (e, h) else (e, h)
  let avg := (freeDiv ((past + pkg : Nat) : Int) 100).toNat
  let s := (List.range (partRegions s.part)).foldl (fun s r => setRail s r { rail s r with power := ps.getD r 0 }) s
  let s := { s with power := { s.power with windows := (pkg :: s.power.windows).take 99 } }
  let s := setF s .pwr 0 f_PWR_STACK_W_W (min 65535 stack)
  let s := setF (setF s .pwr 0 f_PWR_PKG_W_W (min 65535 pkg)) .pwr 0 f_PWR_PKG_W_AVG (min 65535 avg)
  let s := setF (setF (setF s .pwr 0 f_PWR_STATUS_STACK_STEP st) .pwr 0 f_PWR_STATUS_ENV_STEP e) .pwr 0 f_PWR_STATUS_HBM_STEP h
  pauseAll s

/-- Exec PWR_WINDOW. -/
def execPwrWindow (stack pkg : Nat) (ps : List Nat) (s : State) : Host.Outcome State Fault Refusal :=
  run (ps.length == partRegions s.part) s (powerWindow stack pkg ps)

/-! ## Droop (R444, R445) -/

/-- DROOP_EVENT: a rise of region current in 0.25 A and the dip of its rail in mV. -/
def droopEvent (r rise dip : Nat) (s : State) : State :=
  if !regionOn s r || rise < max 1 (fld s .pwr 0 f_PWR_DROOP_CFG_STEP) then s
  else
    let k := rail s r
    let low := railVolt s r - dip
    let k := if low < k.lwm then { k with lwm := low, lwmTime := s.time } else k
    let den := max 1 (rise * Config.droopCoef (physRegion s r))
    let dips := if 2 * 4000 * dip > 3 * den then k.dips + 1 else 0
    let k := { k with ratio := min 65535 (freeDiv ((256 * 4000 * dip : Nat) : Int) den).toNat, dips := if dips ≥ 64 then 0 else dips }
    let s := setRail s r k
    if dips ≥ 64 then raiseIrq (pwrLog s 4 r 0 k.core false 0) .pwr 0 3 else s

/-- Exec DROOP_EVENT. -/
def execDroopEvent (r rise dip : Nat) (s : State) : Host.Outcome State Fault Refusal := run (present s .region r && 0 < rise) s (droopEvent r rise dip)

/-- LWM_CLR: the mark of a region restarts from the present voltage. -/
def lwmClear (r : Nat) (s : State) : State := setRail s r { rail s r with lwm := railVolt s r, lwmTime := s.time }

/-- Exec LWM_CLR. -/
def execLwmClr (secure : Bool) (r : Nat) (s : State) : Host.Outcome State Fault Refusal :=
  run (r < 32) s (fun s => hostCmd s secure .pwr 0 o_PWR_LWM_CLR (lwmClear r))

end Sys2Proof.Machine
end

