-- ==== Sys2Proof/Machine/Thermal.lean ====
section
/-! DEFINITION. Temperatures, throttling, the orderly stop, the hard trip and RESUME (R425, R451 to R471). -/
namespace Sys2Proof.Machine

/-! ## Readings (R449, R451, R458 to R460) -/

/-- The die of a channel: 0 compute, 1 cache, 2 base, 3 the board. -/
def dieOf (c : Nat) : Nat := if c < 24 then 0 else if c < 32 then 1 else if c < 40 then 2 else 3

/-- The channels of a die. -/
def dieChannels (d : Nat) : List Nat := (List.range 40).filter (fun c => dieOf c == d)

/-- The last reading of a channel, in 1/16 °C. -/
def chTemp (s : State) (c : Nat) : Int := signed 16 (fld s .therm 0 (f_THERM_CH_T c))

/-- The largest of a list of temperatures, if there is one. -/
def hottest (l : List Int) : Option Int :=
  match l with
  | [] => none
  | x :: t => some (t.foldl max x)

/-- The enabled channels of a die that have been measured. -/
def measured (s : State) (d : Nat) : List Nat := (dieChannels d).filter (fun c => chEnabled s c && flag s .therm 0 (f_THERM_CH_VALID c))

/-- The reading that the chapter uses for a channel: a disabled on-die channel takes the hottest enabled one of its die. -/
def reading (s : State) (c : Nat) : Int :=
  if chEnabled s c then chTemp s c
  else (hottest (((dieChannels (dieOf c)).filter (chEnabled s)).map (chTemp s))).getD (chTemp s c)

/-- k and c of a physical region with their user offsets (R460, R535). -/
def effK (s : State) (p : Nat) : Int := Config.modelK p + clampI (-256) 256 (signed 16 (fld s .cal 0 (f_CAL_MODEL_OFS_K_OFS p)))
def effC (s : State) (p : Nat) : Int := Config.modelC p + clampI (-128) 128 (signed 16 (fld s .cal 0 (f_CAL_MODEL_OFS_C_OFS p)))

/-- The logical region at a physical one. -/
def logicalAt (s : State) (p : Nat) : Option Nat := (List.range (partRegions s.part)).find? (fun r => physRegion s r == p)

/-- P of a physical region in 0.1 W: nothing where the part has no region. -/
def physPower (s : State) (p : Nat) : Nat := match logicalAt s p with | some r => (rail s r).power | none => 0

/-- T_top, the reading of the cache channel, and T_base of a physical region. -/
def topAt (s : State) (p : Nat) : Int := reading s (diodeOf p)
def bandAt (s : State) (p : Nat) : Int := reading s (24 + bandOf p)
def baseAt (s : State) (p : Nat) : Int := reading s (32 + bandOf p)

/-- T_model of a physical region (R460). -/
def modelAt (s : State) (p : Nat) : Int :=
  freeDiv (320 * (topAt s p + baseAt s p) + effK s p * (physPower s p : Nat) + 640 * effC s p) 640

/-- T_mid as last evaluated. -/
def midTemp (s : State) (r : Nat) : Int := signed 16 (fld s .therm 0 (f_THERM_REG_T_MID (physRegion s r)))

/-- The three temperatures of a region, by die. -/
def regionTemps (s : State) (r : Nat) : List Int := [topAt s (physRegion s r), midTemp s r, baseAt s (physRegion s r)]

/-- The region temperature that R425 compares. -/
def regionTemp (s : State) (r : Nat) : Int := (hottest (regionTemps s r)).getD 0

/-- ON regions. -/
def regionsOn (s : State) : List Nat := (List.range (partRegions s.part)).filter (regionOn s)

/-! ## Thresholds (R463) -/

/-- Warning, throttle, orderly stop and hard trip of a die, in 1/16 °C. -/
def warnAt (d : Nat) : Int := [1520, 1440, 1600].getD d 0
def throttleAt (d : Nat) : Int := [1648, 1568, 1728].getD d 0
def stopAt (d : Nat) : Int := [1792, 1728, 1888].getD d 0
def tripAt (d : Nat) : Int := [1888, 1824, 1984].getD d 0
/-- The hysteresis of warning and throttle. -/
abbrev hyst : Int := 64

/-- A condition with hysteresis over a list of temperatures. -/
def heldAt (was : Bool) (th : Int) (ts : List Int) : Bool := ts.any (fun t => decide (t ≥ if was then th - hyst else th))

/-- The temperatures that a die's warning and throttle compare. -/
def dieTemps (s : State) (d : Nat) : List Int :=
  (measured s d).map (chTemp s) ++ (regionsOn s).map (fun r => (regionTemps s r).getD d 0)

/-- The warning and throttle bits of a die, with the interrupt of an entry into warning (R464). -/
def dieState (s : State) (d : Nat) : State :=
  let ts := dieTemps s d
  let w : Fld := ⟨o_THERM_STATUS, 12 + d, 12 + d⟩
  let t : Fld := ⟨o_THERM_STATUS, 8 + d, 8 + d⟩
  let now := heldAt (flag s .therm 0 w) (warnAt d) ts
  let s := if now && !flag s .therm 0 w then raiseIrq s .therm 0 1 else s
  setF (setF s .therm 0 w (b2n now)) .therm 0 t (b2n (heldAt (flag s .therm 0 t) (throttleAt d) ts))

/-- A board channel's warning (R467). -/
def boardState (s : State) (c : Nat) : State :=
  let was := s.therm.board.contains c
  let now := chEnabled s c && flag s .therm 0 (f_THERM_CH_VALID c)
    && heldAt was (signed 16 (hostSet s .therm (f_THERM_EXT_WARN_WARN (c - 40)))) [chTemp s c]
  let s := if now && !was then raiseIrq s .therm 0 1 else s
  let rest := s.therm.board.filter (· != c)
  { s with therm := { s.therm with board := if now then c :: rest else rest } }

/-- Warnings, and ALERT while any stands (R464, R467). -/
def alertState (s : State) : State :=
  let s := [40, 41, 42, 43, 44, 45].foldl boardState ([0, 1, 2].foldl dieState s)
  setF s .therm 0 f_THERM_STATUS_ALERT (b2n (fld s .therm 0 f_THERM_STATUS_WARN != 0 || !s.therm.board.isEmpty))

/-! ## The model and its checks (R425, R459 to R461) -/

/-- The model of a physical region is evaluated: T_MID, MODEL and DISAGREE. -/
def evalModel (s : State) (p : Nat) : State :=
  let m := modelAt s p
  let b := bandAt s p
  let s := setF (setF s .therm 0 (f_THERM_REG_T_MID p) (wrapN 16 (max m b))) .therm 0 (f_THERM_REG_MODEL p) (b2n (decide (m > b)))
  let gap := max (m - b) (b - m)
  let was := flag s .therm 0 (f_THERM_REG_DISAGREE p)
  if gap > 128 && !was then raiseIrq (setF s .therm 0 (f_THERM_REG_DISAGREE p) 1) .therm 0 4
  else if gap ≤ 64 then setF s .therm 0 (f_THERM_REG_DISAGREE p) 0
  else s

/-- Whether a channel's measurement is an input of a physical region: its own, or the substitute of a disabled one. -/
def feeds (s : State) (c p : Nat) : Bool := (physChannels p).any (fun x => x == c || (!chEnabled s x && dieOf x == dieOf c))

/-- A pair of ON neighbours is compared: one entry and one count at each onset (R425). -/
def gradient (s : State) (x : Nat × Nat) : State :=
  let d := max (regionTemp s x.1 - regionTemp s x.2) (regionTemp s x.2 - regionTemp s x.1)
  let was := s.power.apart.contains x
  if d ≤ 480 then { s with power := { s.power with apart := s.power.apart.filter (· != x) } }
  else if was then s
  else
    let s := { s with power := { s.power with apart := x :: s.power.apart } }
    pwrLog (bump s .pwr 0 o_PWR_GRADIENT 1) 5 x.1 x.2 (rail s x.1).core false (freeDiv d 16).toNat

/-- The pairs of ON neighbours. -/
def onPairs (s : State) : List (Nat × Nat) :=
  (regionsOn s).flatMap (fun r => ((onNeighbours s r).filter (fun q => r < q)).map (fun q => (r, q)))

/-- REGION_CLOCK_RUNNING: the region is ON at its start level, and the droop detector starts (R437, R444). A start voltage that its
neighbours no longer permit gives way to one that they do, and the region waits in CLOCK where there is none (R421); a borrower's
pair first reaches the voltage that its start level needs (R442). -/
def clockRunning (r : Nat) (s : State) : State :=
  let k := rail s r
  let lent := (partnerOf s r).filter (fun _ => flag s .pwr 0 (f_PWR_REG_STATUS_BORROW r))
  match if admits (permitted s r) (5 * k.start.2) then some k.start else startLevel s r with
  | none => s
  | some (n, v) =>
    let have' := match lent with | some q => railVolt s q / 5 | none => v
    if regionState s r ≠ 3 || k.lending then s
    else if have' < v then (match lent with | some q => moveRail s q (aimLevel s q) v | none => s)
    else
      let s := setRail s r { k with moving := false, asked := none, again := false, barred := false, lwm := 5 * have', lwmTime := s.time, dips := 0, start := (n, v) }
      let s := setF (putVolt s r have') .pwr 0 (f_PWR_REG_STATUS_LEVEL r) n
      let s := setRegionState s r 4
      stopUnwanted (pauseAll ((onPairs s).foldl gradient s)) r

/-- Exec REGION_CLOCK_RUNNING. -/
def execRegionClockRunning (r : Nat) (s : State) : Host.Outcome State Fault Refusal := run (present s .region r) s (clockRunning r)

/-! ## Throttling (R465, R466) -/

/-- A region has the condition of R466. -/
def watched (s : State) (r : Nat) : Bool :=
  regionOn s r && (fld s .therm 0 (f_THERM_REG_STEP (physRegion s r)) != 0
    || [0, 1, 2].any (fun d => decide ((regionTemps s r).getD d 0 ≥ warnAt d)))

/-- A re-check of a region. -/
def recheck (s : State) (r : Nat) : State :=
  if !regionOn s r then s
  else
    let f := f_THERM_REG_STEP (physRegion s r)
    let n := fld s .therm 0 f
    let top := min 16 (hostSet s .therm f_THERM_CTRL_THROT_MAX)
    let ts := regionTemps s r
    if [0, 1, 2].any (fun d => decide (ts.getD d 0 ≥ throttleAt d)) then
      let s := if n = 0 && 0 < top then raiseIrq s .therm 0 2 else s
      setPause (setF s .therm 0 f (min top (n + 1))) r
    else if [0, 1, 2].all (fun d => decide (ts.getD d 0 < throttleAt d - hyst)) then setPause (setF s .therm 0 f (n - 1)) r
    else s

/-- The interval of the re-checks in ns: RECHECK ms, 0 for 1. -/
def recheckEvery (s : State) : Nat := max 1 (hostSet s .therm f_THERM_CTRL_RECHECK) * 1000000

/-- THERM_RECHECK: the interval of a watched region has passed, from the measurement that began its condition (R466). -/
def thermRecheck (r : Nat) (s : State) : State :=
  if !watched s r || s.therm.demands.any (fun d => d.who == .recheck r) || !due s (.recheck r) (recheckEvery s) then s
  else
  let s := passed s (.recheck r) (recheckEvery s)
  if (regionChannels s r).any (chEnabled s) then demand s (.recheck r) (regionChannels s r)
  else recheck s r

/-- Exec THERM_RECHECK. -/
def execThermRecheck (r : Nat) (s : State) : Host.Outcome State Fault Refusal := run (present s .region r) s (thermRecheck r)

/-! ## Stops (R468 to R470) -/

/-- A region that powers up returns to OFF (R469). -/
def dropPowerUp (s : State) (r : Nat) : State :=
  let st := regionState s r
  if 1 ≤ st && st ≤ 3 then
    let s := putVolt (setRegionState (setRail s r { rail s r with nbs := [], ramp := 0 }) r 0) r 0
    let s := setF s .pwr 0 (f_PWR_REG_STATUS_STRETCH r) 0
    { s with therm := { s.therm with demands := s.therm.demands.filter (fun d => d.who != .powerUp r) } }
  else s

/-- A fuse operation in progress learns of a stop (R533, R534). -/
def hitMsg (s : State) : State :=
  match s.mgmt.busy with
  | some m => { s with mgmt := { s.mgmt with busy := some { m with stopHit := true } } }
  | none => s

/-- An orderly stop begins (R468, R469). -/
def beginStop (cause : Nat) (s : State) : State :=
  if s.therm.stop || phase s = phStopped then s
  else
    let s := hitMsg { s with therm := { s.therm with stop := true, began := phase s } }
    let s := raiseIrq (setF s .therm 0 f_THERM_STATUS_SHUT_CAUSE cause) .therm 0 7
    pauseAll ((List.range (partRegions s.part)).foldl dropPowerUp s)

/-- A region's regulators are turned off; what it held is lost (R435). -/
def cutRegion (s : State) (r : Nat) : State :=
  let st := regionState s r
  let s := dropPowerUp s r
  let s := if st = 4 then leaveOn s r 0 else if st = 5 then setRegionState s r (if (rail s r).dark then 6 else 0) else s
  let s := setF (putVolt s r 0) .pwr 0 (f_PWR_REG_STATUS_LEVEL r) 0
  setPause s r

/-- A slice loses its lines and what it was doing; its repair map and its wires stay. -/
def cutSlice (s : State) (i : Nat) : State :=
  setSlice s i { slice s i with ways := [], miss := [], wbs := [], feFull := [], grants := [] }

/-- Every region and band regulator is off (R468 step 4, R470). -/
def cutPower (s : State) : State :=
  let s := (List.range (partRegions s.part)).foldl cutRegion s
  let s := (List.range 8).foldl (fun s b => setF s .pwr 0 (f_PWR_BAND_STATUS_VOLT b) 0) s
  let s := (List.range 128).foldl cutSlice s
  let s := (List.range 8).foldl (fun s b => setHbmc s b { hbmc s b with queue := [], granted := [], grants := [] }) s
  { s with reqs := [] }

/-- The cache die accepts every write already accepted at an NI, and lands every fill (R468 step 2). -/
def acceptWrites (s : State) : State :=
  let s := s.reqs.foldl (fun s q =>
    if carriesData q.op then (match syncAccess { s with reqs := s.reqs.filter (fun x => x.id != q.id) } q with | some (s, _) => s | none => s)
    else s) s
  (List.range 128).foldl (fun s i => (slice s i).miss.foldl (fun s m => fillLand s i m.line) s) s

/-- ORDERLY_STOP_COMPLETE (R468, R469). -/
def stopComplete (s : State) : State :=
  if !s.therm.stop then s
  else
    let s := acceptWrites s
    let s := (List.range 128).foldl flushSlice s
    let s := (List.range 8).foldl (fun s b => setF s .hbm b f_HBM_STATUS_SELF_REFRESH 1) s
    let s := cutPower { s with therm := { s.therm with stop := false }, pkg := { s.pkg with trip := true } }
    setPhase (setF (setF s .therm 0 f_THERM_STATUS_STOPPED 1) .therm 0 f_THERM_STATUS_HARD_TRIP 0) phStopped

/-- Exec ORDERLY_STOP_COMPLETE. -/
def execOrderlyStopComplete (s : State) : Host.Outcome State Fault Refusal := run true s stopComplete

/-- What the stacks hold after a loss is left open (R470). -/
def loseHbm (s : State) : State :=
  let n := s.fresh
  let h : Hbm := {
    mem := (Config.lostBytes n).foldl (fun m c => mset hbmDefault m c.1 c.2) []
    ctab := (Config.lostEntries n).foldl (fun m c => mset (checkValue .plain c.1 0) m c.1 c.2) []
    syn := (Config.lostCode n).foldl (fun m c => mset 0 m c.1 c.2) [] }
  (List.range 8).foldl (fun s b => setF s .hbm b f_HBM_STATUS_TRAIN 0) (nextFresh { s with hbm := h })

/-- The hard trip (R470). -/
def hardTrip (cause : Nat) (s : State) : State :=
  let began := if phase s = phStopped || s.therm.stop then s.therm.began else phase s
  let s := hitMsg (loseHbm (cutPower s))
  let s := { s with therm := { s.therm with stop := false, began := began }, pkg := { s.pkg with trip := true, fault := true, hard := true } }
  let s := raiseIrq (setF s .therm 0 f_THERM_STATUS_SHUT_CAUSE cause) .therm 0 7
  setPhase (setF (setF s .therm 0 f_THERM_STATUS_STOPPED 1) .therm 0 f_THERM_STATUS_HARD_TRIP 1) phStopped

/-- The bit of SHUT_CAUSE of a die. -/
def causeOf (d : Nat) : Nat := 2 ^ d

/-! ## A measurement completes (R452, R454, R456, R459 to R467) -/

/-- The channel's entries of the demands: one that waited for this measurement goes, one that needs the next stays. -/
def answerChannel (c : Nat) (d : Demand) : Demand :=
  { d with chans := (d.chans.filter (fun e => !(e.1 == c && !e.2))).map (fun e => if e.1 = c then (c, false) else e) }

/-- A demand whose last channel has completed. -/
def demandDone (s : State) (w : Demander) : State :=
  match w with
  | .powerUp r => powerUpDecide s r
  | .recheck r => recheck s r
  | .host => raiseIrq s .therm 0 0
  | .fuse => s
  | .cal => s
  | .stale => s

/-- The demands that wait on; those without a channel left are complete. -/
def settleDemands (s : State) (ds : List Demand) : State :=
  let s := { s with therm := { s.therm with demands := ds.filter (fun d => !d.chans.isEmpty) } }
  senseNext ((ds.filter (fun d => d.chans.isEmpty)).foldl (fun s d => demandDone s d.who) s)

/-- The front end has measured a channel: its demands, and the next. -/
def answer (c : Nat) (s : State) : State :=
  settleDemands { s with therm := { s.therm with busy := none } } (s.therm.demands.map (answerChannel c))

/-- Channels that host software has disabled leave every demand; what remains of one may be complete (R454). -/
def dropDisabled (s : State) : State :=
  guardStale (settleDemands s (s.therm.demands.map (fun d =>
    { d with chans := d.chans.filter (fun e => chEnabled s e.1 || (s.therm.busy == some e.1 && !e.2)) })))

/-- The corrected reading of a channel (R451): `raw` is the factory-corrected reading, or a thermistor's resistance. -/
def corrected (s : State) (c : Nat) (raw : Int) : Int :=
  let k := c - 40
  let t := if 40 ≤ c && c < 44 then
      Config.thermistor raw.toNat (hostSet s .therm (f_THERM_TH_MODEL_BETA k)) (hostSet s .therm (f_THERM_TH_MODEL_NOM k))
    else raw
  t + clampI (-128) 128 (calByte s (o_CAL_T_OFS 0) c)

/-- The reading is stored, and everything that depends on it follows. -/
def store (c : Nat) (t : Int) (s : State) : State :=
  let before := (List.range (partRegions s.part)).filter (watched s)
  let s := setF (setF s .therm 0 (f_THERM_CH_T c) (wrapN 16 t)) .therm 0 (f_THERM_CH_VALID c) 1
  let s := setF (setF s .therm 0 (f_THERM_CH_FAULT c) 0) .therm 0 (f_THERM_CH_STALE c) 0
  let s := { s with therm := { s.therm with times := mset 0 s.therm.times c s.time } }
  let s := ((List.range 32).filter (fun p => feeds s c p && (logicalAt s p).isSome)).foldl evalModel s
  let s := alertState s
  let s := (onPairs s).foldl gradient s
  let s := ((List.range (partRegions s.part)).filter (fun r => watched s r && !before.contains r)).foldl (fun s r => recheck (startTimer s (.recheck r)) r) s
  let s := if c < 40 && t ≥ stopAt (dieOf c) then beginStop (causeOf (dieOf c)) s else s
  guardStale s

/-- THERM_MEASURE_DONE: the channel in measurement completes with a reading, or finds a fault. -/
def measureDone (fault : Bool) (raw : Int) (s : State) : State :=
  match s.therm.busy with
  | none => s
  | some c =>
    if s.pkg.noClock then s
    else
      let s := bump s .therm 0 o_THERM_MEAS 1
      if fault then answer c (raiseIrq (setF s .therm 0 (f_THERM_CH_FAULT c) 1) .therm 0 6)
      else
        let s := store c (corrected s c raw) s
        answer c (if c < 40 && raw ≥ tripAt (dieOf c) then hardTrip (causeOf (dieOf c)) s else s)

/-- Exec THERM_MEASURE_DONE. -/
def execThermMeasureDone (fault : Bool) (raw : Int) (s : State) : Host.Outcome State Fault Refusal :=
  run (-32768 ≤ raw && raw ≤ 32767) s (measureDone fault raw)

/-- The stale limit in ms: THERM.CTRL.STALE from 5 to 100 (R457, R473). -/
def staleLimit (s : State) : Nat := max 5 (min 100 (hostSet s .therm f_THERM_CTRL_STALE))

/-- Whether a channel's last measurement is older than the stale limit; one that has not been measured counts from
time-stamp 0 (R457). -/
def tooOld (s : State) (c : Nat) : Bool := decide ((mget 0 s.therm.times c).toNat + staleLimit s * 1000000 < s.time.toNat)

/-- STALE_LIMIT_EXPIRE: an enabled channel's last measurement is older than the limit, and every stale channel is demanded (R457). -/
def staleExpire (c : Nat) (s : State) : State :=
  if !chEnabled s c || flag s .therm 0 (f_THERM_CH_STALE c) || !tooOld s c then s
  else
    let s := guardStale (setF s .therm 0 (f_THERM_CH_STALE c) 1)
    demand s .stale ((List.range 46).filter (fun x => flag s .therm 0 (f_THERM_CH_STALE x)))

/-- Exec STALE_LIMIT_EXPIRE. -/
def execStaleLimitExpire (c : Nat) (s : State) : Host.Outcome State Fault Refusal := run (c < 46) s (staleExpire c)

/-! ## The error rate of the slices (R462) -/

/-- The physical region above a slice (R23). -/
def regionAbove (sl : Nat) : Nat :=
  let b := sl / 16
  let k := sl % 16 / 4
  8 * (2 * (b / 4) + k / 2) + 2 * (b % 4) + k % 2

/-- The low 48 bits of a counter. -/
def ctrCount (s : State) (k : PageKind) (i off : Nat) : Nat := bitsN (ctr s k i off).toNat 47 0

/-- A slice's window of 2^WIN ms in ns. -/
def hotWindow (s : State) : Nat := 2 ^ hostSet s .therm f_THERM_SH_CFG_WIN * 1000000

/-- The end of a window of a slice. -/
def hotEnd (sl : Nat) (s : State) : State :=
  let n := ctrCount s .slice sl o_SLICE_CE
  let grown := n - mget 0 s.therm.ceBase sl
  let th := hostSet s .therm f_THERM_SH_CFG_THRESH
  let s := { s with therm := { s.therm with ceBase := mset 0 s.therm.ceBase sl n } }
  let was := s.therm.suspects.contains sl
  let cool := decide (reading s (24 + sl / 16) < warnAt 1)
  let now := th ≠ 0 && grown ≥ th && (was || cool)
  let rest := s.therm.suspects.filter (· != sl)
  let s := { s with therm := { s.therm with suspects := if now then sl :: rest else rest } }
  let p := regionAbove sl
  if (List.range (partRegions s.part)).any (fun r => physRegion s r == p) then
    let f := f_THERM_REG_SUSPECT_HOT p
    let on := s.therm.suspects.any (fun x => regionAbove x == p)
    let s := if on && !flag s .therm 0 f then raiseIrq s .therm 0 5 else s
    pauseAll (setF s .therm 0 f (b2n on))
  else if now && !was then raiseIrq s .therm 0 5
  else s

/-- SUSPECT_HOT_WINDOW_END for a slice. -/
def suspectWindow (sl : Nat) (s : State) : State := atEvery (.hot sl) (hotWindow s) (hotEnd sl) s

/-- Exec SUSPECT_HOT_WINDOW_END. -/
def execSuspectHotWindowEnd (sl : Nat) (s : State) : Host.Outcome State Fault Refusal := run (sl < 128) s (suspectWindow sl)

/-! ## Demands from outside, and RESUME (R453, R471, R610) -/

/-- A write of DEMAND_LO or DEMAND_HI. -/
def thermDemand (hi : Bool) (m : Nat) (s : State) : State := demand s .host (maskChannels (if hi then m % 2 ^ 14 * 2 ^ 32 else m % 2 ^ 32))

/-- Exec THERM_DEMAND. -/
def execThermDemand (secure hi : Bool) (m : W32) (s : State) : Host.Outcome State Fault Refusal :=
  run true s (fun s => hostCmd s secure .therm 0 (if hi then o_THERM_DEMAND_HI else o_THERM_DEMAND_LO) (thermDemand hi m.toNat))

/-- Exec THERM_REQ: a rising edge after which the pin stays high for 1 µs (R610). -/
def execThermReq (s : State) : Host.Outcome State Fault Refusal :=
  run true s (fun s => if s.pkg.noClock then s else demand s .host (pinChannels s))

/-- Whether a RESUME may be accepted. -/
def resumeReady (s : State) : Bool :=
  flag s .therm 0 f_THERM_STATUS_STOPPED && phase s == phStopped
    && ((List.range 40).filter (chEnabled s)).all (fun c =>
      flag s .therm 0 (f_THERM_CH_VALID c) && !flag s .therm 0 (f_THERM_CH_STALE c) && decide (chTemp s c < warnAt (dieOf c) - hyst))
    && (List.range 8).all (fun b => !flag s .hbm b f_HBM_STATUS_TEMP_FAIL && decide (signed 8 (fld s .hbm b f_HBM_TEMP_T) < 91))

/-- The voltage of a band's rail in 5 mV: 0.75 V and its user offset (R418, R535). -/
def bandVolt (s : State) (b : Nat) : Nat := (150 + clampI (-5) 5 (calByte s (o_CAL_B_OFS 0) b)).toNat

/-- The bands' rails come up. -/
def powerBands (s : State) : State := (List.range 8).foldl (fun s b => setF s .pwr 0 (f_PWR_BAND_STATUS_VOLT b) (bandVolt s b)) s

/-- A write of RESUME with GO = 1 (R471). -/
def thermResume (s : State) : State :=
  if !resumeReady s then raiseIrq (setF s .therm 0 f_THERM_STATUS_RESUME_REFUSED 1) .therm 0 8
  else
    let s := { s with pkg := { s.pkg with trip := s.pkg.hard && s.pkg.trip } }
    let s := setF s .therm 0 f_THERM_STATUS_STOPPED 0
    if s.therm.began = phRom then
      setPhase (setF { s with boot := { s.boot with img := [] } } .boot 0 f_BOOT_STATUS_STATE 0) phRom
    else
      let s := (List.range 8).foldl (fun s b => setF s .hbm b f_HBM_STATUS_SELF_REFRESH 0) s
      setPhase (powerBands s) phRecovery

/-- Exec THERM_RESUME. -/
def execThermResume (secure : Bool) (s : State) : Host.Outcome State Fault Refusal :=
  run true s (fun s => hostCmd s secure .therm 0 o_THERM_RESUME thermResume)

end Sys2Proof.Machine
end

