-- ==== Sys2Proof/Machine/HbmEvents.lean ====
section
/-! DEFINITION. What happens to the HBM stacks and their controllers of itself: temperature, link errors, power-down, training
(R300, R311 to R316, R542). -/
namespace Sys2Proof.Machine

/-! ## Temperature (R311, R312) -/

/-- A level with its hysteresis of 4 °C. -/
def levelHeld (was : Bool) (th t : Int) : Bool := decide (t ≥ if was then th - 3 else th)

/-- The rate limit at a temperature, from the limit in force: 0 none, 1 1/2, 2 1/4, 3 1/8. -/
def rateLimit (old : Nat) (t : Int) : Nat :=
  if levelHeld (old ≥ 3) 103 t then 3 else if levelHeld (old ≥ 2) 99 t then 2 else if levelHeld (old ≥ 1) 95 t then 1 else 0

/-- A stack's refresh and rate limit follow a temperature. -/
def hbmLevels (b : Nat) (t : Int) (s : State) : State :=
  let was := flag s .hbm b f_HBM_STATUS_REFRESH_X2
  let old := fld s .hbm b f_HBM_STATUS_THROTTLE
  let new := rateLimit old t
  let s := setF s .hbm b f_HBM_STATUS_REFRESH_X2 (b2n (levelHeld was (if was then 85 else 86) t))
  let s := setF s .hbm b f_HBM_STATUS_THROTTLE new
  if new > old then raiseIrq s .hbm b 1 else s

/-- The controller cycles with THROTTLE nonzero since the last readout (R317): the spec gives the controller no cycle time, so
their number is a free value. -/
def countThrottled (b : Nat) (s : State) : State :=
  if fld s .hbm b f_HBM_STATUS_THROTTLE = 0 then s else nextFresh (hbmCountN s b o_HBM_THROTTLED (Config.freeNat s.fresh))

/-- HBM_TEMP_POLL: a readout in °C, or none when no valid response came. -/
def tempPoll (b : Nat) (ok : Bool) (t : Int) (s : State) : State :=
  let s := countThrottled b s
  if !ok then raiseIrq (hbmLevels b 95 (setF s .hbm b f_HBM_STATUS_TEMP_FAIL 1)) .hbm b 2
  else
    let s := setF (setF s .hbm b f_HBM_TEMP_T (wrapN 8 t)) .hbm b f_HBM_STATUS_TEMP_FAIL 0
    let s := hbmLevels b t s
    if t ≥ 105 then beginStop 8 s else s

/-- Exec HBM_TEMP_POLL. -/
def execHbmTempPoll (b : Nat) (ok : Bool) (t : Int) (s : State) : Host.Outcome State Fault Refusal :=
  run (b < 8 && -128 ≤ t && t ≤ 127) s (tempPoll b ok t)

/-! ## Link errors (R313, R314) -/

/-- A fetch whose command failed lands with every word poisoned. -/
def fillPoisoned (s : State) (sl l : Nat) : State :=
  match missOf s sl l with
  | none => s
  | some m =>
    if m.held.isSome then s
    else
      let b : Body := { data := memLine s.hbm.mem l, pois := allWords, chk := entryOf s l }
      landLine s sl l m b false false true

/-- A write that was lost: the line is marked poisoned in the cache die (R313). -/
def writeLost (s : State) (sl l : Nat) : State := markLost (match servedKey s l with
  | some (x, k) => poisonWay (wbDone s sl l) x k
  | none => wbDone s sl l) l

/-- HBM_CA_PARITY_ERR on a granted transaction. -/
def caParity (sl l : Nat) (write retryOk : Bool) (s : State) : State :=
  let b := owner l / 16
  if !hbmGranted s sl l write then s
  else if retryOk then hbmCount s b o_HBM_CA_RETRY
  else
    let s := hbmCount (hbmRelease s sl l write) b o_HBM_CA_FAIL
    if write then writeLost s sl l else fillPoisoned s sl l

/-- Exec HBM_CA_PARITY_ERR. -/
def execHbmCaParityErr (sl l : Nat) (write retryOk : Bool) (s : State) : Host.Outcome State Fault Refusal :=
  run (sl < 128) s (caParity sl l write retryOk)

/-- SPARE_OUT of a stack: the channels for which no spare lane remains (R314). -/
def setSpareOut (s : State) (b m : Nat) : State := setF s .hbm b f_HBM_LANE_STATUS_SPARE_OUT m

/-- Exec HBM_LANE_PARITY: a data lane of channel `c` shows repeated errors; `out` that no spare lane remains for it. -/
def execHbmLaneParity (b c : Nat) (out : Bool) (s : State) : Host.Outcome State Fault Refusal :=
  run (b < 8 && c < 16) s (fun s =>
    let s := setF s .hbm b ⟨o_HBM_LANE_STATUS, 16 + c, 16 + c⟩ 1
    let s := if out then setF s .hbm b ⟨o_HBM_LANE_STATUS, c, c⟩ 1 else s
    raiseIrq s .hbm b 3)

/-! ## Power-down (R300) -/

/-- Whether a pseudo-channel has nothing queued or granted. -/
def pseudoIdle (s : State) (b n : Nat) : Bool :=
  !((hbmQueue s (16 * b + n / 2)).any (fun e => pseudoOf e.line == n)) && !((hbmc s b).granted.any (fun e => pseudoOf e.2.1 == n))

/-- Exec HBM_PDN_IDLE. -/
def execHbmPdnIdle (b n : Nat) (s : State) : Host.Outcome State Fault Refusal :=
  run (b < 8 && n < 32 && !frozen s .hbm b) s (fun s =>
    if flag s .hbm b f_HBM_CTRL_PDN_EN && pseudoIdle s b n then
      setHbmc s b { hbmc s b with pdn := BitVec.ofNat 32 (putBitsN (hbmc s b).pdn.toNat n n 1) }
    else s)

/-! ## Training (R315, R316, R542) -/

/-- Whether the stacks are to be trained: at step 6, or in RECOVERY after their contents were lost. -/
def mayTrain (s : State) : Bool :=
  (List.range 8).any (fun b => fld s .hbm b f_HBM_STATUS_TRAIN == 0)
    && ((phase s == phBringup && fld s .chip 0 f_CHIP_BRINGUP_STATUS_STEP == 5) || phase s == phRecovery)

/-- Training writes the word of an armed flip mask as zeros, which applies the mask and disarms it (R315, R390). -/
def trainFlip (s : State) (b : Nat) : State :=
  let o := 16 * b + fld s .hbm b f_HBM_FLIP_CTRL_CHANNEL
  let w := fld s .hbm b f_HBM_FLIP_POS_WORD
  if !flag s .hbm b f_HBM_FLIP_CTRL_ARM then s
  else if w / 32 < 0x17A0000 then hbmPutData s (lineAt o (w / 32)) 0 0
  else if w / 32 ≤ 0x17FE7FF then
    let l := lineAt o ((w - 0x17A0000 * 32) * 2)
    putEntry s l (checkValue .plain l 0)
  else s

/-- The channels of a stack whose hard repairs have used every spare lane (R314). -/
def sparesUsed (s : State) (b : Nat) : Nat :=
  packN 1 (fun c => b2n (Config.laneSpares (16 * b + c) ≤ s.repair.lanes.count (16 * b + c))) 16

/-- Soft repair at training takes spare lanes for the lanes that fail then: where none remains, the spec does not say (R314, R315). -/
def trainSpares (s : State) (b : Nat) : State := nextFresh (setSpareOut s b (sparesUsed s b ||| Config.freeNat s.fresh % 65536))

/-- A trained stack: out of self-refresh (R317). -/
def trainStack (s : State) (b : Nat) : State := trainSpares (trainFlip (setF s .hbm b f_HBM_STATUS_SELF_REFRESH 0) b) b

/-- HBM_TRAIN_DONE: the code of each stack, 1 for OK. -/
def trainDone (codes : List Nat) (s : State) : State :=
  if !mayTrain s then s
  else
    let s := (List.range 8).foldl (fun s b =>
      let s := setF s .hbm b f_HBM_STATUS_TRAIN (codes.getD b 0)
      if codes.getD b 0 = 1 then s else raiseIrq s .hbm b 0) s
    if codes.all (· == 1) then
      let s := (List.range 8).foldl trainStack { s with hbm := {}, cache := { s.cache with lost := [] } }
      if fld s .chip 0 f_CHIP_BRINGUP_STATUS_STEP = 5 then stepDone s 6 else s
    else stepFailed s 6

/-- Exec HBM_TRAIN_DONE. -/
def execHbmTrainDone (codes : List Nat) (s : State) : Host.Outcome State Fault Refusal :=
  run (codes.length == 8 && codes.all (fun c => 1 ≤ c && c ≤ 5)) s (trainDone codes)

end Sys2Proof.Machine
end

