-- ==== Sys2Proof/Machine/Selftest.lean ====
section
/-! DEFINITION. Self-tests, repair additions, ageing and background work (R544 to R551, R557 to R563). -/
namespace Sys2Proof.Machine

/-! ## Physical cells and repair additions (R26, R544, R547) -/

/-- The position of a block's disabled cell, if the block has one. -/
def spotOf (s : State) (b : Nat) : Option Nat :=
  if bitN (sevenMask s (b / 6)) (b % 6) then some (bitsN (mget 0 s.repair.spots (b / 6)) (3 * (b % 6) + 2) (3 * (b % 6))) else none

/-- A logical cell as block within its region and physical position. -/
def physCell (s : State) (c : Nat) : Nat × Nat :=
  let b := blockOfCell s c
  let i := c % 45 - firstRank s b
  (b % 6, match spotOf s b with | some p => if i < p then i else i + 1 | none => i)

/-- An addition to the repair map waits to be written: a failed cell. -/
def addCell (s : State) (c : Nat) : State :=
  let x := (physRegion s (c / 45), physCell s c)
  if s.repair.held.contains x || s.repair.bad.contains x then s
  else { s with repair := { s.repair with held := s.repair.held ++ [x] } }

/-- A region that went DARK is recorded failed when the fuses can be written. -/
def heldDark (s : State) : List Nat := s.repair.dead.filter (fun p => !s.repair.failed.contains p)

/-- Whether every base-die reading of the last 5 ms lies within 15 to 75 °C (R472). -/
def fuseWarm (s : State) : Bool :=
  (List.range 8).all (fun b =>
    let c := 32 + b
    flag s .therm 0 (f_THERM_CH_VALID c) && decide (s.time.toNat ≤ (mget 0 s.therm.times c).toNat + 5000000)
      && decide (240 ≤ chTemp s c ∧ chTemp s c ≤ 1200))

/-- The additions that wait are written (R547). -/
def writeAdditions (s : State) : State :=
  { s with repair := { s.repair with bad := s.repair.bad ++ s.repair.held, held := [], failed := s.repair.failed ++ heldDark s } }

/-! ## Items (R557, R558) -/

/-- Whether an item exists and has the target. -/
def itemOk (s : State) (item t : Nat) : Bool :=
  match item with
  | 0x01 => true
  | 0x02 => present s .region t
  | 0x03 => t < 24
  | 0x04 => t < 60
  | 0x05 => t < 128
  | 0x10 => present s .cell t
  | 0x11 => present s .cell t
  | 0x12 => t < 128
  | 0x13 => present s .region t
  | 0x20 => true
  | _ => false

/-- Whether an item is disruptive. -/
def disruptive (item : Nat) : Bool := 0x10 ≤ item

/-- Whether the target of a disruptive item is drained. -/
def itemDrained (s : State) (item t : Nat) : Bool :=
  match item with
  | 0x12 => phase s == phReady && (List.range 8).all (partDrained s)
  | 0x13 => !regionBusy s t
  | 0x20 => phase s == phReady
  | _ => regionOn s (t / 45) && (liveGroups s t).isEmpty && (cell s t).ops.isEmpty && (cell s t).copies.isEmpty

/-- Whether an entry is for an item and target. -/
def isItem (item t : Nat) (x : TestItem) : Bool := x.item == item && x.target == t

/-- An item starts; FULL writes back and invalidates the cache die and enters TEST (R560). -/
def itemStart (s : State) (x : TestItem) : State :=
  let s := { s with chores := { s.chores with run := s.chores.run.filter (fun y => !isItem x.item x.target y) ++ [x] } }
  let s := if x.item = 0x20 then setPhase ((List.range 128).foldl flushSlice s) phTest else s
  testStatus s

/-- The result of a request. -/
def testResult (s : State) (r : Nat) : State := testStatus (setF s .chip 0 f_CHIP_SELFTEST_STATUS_RESULT r)

/-- A request without CANCEL (R558). -/
def testSubmit (item t : Nat) (force hold : Bool) (s : State) : State :=
  if !itemOk s item t then testResult s 5
  else if !disruptive item then testResult (itemStart s ⟨item, t, false⟩) 1
  else if s.chores.tests.any (isItem item t) then
    testResult { s with chores := { s.chores with tests := s.chores.tests.map (fun x => if isItem item t x then { x with hold := x.hold || hold } else x) } } 2
  else if force then
    if itemDrained s item t && !s.chores.run.any (isItem item t) then testResult (itemStart s ⟨item, t, hold⟩) 1 else testResult s 3
  else if s.chores.tests.length ≥ 16 then testResult s 4
  else testResult { s with chores := { s.chores with tests := s.chores.tests ++ [⟨item, t, hold⟩] } } 2

/-- A request with CANCEL. -/
def testCancel (item t : Nat) (s : State) : State :=
  if s.chores.tests.any (isItem item t) then
    testResult { s with chores := { s.chores with tests := s.chores.tests.filter (fun x => !isItem item t x) } } 6
  else testResult s 0

/-- Exec SELFTEST_SUBMIT. -/
def execSelftestSubmit (secure : Bool) (item t : Nat) (force hold : Bool) (s : State) : Host.Outcome State Fault Refusal :=
  run (item < 256 && t < 65536) s (fun s => hostCmd s secure .chip 0 o_CHIP_SELFTEST_REQ (testSubmit item t force hold))

/-- Exec SELFTEST_CANCEL. -/
def execSelftestCancel (secure : Bool) (item t : Nat) (s : State) : Host.Outcome State Fault Refusal :=
  run (item < 256 && t < 65536) s (fun s => hostCmd s secure .chip 0 o_CHIP_SELFTEST_REQ (testCancel item t))

/-- SELFTEST_START: a queued item whose target is drained starts (R559). -/
def testStart (item t : Nat) (s : State) : State :=
  match s.chores.tests.find? (isItem item t) with
  | none => s
  | some x =>
    if itemDrained s item t && !s.chores.run.any (isItem item t) then
      itemStart { s with chores := { s.chores with tests := s.chores.tests.filter (fun y => !isItem item t y) } } x
    else s

/-- Exec SELFTEST_START. -/
def execSelftestStart (item t : Nat) (s : State) : Host.Outcome State Fault Refusal := run (item < 256 && t < 65536) s (testStart item t)

/-! ## Completion (R560, R561) -/

/-- A value of background calibration is renewed: which value, the spec leaves open. -/
def renew (s : State) (i u : Nat) : State :=
  let rest := s.chores.trims.filter (fun x => x.1 != (i, u))
  nextFresh { s with chores := { s.chores with trims := rest ++ [((i, u), Config.freeNat s.fresh)] } }

/-- A tested cell is left with zeroed local memory; the march of its caches leaves them invalid. -/
def zeroCell (caches : Bool) (s : State) (c : Nat) : State :=
  let k := { cell s c with lm := [], lmPois := [], lmSyn := [] }
  setCell s c (if caches then { k with icache := [], ccache := [], dcache := [] } else k)

/-- Every present cell of a region. -/
def zeroRegion (s : State) (r : Nat) : State := (cellsOfRegion r).foldl (zeroCell true) s

/-- The effects of a completed item. `cells` are the cells that a FULL test found failed. -/
def itemDone (s : State) (x : TestItem) (pass : Bool) (cells : List Nat) : State :=
  match x.item with
  | 0x10 => let s := zeroCell false s x.target; if pass then s else addCell s x.target
  | 0x11 => let s := zeroCell true s x.target; if pass then s else addCell s x.target
  | 0x12 =>
    if pass then
      let s := setF s .hbm (x.target / 16) ⟨o_HBM_LANE_STATUS, 16 + x.target % 16, 16 + x.target % 16⟩ 0
      let s := { s with repair := { s.repair with lanes := s.repair.lanes ++ [x.target] } }
      setSpareOut s (x.target / 16) (fld s .hbm (x.target / 16) f_HBM_LANE_STATUS_SPARE_OUT ||| sparesUsed s (x.target / 16))
    else s
  | 0x01 => renew s 0 x.target
  | 0x02 => renew s 1 x.target
  | 0x03 => renew s 2 x.target
  | 0x04 => renew s 3 x.target
  | 0x13 => demand s .cal (regionChannels s x.target)
  | 0x20 =>
    let s := (regionsOn s).foldl zeroRegion s
    let s := if pass then s else cells.foldl addCell s
    let s := demand s .cal (List.range 40)
    if phase s = phTest then setPhase s phReady else s
  | _ => s

/-- SELFTEST_DONE: an item that runs completes. -/
def testDone (item t : Nat) (pass : Bool) (detail : Nat) (cells : List Nat) (s : State) : State :=
  match s.chores.run.find? (isItem item t) with
  | none => s
  | some x =>
    let s := { s with chores := { s.chores with run := s.chores.run.filter (fun y => !isItem item t y) } }
    testStatus (testRecord (itemDone s x pass cells) x (if pass then 1 else 2) (if pass then 0 else detail))

/-- Exec SELFTEST_DONE. -/
def execSelftestDone (item t : Nat) (pass : Bool) (detail : Nat) (cells : List Nat) (s : State) : Host.Outcome State Fault Refusal :=
  run (item < 256 && t < 65536 && detail < 2 ^ 32 && cells.all (present s .cell)) s (testDone item t pass detail cells)

/-! ## Background work (R562, R563) -/

/-- AGEING_CHECK of one region: the slowdown that its monitor reads, in 0.001%. -/
def ageingCheck (r age : Nat) (s : State) : State :=
  let p := physRegion s r
  if !backgroundOn s || bitN (fld s .chip 0 f_CHIP_BG_CTRL_DIS) 4 || !regionOn s r then s
  else
    let s := { s with repair := { s.repair with age := mset 0 s.repair.age p age } }
    let g := mget 0 s.repair.guard p
    if age < mget 0 s.repair.risen p + 500 || g ≥ 40 then s
    else
      let s := { s with repair := { s.repair with guard := mset 0 s.repair.guard p (g + 5), risen := mset 0 s.repair.risen p age } }
      if g + 5 ≥ 40 then raiseIrq (setF s .chip 0 ⟨o_CHIP_WEAR_STATUS, r, r⟩ 1) .chip 0 7 else s

/-- Exec AGEING_CHECK. -/
def execAgeingCheck (r age : Nat) (s : State) : Host.Outcome State Fault Refusal := run (present s .region r && age < 65536) s (ageingCheck r age)

/-- BACKGROUND_ITEM_RUN: activity `i` of BG_CTRL.DIS, 0 SENSE_OFFSET, 1 REG_TRIM, 2 SERDES_ADAPT, 3 CLK_TRIM, on a unit. A disabled
item keeps its last values (R562). -/
def backgroundRun (i u : Nat) (s : State) : State :=
  if !backgroundOn s || bitN (fld s .chip 0 f_CHIP_BG_CTRL_DIS) i then s else renew s i u

/-- Exec BACKGROUND_ITEM_RUN. -/
def execBackgroundItemRun (i u : Nat) (s : State) : Host.Outcome State Fault Refusal :=
  run (i < 4 && itemOk s (i + 1) u) s (backgroundRun i u)

end Sys2Proof.Machine
end

