-- ==== Sys2Proof/Machine/Strobe.lean ====
section
/-! DEFINITION. Shadow registers, strobes, safe points and configuration parity (R38, R191, R209, R210, R239, R240, R245, R265, R266,
R292, R338, R488 to R495, R518, R519, R532, R536, R576). -/
namespace Sys2Proof.Machine

/-! ## Fields that share a safe point (R491) -/

/-- Sets of fields of a page that share a safe point. -/
abbrev spPlain : Nat := 0
abbrev spReach : Nat := 1
abbrev spSf : Nat := 2
abbrev spWorld : Nat := 3
abbrev spTrace : Nat := 4
abbrev spFe : Nat := 5
abbrev spPart (p : Nat) : Nat := 100 + p
abbrev spWin (w : Nat) : Nat := 200 + w
abbrev spRemap (i : Nat) : Nat := 300 + i

/-- The sets of a page kind, in the order in which they are examined. -/
def setsOf (k : PageKind) : List Nat :=
  match k with
  | .chip => spPlain :: (List.range 8).map spPart ++ (spFe :: (List.range 32).map spWin) ++ (List.range 128).map spRemap
  | .block => [spReach, spSf]
  | .sec => [spPlain, spWorld]
  | .trace => [spPlain, spTrace]
  | k => if kindShadowed k then [spPlain] else []

/-- The set of the register at an offset. -/
def setOf (k : PageKind) (off : Nat) : Nat :=
  match k with
  | .chip =>
    if 0x600 ≤ off && off < 0x640 then spPart ((off - 0x600) / 8)
    else if off = o_CHIP_FE_BASE || off = o_CHIP_FE_CTRL then spFe
    else if 0x800 ≤ off && off < 0xA00 then spWin ((off - 0x800) / 16)
    else if 0xA00 ≤ off && off < 0xC00 then spRemap ((off - 0xA00) / 4)
    else spPlain
  | .block => if off = o_BLOCK_SF_CTRL then spSf else spReach
  | .sec => if 0x100 ≤ off && off < 0x118 then spWorld else spPlain
  | .trace => if off = o_TRACE_CTRL || off = o_TRACE_BUF_BASE then spTrace else spPlain
  | _ => spPlain

/-- The offsets at which a page holds a staged or an active value of an RW-S register other than its reset value. -/
def heldOffs (s : State) (k : PageKind) (i : Nat) : List Nat :=
  let g := page s k i
  (((g.shd ++ g.stg ++ g.act).map (·.1)).filter (isShadowed k)).eraseDups

/-- The bits of a register that are RW-S. -/
def rwMask (k : PageKind) (off : Nat) : W32 := BitVec.ofNat 32 (accMask (fieldsAt k off) .rwS)

/-- The staged fields of a register become active. -/
def applyReg (k : PageKind) (i : Nat) (s : State) (off : Nat) : State :=
  let m := rwMask k off
  setReg s k i off ((reg s k i off &&& ~~~m) ||| (regStg s k i off &&& m))

/-- Whether the staged fields of a register differ from the active ones. -/
def differs (s : State) (k : PageKind) (i off : Nat) : Bool := (reg s k i off ^^^ regStg s k i off) &&& rwMask k off != 0

/-- Whether an attestation report in progress holds a page's safe points (R532). -/
def reportHolds (s : State) (k : PageKind) : Bool :=
  (match s.mgmt.busy with | some m => m.type == 1 | none => false)
    && (k == .chip || k == .sec || k == .fab || k == .port || k == .cal || k == .block)

/-- Whether a switch of the CHIP page's fields cannot end: a report holds it, or the page is frozen (R495, R532). -/
def chipHeld (s : State) : Bool := frozen s .chip 0 || reportHolds s .chip

/-- Every register of a set applies. -/
def applySet (s : State) (k : PageKind) (i x : Nat) : State :=
  ((heldOffs s k i).filter (fun o => setOf k o == x)).foldl (applyReg k i) s

/-- The staged fields of a register return to the active ones, so that a refused set waits no longer. -/
def dropSet (s : State) (k : PageKind) (i x : Nat) : State :=
  ((heldOffs s k i).filter (fun o => setOf k o == x)).foldl (fun s o => setStg s k i o (reg s k i o)) s

/-- A set of a page waits no longer. -/
def unwait (s : State) (k : PageKind) (i x : Nat) : State :=
  setPage s k i { page s k i with waiting := (page s k i).waiting.filter (· != x) }

/-- A set applies, and waits no longer. -/
def applyWhole (s : State) (k : PageKind) (i x : Nat) : State := unwait (applySet s k i x) k i x

/-! ## Reach fields (R209, R210) -/

/-- Whether a block's reach fields may apply. -/
def reachFree (s : State) (b : Nat) : Bool :=
  if !flag s .block b f_BLOCK_REACH_CTRL_EN then true
  else
    let l := if flag s .block b f_BLOCK_REACH_CTRL_LEAD then b else fld s .block b f_BLOCK_REACH_CTRL_LEAD_BLK
    reachState s l == rOff || reachState s l == rHalted

/-- The code with which a lead's staged fields are refused, 0 for none. -/
def reachBad (s : State) (b : Nat) : Nat :=
  let g := fldStg s .block b f_BLOCK_REACH_SHAPE_GROUPS
  let a := fldStg s .block b f_BLOCK_REACH_SHAPE_ALLOC_U
  let l := fldStg s .block b f_BLOCK_REACH_SHAPE_LANES
  let lo := fldStg s .block b f_BLOCK_FP_MARKS_LOW
  let hi := fldStg s .block b f_BLOCK_FP_MARKS_HIGH
  let fp := fldStg s .block b f_BLOCK_REACH_CTRL_FP_EN = 1
  if fldStg s .block b f_BLOCK_REACH_CTRL_EN = 0 || fldStg s .block b f_BLOCK_REACH_CTRL_LEAD = 0 then 0
  else if g * 8 * a > 1024 then 1
  else if g = 0 || l = 0 || a = 0 || g > 16 || a > 16 || l > 32 || (fp && (hi = 0 || lo > hi)) then 2
  else 0

/-- The reach fields of a block. -/
def applyReach (s : State) (b : Nat) : State :=
  if !reachFree s b then s
  else
    let c := reachBad s b
    if c = 0 then applyWhole s .block b spReach else reachRefuse (unwait (dropSet s .block b spReach) .block b spReach) b c

/-! ## The special-function bank (R191) -/

/-- The bank and the mode of a block, while no load is BUSY; a flip to an invalid bank is refused. -/
def applySf (s : State) (b : Nat) : State :=
  if (block s b).load.isSome then s
  else
    let old := fld s .block b f_BLOCK_SF_CTRL_ACTIVE_BANK
    let new := fldStg s .block b f_BLOCK_SF_CTRL_ACTIVE_BANK
    let bad := if new = 0 then (block s b).invalid0 else (block s b).invalid1
    let s := applyWhole s .block b spSf
    if new = old then s
    else if bad then
      raiseIrq (setF (setF s .block b f_BLOCK_SF_CTRL_ACTIVE_BANK old) .block b f_BLOCK_SF_STATUS_FLIP_REFUSED 1) .block b 10
    else setBlock s b { block s b with prev := some old }

/-! ## Worlds and descriptors (R518, R519) -/

/-- Whether a block may change its world. -/
def worldFree (s : State) (b : Nat) : Bool := reachFree s b && (cellsIn s b).all (fun c => (liveGroups s c).isEmpty)

/-- What a change of world leaves of a block. -/
def wipeWorld (s : State) (b : Nat) : State := clearSf ((cellsIn s b).foldl (zeroCell true) s) b

/-- The bits of BLOCK_WORLD whose safe point has come. -/
def applyWorld (s : State) : State :=
  let bs := (List.range (instCount s.part .block)).filter (fun b =>
    let o := o_SEC_BLOCK_WORLD (b / 32)
    bitN (reg s .sec 0 o).toNat (b % 32) != bitN (regStg s .sec 0 o).toNat (b % 32))
  let s := (bs.filter (worldFree s)).foldl (fun s b =>
    let o := o_SEC_BLOCK_WORLD (b / 32)
    let f : Fld := ⟨o, b % 32, b % 32⟩
    wipeWorld (setF s .sec 0 f (fldStg s .sec 0 f)) b) s
  let left := (List.range (instCount s.part .block)).any (fun b =>
    let o := o_SEC_BLOCK_WORLD (b / 32)
    bitN (reg s .sec 0 o).toNat (b % 32) != bitN (regStg s .sec 0 o).toNat (b % 32))
  if left then s else unwait s .sec 0 spWorld

/-- One descriptor whose fields change: checked against the enabled descriptors in force. -/
def applyMrd (s : State) (n : Nat) : State :=
  let offs := [o_SEC_MRD_BASE n, o_SEC_MRD_LIMIT n, o_SEC_MRD_CFG n]
  if !offs.any (differs s .sec 0) then s
  else
    let b := (regStg s .sec 0 (o_SEC_MRD_BASE n)).toNat
    let l := (regStg s .sec 0 (o_SEC_MRD_LIMIT n)).toNat
    let meets := fun m => m != n && (let (x, y, c) := mrdRegs s m; bitN c 31 && b ≤ y && x ≤ l)
    let code := if l < b then 1 else if (List.range 64).any meets then 2 else 0
    if code = 0 then offs.foldl (applyReg .sec 0) s
    else
      let s := offs.foldl (fun s o => setStg s .sec 0 o (reg s .sec 0 o)) s
      setF (setF s .sec 0 f_SEC_MRD_STATUS_MRD n) .sec 0 f_SEC_MRD_STATUS_REFUSE code

/-- The other fields of the SEC page. -/
def applySec (s : State) : State := applyWhole ((List.range 64).foldl applyMrd s) .sec 0 spPlain

/-! ## Fabric windows and topology (R289, R338, R339) -/

/-- The code with which a fabric window's new fields are refused: 1 RANGE, 2 OVERLAP, 3 SHAPE, 4 EID. -/
def fwinBad (s : State) (n : Nat) (w : FWin) : Nat :=
  let meets := fun m => m != n && fwEn (fwin s m) && fwBase w ≤ fwLimit (fwin s m) && fwBase (fwin s m) ≤ fwLimit w
  let e := fldW w.tgt 31 16
  if fwBase w < 756 || fwLimit w < fwBase w then 1
  else if (List.range 256).any meets then 2
  else if fwGran w < 16 || 30 < fwGran w || 12 < fwEids w then 3
  else if e % 2 ^ fwEids w ≠ 0 || e + 2 ^ fwEids w - 1 > 0xFFFE then 4
  else 0

/-- The lines of a fabric window leave the slices and the read-only caches of the cells (R156, R289, R339). -/
def dropWindow (s : State) (w : FWin) : State :=
  let p := fun (l : Nat) => !backed l && (let a := l * 256 / 2 ^ 30; decide (fwBase w ≤ a) && decide (a ≤ fwLimit w))
  let s := s.slices.foldl (fun s x => dropRemote p s x.1) s
  s.cells.foldl (fun s x => setCell s x.1 { cell s x.1 with
    icache := (cell s x.1).icache.filter (fun e => !p e.1), ccache := (cell s x.1).ccache.filter (fun e => !p e.1) }) s

/-- One window whose fields change. -/
def applyFwin (s : State) (n : Nat) : State :=
  let old := fwin s n
  let new := mget {} s.fab.wStg n
  if old = new then s
  else
    let c := fwinBad s n new
    if c = 0 then
      let moved := old.base != new.base || old.limit != new.limit || old.tgt != new.tgt || fwEn old != fwEn new || fwRo old != fwRo new
        || fwEids old != fwEids new || fwGran old != fwGran new
      let s := if fwEn old && moved then dropWindow s old else s
      { s with fab := { s.fab with wAct := mset {} s.fab.wAct n new } }
    else setF (setF s .fab 0 f_FAB_FWIN_STATUS_WIN n) .fab 0 f_FAB_FWIN_STATUS_REFUSE c

/-- An expected partner whose EXPECT is reserved keeps its active fields. -/
def keepPeer (s : State) (p : Nat) : State :=
  if fldStg s .fab 0 (f_FAB_TOPO_PEER_EXPECT p) = 3 then setStg s .fab 0 (o_FAB_TOPO_PEER p) (reg s .fab 0 (o_FAB_TOPO_PEER p)) else s

/-- The FAB page. -/
def applyFab (s : State) : State :=
  let topo := (heldOffs s .fab 0).any (fun o => 0x104 ≤ o && o != o_FAB_FWIN_SEL && differs s .fab 0 o)
  let s := (List.range 256).foldl applyFwin ((List.range 24).foldl keepPeer s)
  let s := applyWhole s .fab 0 spPlain
  let s := (List.range 24).foldl (fun s p => portEnabled p s) s
  if topo then surveyChanged s else s

/-! ## Partitions and profiles (R38, R245, R247, R551) -/

/-- The code with which a partition's map is refused. -/
def mapBad (s : State) (p : Nat) : Nat :=
  let new := (regStg s .chip 0 (o_CHIP_PART_MAP p)).toNat
  let old := (reg s .chip 0 (o_CHIP_PART_MAP p)).toNat
  let others := (List.range 8).filter (· != p)
  if (List.range 32).any (fun r => bitN new r && others.any (fun q => bitN (reg s .chip 0 (o_CHIP_PART_MAP q)).toNat r)) then 1
  else if s.blocks.any (fun x => reachState s x.1 != rOff && x.2.run.blocks.any (fun b => bitN old (b / 6) && !bitN new (b / 6))) then 2
  else if (List.range 32).any (fun r => bitN new r && (!present s .region r || regionState s r == 6 || (rail s r).dark)) then 3
  else 0

/-- Share and egress weights of a profile (R38). -/
def profShare (f : Nat) : Nat := [50, 40, 60, 75].getD f 50
def profWeights (f : Nat) : Nat × Nat × Nat := [(2, 2, 2), (2, 1, 3), (3, 3, 1), (1, 6, 1)].getD f (2, 2, 2)

/-- A profile is applied to a partition. -/
def applyProfile (s : State) (p f : Nat) : State :=
  let sh : Fld := ⟨if p < 4 then o_QOS_PART_SHARE_LO else o_QOS_PART_SHARE_HI, 8 * (p % 4) + 6, 8 * (p % 4)⟩
  let (a, b, c) := profWeights f
  let s := setF3 s .qos 0 sh (profShare f)
  let s := setF3 (setF3 (setF3 s .qos 0 (f_QOS_EGRESS_WT_REQ p) a) .qos 0 (f_QOS_EGRESS_WT_RSP p) b) .qos 0 (f_QOS_EGRESS_WT_RED p) c
  let s := setF s .chip 0 (f_CHIP_PART_STATUS_PROFILE p) f
  if f = 3 then cacheWait s p
  else (partOn s p).foldl stopUnwanted (setF s .chip 0 (f_CHIP_PART_STATUS_DEFERRED p) 0)

/-- The map and the profile of a partition take its strobe; the slots that requests hold stay held (R409). -/
def applyPart (s : State) (p : Nat) : State :=
  let s := syncQueues s
  let c := mapBad s p
  let s := if c = 0 then applyReg .chip 0 s (o_CHIP_PART_MAP p)
    else setF (setStg s .chip 0 (o_CHIP_PART_MAP p) (reg s .chip 0 (o_CHIP_PART_MAP p))) .chip 0 (f_CHIP_PART_STATUS_REFUSE p) c
  let f := fldStg s .chip 0 (f_CHIP_PART_CFG_PROFILE p)
  let s := applyReg .chip 0 s (o_CHIP_PART_CFG p)
  let s := if s.chores.profStg.contains p && f < 4 then applyProfile s p f else s
  let s := if c = 0 then (regionsOn s).foldl stopUnwanted s else s
  unwait { s with chores := { s.chores with profStg := s.chores.profStg.filter (· != p) } } .chip 0 (spPart p)

/-! ## Stream windows and remaps (R265, R266, R292) -/

/-- A refusal recorded in a window's status. -/
def swinRefuse (s : State) (w code : Nat) : State := raiseIrq (setF s .chip 0 (f_CHIP_SWIN_STAT_REFUSE w) code) .chip 0 8

/-- A window's fields as the checks of others see them: new ones from the moment they passed. -/
def swinNow (s : State) (n : Nat) : SWin := if switching s n then swinTo s n else swin s n

/-- Whether a window counts as PINNED. -/
def pinned (s : State) (w : SWin) : Bool := winEn w && (winClass w == 4 || (winClass w == 0 && profileOf s (winPart w) == 3))

/-- PINNED quota that the windows place in the `q`-th four slices. -/
def pinSum (s : State) (ws : List SWin) (q : Nat) : Nat :=
  ((ws.filter (fun w => pinned s w && (!winHome w || homeBase (physRegion s (winRegion w)) / 4 == q))).map winQuota).sum

/-- The code with which a window's new fields are refused, 0 for none. -/
def swinBad (s : State) (n : Nat) (w : SWin) : Nat :=
  let others := ((List.range 32).filter (· != n)).map (swinNow s)
  let exceeds := fun q => pinSum s (w :: others) q > 20
  if !winEn w then 0
  else if w.limit < w.base then 1
  else if others.any (fun x => winEn x && w.base ≤ x.limit && x.base ≤ w.limit) then 2
  else if winHome w && !present s .region (winRegion w) then 3
  else if winQuota w = 0 || winQuota w > (if feEnabled s then 23 else 24) then 4
  else if (List.range 32).any exceeds then 5
  else if winClass w > 4 then 6
  else 0

/-- Whether the change from `a` to `b` is a switch. -/
def isSwitch (a b : SWin) : Bool :=
  winEn a != winEn b || (winEn a && (a.base != b.base || a.limit != b.limit || winHome a != winHome b || winRegion a != winRegion b))

/-- Write back and invalidate the lines of this device that `p` names, wherever they are held; the full/empty window keeps its. -/
def flushLines (p : Nat → Bool) (s : State) : State :=
  s.slices.foldl (fun s x => (x.2.ways.filter (fun y => y.1 < feKey 0)).foldl (fun s y =>
    if y.2.valid && !y.2.remote && p y.2.tag then dropWay (writeOut s x.1 y.1) x.1 (y.1 / 24) (y.1 % 24) else s) s) s

/-- The lines of a switch: those of its old and its new range. -/
def inEither (a b : SWin) (l : Nat) : Bool := backed l && ((winEn a && winCovers a l) || (winEn b && winCovers b l))

/-- The fields to which a window switches, from the staged registers, or from the active ones when a later strobe's are refused. -/
def setWinTo (s : State) (n : Nat) (w : SWin) : State :=
  { s with cache := { s.cache with winTo := mset (0, 0, 0) s.cache.winTo n (BitVec.ofNat 32 w.base, BitVec.ofNat 32 w.limit, BitVec.ofNat 32 w.cfg) } }

/-- The window's new fields are refused: it keeps every field at its active value, and a switch to fields that this strobe
overwrote ends without a change (R265, R492). -/
def winRefused (s : State) (n code : Nat) : State :=
  let s := dropSet s .chip 0 (spWin n)
  swinRefuse (if switching s n then setWinTo s n (swin s n) else unwait s .chip 0 (spWin n)) n code

/-- One window at the CHIP page's strobe; during a switch the newest fields take the place of those that wait (R492). -/
def applyWin (s : State) (n : Nat) : State :=
  let old := swin s n
  let new := swinStaged s n
  if new = swinNow s n then (if switching s n then s else unwait s .chip 0 (spWin n))
  else
    let c := if old = new then 0 else swinBad s n new
    if c ≠ 0 then winRefused s n c
    else if switching s n || isSwitch old new then
      flushLines (inEither old new) (setWinTo (setF s .chip 0 (f_CHIP_SWIN_STAT_SWITCHING n) 1) n new)
    else applyWhole s .chip 0 (spWin n)

/-- The end of a window's switch: every fetch of its lines has landed at the old slice and every reduction that waited for a way has
left it; what is left there goes back, and the fields apply (R260, R266). A later strobe's fields are checked first. -/
def winDone (n : Nat) (s : State) : State :=
  let p := inEither (swin s n) (swinTo s n)
  if !switching s n || swinStaged s n ≠ swinTo s n || fetchBusy s (fun _ => true) p then s
  else
    let s := setF (flushLines p (freeHeld (fun _ => true) p s)) .chip 0 (f_CHIP_SWIN_STAT_SWITCHING n) 0
    applyWhole { s with cache := { s.cache with winTo := mset (0, 0, 0) s.cache.winTo n (0, 0, 0) } } .chip 0 (spWin n)

/-- EN and TARGET of a remap entry's word. -/
def remapEn (w : W32) : Bool := bitN w.toNat 31
def remapTo (w : W32) : Nat := bitsN w.toNat 6 0

/-- The entry to which a slice's remap switches. -/
def remapNext (s : State) (i : Nat) : W32 := mget 0 s.cache.remapTo i

/-- A remap entry as the checks of others see it. -/
def remapNow (s : State) (i : Nat) : W32 :=
  if s.cache.remapSw.contains i then remapNext s i else reg s .chip 0 (o_CHIP_SLICE_REMAP i)

/-- Whether a line has slice `i` as its serving slice before SLICE_REMAP: a line of this device or of a fabric window. -/
def lineOfSlice (s : State) (i l : Nat) : Bool := if backed l then rawSlice s l == i else owner l == i

/-- The lines whose serving slice an entry names leave the ways: written back, those of the full/empty window too, or dropped, where
a fabric window's. -/
def flushRemap (i : Nat) (s : State) : State :=
  let p := lineOfSlice s i
  s.slices.foldl (fun s x => x.2.ways.foldl (fun s y =>
    if !y.2.valid || !p y.2.tag then s
    else
      let s := if y.2.remote then s else writeOut s x.1 y.1
      if y.1 < feKey 0 then dropWay s x.1 (y.1 / 24) (y.1 % 24) else setWay s x.1 y.1 {}) s) s

/-- The bits of the full/empty window's lines that lie in slice `i` go with them to the slice that now serves them. -/
def moveFull (i a b : Nat) (s : State) : State :=
  if a = b then s
  else
    let mine := (slice s a).feFull.filter (fun e => e.1 % 128 == i)
    let s := setSlice s a { slice s a with feFull := (slice s a).feFull.filter (fun e => e.1 % 128 != i) }
    setSlice s b { slice s b with feFull := mine.foldl (fun m e => mset 0 m e.1 e.2) (slice s b).feFull }

/-- Fetch the lines of the full/empty window that `p` names (R239). -/
def feFetch (p : Nat → Bool) (s : State) : State :=
  if !feEnabled s then s
  else ((List.range (feLines s)).filter p).foldl (fun s n => (feResident s (remapped s (n % 128)) n (feBase s + n) 0x80 0).1) s

/-- One remap entry at the CHIP page's strobe. -/
def applyRemap (s : State) (i : Nat) : State :=
  let o := o_CHIP_SLICE_REMAP i
  let w := regStg s .chip 0 o
  let busy := s.cache.remapSw.contains i
  if w = remapNow s i then (if busy then s else unwait s .chip 0 (spRemap i))
  else if w != reg s .chip 0 o && remapEn w
      && (remapTo w = i || remapEn (remapNow s (remapTo w)) || flag s .slice (remapTo w) f_SLICE_BOND_STATUS_RETIRED) then
    let s := dropSet s .chip 0 (spRemap i)
    let s := if busy then { s with cache := { s.cache with remapTo := mset 0 s.cache.remapTo i (reg s .chip 0 o) } }
      else unwait s .chip 0 (spRemap i)
    swinRefuse s 0 7
  else
    let s := flushRemap i s
    { s with cache := { s.cache with remapTo := mset 0 s.cache.remapTo i w, remapSw := if busy then s.cache.remapSw else s.cache.remapSw ++ [i] } }

/-- The end of a remap entry's switch: as that of a window (R266, R292); the full/empty window's lines come to their new slice. -/
def remapDone (i : Nat) (s : State) : State :=
  let p := lineOfSlice s i
  if !s.cache.remapSw.contains i || regStg s .chip 0 (o_CHIP_SLICE_REMAP i) ≠ remapNext s i || fetchBusy s (fun _ => true) p then s
  else
    let old := remapped s i
    let s := flushRemap i (freeHeld (fun _ => true) p s)
    let s := applyWhole { s with cache := { s.cache with remapSw := s.cache.remapSw.filter (· != i), remapTo := mset 0 s.cache.remapTo i 0 } }
      .chip 0 (spRemap i)
    feFetch (fun n => n % 128 == i) (moveFull i old (remapped s i) s)

/-- Exec SWIN_SWITCH_DONE: of stream window `n`, or of slice `n`'s remap entry. -/
def execSwinSwitchDone (remap : Bool) (n : Nat) (s : State) : Host.Outcome State Fault Refusal :=
  run ((if remap then n < 128 else n < 32) && !chipHeld s) s (if remap then remapDone n else winDone n)

/-! ## The full/empty window (R239, R240) -/

/-- The code with which new window fields are refused; a reserved SIZE gives no window whose range could be examined. -/
def feBad (s : State) : Nat :=
  let n := 2 ^ fldStg s .chip 0 f_CHIP_FE_CTRL_SIZE
  let base := fldStg s .chip 0 f_CHIP_FE_BASE_BASE / n * n
  if fldStg s .chip 0 f_CHIP_FE_CTRL_SIZE > 8 then 2
  else if fldStg s .chip 0 f_CHIP_FE_CTRL_EN = 1 && base * 4096 ≥ backedLines then 1
  else 0

/-- FE_BASE and FE_CTRL as staged, and as active. -/
def feStaged (s : State) : W32 × W32 := (regStg s .chip 0 o_CHIP_FE_BASE, regStg s .chip 0 o_CHIP_FE_CTRL)
def feActive (s : State) : W32 × W32 := (reg s .chip 0 o_CHIP_FE_BASE, reg s .chip 0 o_CHIP_FE_CTRL)
/-- The window fields begin to switch. -/
def feSwitchTo (s : State) (f : W32 × W32) : State := { s with cache := { s.cache with feSw := true, feTo := f } }

/-- The window fields at the CHIP page's strobe; during a switch the newest take the place of those that wait (R492). -/
def applyFe (s : State) : State :=
  let new := feStaged s
  let c := if new = feActive s then 0 else feBad s
  if new = (if s.cache.feSw then s.cache.feTo else feActive s) then (if s.cache.feSw then s else unwait s .chip 0 spFe)
  else if c ≠ 0 then
    let s := dropSet s .chip 0 spFe
    let s := if s.cache.feSw then feSwitchTo s (feActive s) else unwait s .chip 0 spFe
    raiseIrq (setF s .chip 0 f_CHIP_FE_STATUS_REFUSE c) .chip 0 8
  else if s.cache.feSw || feEnabled s || bitN new.2.toNat 31 then feSwitchTo s new
  else applyWhole s .chip 0 spFe

/-- Every way whose key `p` names is written back and invalidated, in every slice. -/
def flushKeys (p : Nat → Bool) (s : State) : State :=
  s.slices.foldl (fun s x => (x.2.ways.filter (fun y => p y.1 && y.2.valid)).foldl (fun s y =>
    let s := writeOut s x.1 y.1
    if y.1 < feKey 0 then dropWay s x.1 (y.1 / 24) (y.1 % 24) else setWay s x.1 y.1 {}) s) s

/-- FE_WINDOW_SWITCH_DONE, once no full/empty access waits and every fetch of the lines concerned has landed: the old window's lines
go back and its bits are discarded; for a new one way 23 is emptied, its lines are fetched and every bit is EMPTY. A later strobe's
fields are checked first. -/
def feDone (s : State) : State :=
  let either := fun l => inFe (feActive s).1.toNat (feActive s).2.toNat l || inFe s.cache.feTo.1.toNat s.cache.feTo.2.toNat l
  if !s.cache.feSw || feWaiting s || feStaged s ≠ s.cache.feTo || fetchBusy s (fun _ => true) either then s
  else if s.cache.feTo = feActive s then
    applyWhole { s with cache := { s.cache with feSw := false, feTo := (0, 0) } } .chip 0 spFe
  else
    let s := flushKeys (fun k => feKey 0 ≤ k) (freeHeld (fun _ => true) either s)
    let s := s.slices.foldl (fun s x => setSlice s x.1 { slice s x.1 with feFull := [] }) s
    let s := applyWhole { s with cache := { s.cache with feSw := false, feTo := (0, 0) } } .chip 0 spFe
    if feEnabled s then feFetch (fun _ => true) (flushKeys (fun k => k < feKey 0 && k % 24 == 23) s) else s

/-- Exec FE_WINDOW_SWITCH_DONE. -/
def execFeWindowSwitchDone (s : State) : Host.Outcome State Fault Refusal := run (!chipHeld s) s feDone

/-! ## Other pages (R427, R432, R434, R454, R536, R576) -/

/-- CTRL and the buffer of the trace, while the staging buffer is empty. -/
def applyTrace (s : State) : State :=
  if !s.trace.staged.isEmpty then s
  else
    let moved := differs s .trace 0 o_TRACE_BUF_BASE
      || fld s .trace 0 f_TRACE_CTRL_SIZE != fldStg s .trace 0 f_TRACE_CTRL_SIZE
    let s := applyWhole s .trace 0 spTrace
    if moved then setReg { s with trace := { s.trace with lap := false } } .trace 0 o_TRACE_WR_PTR 0 else s

/-- A power request by host software: an unwanted region stops; a wanted one waits to stop no longer. -/
def applyPower (s : State) : State :=
  let s := applyWhole s .pwr 0 spPlain
  pauseAll ((List.range (partRegions s.part)).foldl stopUnwanted s)

/-- The user offsets of the CAL page: one beyond its range sets CLAMPED; the bands' rails follow theirs. -/
def applyCal (s : State) : State :=
  let s := applyWhole s .cal 0 spPlain
  let past := fun (lim : Int) (x : Int) => decide (x < -lim ∨ lim < x)
  let bad := (List.range 32).any (fun p => past 10 (calByte s (o_CAL_V_OFS 0) p)
      || past 256 (signed 16 (fld s .cal 0 (f_CAL_MODEL_OFS_K_OFS p))) || past 128 (signed 16 (fld s .cal 0 (f_CAL_MODEL_OFS_C_OFS p))))
    || (List.range 8).any (fun b => past 5 (calByte s (o_CAL_B_OFS 0) b))
  let s := if bad then setF s .cal 0 f_CAL_STATUS_CLAMPED 1 else s
  (List.range 8).foldl (fun s b =>
    if fld s .pwr 0 (f_PWR_BAND_STATUS_VOLT b) = 0 then s else setF s .pwr 0 (f_PWR_BAND_STATUS_VOLT b) (bandVolt s b)) s

/-- The sampling interval counts from the strobe that enables sampling (R572): `off` where it was disabled. -/
def applySampling (s : State) (off : Bool) : State :=
  if off && flag s .trace 0 f_TRACE_SAMPLE_CTRL_EN then startTimer s .sampling else s

/-- The plain fields of a page, with what follows from them. -/
def applyPlain (s : State) (k : PageKind) (i : Nat) : State :=
  match k with
  | .sec => applySec s
  | .fab => applyFab s
  | .port => portEnabled i (applyWhole s .port i spPlain)
  | .pwr => applyPower s
  | .therm => dropDisabled (applyWhole s .therm 0 spPlain)
  | .cal => applyCal s
  | .qos => applyWhole (syncQueues s) .qos i spPlain
  | .trace => applySampling (applyWhole s .trace i spPlain) (!flag s .trace 0 f_TRACE_SAMPLE_CTRL_EN)
  | .hbm =>
    let s := applyWhole s .hbm i spPlain
    if flag s .hbm i f_HBM_CTRL_PDN_EN then s else setHbmc s i { hbmc s i with pdn := 0 }
  | k => applyWhole s k i spPlain

/-! ## Applying a page (R491, R532) -/

/-- One set of a page: it applies, is refused, or waits on. -/
def applyOne (k : PageKind) (i : Nat) (s : State) (x : Nat) : State :=
  if x = spPlain then applyPlain s k i
  else if x = spReach then applyReach s i
  else if x = spSf then applySf s i
  else if x = spWorld then applyWorld s
  else if x = spTrace then applyTrace s
  else if x = spFe then applyFe s
  else if x < 200 then applyPart s (x - 100)
  else if x < 300 then applyWin s (x - 200)
  else applyRemap s (x - 300)

/-- Every set of a page whose safe point has come. -/
def applyPage (k : PageKind) (i : Nat) (s : State) : State :=
  let w := (page s k i).waiting
  let s := ((setsOf k).filter (fun x => w.contains x)).foldl (applyOne k i) s
  if (page s k i).waiting = w then s else setF s k i f_COMMON_SHADOW_STATE_PARITY 0

/-! ## Parity (R494, R495) -/

/-- PARITY_ERR records the first register that failed. -/
def parityErr (s : State) (k : PageKind) (i : Nat) (copy : Bool) (off : Nat) : State :=
  if flag s k i f_COMMON_PARITY_ERR_VALID then s
  else setReg s k i o_COMMON_PARITY_ERR (BitVec.ofNat 32 (2 ^ 31 + b2n copy <<< 30 + off / 4 * 4))

/-- The sets of a page whose switch has begun: they end by their own commands. -/
def switchSets (s : State) (k : PageKind) (x : Nat) : Bool :=
  k == .chip && ((200 ≤ x && x < 300 && switching s (x - 200)) || (300 ≤ x && s.cache.remapSw.contains (x - 300)) || (x == spFe && s.cache.feSw))

/-- The sets that are switching end without a change: every active value stays (R494). -/
def keepActive (s : State) : State :=
  let s := (List.range 32).foldl (fun s n => if switching s n then setWinTo (dropSet s .chip 0 (spWin n)) n (swin s n) else s) s
  let s := s.cache.remapSw.foldl (fun s i =>
    let s := dropSet s .chip 0 (spRemap i)
    { s with cache := { s.cache with remapTo := mset 0 s.cache.remapTo i (reg s .chip 0 (o_CHIP_SLICE_REMAP i)) } }) s
  if s.cache.feSw then feSwitchTo (dropSet s .chip 0 spFe) (feActive s) else s

/-- A page refuses its application for a shadow or staged mismatch. -/
def refuseParity (s : State) (k : PageKind) (i off : Nat) : State :=
  let s := if k = .chip then keepActive s else s
  let s := setPage s k i { page s k i with waiting := (page s k i).waiting.filter (switchSets s k) }
  parityErr (setF s k i f_COMMON_SHADOW_STATE_PARITY 1) k i false off

/-- A page freezes for an active mismatch. -/
def freeze (s : State) (k : PageKind) (i off : Nat) : State :=
  let s := parityErr (setF s k i f_COMMON_PAGE_STATUS_FROZEN 1) k i true off
  let s := if flag s .chip 0 f_CHIP_PARITY_SRC_VALID then s else setReg s .chip 0 o_CHIP_PARITY_SRC (BitVec.ofNat 32 (2 ^ 31 + pageNo k i * 4096))
  let s := raiseIrq s .chip 0 2
  match k with
  | .cell => s
  | .block => s
  | .region => s
  | _ => chipFault s

/-- STAGED_APPLY: the fields of a page whose safe point has come. -/
def stagedApply (k : PageKind) (i : Nat) (m : Option (Bool × Nat)) (s : State) : State :=
  if !unitOn s k i then s
  else match m with
  | some (true, off) => freeze s k i off
  | some (false, off) => if (page s k i).waiting.isEmpty then s else refuseParity s k i off
  | none => if frozen s k i || reportHolds s k then s else applyPage k i s

/-- Exec STAGED_APPLY: `m` is a parity mismatch, of an active copy or of a staged one, with the register's offset. -/
def execStagedApply (k : PageKind) (i : Nat) (m : Option (Bool × Nat)) (s : State) : Host.Outcome State Fault Refusal :=
  run (present s k i && (match m with | some (_, off) => off < 4096 && off % 4 == 0 | none => true)) s (stagedApply k i m)

/-! ## The strobe (R489, R490, R492, R494) -/

/-- Whether a strobe names a page. -/
def names (s : State) (groups : Nat) (k : PageKind) (i : Nat) : Bool :=
  let g := fld s k i f_COMMON_PAGE_STROBE_GROUP_GROUP
  bitN groups 0 || (g != 0 && bitN groups g)

/-- The strobe bits through which a pending page was named, with those of a new strobe. -/
def viaWith (g : Page) (m : Nat) : Nat := if g.waiting.isEmpty then m else g.via ||| m

/-- The profiles written since the last strobe of the partitions that `p` names are staged (R38). -/
def stageProfiles (p : Nat → Bool) (s : State) : State :=
  { s with chores := { s.chores with
    profStg := s.chores.profStg ++ s.chores.profSet.filter (fun x => p x && !s.chores.profStg.contains x)
    profSet := s.chores.profSet.filter (fun x => !p x) } }

/-- A page stages: every shadow is copied, and waits for its safe point. -/
def stagePage (groups : Nat) (k : PageKind) (i : Nat) (s : State) : State :=
  let g := page s k i
  let m := groups &&& (1 + if fld s k i f_COMMON_PAGE_STROBE_GROUP_GROUP = 0 then 0 else 2 ^ fld s k i f_COMMON_PAGE_STROBE_GROUP_GROUP)
  let s := setPage s k i { g with stg := g.shd, waiting := setsOf k, via := viaWith g m }
  let s := if k = .fab then { s with fab := { s.fab with wStg := s.fab.wShd } } else s
  let s := if k = .chip then stageProfiles (fun _ => true) s else s
  setF s k i f_COMMON_SHADOW_STATE_DIRTY 0

/-- A partition's map and profile are staged by its own strobe group (R244). -/
def stagePart (groups : Nat) (s : State) (p : Nat) : State :=
  let s := stageProfiles (· == p) s
  let s := setStg s .chip 0 (o_CHIP_PART_MAP p) (regShd s .chip 0 (o_CHIP_PART_MAP p))
  let s := setStg s .chip 0 (o_CHIP_PART_CFG p) (regShd s .chip 0 (o_CHIP_PART_CFG p))
  let g := page s .chip 0
  let m := groups &&& 2 ^ fld s .chip 0 (f_CHIP_PART_CFG_SGRP p)
  setPage s .chip 0 { g with waiting := spPart p :: g.waiting.filter (· != spPart p), via := viaWith g m }

/-- The pages of the part that hold RW-S registers. -/
def shadowPages (p : Part) : List (PageKind × Nat) :=
  (allKinds.filter kindShadowed).flatMap (fun k => (List.range (instCount p k)).map (fun i => (k, i)))

/-- STROBE: `bad` are the pages at which a shadow mismatches at delivery, with the first register that does. -/
def strobe (groups : Nat) (bad : List ((PageKind × Nat) × Nat)) (s : State) : State :=
  let ps := (shadowPages s.part).filter (fun x => names s groups x.1 x.2 && unitOn s x.1 x.2)
  let chip := bitN groups 0
  let s := if chip then s
    else ((List.range 8).filter (fun p => let g := fld s .chip 0 (f_CHIP_PART_CFG_SGRP p); g != 0 && bitN groups g)).foldl (stagePart groups) s
  ps.foldl (fun s x =>
    match bad.find? (fun y => y.1 == x) with
    | some y => refuseParity s x.1 x.2 y.2
    | none => stagePage groups x.1 x.2 s) s

/-- Exec STROBE. -/
def execStrobe (secure : Bool) (groups : Nat) (bad : List ((PageKind × Nat) × Nat)) (s : State) : Host.Outcome State Fault Refusal :=
  run (groups < 65536 && bad.all (fun x => x.2 < 4096)) s (fun s => hostCmd s secure .chip 0 o_CHIP_STROBE (strobe groups bad))

/-! ## RESHADOW (R493) -/

/-- The value that will govern a register once the pending application ends. -/
def futureReg (s : State) (k : PageKind) (i off : Nat) : W32 :=
  if (page s k i).waiting.contains (setOf k off) then regStg s k i off else reg s k i off

/-- RESHADOW of a page: what has been written since the last strobe is discarded, a profile with it. -/
def reshadow (k : PageKind) (i : Nat) (s : State) : State :=
  if !kindShadowed k then s
  else
    let s := (heldOffs s k i).foldl (fun s o => setShd s k i o (futureReg s k i o)) s
    let s := if k = .chip then { s with chores := { s.chores with profSet := [] } } else s
    let s := if k = .fab then
        { s with fab := { s.fab with wShd := if (page s k i).waiting.contains spPlain then s.fab.wStg else s.fab.wAct } }
      else s
    setF s k i f_COMMON_SHADOW_STATE_DIRTY 0

/-- Exec RESHADOW. -/
def execReshadow (secure : Bool) (k : PageKind) (i : Nat) (s : State) : Host.Outcome State Fault Refusal :=
  run (i < 1440) s (fun s => hostCmd s secure k i o_COMMON_PAGE_CTRL (reshadow k i))

end Sys2Proof.Machine
end

