-- ==== Sys2Proof/Machine/Observe.lean ====
section
/-! DEFINITION. Counters, PC sampling, the trace buffer and Gauge (R565 to R568, R572, R573, R576 to R579, R581). -/
namespace Sys2Proof.Machine

/-! ## Clearing and freezing counters (R567) -/

/-- Whether a class is among those that a CLASS field names: bit 2 saturating, bit 1 correctable-error, bit 0 performance. -/
def classHit (cls : Nat) : Option Acc → Bool
  | some .sat => bitN cls 2
  | some .ce => bitN cls 1
  | some .perf => bitN cls 0
  | _ => false

/-- Clear the counters of some classes in one page. -/
def clearPage (k : PageKind) (i cls : Nat) (s : State) : State :=
  let g := page s k i
  setPage s k i { g with ctr := mkeep (fun off => !classHit cls (counterAt k off)) g.ctr }

/-- Clear the counters of some classes in every page. -/
def clearAll (cls : Nat) (s : State) : State :=
  { s with pages := s.pages.map (fun x =>
      match pageOf s.part x.1 with
      | some (k, _) => (x.1, { x.2 with ctr := mkeep (fun off => !classHit cls (counterAt k off)) x.2.ctr })
      | none => x) }

/-- CNT_CLR in one page, by number, or in every page. -/
def cntClear (every : Bool) (cls pg : Nat) (s : State) : State :=
  if every then clearAll cls s
  else match pageOf s.part pg with
  | some (k, i) => clearPage k i cls s
  | none => s

/-- Exec CNT_CLR. -/
def execCntClr (secure every : Bool) (cls pg : Nat) (s : State) : Host.Outcome State Fault Refusal :=
  run (cls < 8 && pg < 4096) s (fun s => hostCmd s secure .trace 0 o_TRACE_CNT_CLR (cntClear every cls pg))

/-- Exec PERF_CLEAR_ALL. -/
def execPerfClearAll (secure : Bool) (s : State) : Host.Outcome State Fault Refusal :=
  run true s (fun s => hostCmd s secure .trace 0 o_TRACE_PERF_CTRL (clearAll 1))

/-- Exec PERF_FREEZE: a write of FREEZE. -/
def execPerfFreeze (secure on : Bool) (s : State) : Host.Outcome State Fault Refusal :=
  run true s (fun s => hostCmd s secure .trace 0 o_TRACE_PERF_CTRL (fun s => setF s .trace 0 f_TRACE_PERF_CTRL_FREEZE (b2n on)))

/-! ## PC sampling (R572, R573) -/

/-- The next group that is not FREE, after the one last sampled. -/
def nextSample (s : State) (c : Nat) : Option Nat :=
  let n := (cell s c).lastSample
  ((List.range 16).map (fun i => (n + 1 + i) % 16)).find? (fun g => (group s c g).st != .free)

/-- The stall code of a group: what its state shows, and otherwise `obs`, what the cell's units were doing in that cycle. -/
def stallCode (s : State) (c g obs : Nat) : Nat :=
  let k := group s c g
  if obs = 0 && k.st = .run then 0
  else if k.st = .parked then 1
  else if allHeld s (c / 45) || obs = 2 then 2
  else match k.await with
  | .flw _ _ _ _ _ _ _ _ _ => 3
  | .mxw _ _ => 4
  | .fence _ => 5
  | .exit => 5
  | .mem a => if a.kind = 4 || a.kind = 5 then 6 else if a.kind = 6 then 9 else 0xA
  | .none => obs

/-- The sampling interval in ns: 2^(INTERVAL + 8) cycles of the region's clock, whose level n gives 42.5 × (n + 5) MHz (R29, R572). -/
def sampleEvery (s : State) (r : Nat) : Nat :=
  2 ^ (fld s .trace 0 f_TRACE_SAMPLE_CTRL_INTERVAL + 8) * 400 / (17 * (fld s .pwr 0 (f_PWR_REG_STATUS_LEVEL r) + 5))

/-- Whether a cell takes a sample: sampling is enabled for its region, and the interval has passed since its last, or since the strobe
that enabled sampling. -/
def sampleDue (s : State) (c : Nat) : Bool :=
  let r := c / 45
  flag s .trace 0 f_TRACE_SAMPLE_CTRL_EN && bitN (fld s .trace 0 f_TRACE_SAMPLE_REGIONS_REGIONS) r && regionOn s r
    && due s .sampling (sampleEvery s r) && due s (.sample c) (sampleEvery s r)

/-- PC_SAMPLE of a cell. -/
def pcSample (c obs : Nat) (s : State) : State :=
  if !sampleDue s c then s
  else match nextSample s c with
  | none => s
  | some g =>
    let k := group s c g
    let s := setCell (startTimer s (.sample c)) c { cell s c with lastSample := g }
    let tail := wrapN 32 ((k.pc : Int) - k.base) + g <<< 32 + stallCode s c g obs <<< 40 + k.active.toNat <<< 48 + (k.lead % 256) <<< 80
    if traceSrc s 3 then stageRecord s (recordOf s 1 k.label c tail) else s

/-- The codes of R573 that only the cell's timing can tell: 0, 7 to 15, and 2 where some cycles of the region are held. -/
def obsOk (s : State) (c obs : Nat) : Bool :=
  obs == 0 || (obs == 2 && fld s .pwr 0 (f_PWR_REG_STATUS_PAUSE (c / 45)) != 0) || (7 ≤ obs && obs < 16)

/-- Exec PC_SAMPLE: `obs` is the code of R573 that describes the sampled group where only the cell's timing can tell. -/
def execPcSample (c obs : Nat) (s : State) : Host.Outcome State Fault Refusal :=
  run (present s .cell c && !frozen s .trace 0 && obsOk s c obs) s (pcSample c obs)

/-! ## The trace buffer (R576 to R579) -/

/-- Exec TRACE_MARK. -/
def execTraceMark (secure : Bool) (d : W32) (s : State) : Host.Outcome State Fault Refusal :=
  run true s (fun s => hostCmd s secure .trace 0 o_TRACE_MARK (fun s => stageRecord s (recordOf s 6 0 0xFFFF d.toNat)))

/-- Records that the buffer holds. -/
def traceSize (s : State) : Nat := 2 ^ (min 12 (fld s .trace 0 f_TRACE_CTRL_SIZE) + 15)

/-- Records of a refused line are dropped (R578). -/
def dropLine (s : State) (n : Nat) : State :=
  let s := bump s .trace 0 o_TRACE_DROPPED n
  raiseIrq { s with trace := { s.trace with dropped := s.trace.dropped + n } } .trace 0 0

/-- The write pointer moves past a line that was written. -/
def traceMoved (s : State) (n : Nat) : State :=
  let size := traceSize s
  let w := fld s .trace 0 f_TRACE_WR_PTR_INDEX
  let next := (w / 8 * 8 + 8) % size
  let s := bump s .trace 0 o_TRACE_RECORDS n
  let s := setF s .trace 0 f_TRACE_WR_PTR_INDEX next
  if flag s .trace 0 f_TRACE_CTRL_MODE then
    let s := if s.trace.lap then setF s .trace 0 f_TRACE_STATUS_WRAPPED 1 else s
    if next = 0 then { s with trace := { s.trace with lap := true } } else s
  else if next / 8 = fld s .trace 0 f_TRACE_RD_PTR_INDEX % size / 8 then
    raiseIrq (setF s .trace 0 f_TRACE_STATUS_FULL 1) .trace 0 1
  else s

/-- What the bytes of a line hold that no record fills: the spec gives no value. -/
def fillRecords (s : State) (rs : List (BitVec 256)) : List (BitVec 256) :=
  rs ++ (List.range (8 - rs.length)).map (fun i => BitVec.ofNat 256 (Config.freeNat (s.fresh + i)))

/-- The microsecond that runs. -/
def usNow (s : State) : Nat := s.time.toNat / 1000

/-- Whether the cap leaves a line to be written in this microsecond (R577). -/
def traceRoom (s : State) : Bool :=
  let n := if s.trace.capUs = usNow s then s.trace.capN else 0
  n < fld s .trace 0 f_TRACE_CTRL_CAP * 38400 / 1024

/-- A line has been written in this microsecond. -/
def traceCount (s : State) : State :=
  { s with trace := { s.trace with capUs := usNow s, capN := (if s.trace.capUs = usNow s then s.trace.capN else 0) + 1 } }

/-- Write one line of records at the write pointer. -/
def traceLine (s : State) (rs : List (BitVec 256)) : State :=
  let a := fld s .trace 0 f_TRACE_BUF_BASE_BASE * 2 ^ 20 + fld s .trace 0 f_TRACE_WR_PTR_INDEX / 8 * 256
  let all := fillRecords s rs
  let d : Line := BitVec.ofNat 2048 (packN 256 (fun i => (all.getD i 0).toNat) 8)
  match masterEntry s 0x10 false a false true with
  | (s, .hbm) =>
    let (s, id) := newId { s with fresh := s.fresh + 8 }
    let l := lineOf a
    let q : Req := { id := id, src := .trace, line := l, label := 0x10, part := 0, ingress := false, wins := 0
                     op := .write d (BitVec.allOnes 256) 0 true (checkValue .plain l d) none }
    (match syncAccess s q with
    | some (s, _) => traceMoved (traceCount { s with trace := { s.trace with staged := s.trace.staged.drop rs.length } }) rs.length
    | none => s)
  | (s, _) => dropLine { s with trace := { s.trace with staged := s.trace.staged.drop rs.length } } rs.length

/-- TRACE_DRAIN_LINE: eight records make a line; a last line with fewer is written when new settings of the buffer wait for the
staging buffer to empty. -/
def traceDrain (s : State) : State :=
  let n := s.trace.staged.length
  let last := (page s .trace 0).waiting.contains spTrace
  if !traceOn s || n = 0 || (n < 8 && !last) || flag s .trace 0 f_TRACE_STATUS_FULL || !traceRoom s then s
  else traceLine s (s.trace.staged.take 8)

/-- Exec TRACE_DRAIN_LINE. -/
def execTraceDrainLine (s : State) : Host.Outcome State Fault Refusal := run (!frozen s .trace 0) s traceDrain

/-- A write of RD_PTR: an advance releases a full STOP buffer. -/
def traceRdPtr (v : Nat) (s : State) : State :=
  let old := fld s .trace 0 f_TRACE_RD_PTR_INDEX
  let s := setF s .trace 0 f_TRACE_RD_PTR_INDEX v
  if v % 2 ^ 27 / 8 = old / 8 then s else setF s .trace 0 f_TRACE_STATUS_FULL 0

/-- Exec TRACE_RD_PTR_WRITE. -/
def execTraceRdPtrWrite (secure : Bool) (v : W32) (s : State) : Host.Outcome State Fault Refusal :=
  run true s (fun s => hostCmd s secure .trace 0 o_TRACE_RD_PTR (traceRdPtr v.toNat))

/-! ## Gauge (R581) -/

/-- The age of a channel's reading in ms, 255 at the most (R473). -/
def chAge (s : State) (c : Nat) : Nat :=
  if flag s .therm 0 (f_THERM_CH_VALID c) then min 255 ((s.time.toNat - (mget 0 s.therm.times c).toNat) / 1000000) else 255

/-- Bytes that a port has moved. -/
def portBytes (s : State) (p : Nat) : Nat := ctrCount s .port p o_PORT_TX_BYTES + ctrCount s .port p o_PORT_RX_BYTES

/-- The sum of a counter over the pages of a kind. -/
def ctrSum (s : State) (k : PageKind) (off : Nat) : Nat := ((List.range (instCount s.part k)).map (fun i => ctrCount s k i off)).sum

/-- Correctable, uncorrectable, check-mismatch and dead-read counts of the device. -/
def errSums (s : State) : List Nat :=
  [ctrSum s .cell o_CELL_LM_CE + ctrSum s .slice o_SLICE_CE + ((List.range 16).map (fun c => ctrSum s .hbm (o_HBM_CE c))).sum,
   ctrSum s .cell o_CELL_LM_UE + ctrSum s .slice o_SLICE_UE + ctrSum s .hbm o_HBM_UE,
   ctrSum s .cell o_CELL_FILL_CHECK_FAIL + ctrSum s .slice o_SLICE_CHECK_FAIL, ctrSum s .slice o_SLICE_DEAD_READS]

/-- The values of an item; `hbm` are the bytes moved per stack since the last frame. -/
def gaugeItem (s : State) (hbm : List Nat) : Nat → List Nat
  | 0 => [fld s .pwr 0 f_PWR_PKG_W_W]
  | 1 => [fld s .pwr 0 f_PWR_STACK_W_W]
  | 2 => (List.range 32).map (fun p => match logicalAt s p with | some r => (rail s r).power | none => 0)
  | 3 => (List.range 32).map (fun r => (reg s .pwr 0 (o_PWR_REG_STATUS r)).toNat &&& 0xE1F07800)
  | 4 => (List.range 46).map (fun c => fld s .therm 0 (f_THERM_CH_T c) + chAge s c <<< 16)
  | 5 => (List.range 8).map (fun b => fld s .hbm b f_HBM_TEMP_T + fld s .hbm b f_HBM_STATUS_THROTTLE <<< 8)
  | 6 => (List.range 8).map (fun b => hbm.getD b 0 / 65536)
  | 7 => (List.range 24).map (fun p => (portBytes s p - mget 0 s.gauge.bytes p) / 65536)
  | 8 => (List.range 4).map (fun i => min 0xFFFFFFFF ((errSums s).getD i 0 - mget 0 s.gauge.errs i))
  | _ => []

/-- The frame: enabled items in order. -/
def gaugeValues (s : State) (hbm : List Nat) : List (Nat × Nat × W32) :=
  ((List.range 9).filter (bitN (fld s .gauge 0 f_GAUGE_ITEMS_EN))).flatMap (fun i =>
    let vs := gaugeItem s hbm i
    (List.range vs.length).map (fun j => (i, j, BitVec.ofNat 32 (vs.getD j 0))))

/-- Up to four values of a frame, from the `j`-th four on. -/
def gaugeFour (f : List (Nat × Nat × W32)) (j : Nat) : Nat := packN 32 (fun i => ((f.drop (4 * j)).getD i (0, 0, 0)).2.2.toNat) 4

/-- The GAUGE record of the `j`-th four values. -/
def gaugeRecord (n : Nat) (s : State) (j : Nat) : State :=
  let (item, idx, _) := (s.gauge.frame.drop (4 * j)).getD 0 (0, 0, 0)
  stageRecord s (recordOf s 7 0 0xFFFF (item + idx <<< 8 + n <<< 16 + gaugeFour s.gauge.frame j <<< 32))

/-- Whether a frame is to be captured: PERIOD ms, 0 for 1, have passed since the last. -/
def frameDue (s : State) : Bool :=
  flag s .gauge 0 f_GAUGE_CTRL_EN && !bitN (fld s .chip 0 f_CHIP_BG_CTRL_DIS) 5 && backgroundOn s
    && due s .frame (max 1 (fld s .gauge 0 f_GAUGE_CTRL_PERIOD) * 1000000)

/-- GAUGE_FRAME. -/
def gaugeFrame (hbm : List Nat) (s : State) : State :=
  if !frameDue s then s
  else
    let g : Gauge := {
      frame := gaugeValues s hbm
      bytes := (List.range 24).foldl (fun m p => mset 0 m p (portBytes s p)) []
      errs := (List.range 4).foldl (fun m i => mset 0 m i ((errSums s).getD i 0)) [] }
    let n := (fld s .gauge 0 f_GAUGE_STATUS_FRAME + 1) % 65536
    let s := passed s .frame (max 1 (fld s .gauge 0 f_GAUGE_CTRL_PERIOD) * 1000000)
    let s := setF { s with gauge := g } .gauge 0 f_GAUGE_STATUS_FRAME n
    let s := if flag s .gauge 0 f_GAUGE_CTRL_TRACE && traceSrc s 0 then
        (List.range ((g.frame.length + 3) / 4)).foldl (gaugeRecord n) s
      else s
    raiseIrq s .gauge 0 0

/-- Exec GAUGE_FRAME. -/
def execGaugeFrame (hbm : List Nat) (s : State) : Host.Outcome State Fault Refusal := run (hbm.length == 8 && !frozen s .gauge 0) s (gaugeFrame hbm)

end Sys2Proof.Machine
end

