-- ==== Sys2Proof/Machine/Irc.lean ====
section
/-! DEFINITION. The interrupt controllers, MSI-X and the PCI Express link (R477, R499, R501 to R513). `h` names IRC_H, which host
software uses, and otherwise IRC_M, which Finost firmware uses. -/
namespace Sys2Proof.Machine

/-! ## MSI-X (R477) -/

/-- The dwords of the configuration space that identify the function: Vendor and Device ID, Revision ID and class code (R4, R475). -/
def cfgFixed (off : Nat) : Bool := off == 0 || off == 8

/-- A dword of the function's configuration space: the Device ID equals CHIP.IDENT.PART (R4, R475). -/
def cfgDword (s : State) (off : Nat) : W32 :=
  if off = 0 then BitVec.ofNat 32 (fld s .chip 0 f_CHIP_IDENT_PART * 65536 + Config.vendorId.toNat)
  else if off = 8 then BitVec.ofNat 32 (0x12000000 + Config.revisionId.toNat)
  else mget 0 s.link.cfg off

/-- Whether a vector can be delivered: Bus Master Enable is set, the link is up and the vector is not masked. -/
def vecOpen (s : State) (v : Nat) : Bool :=
  s.link.up && bitN (cfgDword s 4).toNat 2 && !bitN (reg s .ircH 0 (o_IRC_H_MSIX_TABLE (4 * v + 3))).toNat 0

/-- A vector's pending bit. -/
def pbaBit (v : Nat) : Fld := ⟨o_IRC_H_PBA (v / 32), v % 32, v % 32⟩

/-- Send a vector's message. -/
def sendVec (s : State) (v : Nat) : State :=
  let a := (reg s .ircH 0 (o_IRC_H_MSIX_TABLE (4 * v))).toNat + (reg s .ircH 0 (o_IRC_H_MSIX_TABLE (4 * v + 1))).toNat * 2 ^ 32
  emit (setF s .ircH 0 (pbaBit v) 0) (.msix a (reg s .ircH 0 (o_IRC_H_MSIX_TABLE (4 * v + 2))))

/-- A message for a vector: sent, or held pending. -/
def message (s : State) (v : Nat) : State := if vecOpen s v then sendVec s v else setF s .ircH 0 (pbaBit v) 1

/-- Held messages go when delivery becomes possible. -/
def flushVecs (s : State) : State :=
  (List.range 64).foldl (fun s v => if flag s .ircH 0 (pbaBit v) && vecOpen s v then sendVec s v else s) s

/-! ## The priority stack (R504 to R508) -/

/-- A controller's page. -/
def ircPage (h : Bool) : PageKind := if h then .ircH else .ircM

/-- A controller's stack, bottom first. -/
def stackOf (s : State) (h : Bool) : List (Nat × Nat) := if h then s.stackH else s.stackM

/-- Store a stack, with DEPTH, LEVEL and TOP. -/
def setStack (s : State) (h : Bool) (l : List (Nat × Nat)) : State :=
  let s := if h then { s with stackH := l } else { s with stackM := l }
  let (src, lv) := l.getLast?.getD (0x7F, 0)
  setF (setF (setF s (ircPage h) 0 f_IRC_STATUS_DEPTH l.length) (ircPage h) 0 f_IRC_STATUS_LEVEL lv) (ircPage h) 0 f_IRC_STATUS_TOP src

/-- The level of a source. -/
def levelOf (s : State) (h : Bool) (src : Nat) : Nat :=
  fld s (ircPage h) 0 ⟨o_IRC_LEVEL (src / 8), 4 * (src % 8) + 3, 4 * (src % 8)⟩

/-- Whether a source is eligible. -/
def eligible (s : State) (h : Bool) (src : Nat) : Bool :=
  flag s (ircPage h) 0 ⟨o_IRC_PEND (src / 32), src % 32, src % 32⟩ && !flag s (ircPage h) 0 ⟨o_IRC_MASK (src / 32), src % 32, src % 32⟩
    && (match (stackOf s h).getLast? with | some (_, l) => levelOf s h src > l | none => true)

/-- The eligible source of highest level, the lowest-numbered on a tie. -/
def bestSource (s : State) (h : Bool) : Option Nat :=
  ((List.range 128).filter (eligible s h)).foldl (fun b x => match b with
    | none => some x
    | some y => if levelOf s h x > levelOf s h y then some x else some y) none

/-- IRC_DELIVER. -/
def ircDeliver (h : Bool) (s : State) : State :=
  if flag s (ircPage h) 0 f_IRC_STATUS_FROZEN then s
  else match bestSource s h with
  | none => s
  | some n =>
    let s := setStack s h (stackOf s h ++ [(n, levelOf s h n)])
    if h then message s (fld s .ircH 0 ⟨o_IRC_VEC (n / 4), 8 * (n % 4) + 5, 8 * (n % 4)⟩) else emit s (.mgmtIrq n)

/-- Exec IRC_DELIVER. -/
def execIrcDeliver (h : Bool) (s : State) : Host.Outcome State Fault Refusal := run (!frozen s (ircPage h) 0) s (ircDeliver h)

/-- A write to a controller: of host software to IRC_H, of Finost firmware to IRC_M. -/
def ircCmd (h secure : Bool) (off : Nat) (f : State → State) (s : State) : State := if h then hostCmd s secure .ircH 0 off f else f s

/-- A write of RAISE. -/
def ircRaise (h : Bool) (n : Nat) (s : State) : State := setF s (ircPage h) 0 ⟨o_IRC_PEND (n / 32), n % 32, n % 32⟩ 1

/-- Exec IRC_RAISE. -/
def execIrcRaise (h secure : Bool) (n : Nat) (s : State) : Host.Outcome State Fault Refusal :=
  run (n < 128) s (ircCmd h secure o_IRC_RAISE (ircRaise h n))

/-- An ORDER fault (R507). -/
def orderFault (h : Bool) (n : Nat) (s : State) : State :=
  let top := match (stackOf s h).getLast? with | some (x, _) => x | none => 0x7F
  let k := ircPage h
  let s := setF (setF (setF s k 0 f_IRC_STATUS_FROZEN 1) k 0 f_IRC_ORDER_INFO_NAMED n) k 0 f_IRC_ORDER_INFO_EXPECTED top
  let s := raiseIrq s k 0 0
  if h then message s (fld s .ircH 0 f_IRC_FAULT_VEC_VECTOR) else s

/-- A write of EOI (R505, R507). -/
def ircEoi (h : Bool) (n : Nat) (s : State) : State :=
  if flag s (ircPage h) 0 f_IRC_STATUS_FROZEN then s
  else match (stackOf s h).getLast? with
  | some (x, _) => if x = n then setStack s h (stackOf s h).dropLast else orderFault h n s
  | none => orderFault h n s

/-- Exec IRC_EOI. -/
def execIrcEoi (h secure : Bool) (n : Nat) (s : State) : Host.Outcome State Fault Refusal :=
  run (n < 128) s (ircCmd h secure o_IRC_EOI (ircEoi h n))

/-- A write of STACK_RESET with GO = 1 (R508). -/
def stackReset (h : Bool) (s : State) : State := setStack (setF s (ircPage h) 0 f_IRC_STATUS_FROZEN 0) h []

/-- Exec STACK_RESET. -/
def execStackReset (h secure : Bool) (s : State) : Host.Outcome State Fault Refusal :=
  run true s (ircCmd h secure o_IRC_STACK_RESET (stackReset h))

/-! ## Event counters on a write (R513) -/

/-- Each byte becomes the larger of 0 and the counter less the byte written. -/
def subtractBytes (old v : W32) : W32 := BitVec.ofNat 32 (packN 8 (fun i => (byteOf old.toNat i).toNat - (byteOf v.toNat i).toNat) 4)

/-- A write of event counters. -/
def cntWrite (k : PageKind) (i off : Nat) (v : W32) (s : State) : State := setReg s k i off (subtractBytes (reg s k i off) v)

/-- Exec SRC_CNT_WRITE. -/
def execSrcCntWrite (h secure : Bool) (n : Nat) (v : W32) (s : State) : Host.Outcome State Fault Refusal :=
  run (n < 32) s (ircCmd h secure (o_IRC_SRC_CNT n) (cntWrite (ircPage h) 0 (o_IRC_SRC_CNT n) v))

/-- Exec EVT_CNT_WRITE. -/
def execEvtCntWrite (secure : Bool) (k : PageKind) (i n : Nat) (v : W32) (s : State) : Host.Outcome State Fault Refusal :=
  run (i < 1440 && n < 4) s (fun s => hostCmd s secure k i (o_COMMON_EVT_CNT n) (cntWrite k i (o_COMMON_EVT_CNT n) v))

/-! ## The link and the configuration space (R477, R499) -/

/-- Exec LINK_DOWN: the device goes on; what the link carried is lost. -/
def execLinkDown (s : State) : Host.Outcome State Fault Refusal :=
  run true s (fun s => { s with link := { s.link with up := false, reads := [] } })

/-- Exec LINK_UP. -/
def execLinkUp (s : State) : Host.Outcome State Fault Refusal :=
  run true s (fun s => flushVecs { s with link := { s.link with up := true } })

/-- Exec CONFIG_SPACE_WRITE: a dword of the function's configuration space, at its byte offset; the identification is read-only. -/
def execConfigSpaceWrite (off : Nat) (v : W32) (s : State) : Host.Outcome State Fault Refusal :=
  run (off < 4096 && off % 4 == 0) s (fun s =>
    if s.link.up && !cfgFixed off then flushVecs { s with link := { s.link with cfg := mset 0 s.link.cfg off v } } else s)

end Sys2Proof.Machine
end

