-- ==== Sys2Proof/Machine/Boot.lean ====
section
/-! DEFINITION. Boot, the choice of spare cells, attestation, fuses and management messages (R523 to R538, R541, R546). -/
namespace Sys2Proof.Machine

/-! ## The image (R525, R526) -/

/-- A byte of the image buffer. -/
def imgByte (s : State) (i : Nat) : Byte := byteOf (mget 0 s.boot.img (i / 4)).toNat (i % 4)
/-- Bytes of the image buffer. -/
def imgBytes (s : State) (i n : Nat) : List Byte := (List.range n).map (fun j => imgByte s (i + j))
/-- A field of the header. -/
def imgField (s : State) (i n : Nat) : Nat := ofBytes (imgBytes s i n)

/-- The header's fields. -/
def imgFlags (s : State) : Nat := imgField s 6 2
def imgLen (s : State) : Nat := imgField s 8 4
def imgSvn (s : State) : Nat := imgField s 12 2
def imgSlot (s : State) : Nat := imgField s 14 1
def imgKey (s : State) : List Byte := imgBytes s 64 64
def imgSig (s : State) : List Byte := imgBytes s 192 64

/-- The image digest. -/
def imgDigest (s : State) : List Byte := Config.sm3 (imgBytes s 0 192 ++ imgBytes s 256 (imgLen s))

/-! ## Fuses (R528, R533, R537) -/

/-- Whether a key slot is programmed, and revoked. -/
def slotSet (s : State) (k : Nat) : Bool := k < 4 && bitN s.fuses.prog k
def slotRevoked (s : State) (k : Nat) : Bool := bitN s.fuses.revoked k

/-- The hash that a slot's fuses hold. -/
def slotHash (s : State) (k : Nat) : List Byte :=
  match s.fuses.oem.find? (fun x => x.1 == k) with
  | some x => x.2
  | none => Config.keyHash k

/-! ## Verification (R527) -/

/-- The first check that fails, none when every check passes. `bad` says that a buffer word held a parity error. -/
def imageReason (s : State) (bad : Bool) : Option Nat :=
  let mine := match s.part with | .ek810 => 0 | .ek806 => 1
  if 256 + imgLen s > 2 ^ 22 || imgField s 18 4 ≥ imgLen s then some 1
  else if imgField s 0 4 ≠ 0x54534E46 || imgField s 4 2 ≠ 1 || imgField s 15 1 ≠ 0 || imgField s 22 42 ≠ 0 || imgField s 128 64 ≠ 0 then some 2
  else if !bitN (imgField s 16 2) mine then some 3
  else if !slotSet s (imgSlot s) || Config.sm3 (imgKey s) != slotHash s (imgSlot s) then some 4
  else if slotRevoked s (imgSlot s) then some 5
  else if imgSvn s < s.fuses.minSvn then some 6
  else if !Config.sm2Verify (imgKey s) (imgDigest s) (imgSig s) then some 7
  else if bad then some 8
  else none

/-- A write of GO. -/
def bootGo (secure : Bool) (s : State) : State :=
  let st := fld s .boot 0 f_BOOT_STATUS_STATE
  if st = 0 || st = 3 then setF (setF s .boot 0 f_BOOT_STATUS_STATE 1) .boot 0 f_BOOT_STATUS_REASON 0
  else busError s (bar0Of .boot 0 o_BOOT_GO) true (hostSecure s secure) beREFUSED

/-- Exec BOOT_GO. -/
def execBootGo (secure : Bool) (s : State) : Host.Outcome State Fault Refusal :=
  run true s (fun s => hostCmd s secure .boot 0 o_BOOT_GO (bootGo secure))

/-! ## Step 5 of bring-up (R542, R546, R549, R563) -/

/-- The masks of three blocks of six that hold every block of `d`. -/
def spareMasks (d : Nat) : List Nat := (List.range 64).filter (fun m => popcount m 6 == 3 && m &&& d == d)

/-- The defective cells of a physical region, as block and position. -/
def defects (s : State) (p : Nat) : List (Nat × Nat) := (s.repair.bad.filter (fun x => x.1 == p)).map (·.2)

/-- Whether a region can hold 45 cells: at most three defective ones, no two in a block. -/
def canHold (ds : List (Nat × Nat)) : Bool := ds.length ≤ 3 && (ds.map (·.1)).eraseDups.length == ds.length

/-- The draw of a region's three disabled cells: `n` is the index of its first free value. -/
def drawSpares (n : Nat) (ds : List (Nat × Nat)) : Nat × Nat :=
  let d := ds.foldl (fun m x => m ||| 2 ^ x.1) 0
  let ms := spareMasks d
  let m := ms.getD (Config.freeNat n % ms.length) 0
  (m, packN 3 (fun k => if bitN m k then (match ds.find? (fun x => x.1 == k) with
    | some x => x.2
    | none => Config.freeNat (n + 1 + k) % 8) else 0) 6)

/-- A region is left out of this boot. -/
def leaveOut (s : State) (r : Nat) : State :=
  setRegionState { s with repair := { s.repair with out := s.repair.out ++ [physRegion s r] } } r 6

/-- The choice for one region at a cold boot. -/
def chooseRegion (s : State) (r : Nat) : State :=
  let p := physRegion s r
  let ds := defects s p
  if s.repair.failed.contains p then leaveOut s r
  else if canHold ds then
    let (m, x) := drawSpares s.fresh ds
    let s := { s with fresh := s.fresh + 7 }
    { s with repair := { s.repair with sevens := mset 0x38 s.repair.sevens r m, spots := mset 0 s.repair.spots r x } }
  else stepFailed (leaveOut { s with repair := { s.repair with failed := s.repair.failed ++ [p] } } r) 5

/-- GUARD is restored from AGE. -/
def restoreGuard (s : State) (p : Nat) : State :=
  let n := min 8 (mget 0 s.repair.age p / 500)
  { s with repair := { s.repair with guard := mset 0 s.repair.guard p (5 * n), risen := mset 0 s.repair.risen p (500 * n) } }

/-- The repair maps, the spare cells of a cold boot, and the band rails. -/
def bringupMaps (s : State) : State :=
  let rs := List.range (partRegions s.part)
  let s := if s.pkg.cold then
      let s := (List.range 32).foldl restoreGuard { s with repair := { s.repair with out := [], dead := [] }, pkg := { s.pkg with cold := false } }
      rs.foldl chooseRegion s
    else (rs.filter (fun r => s.repair.out.contains (physRegion s r))).foldl (fun s r => setRegionState s r 6) s
  stepDone (powerBands s) 5

/-- A verification ends: ATTEMPTS counts it, with a free value where the field cannot hold the count. -/
def countAttempt (s : State) : State :=
  let n := fld s .boot 0 f_BOOT_STATUS_ATTEMPTS
  if n < 0xFFFF then setF s .boot 0 f_BOOT_STATUS_ATTEMPTS (n + 1)
  else nextFresh (setF s .boot 0 f_BOOT_STATUS_ATTEMPTS (Config.freeNat s.fresh))

/-- BOOT_VERIFY_DONE. -/
def verifyDone (bad : Bool) (s : State) : State :=
  if fld s .boot 0 f_BOOT_STATUS_STATE ≠ 1 || phase s ≠ phRom then s
  else
    let s := countAttempt s
    match imageReason s bad with
    | some c => raiseIrq (setF (setF s .boot 0 f_BOOT_STATUS_STATE 3) .boot 0 f_BOOT_STATUS_REASON c) .boot 0 0
    | none =>
      let s := setF (setF s .boot 0 f_BOOT_RUN_SVN_SLOT (imgSlot s)) .boot 0 f_BOOT_RUN_SVN_SVN (imgSvn s)
      let s := { s with boot := { s.boot with digest := imgDigest s, flags := imgFlags s } }
      let s := raiseIrq (setF s .boot 0 f_BOOT_STATUS_STATE 2) .boot 0 1
      bringupMaps (setPhase s phBringup)

/-- Exec BOOT_VERIFY_DONE. -/
def execBootVerifyDone (bad : Bool) (s : State) : Host.Outcome State Fault Refusal := run true s (verifyDone bad)

/-! ## The attestation report (R530 to R532) -/

/-- Little-endian bytes of the active value of a register. -/
def regBytes (s : State) (k : PageKind) (i off : Nat) : List Byte := toBytes 4 (reg s k i off).toNat

/-- The digest of a block's special-function store. -/
def blockDigest (s : State) (b : Nat) : List Byte :=
  let bank := activeBank s b
  let used := fun i => (List.range 256).any (fun e => match entrySteps s b bank e with | some (x, n) => x ≤ i && i < x + n | none => false)
  Config.sm3 (BitVec.ofNat 8 (b2n (ssCompat s b)) :: (List.range 8192).flatMap (fun i => toBytes 4 (bankWord s b bank i).toNat)
    ++ ((List.range 2048).filter used).flatMap (fun i => toBytes 4 (stepWord s b i).toNat))

/-- The configuration snapshot. -/
def snapshot (s : State) : List Byte :=
  (List.range 6).flatMap (fun i => regBytes s .sec 0 (o_SEC_BLOCK_WORLD i)) ++ regBytes s .sec 0 o_SEC_IDE
    ++ (List.range 64).flatMap (fun n => regBytes s .sec 0 (o_SEC_MRD_BASE n) ++ regBytes s .sec 0 (o_SEC_MRD_LIMIT n) ++ regBytes s .sec 0 (o_SEC_MRD_CFG n))
    ++ (List.range 8).flatMap (fun p => regBytes s .chip 0 (o_CHIP_PART_MAP p) ++ regBytes s .chip 0 (o_CHIP_PART_CFG p))
    ++ (List.range 256).flatMap (fun w => [(fwin s w).base, (fwin s w).limit, (fwin s w).tgt, (fwin s w).cfg].flatMap (fun x => toBytes 4 x.toNat))
    ++ (List.range 24).flatMap (fun p => regBytes s .port p o_PORT_SEC_CTRL)
    ++ (List.range 64).flatMap (fun i => if (12 ≤ i && i < 16) || (26 ≤ i && i < 32) then [] else regBytes s .cal 0 (0x100 + 4 * i))

/-- The word FUSES of a report. -/
def fuseWord (s : State) : Nat := s.fuses.minSvn + (s.fuses.revoked % 16) <<< 8 + (s.fuses.prog % 16) <<< 12 + (s.fuses.otp.length % 256) <<< 16

/-- The four fabric trust-anchor hashes. -/
def anchorBytes (s : State) : List Byte := (List.range 32).flatMap (fun i => regBytes s .sec 0 (o_SEC_FAB_ANCHOR0 i))

/-- The 192 bytes that a report's signature covers; `nonce` is the verifier's. -/
def reportBody (s : State) (nonce : List Byte) : List Byte :=
  toBytes 4 0x54525441 ++ regBytes s .chip 0 o_CHIP_IDENT ++ toBytes 4 Config.romVer.toNat ++ toBytes 4 (phase s) ++ nonce ++ s.boot.digest
    ++ toBytes 2 (fld s .boot 0 f_BOOT_RUN_SVN_SVN) ++ toBytes 1 (fld s .boot 0 f_BOOT_RUN_SVN_SLOT) ++ toBytes 1 s.boot.flags ++ toBytes 4 (fuseWord s)
    ++ Config.sm3 ((List.range (6 * partRegions s.part)).flatMap (blockDigest s)) ++ Config.sm3 (snapshot s) ++ toBytes 8 s.time.toNat
    ++ Config.sm3 ((List.range 4).flatMap (slotHash s) ++ anchorBytes s)

/-! ## Messages (R533, R534, R538) -/

/-- Whether Finost firmware runs and can answer. -/
def finostRuns (s : State) : Bool := fld s .boot 0 f_BOOT_STATUS_STATE == 2 && !s.pkg.noClock

/-- A message ends: its result and its response. -/
def msgEnd (s : State) (m : Msg) (res : Nat) (rsp : List Byte) : State :=
  let f := fun (s : State) (f : Fld) (v : Nat) => setF s .mgmt 0 f v
  let s := f (f (f (f s f_MGMT_MSG_STATUS_STATE 2) f_MGMT_MSG_STATUS_SECURE (b2n m.secure)) f_MGMT_MSG_STATUS_RESULT res) f_MGMT_MSG_STATUS_RESP_LEN rsp.length
  raiseIrq { s with mgmt := { busy := none, rsp := rsp } } .mgmt 0 0

/-- Whether a type is known. -/
def knownMsg (t : Nat) : Bool := t == 1 || (0x10 ≤ t && t ≤ 0x13) || t == 0x20

/-- A write of MSG_CTRL with GO. -/
def msgGo (secure : Bool) (t : Nat) (s : State) : State :=
  let secure := hostSecure s secure
  if fld s .mgmt 0 f_MGMT_MSG_STATUS_STATE = 1 then busError s (bar0Of .mgmt 0 o_MGMT_MSG_CTRL) true secure beREFUSED
  else
    let s := setF (setF s .mgmt 0 f_MGMT_MSG_CTRL_TYPE t) .mgmt 0 f_MGMT_MSG_STATUS_STATE 1
    let words := (List.range 64).map (fun i => reg s .mgmt 0 (o_MGMT_MSG_REQ i))
    let report := if t = 1 then reportBody s ((words.take 8).flatMap (fun w => toBytes 4 w.toNat)) else []
    let m : Msg := { type := t, words := words, secure := secure, report := report }
    let s := { s with mgmt := { s.mgmt with busy := some m } }
    if 0x10 ≤ t && t ≤ 0x13 then demand s .fuse ((List.range 8).map (· + 32))
    else if knownMsg t || !finostRuns s then s
    else msgEnd s m 15 []

/-- Word `i` of a request. -/
def msgWord (m : Msg) (i : Nat) : Nat := (m.words.getD i 0).toNat

/-- The refusal of a fuse operation by its requester, the temperature or the supply. -/
def fuseBar (s : State) (m : Msg) (vpp : Bool) : Option Nat :=
  if !m.secure && !bitN s.boot.flags 0 then some 1
  else if !fuseWarm s then some 2
  else if !vpp then some 3
  else none

/-- FUSE_REVOKE: the fuses and the result. -/
def fuseRevoke (s : State) (m : Msg) : Fuses × Nat :=
  let k := msgWord m 0
  let z := s.fuses
  let left := (List.range 4).any (fun j => j != k && slotSet s j && !slotRevoked s j)
  if k ≥ 4 then (z, Config.freeNat s.fresh % 16)
  else if !left then (z, 4)
  else if m.stopHit then ({ z with revoked := if Config.freeBit s.fresh then z.revoked ||| 2 ^ k else z.revoked }, 8)
  else ({ z with revoked := z.revoked ||| 2 ^ k }, 0)

/-- FUSE_SVN: one fuse a step. -/
def fuseSvn (s : State) (m : Msg) : Fuses × Nat :=
  let v := msgWord m 0
  let z := s.fuses
  if v > fld s .boot 0 f_BOOT_RUN_SVN_SVN || v > 63 then (z, 5)
  else if m.stopHit then ({ z with minSvn := z.minSvn + Config.freeNat s.fresh % (v - z.minSvn + 1) }, 8)
  else ({ z with minSvn := max z.minSvn v }, 0)

/-- FUSE_OEM_KEY: a hash in slot 2 or 3. -/
def fuseOemKey (s : State) (m : Msg) : Fuses × Nat :=
  let k := msgWord m 0
  let z := s.fuses
  if k ≥ 4 then (z, Config.freeNat s.fresh % 16)
  else if slotSet s k then (z, 6)
  else if m.stopHit then (z, 8)
  else ({ z with prog := z.prog ||| 2 ^ k, oem := z.oem ++ [(k, ((m.words.drop 1).take 8).flatMap (fun w => toBytes 4 w.toNat))] }, 0)

/-- OTP_WRITE: the lowest free entry; one that a stop interrupted is lost. -/
def otpWrite (s : State) (m : Msg) : Fuses × Nat :=
  let z := s.fuses
  let e := BitVec.ofNat 64 ((msgWord m 0 % 2 ^ 31) <<< 32)
  if z.otp.length ≥ 128 then (z, 7)
  else if m.stopHit then ({ z with otp := z.otp ++ [e] }, 8)
  else ({ z with otp := z.otp ++ [e ||| BitVec.ofNat 64 (2 ^ 63)] }, 0)

/-- The fuse operation of a message. -/
def fuseOp (s : State) (m : Msg) : Fuses × Nat :=
  if m.type = 0x10 then fuseRevoke s m
  else if m.type = 0x11 then fuseSvn s m
  else if m.type = 0x12 then fuseOemKey s m
  else otpWrite s m

/-- A fuse message ends; additions to the repair map that wait are written when fuses may be. -/
def fuseDone (s : State) (m : Msg) (vpp : Bool) : State :=
  match fuseBar s m vpp with
  | some c => msgEnd s m c []
  | none =>
    let (z, r) := fuseOp s m
    let s := nextFresh { s with fuses := z }
    let s := if m.stopHit then s else writeAdditions s
    msgEnd s m r (if m.type = 0x13 && r = 0 then toBytes 4 (z.otp.length - 1) else [])

/-- MSG_DONE: `vpp` says that VPP_FUSE is good; `reply` and `keys` are the reply object of an IDE_KM and whether the stream's keys
are established with it (R523). -/
def msgDone (vpp : Bool) (reply : List Byte) (keys : Bool) (s : State) : State :=
  match s.mgmt.busy with
  | none => s
  | some m =>
    if !finostRuns s then s
    else if 0x10 ≤ m.type && m.type ≤ 0x13 then fuseDone s m vpp
    else if m.type = 1 then msgEnd (nextFresh s) m 0 (m.report ++ Config.identitySign s.fresh m.report)
    else if m.type = 0x20 then
      let s := if keys && bitN s.boot.flags 1 then setF s .sec 0 f_SEC_IDE_BOUND 1 else s
      msgEnd s m 0 reply
    else msgEnd s m 15 []

/-- A message by host software. -/
def hostMsg (secure : Bool) (t : Nat) (s : State) : State := hostCmd s secure .mgmt 0 o_MGMT_MSG_CTRL (msgGo secure t)

/-- Exec ATTEST. -/
def execAttest (secure : Bool) (s : State) : Host.Outcome State Fault Refusal := run true s (hostMsg secure 0x01)
/-- Exec FUSE_REVOKE. -/
def execFuseRevoke (secure : Bool) (s : State) : Host.Outcome State Fault Refusal := run true s (hostMsg secure 0x10)
/-- Exec FUSE_SVN. -/
def execFuseSvn (secure : Bool) (s : State) : Host.Outcome State Fault Refusal := run true s (hostMsg secure 0x11)
/-- Exec FUSE_OEM_KEY. -/
def execFuseOemKey (secure : Bool) (s : State) : Host.Outcome State Fault Refusal := run true s (hostMsg secure 0x12)
/-- Exec OTP_WRITE. -/
def execOtpWrite (secure : Bool) (s : State) : Host.Outcome State Fault Refusal := run true s (hostMsg secure 0x13)
/-- Exec IDE_KM. -/
def execIdeKm (secure : Bool) (s : State) : Host.Outcome State Fault Refusal := run true s (hostMsg secure 0x20)
/-- Exec MSG_UNKNOWN_TYPE. -/
def execMsgUnknownType (secure : Bool) (t : Nat) (s : State) : Host.Outcome State Fault Refusal :=
  run (t < 256 && !knownMsg t) s (hostMsg secure t)
/-- Exec MSG_DONE. -/
def execMsgDone (vpp : Bool) (reply : List Byte) (keys : Bool) (s : State) : Host.Outcome State Fault Refusal :=
  run (reply.length < 4096) s (msgDone vpp reply keys)

/-! ## The bound stream and the secure log (R523, R539) -/

/-- Exec IDE_STREAM_LEAVES_SECURE. -/
def execIdeStreamLeavesSecure (s : State) : Host.Outcome State Fault Refusal := run true s (fun s => setF s .sec 0 f_SEC_IDE_BOUND 0)

/-- LOG_CLR empties the secure log. -/
def secLogClr (s : State) : State :=
  setF (setF { s with secLog := [] } .sec 0 f_SEC_LOG_STATUS_COUNT 0) .sec 0 f_SEC_LOG_STATUS_LOST 0

/-- Exec SEC_LOG_CLR. -/
def execSecLogClr (secure : Bool) (s : State) : Host.Outcome State Fault Refusal :=
  run true s (fun s => hostCmd s secure .sec 0 o_SEC_LOG_CLR secLogClr)

end Sys2Proof.Machine
end

