-- ==== Sys2Proof/Machine/Restart.lean ====
section
/-! DEFINITION. Resets of the whole device, and the course of bring-up and recovery (R35, R495, R499, R537, R541 to R543, R551, R555,
R556, R564, R589, R608, R609). -/
namespace Sys2Proof.Machine

/-! ## User offsets from the OTP bank (R536, R537) -/

/-- A byte of a CAL register in its three copies; a value that the byte cannot hold leaves it open. -/
def otpByte (s : State) (off i : Nat) (v : Int) : State :=
  let f : Fld := ⟨off + 4 * (i / 4), 8 * (i % 4) + 7, 8 * (i % 4)⟩
  if -128 ≤ v ∧ v ≤ 127 then setF3 s .cal 0 f (wrapN 8 v) else nextFresh (setF3 s .cal 0 f (Config.freeNat s.fresh))

/-- One entry: its selector names a user offset, or it is ignored. -/
def loadOtp (s : State) (e : W64) : State :=
  let k := bitsN e.toNat 62 48
  let v := signed 16 (bitsN e.toNat 47 32)
  if !bitN e.toNat 63 then s
  else if 0x100 ≤ k && k < 0x100 + 46 then otpByte s (o_CAL_T_OFS 0) (k - 0x100) v
  else if 0x200 ≤ k && k < 0x220 then otpByte s (o_CAL_V_OFS 0) (k - 0x200) v
  else if 0x280 ≤ k && k < 0x288 then otpByte s (o_CAL_B_OFS 0) (k - 0x280) v
  else if 0x300 ≤ k && k < 0x320 then setF3 s .cal 0 (f_CAL_MODEL_OFS_K_OFS (k - 0x300)) (wrapN 16 v)
  else if 0x380 ≤ k && k < 0x3A0 then setF3 s .cal 0 (f_CAL_MODEL_OFS_C_OFS (k - 0x380)) (wrapN 16 v)
  else s

/-- What every reset reads from the fuses. -/
def loadFuses (s : State) : State :=
  let s := s.fuses.otp.foldl loadOtp s
  let f := fun (s : State) (f : Fld) (v : Nat) => setF s .boot 0 f v
  f (f (f s f_BOOT_FUSES_PROG s.fuses.prog) f_BOOT_FUSES_REVOKED s.fuses.revoked) f_BOOT_FUSES_MIN_SVN s.fuses.minSvn

/-! ## Chip reset, Function Level Reset and PERST# (R499, R555) -/

/-- Every unit at its reset values, with what no reset touches: the part, the fuses, the repair maps, the stacks' contents, the
package. -/
def resetUnits (s : State) : State :=
  { part := s.part, fresh := s.fresh, nextId := s.nextId, repair := s.repair, hbm := s.hbm, fuses := s.fuses, pkg := s.pkg, out := s.out }

/-- A register keeps its value through a reset. -/
def keepReg (old : State) (s : State) (x : PageKind × Nat × Nat) : State := setReg s x.1 x.2.1 x.2.2 (reg old x.1 x.2.1 x.2.2)

/-- The registers of the sticky logs. -/
def stickyRegs : List (PageKind × Nat × Nat) :=
  [o_CHIP_BUS_ERR_ADDR, o_CHIP_BUS_ERR_INFO, o_CHIP_WIN_ERR_ADDR_LO, o_CHIP_WIN_ERR_ADDR_HI, o_CHIP_WIN_ERR_INFO, o_CHIP_PARITY_SRC].map (fun o => (.chip, 0, o))
    ++ (List.range 128).map (fun i => (.slice, i, o_SLICE_ERR_LOG_STATUS)) ++ (List.range 8).map (fun b => (.hbm, b, o_HBM_ERR_LOG_STATUS))

/-- A chip reset or a Function Level Reset: the link, the configuration space, the time-stamp and the sticky logs survive. -/
def chipRestart (s : State) : State :=
  let t : State := { resetUnits s with
    time := s.time
    link := { up := s.link.up, cfg := s.link.cfg }
    slices := (List.range 128).foldl (fun m i => mset {} m i { elog := (slice s i).elog }) []
    hbmCtl := (List.range 8).foldl (fun m b => mset {} m b { elog := (hbmc s b).elog }) []
    power := { log := s.power.log, windows := s.power.windows } }
  let t := stickyRegs.foldl (keepReg s) t
  let t := setF t .therm 0 f_THERM_STATUS_HARD_TRIP (fld s .therm 0 f_THERM_STATUS_HARD_TRIP)
  loadFuses (setF t .therm 0 f_THERM_STATUS_SHUT_CAUSE (fld s .therm 0 f_THERM_STATUS_SHUT_CAUSE))

/-- Exec FUNCTION_LEVEL_RESET. -/
def execFunctionLevelReset (s : State) : Host.Outcome State Fault Refusal :=
  run true s (fun s => if s.link.up then chipRestart s else s)

/-- A write of RESET_CMD for the chip. -/
def chipReset (key u : Nat) (s : State) : State := if key = 0xA5 then chipRestart s else resetStatus s 3 u 4

/-- Exec CHIP_RESET. -/
def execChipReset (secure : Bool) (key u : Nat) (s : State) : Host.Outcome State Fault Refusal :=
  run (key < 256 && u < 65536) s (fun s => hostCmd s secure .chip 0 o_CHIP_RESET_CMD (chipReset key u))

/-- PERST# falls: everything is reset, the sticky logs and the time-stamp too, and the outputs are released but for those held after a
hard trip or a clock loss. -/
def perstAssert (s : State) : State :=
  let k := s.pkg
  let t := resetUnits s
  loadFuses { t with link := { up := false }, pkg := { trip := k.trip && k.hard, fault := k.fault, hard := k.hard, cold := k.cold, perst := true, sbAddr := k.sbAddr, lrev := k.lrev, testen := k.testen, tap := k.tap } }

/-- Exec PERST_ASSERT. -/
def execPerstAssert (s : State) : Host.Outcome State Fault Refusal := runAlways true s perstAssert

/-- The TAP instructions that need PERST# low (R615). -/
def tapHeld : TapInstr → Bool
  | .extest => true
  | .extestPulse => true
  | .extestTrain => true
  | .clamp => true
  | .highz => true
  | _ => false

/-- PERST# rises: the straps are sampled, the TAP returns the pins. -/
def perstRelease (addr : Nat) (lrev testen : Bool) (s : State) : State :=
  if !s.pkg.perst then s
  else
    let i := if tapHeld s.pkg.tap then .bypass else s.pkg.tap
    { s with pkg := { s.pkg with perst := false, sbAddr := addr, lrev := lrev, testen := testen, tap := i } }

/-- Exec PERST_RELEASE. -/
def execPerstRelease (addr : Nat) (lrev testen : Bool) (s : State) : Host.Outcome State Fault Refusal :=
  runAlways (addr < 4) s (perstRelease addr lrev testen)

/-! ## The quick self-test (R542, R543) -/

/-- One slice: its ways are invalid, and it retires when its faulty rows exceed its spare rows. -/
def testSlice (faults : List Nat) (s : State) (i : Nat) : State :=
  let n := faults.getD i 0
  let s := setSlice s i { slice s i with ways := [], feFull := [], rowFaults := n }
  if n > Config.spareRows i then raiseIrq (setF s .slice i f_SLICE_BOND_STATUS_RETIRED 1) .slice i 10 else s

/-- QUICK_SELF_TEST_DONE: the faulty rows of each slice. -/
def quickTestDone (faults : List Nat) (s : State) : State :=
  if !((phase s == phBringup || phase s == phRecovery) && fld s .chip 0 f_CHIP_BRINGUP_STATUS_STEP == 6 && fld s .chip 0 f_CHIP_BRINGUP_STATUS_FAIL_STEP != 7) then s
  else
    let t := (List.range 128).foldl (testSlice faults) s
    if (List.range 128).any (fun i => decide (faults.getD i 0 > Config.spareRows i)) then stepFailed t 7 else stepDone t 7

/-- Exec QUICK_SELF_TEST_DONE. -/
def execQuickSelfTestDone (faults : List Nat) (s : State) : Host.Outcome State Fault Refusal :=
  run (faults.length ≤ 128) s (quickTestDone faults)

/-! ## The end of bring-up and of recovery (R35, R541, R542, R551) -/

/-- Topology agreement or the degraded override (R358, R359). -/
def agreed (s : State) : Bool := flag s .fab 0 f_FAB_TOPO_STATUS_AGREE || flag s .fab 0 f_FAB_TOPO_CTRL_DEGRADED

/-- READY: the last step is complete and background work runs; the passes of the patrols start. -/
def enterReady (s : State) : State :=
  let s := if fld s .chip 0 f_CHIP_BRINGUP_STATUS_STEP < 8 then darkOut s else s
  let s := (List.range 8).foldl (fun s b => startTimer (startTimer s (.passBand b)) (.passStack b)) s
  setPhase (stepDone s 11) phReady

/-- BRINGUP_COMPLETE. -/
def bringupComplete (s : State) : State :=
  if phase s == phBringup && fld s .chip 0 f_CHIP_BRINGUP_STATUS_STEP ≥ 7 && regionsSettled s && agreed s && !s.pkg.noClock then enterReady s else s

/-- Exec BRINGUP_COMPLETE. -/
def execBringupComplete (s : State) : Host.Outcome State Fault Refusal := run true s bringupComplete

/-- BRINGUP_LIMIT_EXPIRE in step `n`: no agreement came within the limit. -/
def limitExpire (n : Nat) (s : State) : State :=
  if phase s == phBringup && fld s .chip 0 f_CHIP_BRINGUP_STATUS_STEP ≥ 7 && regionsSettled s && !agreed s
      && s.chores.stepAt + fld s .chip 0 f_CHIP_BRINGUP_LIMIT * 1000000000 ≤ s.time.toNat then
    let s := if fld s .chip 0 f_CHIP_BRINGUP_STATUS_STEP < 8 then darkOut s else s
    stepFailed (stepDone s (n - 1)) n
  else s

/-- Exec BRINGUP_LIMIT_EXPIRE. -/
def execBringupLimitExpire (n : Nat) (s : State) : Host.Outcome State Fault Refusal := run (n == 9 || n == 10) s (limitExpire n)

/-- A chip-scope recovery thaws the pages that R495 names for it. -/
def thawPages (s : State) : State :=
  (allKinds.filter (fun k => k != .cell && k != .block && k != .region)).foldl (fun s k =>
    (List.range (instCount s.part k)).foldl (fun s i => thaw s k i) s) s

/-- Whether the causes that took the device to RECOVERY are cleared (R542), no band reading FAIL (R443). -/
def causesCleared (s : State) : Bool :=
  let step := fld s .chip 0 f_CHIP_BRINGUP_STATUS_STEP
  (List.range 8).all (fun b => fld s .hbm b f_HBM_STATUS_TRAIN == 1) && (step ≥ 7 || (step == 6 && failRemapped s))
    && (List.range 8).all (fun b => !flag s .pwr 0 (f_PWR_BAND_STATUS_FAIL b)) && regionsSettled s && agreed s && !s.therm.stop && !s.pkg.noClock

/-- RECOVERY_DONE. -/
def recoveryDone (s : State) : State := if phase s == phRecovery && causesCleared s then enterReady (thawPages s) else s

/-- Exec RECOVERY_DONE. -/
def execRecoveryDone (s : State) : Host.Outcome State Fault Refusal := run true s recoveryDone

end Sys2Proof.Machine
end

