-- ==== Sys2Proof/Machine/Package.lean ====
section
/-! DEFINITION. The package: clock and supplies, the sideband target, the test access port (R606 to R615). -/
namespace Sys2Proof.Machine

/-! ## Clock and supplies (R606, R607) -/

/-- REFCLK_CORE stops: every regulator is off, FAULT# is low. -/
def clockLost (s : State) : State :=
  let s := cutPower s
  { s with pkg := { s.pkg with fault := true, noClock := true } }

/-- Exec REFCLK_CORE_LOSS. -/
def execRefclkCoreLoss (s : State) : Host.Outcome State Fault Refusal := run true s clockLost

/-- A supply leaves its tolerance: what the cache die and the stacks hold is lost, and the next bring-up is a cold boot. `base` says
that VDD_BASE is removed with it, which releases the pins that a hard trip or a clock loss holds (R608), and what Finost memory holds
is lost (R547). -/
def supplyFault (base : Bool) (s : State) : State :=
  let s := loseHbm ((List.range 128).foldl cutSlice s)
  let s := { s with pkg := { s.pkg with cold := true } }
  if base then { s with pkg := { s.pkg with trip := false, fault := false, hard := false }, repair := { s.repair with held := [], heldFailed := [], dead := [] } } else s

/-- Exec SUPPLY_FAULT. -/
def execSupplyFault (base : Bool) (s : State) : Host.Outcome State Fault Refusal := runAlways true s (supplyFault base)

/-! ## Pins (R608) -/

/-- The levels that the open-drain outputs are driven to: true is low. -/
def alertLow (s : State) : Bool := !inReset s && flag s .therm 0 f_THERM_STATUS_ALERT
def tripLow (s : State) : Bool := s.pkg.trip
def faultLow (s : State) : Bool := s.pkg.fault || (!inReset s && phase s == phRecovery)

/-! ## The sideband target (R611 to R613) -/

/-- A temperature in 1/16 °C, 0x8000 where there is none. -/
def sbTemp (ts : List Int) : List Byte := toBytes 2 (match hottest ts with | some t => wrapN 16 t | none => 0x8000)

/-- Valid readings of a die's enabled channels. -/
def sbDie (s : State) (d : Nat) : List Int := (measured s d).map (chTemp s)

/-- The readings of the stacks. -/
def sbHbm (s : State) : List Int :=
  ((List.range 8).filter (fun b => fld s .hbm b f_HBM_STATUS_TRAIN == 1 && !flag s .hbm b f_HBM_STATUS_TEMP_FAIL)).map
    (fun b => 16 * signed 8 (fld s .hbm b f_HBM_TEMP_T))

/-- The sixteen bytes of one refresh. -/
def sidebandBytes (s : State) : List Byte :=
  let t := fun f => fld s .therm 0 f
  let st := t f_THERM_STATUS_STOPPED <<< 7 + t f_THERM_STATUS_HARD_TRIP <<< 6 + t f_THERM_STATUS_ALERT <<< 5 + t f_THERM_STATUS_STALE <<< 4 + b2n (faultLow s) <<< 3
  toBytes 4 (reg s .chip 0 o_CHIP_IDENT).toNat ++ toBytes 1 (phase s) ++ toBytes 1 st ++ toBytes 2 (fld s .pwr 0 f_PWR_PKG_W_AVG)
    ++ sbTemp (sbDie s 0) ++ sbTemp (sbDie s 1 ++ (regionsOn s).map (midTemp s)) ++ sbTemp (sbDie s 2) ++ sbTemp (sbHbm s)

/-- Exec SIDEBAND_REFRESH. -/
def execSidebandRefresh (s : State) : Host.Outcome State Fault Refusal :=
  run true s (fun s => if s.pkg.noClock then s else { s with pkg := { s.pkg with sideband := sidebandBytes s } })

/-- Whether the target answers its address. -/
def sbAnswers (s : State) : Bool := !inReset s && !s.pkg.noClock

/-- A byte that a read returns; what offset 0x10, and a read beyond the last offset, return is left open. -/
def sbRead (s : State) (i : Nat) : Byte :=
  if i < 16 then s.pkg.sideband.getD i 0
  else if i = 16 || i > 255 then BitVec.ofNat 8 (Config.freeNat (s.fresh + i))
  else 0

/-- SIDEBAND_READ of `n` bytes. -/
def sidebandRead (addr off n : Nat) (s : State) : State :=
  if addr ≠ 0x58 + s.pkg.sbAddr then s
  else if !sbAnswers s then emit s (.sideband none)
  else emit { s with fresh := s.fresh + 272 } (.sideband (some ((List.range n).map (fun i => sbRead s (off + i)))))

/-- Exec SIDEBAND_READ. -/
def execSidebandRead (addr off n : Nat) (s : State) : Host.Outcome State Fault Refusal :=
  runAlways (addr < 128 && off < 256 && 1 ≤ n && n ≤ 16) s (sidebandRead addr off n)

/-- SIDEBAND_DEMAND: a data byte written at an offset. -/
def sidebandWrite (addr off v : Nat) (s : State) : State :=
  if addr ≠ 0x58 + s.pkg.sbAddr then s
  else if !sbAnswers s || off ≠ 0x10 then emit s (.sideband none)
  else if v = 1 then demand s .host (pinChannels s)
  else s

/-- Exec SIDEBAND_DEMAND. -/
def execSidebandDemand (addr off v : Nat) (s : State) : Host.Outcome State Fault Refusal :=
  runAlways (addr < 128 && off < 256 && v < 256) s (sidebandWrite addr off v)

/-! ## The test access port (R614, R615) -/

/-- IDCODE: version 1, PART, the manufacturer, and bit 0 set. -/
def idcode (s : State) : W32 :=
  BitVec.ofNat 32 (1 <<< 28 + fldW (reg s .chip 0 o_CHIP_IDENT) 31 16 <<< 12 + Config.jedec.toNat <<< 1 + 1)

/-- TAP_INSTRUCTION_LOAD: none is a code outside the published set. -/
def tapLoad (i : Option TapInstr) (s : State) : State :=
  let j := match i with
    | some x => if tapHeld x && !s.pkg.perst then .bypass else x
    | none => .bypass
  let s := { s with pkg := { s.pkg with tap := j } }
  if j = .idcode then emit s (.tap (idcode s)) else s

/-- Exec TAP_INSTRUCTION_LOAD. -/
def execTapInstructionLoad (i : Option TapInstr) (s : State) : Host.Outcome State Fault Refusal := runAlways true s (tapLoad i)

/-- Exec TAP_RESET: IDCODE is selected. -/
def execTapReset (s : State) : Host.Outcome State Fault Refusal := runAlways true s (fun s => { s with pkg := { s.pkg with tap := .idcode } })

/-! ## The time-stamp (R571) -/

/-- The step of the time-stamp in ns: the block idles for one period of the 100 MHz reference clock. -/
abbrev tickNs : Nat := 10

/-- What a step on an empty queue does: time passes while the time-stamp's clock runs. -/
def idle (s : State) : State :=
  if inReset s || s.pkg.noClock then s else { s with time := s.time + BitVec.ofNat 64 tickNs }

end Sys2Proof.Machine
end

