-- ==== Sys2Proof/Machine/Mailbox.lean ====
section
/-! DEFINITION. Mailboxes (R496 to R498, R566, R592 to R595) and the values that every page gives through them. `h` names host
software's mailbox of a page, and otherwise Finost firmware's. -/
namespace Sys2Proof.Machine

/-! ## A page's mailbox -/

/-- A mailbox of a page. -/
def mbx (s : State) (h : Bool) (k : PageKind) (i : Nat) : Mbx := if h then (page s k i).mbxH else (page s k i).mbxM

/-- Store a mailbox of a page. -/
def setMbx (s : State) (h : Bool) (k : PageKind) (i : Nat) (m : Mbx) : State :=
  let g := page s k i
  setPage s k i (if h then { g with mbxH := m } else { g with mbxM := m })

/-- An access of host software to a location of a page that its unit's power does not gate (R435, R486, R499, R607). -/
def hostPage (s : State) (secure : Bool) (k : PageKind) (i off : Nat) (f : State → State) : State :=
  let secure := hostSecure s secure
  if !s.link.up || s.pkg.noClock || !barReady s then s
  else if !present s k i then busError s (bar0Of k i off) true secure bePAGE
  else if kindSecure k && !secure then worldError s (bar0Of k i off) true
  else f s

/-- An access to a mailbox register: by host software, or by Finost firmware in any page of the part. -/
def mbxCmd (s : State) (h secure : Bool) (k : PageKind) (i off : Nat) (f : State → State) : State :=
  if h then hostPage s secure k i off f else if present s k i then f s else s

/-! ## The generic selectors (R498, R566, R592) -/

/-- The copies of an RW-S register: active, staged and shadow. The window registers of the FAB page are those of the window that
FWIN_SEL names (R367). -/
def fwinReg (w : FWin) (off : Nat) : W32 :=
  if off = o_FAB_FWIN_BASE then w.base else if off = o_FAB_FWIN_LIMIT then w.limit else if off = o_FAB_FWIN_TGT then w.tgt else w.cfg

/-- Whether an offset of the FAB page is a register of the selected window. -/
def isFwin (k : PageKind) (off : Nat) : Bool := k == .fab && 0x118 ≤ off && off < 0x128

/-- The window that FWIN_SEL names. -/
def selWin (s : State) : Nat := fld s .fab 0 f_FAB_FWIN_SEL_WIN

/-- The active copy of an RW-S register. -/
def activeCopy (s : State) (k : PageKind) (i off : Nat) : W32 :=
  if isFwin k off then fwinReg (mget {} s.fab.wAct (selWin s)) off else reg s k i off
/-- The staged copy; the active one while the page is not PENDING. -/
def stagedCopy (s : State) (k : PageKind) (i off : Nat) : W32 :=
  if (page s k i).waiting.isEmpty then activeCopy s k i off
  else if isFwin k off then fwinReg (mget {} s.fab.wStg (selWin s)) off
  else (reg s k i off &&& ~~~rwMask k off) ||| (regStg s k i off &&& rwMask k off)
/-- The shadow copy. -/
def shadowCopy (s : State) (k : PageKind) (i off : Nat) : W32 :=
  if isFwin k off then fwinReg (mget {} s.fab.wShd (selWin s)) off
  else (reg s k i off &&& ~~~rwMask k off) ||| (regShd s k i off &&& rwMask k off)

/-- The offset of the RW-S register that a selector names. -/
def selShadowed (k : PageKind) (sel : Nat) : Option Nat :=
  let off := 4 * (sel - 0x8000)
  if 0x8000 ≤ sel && kindShadowed k && 0x100 ≤ off && off < 0xC00 && isShadowed k off then some off else none

/-- The offset of the counter that a selector names. -/
def selCounter (k : PageKind) (sel : Nat) : Option Nat :=
  let off := 4 * (sel - 0x9000)
  if 0x9000 ≤ sel && off < 0x1000 && (counterAt k off).isSome then some off else none

/-! ## The values of each page (R593) -/

/-- A signed number as 16 bits. -/
def half (x : Int) : Nat := wrapN 16 x

/-- The repair map of a region (R550). -/
def mapValue (s : State) (r : Nat) : Nat :=
  let p := physRegion s r
  let m := mget 0x38 s.repair.sevens r
  let x := mget 0 s.repair.spots r
  let pos := fun k => if bitN m k then bitsN x (3 * k + 2) (3 * k) else 0
  p + b2n (s.repair.failed.contains p) <<< 5 + packN 4 (fun k => pos k + 8 * b2n (bitN m k)) 6 <<< 8
    + packN 1 (fun k => b2n (bitN m k && s.repair.bad.contains (p, k, pos k))) 6 <<< 32
    + (mget 0 s.repair.guard p / 5) <<< 40 + (min 0xFFFF (mget 0 s.repair.age p)) <<< 48

/-- An entry of a priority stack (R516). -/
def stackValue (s : State) (h : Bool) (e : Nat) : Nat :=
  match (stackOf s h)[e]? with
  | some (src, lv) => src + lv <<< 8 + 1 <<< 16
  | none => 0

/-- The droop record of a region (R447). -/
def droopValue (s : State) (r : Nat) : Nat :=
  let k := rail s r
  k.lwm % 65536 + (k.dips % 65536) <<< 16 + (k.ratio % 65536) <<< 32 + k.lwmTime.toNat <<< 64

/-- The model record of a physical region (R474). -/
def modelValue (s : State) (p : Nat) : Nat :=
  half (topAt s p) + half (baseAt s p) <<< 16 + half (bandAt s p) <<< 32 + half (modelAt s p) <<< 48
    + (physPower s p % 65536) <<< 64 + half (effK s p) <<< 80

/-- A calibration item (R536): factory value, written user value, and the effective value with the applied one. -/
def calItem (s : State) (factory : Int) (f : Fld) (n : Nat) (lim : Int) : Nat :=
  half factory + half (signed n (fldShd s .cal 0 f)) <<< 16 + half (factory + clampI (-lim) lim (signed n (fld s .cal 0 f))) <<< 32

/-- Byte `i` of a row of registers. -/
def byteFld (off i : Nat) : Fld := ⟨off + 4 * (i / 4), 8 * (i % 4) + 7, 8 * (i % 4)⟩

/-- The calibration item that a selector names (R535, R536). -/
def calValue (s : State) (sel : Nat) : Option Nat :=
  if 0x100 ≤ sel && sel < 0x12E then some (calItem s (Config.factory sel) (byteFld (o_CAL_T_OFS 0) (sel - 0x100)) 8 128)
  else if 0x200 ≤ sel && sel < 0x220 then some (calItem s (Config.factory sel) (byteFld (o_CAL_V_OFS 0) (sel - 0x200)) 8 10)
  else if 0x280 ≤ sel && sel < 0x288 then some (calItem s (Config.factory sel) (byteFld (o_CAL_B_OFS 0) (sel - 0x280)) 8 5)
  else if 0x300 ≤ sel && sel < 0x320 then some (calItem s (Config.modelK (sel - 0x300)) (f_CAL_MODEL_OFS_K_OFS (sel - 0x300)) 16 256)
  else if 0x380 ≤ sel && sel < 0x3A0 then some (calItem s (Config.modelC (sel - 0x380)) (f_CAL_MODEL_OFS_C_OFS (sel - 0x380)) 16 128)
  else none

/-- The reachability mask of an EID (R355). -/
def reachValue (s : State) (e : Nat) : Nat := reachMask s e + b2n (reachMask s e ≠ 0) <<< 24

/-- An entry of an error log (R385). -/
def errValue (l : List ErrEntry) (i : Nat) : Nat :=
  match l[i]? with
  | some e => e.type <<< 124 + e.src <<< 121 + e.word <<< 116 + e.syn.toNat <<< 108 + e.count <<< 100 + e.channel <<< 96
      + e.label.toNat <<< 88 + e.time.toNat <<< 48 + e.addr % 2 ^ 48
  | none => 0

/-- The spares of a bond group (R401). -/
def spareValue (s : State) (sl g : Nat) : Nat :=
  let l := mget [] (slice s sl).spares g
  l.length + packN 8 (fun j => l.getD j 0) 4 <<< 8

/-- The holder of a flag (R233). -/
def holderValue (s : State) (r i : Nat) : Nat :=
  let f := flagAt s r i
  match f.holder with
  | some (c, g) => if f.set then 1 <<< 31 + c <<< 16 + g else 0
  | none => 0

/-- The metadata of a body (R76). -/
def metaBits (b : Body) : Nat :=
  if b.av then b.anchor.toNat + 1 <<< 16 + b.ovf.toNat <<< 32 + b.spec.toNat <<< 48 else 0

/-- The metadata of the line at META_ADDR (R298); a line that is not resident is read from the HBM. -/
def metaValue (s : State) (sl : Nat) : State × Nat :=
  let l := (fld s .slice sl f_SLICE_META_ADDR_HI_ADDR_HI * 2 ^ 32 + (reg s .slice sl o_SLICE_META_ADDR_LO).toNat) / 256
  if (placeOf s l).slice ≠ sl then (s, 0)
  else match servedKey s l with
  | some (x, key) =>
    let w := wayAt s x key
    (s, (if w.dead then 0 else metaBits w.body) + 1 <<< 80 + b2n w.dirty <<< 81 + b2n w.dead <<< 82 + b2n w.hold <<< 83 + w.cls <<< 84
      + (w.win.getD 0) <<< 87 + b2n w.win.isSome <<< 92)
  | none =>
    if backed l then
      let (s, f) := hbmFetch s l 0 0
      (s, (if f.dead then 0 else metaBits f.body) + b2n f.dead <<< 82)
    else (s, 0)

/-- The MGMT response (R538): only a secure request reads that of a secure message. -/
def rspValue (s : State) (secure : Bool) (i : Nat) : Option Nat :=
  let n := fld s .mgmt 0 f_MGMT_MSG_STATUS_RESP_LEN
  if (n + 15) / 16 ≤ i || (flag s .mgmt 0 f_MGMT_MSG_STATUS_SECURE && !secure) then none
  else some (ofBytes ((s.mgmt.rsp.drop (16 * i)).take 16))

/-- The value of a selector of R593 in a page; none where the page does not implement it. -/
def pageValue (s : State) (secure : Bool) (k : PageKind) (i sel : Nat) : Option Nat :=
  let at' := fun lo n (f : Nat → Nat) => if lo ≤ sel && sel < lo + n then some (f (sel - lo)) else none
  let entry := fun (l : List W128) j => (l.getD j 0).toNat
  match k with
  | .chip => at' 0x400 32 (fun r => if present s .region r then mapValue s r else Config.freeNat s.fresh % 2 ^ 128)
      <|> at' 0x600 16 (entry s.chores.log)
  | .boot => at' 0x100 4 (fun j => ofBytes ((Config.identityKey.drop (16 * j)).take 16))
  | .mgmt => if 0x1000 ≤ sel then rspValue s secure (sel - 0x1000) else none
  | .ircH => at' 0x100 16 (stackValue s true)
  | .ircM => at' 0x100 16 (stackValue s false)
  | .pwr => at' 0x100 (partRegions s.part) (droopValue s) <|> at' 0x200 16 (entry s.power.log)
      <|> at' 0x300 (partRegions s.part) (fun r => packN 8 (fun n => levelVolt s r n / 5) 16)
  | .therm => at' 0x100 32 (modelValue s)
  | .gauge => at' 0x100 39 (gaugeFour s.gauge.frame)
  | .cal => calValue s sel
  | .sec => at' 0x100 32 (entry s.secLog)
  | .trace => if sel = 1 then some s.time.toNat else none
  | .qos => none
  | .chk => if sel = 0x100 then some ((chkOf s i).result.toNat + ((chkOf s i).addr % 2 ^ 48) <<< 80) else none
  | .fab => at' 0x500 64 (entry s.fab.events) <|> at' 0x10000 65536 (reachValue s)
  | .port => none
  | .hbm => at' 0x400 16 (errValue (hbmc s i).elog)
  | .band => none
  | .slice => at' 0x200 16 (entry (slice s i).log) <|> at' 0x400 16 (errValue (slice s i).elog) <|> at' 0x500 32 (spareValue s i)
  | .region => at' 0x1000 4096 (holderValue s i)
  | .block => none
  | .cell => at' 0x100 16 (fun g => (parkWord (group s i g)).toNat)

/-- The value of any selector, with the state after the line read that SLICE selector 0x300 may need. -/
def mbxValue (s : State) (secure : Bool) (k : PageKind) (i sel : Nat) : State × Option Nat :=
  match selShadowed k sel, selCounter k sel with
  | some off, _ => (s, some ((activeCopy s k i off).toNat + (stagedCopy s k i off).toNat <<< 32))
  | none, some off => (s, some ((ctr s k i off).toNat + s.time.toNat <<< 64))
  | none, none =>
    if k = .slice && sel = 0x300 then
      let (s, v) := metaValue s i
      (s, some v)
    else (s, pageValue s secure k i sel)

/-! ## A mailbox read (R496, R497, R595) -/

/-- A write of MBX_SEL: the earlier read is abandoned. -/
def mbxStart (h secure : Bool) (k : PageKind) (i : Nat) (sel : W32) (s : State) : State :=
  setMbx s h k i { sel := sel, busy := true, secure := secure, on := unitOn s k i }

/-- Exec MBX_SEL_WRITE. -/
def execMbxSelWrite (h secure : Bool) (k : PageKind) (i : Nat) (sel : W32) (s : State) : Host.Outcome State Fault Refusal :=
  run (i < 1440) s (fun s => mbxCmd s h secure k i o_COMMON_MBX_SEL (mbxStart h (!h || hostSecure s secure) k i sel))

/-- What a read of a unit that is not powered gives (R595): the held shadow of an RW-S register whose selector was written then,
and otherwise OFF. -/
def mbxOff (s : State) (m : Mbx) (k : PageKind) (i : Nat) : Mbx :=
  match (if m.on then none else selShadowed k m.sel.toNat) with
  | some off =>
    let v := (shadowCopy s k i off).toNat
    { m with busy := false, valid := true, data := BitVec.ofNat 128 (v + v <<< 32) }
  | none => { m with busy := false, valid := true, off := true }

/-- The value arrives. -/
def mbxCapture (h : Bool) (k : PageKind) (i : Nat) (s : State) : State :=
  let m := mbx s h k i
  if !m.busy then s
  else if !m.on || !unitOn s k i then setMbx s h k i (mbxOff s m k i)
  else
    let (s, v) := mbxValue s m.secure k i m.sel.toNat
    nextFresh (match v with
    | some x => setMbx s h k i { m with busy := false, valid := true, data := BitVec.ofNat 128 x }
    | none => setMbx s h k i { m with busy := false, valid := true, err := true })

/-- Exec MBX_CAPTURE_DONE. -/
def execMbxCaptureDone (h : Bool) (k : PageKind) (i : Nat) (s : State) : Host.Outcome State Fault Refusal :=
  run (present s k i) s (mbxCapture h k i)

/-- A read of MBX_DATA[n]: 0 while VALID is 0; that of DATA3 clears VALID and the data. -/
def mbxData (s : State) (h : Bool) (k : PageKind) (i n : Nat) : State × Nat :=
  let m := mbx s h k i
  if !m.valid then (s, 0)
  else
    let v := bitsN m.data.toNat (32 * n + 31) (32 * n)
    (if n = 3 then setMbx s h k i { m with valid := false, data := 0 } else s, v)

/-- A read request that ends in a bus error (R487). -/
def readError (s : State) (off : Nat) (secure : Bool) (cause : Nat) : State :=
  emit (if cause = beWORLD then worldError s off false else busError s off false secure cause) (.completerAbort off)

/-- A read of a page by host software: lost while the link is down, held while the spine's clock is stopped. -/
def hostRead (s : State) (secure : Bool) (k : PageKind) (i off : Nat) (f : State → State) : State :=
  let secure := hostSecure s secure
  if !s.link.up || s.pkg.noClock then s
  else if !present s k i then readError s (bar0Of k i off) secure bePAGE
  else if kindSecure k && !secure then readError s (bar0Of k i off) secure beWORLD
  else f s

/-- A read of DATA3. -/
def mbxData3 (h : Bool) (k : PageKind) (i : Nat) (s : State) : State :=
  let (s, v) := mbxData s h k i 3
  if h then emit s (.bar0Data (bar0Of k i (o_COMMON_MBX_DATA 3)) (BitVec.ofNat 64 v)) else s

/-- Exec MBX_DATA3_READ. -/
def execMbxData3Read (h secure : Bool) (k : PageKind) (i : Nat) (s : State) : Host.Outcome State Fault Refusal :=
  run (i < 1440) s (fun s =>
    if h then hostRead s secure k i (o_COMMON_MBX_DATA 3) (mbxData3 h k i) else if present s k i then mbxData3 h k i s else s)

/-- A write of MBX_CTRL with ABORT = 1. -/
def mbxAbort (h : Bool) (k : PageKind) (i : Nat) (s : State) : State :=
  setMbx s h k i { mbx s h k i with busy := false, valid := false, data := 0 }

/-- Exec MBX_ABORT. -/
def execMbxAbort (h secure : Bool) (k : PageKind) (i : Nat) (s : State) : Host.Outcome State Fault Refusal :=
  run (i < 1440) s (fun s => mbxCmd s h secure k i o_COMMON_MBX_CTRL (mbxAbort h k i))

end Sys2Proof.Machine
end

