-- ==== Sys2Proof/Machine/Bar0.lean ====
section
/-! DEFINITION. BAR0: what host software reads at a register location, and what a write does there (R14 to R16, R391, R435, R477,
R484 to R488, R500, R503, R511, R513, R515, R525, R567, R585 to R591). -/
namespace Sys2Proof.Machine

/-! ## Reading a location -/

/-- The stored value of a register as a read gives it: the shadow of RW-S fields, 0 in WO-P fields (R16). -/
def storedRead (s : State) (k : PageKind) (i off : Nat) : Nat :=
  let wo := BitVec.ofNat 32 (accMask (fieldsAt k off) .wo)
  (shadowCopy s k i off &&& ~~~wo).toNat

/-- A direct read of a counter: the low half of a performance counter, the whole count of the other classes (R566). -/
def counterRead (s : State) (k : PageKind) (i off : Nat) : Nat := ctrCount s k i off % 2 ^ 32

/-- Whether a page has an unmasked bit pending (R503). -/
def pageIrq (s : State) (k : PageKind) (i : Nat) : Bool := (reg s k i o_COMMON_IRQ_PENDING &&& ~~~reg s k i o_COMMON_IRQ_MASK) != 0

/-- The strobe bits through which a pending page was named (R492). -/
def strobePending (s : State) : Nat :=
  s.pages.foldl (fun m x => if x.2.waiting.isEmpty then m else m ||| x.2.via) 0

/-- The registers of the common block that show what the page is doing (R485, R497). -/
def commonRead (s : State) (k : PageKind) (i off : Nat) : Option Nat :=
  let m := mbx s true k i
  if off = o_COMMON_PAGE_STATUS then some (b2n (frozen s k i && unitOn s k i) <<< 31 + b2n (!unitOn s k i) <<< 30)
  else if off = o_COMMON_SHADOW_STATE then
    some (putBitsN (reg s k i off).toNat 1 1 (b2n (!(page s k i).waiting.isEmpty)))
  else if off = o_COMMON_MBX_SEL then some m.sel.toNat
  else if off = o_COMMON_MBX_CTRL then some (b2n m.busy <<< 2 + b2n m.off <<< 1 + b2n m.err)
  else if off = o_COMMON_MBX_VALID then some (b2n m.valid)
  else none

/-- A cell's status registers (R123, R173). -/
def cellRead (s : State) (c off v : Nat) : Nat :=
  let k := cell s c
  if off = o_CELL_MX_STATUS then
    let started := k.ops.filter (·.started)
    let run := beatOp k
    let g := match run, started with | some o, _ => o.grp | none, o :: _ => o.grp | none, [] => 0
    let v := if run.isNone then putBitsN v 2 0 0 else v
    putBitsN (putBitsN (putBitsN v 15 12 g) 11 9 k.ops.length) 8 8 (b2n (!started.isEmpty))
  else if off = o_CELL_GROUP_STATE then packN 2 (fun g => gstCode (group s c g).st) 16
  else if off = o_CELL_RF_USED then
    let gs := liveGroups s c
    (gs.map (fun g => (group s c g).alloc)).sum % 2048 + gs.length <<< 16
  else v

/-- A block's status registers (R206, R213, R225). -/
def blockRead (s : State) (b off v : Nat) : Nat :=
  let k := block s b
  if off = o_BLOCK_SF_STATUS then
    let a := activeBank s b
    let valid := if a = 0 then !k.invalid1 else !k.invalid0
    let hold := match k.load with | some l => l.hold | none => false
    let v := putBitsN (putBitsN v 23 16 (oldUsers s b)) 8 8 a
    putBitsN (putBitsN (putBitsN v 4 4 (b2n hold)) 2 2 (b2n valid)) 0 0 (b2n k.load.isSome)
  else if off = o_BLOCK_REACH_STATUS then
    let st := match leadOf s b with | some l => reachState s l | none => reachState s b
    putBitsN (putBitsN v 31 28 st) 15 15 (b2n (reachSpate s b))
  else v

/-- A region's flags and summary (R250, R503). -/
def regionRead (s : State) (r off v : Nat) : Nat :=
  let irq := fun j => if j = 0 then pageIrq s .region r else if j < 7 then pageIrq s .block (6 * r + j - 1) else pageIrq s .cell (45 * r + j - 7)
  if 0xC00 ≤ off && off < 0xE00 then packN 1 (fun j => b2n (flagAt s r (8 * (off - 0xC00) + j)).set) 32
  else if off = o_REGION_IRQ_SUM_LO then packN 1 (fun j => b2n (irq j)) 32
  else if off = o_REGION_IRQ_SUM_HI then packN 1 (fun j => b2n (irq (32 + j))) 20
  else v

/-- The CHIP page (R247, R492). -/
def chipRead (s : State) (off v : Nat) : Nat :=
  if off = o_CHIP_STROBE_PENDING then strobePending s
  else if 0xE40 ≤ off && off < 0xE60 then putBitsN v 6 6 (b2n (partDrained s ((off - 0xE40) / 4)))
  else v

/-- The QOS page (R409, R412). -/
def qosRead (s : State) (off v : Nat) : Nat :=
  if off = o_QOS_SHARE_EFF_LO then packN 8 (reservedSlots s 32) 4
  else if off = o_QOS_SHARE_EFF_HI then packN 8 (fun p => reservedSlots s 32 (4 + p)) 4
  else if off = o_QOS_SPATE_ACTIVE then
    packN 1 (fun p => b2n ((List.range 4).any (ingressSpate s p))) 24 + b2n (traceSpate s) <<< 24
  else v

/-- The value of a register of a powered unit that shows what the unit is doing; `v` is its stored value. -/
def unitRead (s : State) (k : PageKind) (i off v : Nat) : Nat :=
  match k with
  | .chip => chipRead s off v
  | .boot =>
    if 0x400 ≤ off && off < 0xC00 then (mget 0 s.boot.img (fld s .boot 0 f_BOOT_WIN_OFF_OFF * 512 + (off - 0x400) / 4)).toNat
    else if off = o_BOOT_ROM_VER then Config.romVer.toNat else v
  | .therm => if 0xC00 ≤ off && off < 0xCB8 then putBitsN v 23 16 (chAge s ((off - 0xC00) / 4)) else v
  | .trace =>
    if off = o_TRACE_STATUS then
      putBitsN (putBitsN v 31 31 (b2n (traceOn s && !flag s .trace 0 f_TRACE_STATUS_FULL))) 6 0 ((s.trace.staged.length + 7) / 8)
    else v
  | .qos => qosRead s off v
  | .fab => if off = o_FAB_TOPO_STATUS then putBitsN v 30 30 (b2n (settling s)) else v
  | .band => if off = o_BAND_IRQ_SUM then packN 1 (fun j => b2n (if j = 0 then pageIrq s .band i else pageIrq s .slice (16 * i + j - 1))) 17 else v
  | .region => regionRead s i off v
  | .block => blockRead s i off v
  | .cell => cellRead s i off v
  | _ => v

/-- RO-H fields of a unit that is not powered read their reset values (R435). -/
def offRead (s : State) (k : PageKind) (i off v : Nat) : Nat :=
  let m := BitVec.ofNat 32 (accMask (fieldsAt k off) .roH)
  ((BitVec.ofNat 32 v &&& ~~~m) ||| (regReset s.part k i off &&& m)).toNat

/-- What a read of an implemented location gives, and the state after it. -/
def readLoc (s : State) (k : PageKind) (i off : Nat) : State × Nat :=
  if o_COMMON_MBX_DATA 0 ≤ off && off ≤ o_COMMON_MBX_DATA 3 then mbxData s true k i ((off - o_COMMON_MBX_DATA 0) / 4)
  else match counterAt k off with
  | some _ => (s, if unitOn s k i then counterRead s k i off else 0)
  | none =>
    let mbxReg := off = o_COMMON_MBX_SEL || off = o_COMMON_MBX_CTRL || off = o_COMMON_MBX_VALID || off = o_COMMON_PAGE_STATUS
    match commonRead s k i off with
    | some v => (s, if mbxReg || unitOn s k i then v else offRead s k i off v)
    | none =>
      let v := storedRead s k i off
      (s, if unitOn s k i then unitRead s k i off v else offRead s k i off v)

/-! ## A request's form and place (R484, R486, R487) -/

/-- Whether BAR0 accepts a request of `n` bytes at an offset. -/
def sizeOk (off n : Nat) : Bool :=
  (n == 4 && off % 4 == 0) || (n == 8 && off % 8 == 0 && ((0x3100 ≤ off && off < 0x3500) || (0x3C00 ≤ off && off < 0x3C08)))

/-- The error of a request, in the order in which it is examined, or the page it reaches. -/
def bar0Place (s : State) (secure : Bool) (off n : Nat) : Except Nat (PageKind × Nat) :=
  if !sizeOk off n then .error beSIZE
  else match pageOf s.part (off / 4096) with
  | none => .error bePAGE
  | some (k, i) =>
    if kindSecure k && !secure then .error beWORLD
    else if !implemented k (off % 4096) then .error beLOCATION
    else .ok (k, i)

/-! ## BAR0_READ -/

/-- BAR0_READ: of a doubleword, or of a quadword of the MSI-X structures. -/
def bar0Read (secure : Bool) (off n : Nat) (s : State) : State :=
  let secure := hostSecure s secure
  if !s.link.up || s.pkg.noClock then s
  else match bar0Place s secure off n with
  | .error c => readError s off secure c
  | .ok (k, i) =>
    let (s, lo) := readLoc s k i (off % 4096)
    if n = 8 then
      let (s, hi) := readLoc s k i (off % 4096 + 4)
      emit s (.bar0Data off (BitVec.ofNat 64 (lo + hi <<< 32)))
    else emit s (.bar0Data off (BitVec.ofNat 64 lo))

/-- Exec BAR0_READ. -/
def execBar0Read (secure : Bool) (off n : Nat) (s : State) : Host.Outcome State Fault Refusal :=
  run (off < 2 ^ 24 && 0 < n && n ≤ 4096) s (bar0Read secure off n)

/-! ## What a write leaves alone (R391, R501, R591) -/

/-- The bits of BLOCK_WORLD for blocks that the part does not have: reserved (R14). -/
def absentBlocks (s : State) (off : Nat) : W32 :=
  if off = o_SEC_BLOCK_WORLD 5 && instCount s.part .block = 180 then 0xFFF00000 else 0

/-- The bits of a register that a request may not write: reserved ones, those of secure-only fields for a non-secure one, and the LEVEL fields
of the fixed sources. -/
def lockMask (s : State) (secure : Bool) (k : PageKind) (off : Nat) : W32 :=
  let fixed : W32 := if off = o_IRC_LEVEL 0 then 0x000FF000 else if off = o_IRC_LEVEL 1 then 0x00F00000 else 0
  match k with
  | .ircH => if off = o_IRC_MASK 0 && !secure then 0x200 else fixed
  | .ircM => if off = o_IRC_MASK 0 && !secure then 0x200 else fixed
  | .region => if off = o_REGION_FLAG_WORLD && !secure then 0xFFFFFFFF else 0
  | .fab => if off = o_FAB_FWIN_CFG && !secure then 0x20000000 else 0
  | .port => if off = o_PORT_SEC_CTRL && !secure then 0xFFFFFFFF else 0
  | .slice => if 0x208 ≤ off && off < 0x218 && !secure then 0xFFFFFFFF else 0
  | .hbm => if 0x204 ≤ off && off < 0x214 && !secure then 0xFFFFFFFF else 0
  | .cell => if 0x400 ≤ off && off < 0x410 && !secure then 0xFFFFFFFF else 0
  | .cal => if flag s .sec 0 f_SEC_CAL_LOCK_LOCK && !secure then rwMask .cal off else 0
  | .sec => absentBlocks s off
  | _ => 0

/-- A register with the bits of a mask taken from a write. -/
def putMask (old v m : W32) : W32 := (old &&& ~~~m) ||| (v &&& m)

/-- A write of an RW-S register: the shadow takes it, and the page is DIRTY. -/
def writeShadow (s : State) (k : PageKind) (i off : Nat) (v m : W32) : State :=
  if m = 0 then s
  else
    let s := if isFwin k off then
        let n := selWin s
        let w := mget {} s.fab.wShd n
        let x := putMask (fwinReg w off) v m
        let w := if off = o_FAB_FWIN_BASE then { w with base := x } else if off = o_FAB_FWIN_LIMIT then { w with limit := x }
          else if off = o_FAB_FWIN_TGT then { w with tgt := x } else { w with cfg := x }
        { s with fab := { s.fab with wShd := mset {} s.fab.wShd n w } }
      else setShd s k i off (putMask (regShd s k i off) v m)
    setF s k i f_COMMON_SHADOW_STATE_DIRTY 1

/-- A write of a register with no behaviour of its own (R485): RW-S fields in the shadow, RW-I fields at once, W1C fields where
it has 1; other fields are left as they are (R14, R15). -/
def plainWrite (secure : Bool) (k : PageKind) (i off : Nat) (v : W32) (s : State) : State :=
  let fs := fieldsAt k off
  let free := ~~~lockMask s secure k off
  let s := writeShadow s k i off v (BitVec.ofNat 32 (accMask fs .rwS) &&& free)
  let old := reg s k i off
  let x := putMask old v (BitVec.ofNat 32 (accMask fs .rwI) &&& free)
  let x := x &&& ~~~(v &&& BitVec.ofNat 32 (accMask fs .w1c) &&& free)
  if x = old then s else setReg s k i off x

/-! ## Writes that act -/

/-- RESET_CMD (R552): SCOPE 0 to 3, and codes that name no unit. -/
def writeReset (v : Nat) (s : State) : State :=
  let sc := bitsN v 30 28
  if !bitN v 31 then s
  else if sc < 3 then unitReset sc (v % 65536) s
  else if sc = 3 then chipReset (bitsN v 23 16) (v % 65536) s
  else resetStatus s sc (v % 65536) 3

/-- SELFTEST_REQ (R558). -/
def writeSelftest (v : Nat) (s : State) : State :=
  if !bitN v 31 then s
  else if bitN v 29 then testCancel (bitsN v 23 16) (v % 65536) s
  else testSubmit (bitsN v 23 16) (v % 65536) (bitN v 30) (bitN v 28) s

/-- BUS_ERR_INFO and WIN_ERR_INFO: the count is of the errors since VALID was cleared. -/
def writeErrInfo (off : Nat) (v : W32) (s : State) : State :=
  if bitN v.toNat 31 then setReg s .chip 0 off (reg s .chip 0 off &&& 0x7FFF0000) else s

/-- PART_CFG: a written PROFILE is applied at the partition's next strobe (R38). -/
def writePartCfg (secure : Bool) (off : Nat) (v : W32) (s : State) : State :=
  let p := (off - 0x604) / 8
  let s := plainWrite secure .chip 0 off v s
  { s with chores := { s.chores with profSet := p :: s.chores.profSet.filter (· != p) } }

/-- The CHIP page. -/
def writeChip (secure : Bool) (off : Nat) (v : W32) (s : State) : State :=
  if off = o_CHIP_CTRL then writeRun (v.toNat % 2) s
  else if off = o_CHIP_STROBE then strobe (v.toNat % 65536) [] s
  else if off = o_CHIP_RESET_CMD then writeReset v.toNat s
  else if off = o_CHIP_SELFTEST_REQ then writeSelftest v.toNat s
  else if off = o_CHIP_PART_CMD then (if bitN v.toNat 8 then partReset (v.toNat % 8) s else s)
  else if off = o_CHIP_BUS_ERR_INFO || off = o_CHIP_WIN_ERR_INFO then writeErrInfo off v s
  else if 0x600 ≤ off && off < 0x640 && off % 8 = 4 then writePartCfg secure off v s
  else plainWrite secure .chip 0 off v s

/-- A write that a chapter names as a bus error. -/
def refuseWrite (s : State) (k : PageKind) (i off : Nat) (secure : Bool) : State := busError s (bar0Of k i off) true secure beREFUSED

/-- The BOOT page: the window maps onto the image buffer while no image is accepted or verified (R525). -/
def writeBoot (secure : Bool) (off : Nat) (v : W32) (s : State) : State :=
  let st := fld s .boot 0 f_BOOT_STATUS_STATE
  if off = o_BOOT_GO then (if bitN v.toNat 0 then bootGo secure s else s)
  else if off = o_BOOT_WIN_OFF then (if st = 0 || st = 3 then plainWrite secure .boot 0 off v s else refuseWrite s .boot 0 off secure)
  else if 0x400 ≤ off && off < 0xC00 then
    if st = 0 || st = 3 then
      { s with boot := { s.boot with img := mset 0 s.boot.img (fld s .boot 0 f_BOOT_WIN_OFF_OFF * 512 + (off - 0x400) / 4) v } }
    else refuseWrite s .boot 0 off secure
  else plainWrite secure .boot 0 off v s

/-- The MGMT page (R538). -/
def writeMgmt (secure : Bool) (off : Nat) (v : W32) (s : State) : State :=
  if off = o_MGMT_MSG_CTRL && bitN v.toNat 31 then msgGo secure (v.toNat % 256) s else plainWrite secure .mgmt 0 off v s

/-- The IRC_H page; a table entry that is unmasked sends what was held for it (R477). -/
def writeIrcH (secure : Bool) (off : Nat) (v : W32) (s : State) : State :=
  if off = o_IRC_RAISE then ircRaise true (v.toNat % 128) s
  else if off = o_IRC_EOI then ircEoi true (v.toNat % 128) s
  else if off = o_IRC_STACK_RESET then (if bitN v.toNat 0 then stackReset true s else s)
  else if 0x800 ≤ off && off < 0x880 then cntWrite .ircH 0 off v s
  else if 0x100 ≤ off && off < 0x500 then flushVecs (plainWrite secure .ircH 0 off v s)
  else plainWrite secure .ircH 0 off v s

/-- The TRACE page. -/
def writeTrace (secure : Bool) (off : Nat) (v : W32) (s : State) : State :=
  if off = o_TRACE_RD_PTR then traceRdPtr (v.toNat % 2 ^ 27) s
  else if off = o_TRACE_MARK then stageRecord s (recordOf s 6 0 0xFFFF v.toNat)
  else if off = o_TRACE_PERF_CTRL then
    let s := setF s .trace 0 f_TRACE_PERF_CTRL_FREEZE (v.toNat % 2)
    if bitN v.toNat 1 then clearAll 1 s else s
  else if off = o_TRACE_CNT_CLR then
    (if bitN v.toNat 31 then cntClear (bitN v.toNat 30) (bitsN v.toNat 18 16) (v.toNat % 4096) s else s)
  else plainWrite secure .trace 0 off v s

/-- The THERM and PWR pages. -/
def writeTherm (secure : Bool) (off : Nat) (v : W32) (s : State) : State :=
  if off = o_THERM_DEMAND_LO then thermDemand false v.toNat s
  else if off = o_THERM_DEMAND_HI then thermDemand true v.toNat s
  else if off = o_THERM_RESUME then (if bitN v.toNat 0 then thermResume s else s)
  else plainWrite secure .therm 0 off v s
def writePwr (secure : Bool) (off : Nat) (v : W32) (s : State) : State :=
  if off = o_PWR_LWM_CLR then lwmClear (v.toNat % 32) s
  else if off = o_PWR_LOG_CLR then (if bitN v.toNat 0 then pwrLogClear s else s)
  else plainWrite secure .pwr 0 off v s

/-- The SLICE and HBM pages; a frozen slice begins no maintenance (R495). -/
def writeSlice (secure : Bool) (sl off : Nat) (v : W32) (s : State) : State :=
  if off = o_SLICE_MAINT_CMD then (if sliceFrozen s sl then s else maintCmd sl (v.toNat % 8) s)
  else if off = o_SLICE_LOG_CLR then (if bitN v.toNat 0 then clearSliceLog sl s else s)
  else if off = o_SLICE_ERR_LOG_CLR then (if bitN v.toNat 0 then clearErrLog false sl s else s)
  else plainWrite secure .slice sl off v s
def writeHbm (secure : Bool) (b off : Nat) (v : W32) (s : State) : State :=
  if off = o_HBM_ERR_LOG_CLR then (if bitN v.toNat 0 then clearErrLog true b s else s) else plainWrite secure .hbm b off v s

/-- The REGION page (R232); a frozen region keeps the flag writes (R495). -/
def writeRegion (secure : Bool) (r off : Nat) (v : W32) (s : State) : State :=
  if off = o_REGION_FLAG_SET then flagByHost secure r (v.toNat % 4096) true s
  else if off = o_REGION_FLAG_CLR then flagByHost secure r (v.toNat % 4096) false s
  else plainWrite secure .region r off v s

/-- REACH_CMD: ABORT, DISARM and ARM of one write act in that order, each against the state that the one before it left, and
FP_TAKE acts on its own (R220). -/
def writeReachCmd (b v : Nat) (s : State) : State :=
  let s := if bitN v 2 then abort b s else s
  let s := if bitN v 1 then disarm b s else s
  let s := if bitN v 0 then arm b s else s
  if bitN v 8 then levelDown s b else s

/-- The BLOCK page; a frozen block takes no command (R495). -/
def writeBlock (secure : Bool) (b off : Nat) (v : W32) (s : State) : State :=
  if off = o_BLOCK_SF_LOAD_CTRL && bitN v.toNat 31 then
    if frozen s .block b then s else sfGo secure b (bitsN v.toNat 29 28) (bitsN v.toNat 23 16) (bitsN v.toNat 7 0) s
  else if off = o_BLOCK_REACH_CMD then (if frozen s .block b then s else writeReachCmd b v.toNat s)
  else plainWrite secure .block b off v s

/-- The CELL page (R123, R172, R173). -/
def writeCell (secure : Bool) (c off : Nat) (v : W32) (s : State) : State :=
  let g := v.toNat % 16
  let cmd := bitsN v.toNat 9 8
  if off = o_CELL_GROUP_CMD then
    if cmd = 1 then replay c g (bitN v.toNat 12) s else if cmd = 2 then kill c g s else cmdStatus s c g cmd 4
  else if off = o_CELL_RO_INV then invRo s c (bitN v.toNat 0) (bitN v.toNat 1) (bitN v.toNat 2)
  else if off = o_CELL_MX_CNT_CLR then (if bitN v.toNat 0 then mxCounters.foldl (fun s o => clearCtr s .cell c o) s else s)
  else plainWrite secure .cell c off v s

/-- The registers common to every page. -/
def writeCommon (secure : Bool) (k : PageKind) (i off : Nat) (v : W32) (s : State) : State :=
  if off = o_COMMON_PAGE_CTRL then (if bitN v.toNat 1 then reshadow k i s else s)
  else if off = o_COMMON_MBX_SEL then mbxStart true secure k i v s
  else if off = o_COMMON_MBX_CTRL then (if bitN v.toNat 8 then mbxAbort true k i s else s)
  else if 0x040 ≤ off && off < 0x050 then cntWrite k i off v s
  else plainWrite secure k i off v s

/-- A write to an implemented location of a powered unit. -/
def writeUnit (secure : Bool) (k : PageKind) (i off : Nat) (v : W32) (s : State) : State :=
  if off < 0x100 then writeCommon secure k i off v s
  else match k with
  | .chip => writeChip secure off v s
  | .mgmt => writeMgmt secure off v s
  | .boot => writeBoot secure off v s
  | .ircH => writeIrcH secure off v s
  | .ircM => s
  | .therm => writeTherm secure off v s
  | .pwr => writePwr secure off v s
  | .sec => if off = o_SEC_LOG_CLR then (if bitN v.toNat 0 then secLogClr s else s) else plainWrite secure .sec 0 off v s
  | .trace => writeTrace secure off v s
  | .chk => if off = o_CHK_CTRL && bitN v.toNat 31 then (if frozen s .chk i then s else chkGo i secure v s) else plainWrite secure .chk i off v s
  | .fab => if off = o_FAB_EVT_POP then evtPop (v.toNat % 64) s else plainWrite secure .fab 0 off v s
  | .slice => writeSlice secure i off v s
  | .hbm => writeHbm secure i off v s
  | .region => writeRegion secure i off v s
  | .block => writeBlock secure i off v s
  | .cell => writeCell secure i off v s
  | .port => plainWrite secure .port i off v s
  | .band => plainWrite secure .band i off v s
  | .qos => plainWrite secure .qos 0 off v s
  | .gauge => plainWrite secure .gauge 0 off v s
  | .cal => plainWrite secure .cal 0 off v s

/-- A write to an implemented location of a unit that is not powered: shadows, the strobe group and the mailbox take it
(R435, R590, R595). -/
def writeOff (secure : Bool) (k : PageKind) (i off : Nat) (v : W32) (s : State) : State :=
  if off = o_COMMON_MBX_SEL || off = o_COMMON_MBX_CTRL then writeCommon secure k i off v s
  else if off = o_COMMON_PAGE_STROBE_GROUP then plainWrite secure k i off v s
  else writeShadow s k i off v (rwMask k off &&& ~~~lockMask s secure k off)

/-- A write to an implemented location. -/
def writeLoc (secure : Bool) (k : PageKind) (i off : Nat) (v : W32) (s : State) : State :=
  if unitOn s k i then writeUnit secure k i off v s else writeOff secure k i off v s

/-! ## REG_WRITE -/

/-- REG_WRITE: a write of a doubleword, or of a quadword of the MSI-X structures. -/
def regWrite (secure : Bool) (off n : Nat) (v : W64) (s : State) : State :=
  let secure := hostSecure s secure
  if !s.link.up || s.pkg.noClock || !barReady s then s
  else match bar0Place s secure off n with
  | .error c => if c = beWORLD then worldError s off true else busError s off true secure c
  | .ok (k, i) =>
    let s := writeLoc secure k i (off % 4096) (BitVec.ofNat 32 v.toNat) s
    if n = 8 then writeLoc secure k i (off % 4096 + 4) (BitVec.ofNat 32 (v.toNat / 2 ^ 32)) s else s

/-- Exec REG_WRITE. -/
def execRegWrite (secure : Bool) (off n : Nat) (v : W64) (s : State) : Host.Outcome State Fault Refusal :=
  run (off < 2 ^ 24 && 0 < n && n ≤ 4096) s (regWrite secure off n v)

end Sys2Proof.Machine
end

