-- ==== Sys2Proof/Machine/Vector.lean ====
section
/-! DEFINITION. Vector, uniform and lane-exchange instructions and CVT (R53, R55, R64, R65, R79, R126, R127, R131, R134). -/
namespace Sys2Proof.Machine

/-! ## VECTOR_INT_OP -/

/-- The result of an integer operation on 32-bit values; `f` stands where the spec states none (a shift by 32 or more). -/
def intResult (op : IntOp) (a b f : W32) : W32 :=
  match op with
  | .add => a + b
  | .sub => a - b
  | .and => a &&& b
  | .or => a ||| b
  | .xor => a ^^^ b
  | .not => ~~~a
  | .shl => if b.toNat < 32 then a <<< b.toNat else f
  | .shrU => if b.toNat < 32 then a >>> b.toNat else f
  | .shrS => if b.toNat < 32 then a.sshiftRight b.toNat else f
  | .mul => a * b
  | .minS => if a.slt b then a else b
  | .minU => if a.ult b then a else b
  | .maxS => if a.slt b then b else a
  | .maxU => if a.ult b then b else a
  | _ => f

/-- The outcome of an integer compare, none for an operation with a register result. -/
def intCompare (op : IntOp) (a b : W32) : Option Bool :=
  match op with
  | .cmpEq => some (a == b)
  | .cmpNe => some (a != b)
  | .cmpLtS => some (a.slt b)
  | .cmpLeS => some (!b.slt a)
  | .cmpLtU => some (a.ult b)
  | .cmpLeU => some (!b.ult a)
  | _ => none

/-- The predicate that a compare writes: PD in format V, MOD bits [2:0] in format I. -/
def cmpPred (w : W64) (imm : Bool) : Nat := if imm then ibits w 34 32 else fPD w

/-- One lane of a vector integer instruction. -/
def intLane (s : State) (w : W64) (op : IntOp) (imm : Bool) (old k : Group) (l : Nat) : Group :=
  let a := getV old (fVA w) l
  let b := if imm then BitVec.ofNat 32 (fIMM w) else getV old (fVB w) l
  match intCompare op a b with
  | some t => setPLane k (cmpPred w imm) l t
  | none => setV k (fVD w) l (intResult op a b (freeLane s l))

/-- R134: a vector integer instruction. VD, VA and, in the register format, VB count as named by every operation, VC by FMA alone
(R126; DESIGN CHOICE, log entry 171). -/
def vectorInt (c g : Nat) (w : W64) (op : IntOp) (b : Second) (s : State) : State :=
  let imm : Bool := b ≠ .reg
  issue s c g w (fun s =>
    let k := group s c g
    if op = .unassigned then some (illegal s c g 1)
    else if !(inAlloc k (fVD w) 1 && inAlloc k (fVA w) 1 && (imm || inAlloc k (fVB w) 1)) then some (illegal s c g 3)
    else some (retire (drawn s) c g (mapLanes k (lanesOf (guardLanes k w)) (intLane s w op imm k))))

/-- Exec VECTOR_INT_OP. A word whose opcode no row of the table carries comes with operation `unassigned` and parks with
ILLEGAL (R134). -/
def execVectorInt (c g : Nat) (w : W64) (op : IntOp) (b : Second) (s : State) : Host.Outcome State Fault Refusal :=
  run (opc w ≤ 0x3F || (op = .unassigned && !opcodeRow (opc w))) s (vectorInt c g w op b)

/-! ## VECTOR_FP_OP -/

/-- The larger or smaller of two FP32 words: the MAX and MIN of R279, since R205 says that any combination of MAX gives the same
result, that of a slice among them. -/
def fpPick (mx : Bool) (a b : W32) : W32 := if mx then f32Max a b else f32Min a b

/-- The FP32 result of an operation (R55, R131). -/
def fpResult (op : FpOp) (a b c f : W32) : W32 :=
  match op with
  | .add => f32Add a b
  | .sub => f32Sub a b
  | .mul => f32Mul a b
  | .fma => f32Fma a b c
  | .min => fpPick false a b
  | .max => fpPick true a b
  | _ => f

/-- The outcome of an FP32 compare: a NaN is unequal to everything. -/
def fpCompare (op : FpOp) (a b : W32) : Option Bool :=
  match op with
  | .cmpEq => some (veq (f32 a) (f32 b))
  | .cmpNe => some (!veq (f32 a) (f32 b))
  | .cmpLt => some (vlt (f32 a) (f32 b))
  | .cmpLe => some (vlt (f32 a) (f32 b) || veq (f32 a) (f32 b))
  | _ => none

/-- The packed result of a lane: each element widened exactly, computed in FP32 and rounded once back (R55, R64). -/
def fpPacked (f : Fmt) (n : Nat) (op : FpOp) (a b c free : W32) : W32 :=
  if f = .fp32 then fpResult op a b c free
  else BitVec.ofNat 32 (packN (fmtWidth f) (fun i =>
    (encVal f .rne (f32 (fpResult op (elemF32 f a i) (elemF32 f b i) (elemF32 f c i) free))).1) n)

/-- One lane of a vector floating-point instruction. -/
def fpLane (s : State) (w : W64) (op : FpOp) (p : Pack) (imm : Bool) (old k : Group) (l : Nat) : Group :=
  let a := getV old (fVA w) l
  let b := if imm then BitVec.ofNat 32 (fIMM w) else getV old (fVB w) l
  let c := if imm then 0 else getV old (fVC w) l
  match fpCompare op a b with
  | some t => setPLane k (cmpPred w imm) l t
  | none => setV k (fVD w) l (fpPacked (packFmt p) (packCount p) op a b c (freeLane s l))

/-- R131, R134: a vector floating-point instruction. -/
def vectorFp (c g : Nat) (w : W64) (op : FpOp) (p : Pack) (imm : Bool) (s : State) : State :=
  issue s c g w (fun s =>
    let k := group s c g
    if op = .unassigned then some (illegal s c g 1)
    else if !(inAlloc k (fVD w) 1 && inAlloc k (fVA w) 1 && (imm || (inAlloc k (fVB w) 1 && (op ≠ .fma || inAlloc k (fVC w) 1)))) then
      some (illegal s c g 3)
    else some (retire (drawn s) c g (mapLanes k (lanesOf (guardLanes k w)) (fpLane s w op p imm k))))

/-- Exec VECTOR_FP_OP. A fused multiply-add takes three registers; a compare is of FP32. -/
def execVectorFp (c g : Nat) (w : W64) (op : FpOp) (p : Pack) (imm : Bool) (s : State) : Host.Outcome State Fault Refusal :=
  run (0x40 ≤ opc w && opc w ≤ 0x7F && !(op = .fma && imm) && ((fpCompare op 0 0).isNone || p = .fp32)) s (vectorFp c g w op p imm)

/-! ## CVT -/

/-- The encoding of one lane's value in an unscaled format (R64, R65), with OVF of R75 for a partial. -/
def cvtLane (src dst : CvtFmt) (rnd : Rnd) (k : Group) (va us l : Nat) : Nat × Nat :=
  let _ := src
  encVal (cvtElem dst) rnd (cvtSource k src va us l)

/-- CVT to an unscaled format: one element per lane; the status of R79 of every executing lane. -/
def cvtScalar (s : State) (k : Group) (w : W64) (src dst : CvtFmt) (rnd : Rnd) (us : Nat) : Group :=
  let lanes := lanesOf (guardLanes k w)
  let n := fmtWidth (cvtElem dst)
  let out := mapLanes k lanes (fun k' l => setV k' (fVD w) l (openAbove n (cvtLane src dst rnd k (fVA w) us l).1 (freeLane s l).toNat))
  orGstat out (lanes.foldl (fun m l => m ||| (cvtLane src dst rnd k (fVA w) us l).2) 0)

/-- CVT to a block-scaled format: the registers of all 32 lanes form one block by R63, those of lanes that do not execute too,
and only executing lanes are written (DESIGN CHOICE, log entry 164); the scale goes to bits [7:0] and the sub-shifts to
bits [15:8] of u[us]. -/
def cvtToBlock (s : State) (k : Group) (w : W64) (src dst : CvtFmt) (us : Nat) : Group :=
  let xs := (List.range 32).map (cvtSource k src (fVA w) us)
  let (sc, d, el, st) := encodeBlock (cvtElem dst) (dst = .ss4) xs
  let n := fmtWidth (cvtElem dst)
  let out := mapLanes k (lanesOf (guardLanes k w)) (fun k' l => setV k' (fVD w) l (openAbove n (el[l]?.getD 0) (freeLane s l).toNat))
  orGstat (setU out us (BitVec.ofNat 64 (sc + d * 256 + (freeU s >>> 16) <<< 16))) st

/-- R64: a format conversion. -/
def cvt (c g : Nat) (w : W64) (src dst : CvtFmt) (rnd : Rnd) (us : Nat) (s : State) : State :=
  issue s c g w (fun s =>
    let k := group s c g
    if dst = .wide || (cvtBlock dst && rnd ≠ .rne) then some (illegal s c g 2)
    else if !(inAlloc k (fVD w) 1 && inAlloc k (fVA w) (if src = .wide then 4 else 1)) then some (illegal s c g 3)
    else if guardLanes k w = 0 then some (nextPc s c g)
    else some (retire (drawn s) c g (if cvtBlock dst then cvtToBlock s k w src dst us else cvtScalar s k w src dst rnd us)))

/-- Exec CVT. -/
def execCvt (c g : Nat) (w : W64) (src dst : CvtFmt) (rnd : Nat) (us : Nat) (s : State) : Host.Outcome State Fault Refusal :=
  run (0x40 ≤ opc w && opc w ≤ 0x7F && rnd < 4 && us < 32) s (cvt c g w src dst (rndOf rnd) us)

/-! ## UNIFORM_OP -/

/-- The result of a uniform operation on 64-bit values; `f` stands where the spec states none. -/
def uniResult (op : UniOp) (a b f : W64) : W64 :=
  match op with
  | .add => a + b
  | .sub => a - b
  | .mul => a * b
  | .and => a &&& b
  | .or => a ||| b
  | .xor => a ^^^ b
  | .not => ~~~a
  | .shl => if b.toNat < 64 then a <<< b.toNat else f
  | .shrU => if b.toNat < 64 then a >>> b.toNat else f
  | .shrS => if b.toNat < 64 then a.sshiftRight b.toNat else f
  | .mov => b
  | _ => f

/-- The second operand of a uniform instruction. -/
def uniSecond (k : Group) (w : W64) : Second → W64
  | .reg => getU k (fUB w)
  | .immZ => BitVec.ofNat 64 (fIMM w)
  | .immS => BitVec.ofInt 64 (signed 32 (fIMM w))

/-- The lane register that a move names, if any. -/
def uniLaneReg : UniOp → Option Nat
  | .toLanes vd => some vd
  | .fromLane va _ => some va
  | _ => none

/-- R134: a uniform instruction. -/
def uniform (c g : Nat) (w : W64) (op : UniOp) (b : Second) (s : State) : State :=
  issue s c g w (fun s =>
    let k := group s c g
    if op = .unassigned then some (illegal s c g 1)
    else if !(match uniLaneReg op with | some r => inAlloc k r 1 | none => true) then some (illegal s c g 3)
    else groupWide s c g w (fun s =>
      some (retire (drawn s) c g (match op with
        | .toLanes vd => mapLanes k (lanesOf (guardLanes k w)) (fun k' l => setV k' vd l ((getU k (fUA w)).setWidth 32))
        | .fromLane va l => setU k (fUD w) (BitVec.ofNat 64 ((getV k va l).toNat + (freeU s >>> 32) <<< 32))
        | op => setU k (fUD w) (uniResult op (getU k (fUA w)) (uniSecond k w b) (BitVec.ofNat 64 (freeU s)))))))

/-- Exec UNIFORM_OP. -/
def execUniform (c g : Nat) (w : W64) (op : UniOp) (b : Second) (s : State) : Host.Outcome State Fault Refusal :=
  run (0x80 ≤ opc w && opc w ≤ 0x8F && (match op with | .toLanes vd => vd < 128 | .fromLane va l => va < 128 && l < 32 | _ => true)) s
    (uniform c g w op b)

/-! ## LANE_EXCHANGE -/

/-- Two lanes' values combined by a reduction; the sum of FP32 values is open, since the spec gives it no order. -/
def laneCombine (op : LaneOp) (a b f : W32) : W32 :=
  match op with
  | .redAdd => a + b
  | .redMinS => intResult .minS a b f
  | .redMinU => intResult .minU a b f
  | .redMaxS => intResult .maxS a b f
  | .redMaxU => intResult .maxU a b f
  | .redAnd => a &&& b
  | .redOr => a ||| b
  | .redXor => a ^^^ b
  | .redFMin => fpPick false a b
  | .redFMax => fpPick true a b
  | _ => f

/-- The reduction of a nonempty list of values. -/
def laneReduce (op : LaneOp) (f : W32) : List W32 → W32
  | [] => f
  | a :: t => t.foldl (fun x y => laneCombine op x y f) a

/-- What an executing lane receives. -/
def laneResult (s : State) (k : Group) (w : W64) (op : LaneOp) (l : Nat) : W32 :=
  match op with
  | .shuffle =>
    let i := (getV k (fVB w) l).toNat
    if i < 32 then getV k (fVA w) i else freeLane s l
  | .broadcast n => getV k (fVA w) n
  | op => laneReduce op (freeLane s 0) ((lanesOf (guardLanes k w)).map (getV k (fVA w)))

/-- R134: a lane exchange. -/
def laneExchange (c g : Nat) (w : W64) (op : LaneOp) (s : State) : State :=
  issue s c g w (fun s =>
    let k := group s c g
    if op = .unassigned then some (illegal s c g 1)
    else if !(inAlloc k (fVD w) 1 && inAlloc k (fVA w) 1 && (op ≠ .shuffle || inAlloc k (fVB w) 1)) then some (illegal s c g 3)
    else some (retire (drawn s) c g (mapLanes k (lanesOf (guardLanes k w)) (fun k' l => setV k' (fVD w) l (laneResult s k w op l)))))

/-- Exec LANE_EXCHANGE. -/
def execLaneExchange (c g : Nat) (w : W64) (op : LaneOp) (s : State) : Host.Outcome State Fault Refusal :=
  run (0x90 ≤ opc w && opc w ≤ 0x9F && (match op with | .broadcast l => l < 32 | _ => true)) s (laneExchange c g w op)

end Sys2Proof.Machine
end

