-- ==== Sys2Proof/Machine/Dispatch.lean ====
section
/-! DEFINITION. One arm for each command of the table. -/
namespace Sys2Proof.Machine

/-- What a command does to everything but the queue of commands that wait. -/
def exec (i : Instr) (s : State) : Host.Outcome State Fault Refusal :=
  match i with
  | .vectorIntOp c g w op b => Sys2Proof.Machine.execVectorInt c g w op b s
  | .vectorFpOp c g w op p imm => Sys2Proof.Machine.execVectorFp c g w op p imm s
  | .cvt c g w src dst rnd us => Sys2Proof.Machine.execCvt c g w src dst rnd us s
  | .uniformOp c g w op b => Sys2Proof.Machine.execUniform c g w op b s
  | .laneExchange c g w op => Sys2Proof.Machine.execLaneExchange c g w op s
  | .ldl c g w => Sys2Proof.Machine.execLdl c g w s
  | .stl c g w => Sys2Proof.Machine.execStl c g w s
  | .ldd c g w => Sys2Proof.Machine.execLdd c g w s
  | .ldf c g w => Sys2Proof.Machine.execLdf c g w s
  | .ldfe c g w => Sys2Proof.Machine.execLdfe c g w s
  | .std c g w => Sys2Proof.Machine.execStd c g w s
  | .ste c g w => Sys2Proof.Machine.execSte c g w s
  | .stf c g w => Sys2Proof.Machine.execStf c g w s
  | .ldc c g w => Sys2Proof.Machine.execLdc c g w s
  | .atdFetchAdd c g w => Sys2Proof.Machine.execAtdFetchAdd c g w s
  | .atdCompareSwap c g w => Sys2Proof.Machine.execAtdCompareSwap c g w s
  | .redw c g w => Sys2Proof.Machine.execRedw c g w s
  | .redf c g w => Sys2Proof.Machine.execRedf c g w s
  | .redxMax c g w => Sys2Proof.Machine.execRedxMax c g w s
  | .redxMin c g w => Sys2Proof.Machine.execRedxMin c g w s
  | .stw c g w => Sys2Proof.Machine.execStw c g w s
  | .br c g w => Sys2Proof.Machine.execBr c g w s
  | .call c g w => Sys2Proof.Machine.execCall c g w s
  | .ret c g w => Sys2Proof.Machine.execRet c g w s
  | .exit c g w => Sys2Proof.Machine.execExit c g w s
  | .conv c g w => Sys2Proof.Machine.execConv c g w s
  | .mxi c g w => Sys2Proof.Machine.execMxi c g w s
  | .mxw c g w => Sys2Proof.Machine.execMxw c g w s
  | .cpd c g w => Sys2Proof.Machine.execCpd c g w s
  | .cpl c g w => Sys2Proof.Machine.execCpl c g w s
  | .flw c g w => Sys2Proof.Machine.execFlw c g w s
  | .fls c g w => Sys2Proof.Machine.execFls c g w s
  | .flc c g w => Sys2Proof.Machine.execFlc c g w s
  | .take c g w => Sys2Proof.Machine.execTake c g w s
  | .give c g w => Sys2Proof.Machine.execGive c g w s
  | .fenceL c g w => Sys2Proof.Machine.execFenceL c g w s
  | .fenceD c g w => Sys2Proof.Machine.execFenceD c g w s
  | .fenceF c g w => Sys2Proof.Machine.execFenceF c g w s
  | .invRo c g w => Sys2Proof.Machine.execInvRo c g w s
  | .dead c g w => Sys2Proof.Machine.execDead c g w s
  | .rdst c g w => Sys2Proof.Machine.execRdst c g w s
  | .clst c g w => Sys2Proof.Machine.execClst c g w s
  | .sfx c g w => Sys2Proof.Machine.execSfx c g w s
  | .tlu c g w => Sys2Proof.Machine.execTlu c g w s
  | .rowstatInit c g w => Sys2Proof.Machine.execRowstatInit c g w s
  | .rowstatMaxe c g w => Sys2Proof.Machine.execRowstatMaxe c g w s
  | .rowstatAcc c g w => Sys2Proof.Machine.execRowstatAcc c g w s
  | .rowstatCmb c g w => Sys2Proof.Machine.execRowstatCmb c g w s
  | .rowstatFin c g w => Sys2Proof.Machine.execRowstatFin c g w s
  | .flwTimeout c g => Sys2Proof.Machine.execFlwTimeout c g s
  | .feAccessTimeout c g => Sys2Proof.Machine.execFeAccessTimeout c g s
  | .flagWake c g => Sys2Proof.Machine.execFlagWake c g s
  | .cellGate c => Sys2Proof.Machine.execCellGate c s
  | .niLoadResponse id => Sys2Proof.Machine.execNiLoadResponse id s
  | .niWriteAck id => Sys2Proof.Machine.execNiWriteAck id s
  | .mxOpStart c => Sys2Proof.Machine.execMxOpStart c s
  | .mxHazardRelease c => Sys2Proof.Machine.execMxHazardRelease c s
  | .mxTileFillDone c pre => Sys2Proof.Machine.execMxTileFillDone c pre s
  | .mxBeat c stall => Sys2Proof.Machine.execMxBeat c stall s
  | .mxDrainRow c => Sys2Proof.Machine.execMxDrainRow c s
  | .mxOpComplete c => Sys2Proof.Machine.execMxOpComplete c s
  | .copyLineDone c => Sys2Proof.Machine.execCopyLineDone c s
  | .copyComplete c => Sys2Proof.Machine.execCopyComplete c s
  | .replay secure c g inv => Sys2Proof.Machine.execReplay secure c g inv s
  | .kill secure c g => Sys2Proof.Machine.execKill secure c g s
  | .roInvI secure c => Sys2Proof.Machine.execRoInvI secure c s
  | .roInvC secure c => Sys2Proof.Machine.execRoInvC secure c s
  | .roInvD secure c => Sys2Proof.Machine.execRoInvD secure c s
  | .mxCntClr secure c => Sys2Proof.Machine.execMxCntClr secure c s
  | .sfLoadGo secure b target lines off => Sys2Proof.Machine.execSfLoadGo secure b target lines off s
  | .sfLoadResume b => Sys2Proof.Machine.execSfLoadResume b s
  | .sfLoadLine b => Sys2Proof.Machine.execSfLoadLine b s
  | .reachArm secure b => Sys2Proof.Machine.execReachArm secure b s
  | .reachDisarm secure b => Sys2Proof.Machine.execReachDisarm secure b s
  | .reachAbort secure b => Sys2Proof.Machine.execReachAbort secure b s
  | .fpTake secure b => Sys2Proof.Machine.execFpTake secure b s
  | .reachClaim b => Sys2Proof.Machine.execReachClaim b s
  | .fpPeriodExpire b => Sys2Proof.Machine.execFpPeriodExpire b s
  | .reachLastGroupFree b => Sys2Proof.Machine.execReachLastGroupFree b s
  | .reachSettle b => Sys2Proof.Machine.execReachSettle b s
  | .flagSet secure r j => Sys2Proof.Machine.execFlagSet secure r j s
  | .flagClr secure r j => Sys2Proof.Machine.execFlagClr secure r j s
  | .partReset secure p => Sys2Proof.Machine.execPartReset secure p s
  | .partResetDone p => Sys2Proof.Machine.execPartResetDone p s
  | .cachePowerDown p => Sys2Proof.Machine.execCachePowerDown p s
  | .runEnter secure => Sys2Proof.Machine.execRunEnter secure s
  | .runLeave secure => Sys2Proof.Machine.execRunLeave secure s
  | .runDrained => Sys2Proof.Machine.execRunDrained s
  | .strobe secure groups bad => Sys2Proof.Machine.execStrobe secure groups bad s
  | .stagedApply k j m => Sys2Proof.Machine.execStagedApply k j m s
  | .reshadow secure k j => Sys2Proof.Machine.execReshadow secure k j s
  | .swinSwitchDone remap n => Sys2Proof.Machine.execSwinSwitchDone remap n s
  | .feWindowSwitchDone => Sys2Proof.Machine.execFeWindowSwitchDone s
  | .sliceRead id up => Sys2Proof.Machine.execSliceRead id up s
  | .sliceWrite id up => Sys2Proof.Machine.execSliceWrite id up s
  | .sliceAtd id up => Sys2Proof.Machine.execSliceAtd id up s
  | .addWContribution id up => Sys2Proof.Machine.execAddWContribution id up s
  | .addF32Contribution id up => Sys2Proof.Machine.execAddF32Contribution id up s
  | .maxMinContribution id up => Sys2Proof.Machine.execMaxMinContribution id up s
  | .deadHint id => Sys2Proof.Machine.execDeadHint id s
  | .sliceFillLanded sl l => Sys2Proof.Machine.execSliceFillLanded sl l s
  | .sliceWritebackDone sl l => Sys2Proof.Machine.execSliceWritebackDone sl l s
  | .bypassRetry sl l => Sys2Proof.Machine.execBypassRetry sl l s
  | .holdExpire sl l => Sys2Proof.Machine.execHoldExpire sl l s
  | .maintWb secure sl => Sys2Proof.Machine.execMaintWb secure sl s
  | .maintWbi secure sl => Sys2Proof.Machine.execMaintWbi secure sl s
  | .maintInvRemote secure sl => Sys2Proof.Machine.execMaintInvRemote secure sl s
  | .maintDone sl => Sys2Proof.Machine.execMaintDone sl s
  | .sliceLogClr secure sl => Sys2Proof.Machine.execSliceLogClr secure sl s
  | .errLogClr secure hbm j => Sys2Proof.Machine.execErrLogClr secure hbm j s
  | .hbmTempPoll b ok t => Sys2Proof.Machine.execHbmTempPoll b ok t s
  | .hbmCaParityErr sl l write retryOk => Sys2Proof.Machine.execHbmCaParityErr sl l write retryOk s
  | .hbmLaneParity b c out => Sys2Proof.Machine.execHbmLaneParity b c out s
  | .hbmPdnIdle b n => Sys2Proof.Machine.execHbmPdnIdle b n s
  | .hbmTrainDone codes => Sys2Proof.Machine.execHbmTrainDone codes s
  | .scourLine hbm j => Sys2Proof.Machine.execScourLine hbm j s
  | .scourPeriodEnd hbm b => Sys2Proof.Machine.execScourPeriodEnd hbm b s
  | .bucketLeak hbm j c => Sys2Proof.Machine.execBucketLeak hbm j c s
  | .bondWindowEnd sl => Sys2Proof.Machine.execBondWindowEnd sl s
  | .sliceRetireDone sl => Sys2Proof.Machine.execSliceRetireDone sl s
  | .chkGo secure n w => Sys2Proof.Machine.execChkGo secure n w s
  | .chkJobDone n => Sys2Proof.Machine.execChkJobDone n s
  | .qosGrant a => Sys2Proof.Machine.execQosGrant a s
  | .pwrLevelEval => Sys2Proof.Machine.execPwrLevelEval s
  | .pwrCurrentSample cur vin => Sys2Proof.Machine.execPwrCurrentSample cur vin s
  | .pwrWindow stack pkg ps => Sys2Proof.Machine.execPwrWindow stack pkg ps s
  | .railTargetReached r => Sys2Proof.Machine.execRailTargetReached r s
  | .regionAdmit => Sys2Proof.Machine.execRegionAdmit s
  | .regionRampStep r => Sys2Proof.Machine.execRegionRampStep r s
  | .regionRampDone r => Sys2Proof.Machine.execRegionRampDone r s
  | .regionClockRunning r => Sys2Proof.Machine.execRegionClockRunning r s
  | .regionRailOff r => Sys2Proof.Machine.execRegionRailOff r s
  | .regPhaseFail kind u => Sys2Proof.Machine.execRegPhaseFail kind u s
  | .lendComplete r => Sys2Proof.Machine.execLendComplete r s
  | .droopEvent r rise dip => Sys2Proof.Machine.execDroopEvent r rise dip s
  | .lwmClr secure r => Sys2Proof.Machine.execLwmClr secure r s
  | .pwrLogClr secure => Sys2Proof.Machine.execPwrLogClr secure s
  | .thermDemand secure hi m => Sys2Proof.Machine.execThermDemand secure hi m s
  | .thermReq => Sys2Proof.Machine.execThermReq s
  | .thermMeasureDone fault raw => Sys2Proof.Machine.execThermMeasureDone fault raw s
  | .orderlyStopComplete => Sys2Proof.Machine.execOrderlyStopComplete s
  | .staleLimitExpire c => Sys2Proof.Machine.execStaleLimitExpire c s
  | .thermRecheck r => Sys2Proof.Machine.execThermRecheck r s
  | .suspectHotWindowEnd sl => Sys2Proof.Machine.execSuspectHotWindowEnd sl s
  | .thermResume secure => Sys2Proof.Machine.execThermResume secure s
  | .bar2Read secure x n => Sys2Proof.Machine.execBar2Read secure x n s
  | .bar2Write secure x bytes en ep => Sys2Proof.Machine.execBar2Write secure x bytes en ep s
  | .regWrite secure off n v => Sys2Proof.Machine.execRegWrite secure off n v s
  | .mbxSelWrite h secure k j sel => Sys2Proof.Machine.execMbxSelWrite h secure k j sel s
  | .mbxCaptureDone h k j => Sys2Proof.Machine.execMbxCaptureDone h k j s
  | .mbxData3Read h secure k j => Sys2Proof.Machine.execMbxData3Read h secure k j s
  | .mbxAbort h secure k j => Sys2Proof.Machine.execMbxAbort h secure k j s
  | .evtCntWrite secure k j n v => Sys2Proof.Machine.execEvtCntWrite secure k j n v s
  | .functionLevelReset => Sys2Proof.Machine.execFunctionLevelReset s
  | .perstAssert => Sys2Proof.Machine.execPerstAssert s
  | .perstRelease addr lrev testen => Sys2Proof.Machine.execPerstRelease addr lrev testen s
  | .linkDown => Sys2Proof.Machine.execLinkDown s
  | .ircDeliver h => Sys2Proof.Machine.execIrcDeliver h s
  | .ircRaise h secure n => Sys2Proof.Machine.execIrcRaise h secure n s
  | .ircEoi h secure n => Sys2Proof.Machine.execIrcEoi h secure n s
  | .stackReset h secure => Sys2Proof.Machine.execStackReset h secure s
  | .srcCntWrite h secure n v => Sys2Proof.Machine.execSrcCntWrite h secure n v s
  | .bootGo secure => Sys2Proof.Machine.execBootGo secure s
  | .bootVerifyDone bad => Sys2Proof.Machine.execBootVerifyDone bad s
  | .attest secure => Sys2Proof.Machine.execAttest secure s
  | .fuseRevoke secure => Sys2Proof.Machine.execFuseRevoke secure s
  | .fuseSvn secure => Sys2Proof.Machine.execFuseSvn secure s
  | .fuseOemKey secure => Sys2Proof.Machine.execFuseOemKey secure s
  | .otpWrite secure => Sys2Proof.Machine.execOtpWrite secure s
  | .ideKm secure => Sys2Proof.Machine.execIdeKm secure s
  | .msgUnknownType secure t => Sys2Proof.Machine.execMsgUnknownType secure t s
  | .msgDone vpp reply keys => Sys2Proof.Machine.execMsgDone vpp reply keys s
  | .secLogClr secure => Sys2Proof.Machine.execSecLogClr secure s
  | .bringupComplete => Sys2Proof.Machine.execBringupComplete s
  | .recoveryDone => Sys2Proof.Machine.execRecoveryDone s
  | .bringupLimitExpire n => Sys2Proof.Machine.execBringupLimitExpire n s
  | .cellReset secure c => Sys2Proof.Machine.execCellReset secure c s
  | .blockReset secure b => Sys2Proof.Machine.execBlockReset secure b s
  | .regionReset secure r => Sys2Proof.Machine.execRegionReset secure r s
  | .chipReset secure key u => Sys2Proof.Machine.execChipReset secure key u s
  | .resetDrainDone => Sys2Proof.Machine.execResetDrainDone s
  | .drainLimitExpire => Sys2Proof.Machine.execDrainLimitExpire s
  | .selftestSubmit secure item t force hold => Sys2Proof.Machine.execSelftestSubmit secure item t force hold s
  | .selftestCancel secure item t => Sys2Proof.Machine.execSelftestCancel secure item t s
  | .selftestStart item t => Sys2Proof.Machine.execSelftestStart item t s
  | .selftestDone item t pass detail cells => Sys2Proof.Machine.execSelftestDone item t pass detail cells s
  | .ageingCheck r age => Sys2Proof.Machine.execAgeingCheck r age s
  | .backgroundItemRun j u => Sys2Proof.Machine.execBackgroundItemRun j u s
  | .cntClr secure every cls pg => Sys2Proof.Machine.execCntClr secure every cls pg s
  | .perfClearAll secure => Sys2Proof.Machine.execPerfClearAll secure s
  | .perfFreeze secure on => Sys2Proof.Machine.execPerfFreeze secure on s
  | .pcSample c obs => Sys2Proof.Machine.execPcSample c obs s
  | .traceMark secure d => Sys2Proof.Machine.execTraceMark secure d s
  | .traceDrainLine => Sys2Proof.Machine.execTraceDrainLine s
  | .traceRdPtrWrite secure v => Sys2Proof.Machine.execTraceRdPtrWrite secure v s
  | .gaugeFrame hbm => Sys2Proof.Machine.execGaugeFrame hbm s
  | .portSignalDetect p => Sys2Proof.Machine.execPortSignalDetect p s
  | .portRetryTimer p signal => Sys2Proof.Machine.execPortRetryTimer p signal s
  | .portTrainingDone p ok sw pp => Sys2Proof.Machine.execPortTrainingDone p ok sw pp s
  | .portLockLoss p => Sys2Proof.Machine.execPortLockLoss p s
  | .linkHoldExpire p => Sys2Proof.Machine.execLinkHoldExpire p s
  | .fabPacketReceived p bytes corr uncorr => Sys2Proof.Machine.execFabPacketReceived p bytes corr uncorr s
  | .lcpReceived p w => Sys2Proof.Machine.execLcpReceived p w s
  | .lcpTimer p => Sys2Proof.Machine.execLcpTimer p s
  | .replayTimeout p => Sys2Proof.Machine.execReplayTimeout p s
  | .fabRdReceived p => Sys2Proof.Machine.execFabRdReceived p s
  | .fabWrReceived p => Sys2Proof.Machine.execFabWrReceived p s
  | .fabRedReceived p => Sys2Proof.Machine.execFabRedReceived p s
  | .fabFlagReceived p => Sys2Proof.Machine.execFabFlagReceived p s
  | .fabAtomReceived p => Sys2Proof.Machine.execFabAtomReceived p s
  | .fabResponseReceived p => Sys2Proof.Machine.execFabResponseReceived p s
  | .hello p h => Sys2Proof.Machine.execHello p h s
  | .authChal p => Sys2Proof.Machine.execAuthChal p s
  | .authResp p k sig => Sys2Proof.Machine.execAuthResp p k sig s
  | .authFin p => Sys2Proof.Machine.execAuthFin p s
  | .authAbort p code => Sys2Proof.Machine.execAuthAbort p code s
  | .reachAdd p rs => Sys2Proof.Machine.execReachAdd p rs s
  | .reachDel p rs => Sys2Proof.Machine.execReachDel p rs s
  | .reachSync p ends => Sys2Proof.Machine.execReachSync p ends s
  | .ping p v => Sys2Proof.Machine.execPing p v s
  | .pong p v => Sys2Proof.Machine.execPong p v s
  | .fabCompletionTimeout id => Sys2Proof.Machine.execFabCompletionTimeout id s
  | .tagReleaseTimeout t => Sys2Proof.Machine.execTagReleaseTimeout t s
  | .flowSwitchoverTimeout key => Sys2Proof.Machine.execFlowSwitchoverTimeout key s
  | .topoSettleExpire => Sys2Proof.Machine.execTopoSettleExpire s
  | .evtPop secure n => Sys2Proof.Machine.execEvtPop secure n s
  | .refclkCoreLoss => Sys2Proof.Machine.execRefclkCoreLoss s
  | .supplyFault base => Sys2Proof.Machine.execSupplyFault base s
  | .sidebandRead addr off n => Sys2Proof.Machine.execSidebandRead addr off n s
  | .sidebandDemand addr off v => Sys2Proof.Machine.execSidebandDemand addr off v s
  | .sidebandRefresh => Sys2Proof.Machine.execSidebandRefresh s
  | .tapInstructionLoad j => Sys2Proof.Machine.execTapInstructionLoad j s
  | .tapReset => Sys2Proof.Machine.execTapReset s
  | .linkUp => Sys2Proof.Machine.execLinkUp s
  | .configSpaceWrite off v => Sys2Proof.Machine.execConfigSpaceWrite off v s
  | .bar0Read secure off n => Sys2Proof.Machine.execBar0Read secure off n s
  | .quickSelfTestDone faults => Sys2Proof.Machine.execQuickSelfTestDone faults s
  | .ideStreamLeavesSecure => Sys2Proof.Machine.execIdeStreamLeavesSecure s

end Sys2Proof.Machine
end

