-- ==== Sys2Proof/WellFormed.lean ====
section
/-! DEFINITION. Which commands are well formed: their operands name units, offsets and widths that the spec defines, and an
instruction's word is one that its row of the table names. A command that is not well formed finds nothing to act on (log entry 7). -/
namespace Sys2Proof

open Sys2Proof.Machine (bitsN bitN opcodeRow)

/-- Logical regions of a part (R1, R3). -/
def regionCount : Part → Nat
  | .ek810 => 32
  | .ek806 => 30

/-- Pages of a kind on a part (R585, R587). -/
def pageCount (p : Part) : PageKind → Nat
  | .chk => 16
  | .port => 24
  | .hbm => 8
  | .band => 8
  | .slice => 128
  | .region => regionCount p
  | .block => 6 * regionCount p
  | .cell => 45 * regionCount p
  | _ => 1

/-- The opcode field of an instruction word (R133), and its bits [hi:lo]. -/
def wordOp (w : W64) : Nat := bitsN w.toNat 63 56
def wordBits (w : W64) (hi lo : Nat) : Nat := bitsN w.toNat hi lo

/-- A word of opcode `op`. -/
def wfOp (w : W64) (op : Nat) : Bool := wordOp w == op
/-- A word of opcode `op` whose bits [hi:lo] are `v`. -/
def wfSub (w : W64) (op hi lo v : Nat) : Bool := wordOp w == op && wordBits w hi lo == v
/-- A load or store word in an ordinary form: MOD [4:3] is 0, or the value that the full/empty forms leave (R135, R241). -/
def wfPlain (w : W64) (op : Nat) : Bool := wordOp w == op && (wordBits w 28 27 == 0 || wordBits w 28 27 == 3)

/-- The bits of a word that are 1. -/
def onesOf (n w : Nat) : Nat := (List.range n).countP (fun i => w / 2 ^ i % 2 == 1)
/-- An upset flips one or two bits of a word of a line: what the (72,64) code is there to catch (R369). -/
def wfUpset : Upset → Bool
  | .none => true
  | .link w d c => w < 32 && onesOf 64 d.toNat + onesOf 8 c.toNat ≤ 2
  | .mesh w d c => w < 32 && onesOf 64 d.toNat + onesOf 8 c.toNat ≤ 2

/-- Ranges of a REACH message (R355). -/
def wfRanges (rs : List (Nat × Nat)) : Bool := rs.length ≤ 32 && rs.all (fun r => r.1 ≤ r.2 && r.2 < 65536)

/-- A comparison of the vector floating-point class. -/
def isFpCompare : FpOp → Bool
  | .cmpEq => true
  | .cmpNe => true
  | .cmpLt => true
  | .cmpLe => true
  | _ => false

/-- The unit of a background activity (R557, R562): 0 SENSE_OFFSET, 1 REG_TRIM of a region, 2 SERDES_ADAPT of a port, 3 CLK_TRIM of a
clock island. -/
def wfItem (p : Part) (i u : Nat) : Bool :=
  match i with
  | 0 => true
  | 1 => u < regionCount p
  | 2 => u < 24
  | 3 => u < 60
  | _ => false

/-- The message types of R538. -/
def namedMsg (t : Nat) : Bool := t == 1 || (0x10 ≤ t && t ≤ 0x13) || t == 0x20

/-- Well-formed commands of a part. -/
def Instr.wf (p : Part) : Instr → Bool
  -- Instructions.
  -- An opcode that no row carries is given here with operation `unassigned` (R134).
  | .vectorIntOp _ _ w op _ => wordOp w ≤ 0x3F || (op = .unassigned && !opcodeRow (wordOp w))
  | .vectorFpOp _ _ w op pk imm => 0x40 ≤ wordOp w && wordOp w ≤ 0x7F && !(op = .fma && imm) && (!isFpCompare op || pk = .fp32)
  | .cvt _ _ w _ _ rnd us => 0x40 ≤ wordOp w && wordOp w ≤ 0x7F && rnd < 4 && us < 32
  | .uniformOp _ _ w op _ => 0x80 ≤ wordOp w && wordOp w ≤ 0x8F
      && (match op with | .toLanes vd => vd < 128 | .fromLane va l => va < 128 && l < 32 | _ => true)
  | .laneExchange _ _ w op => 0x90 ≤ wordOp w && wordOp w ≤ 0x9F && (match op with | .broadcast l => l < 32 | _ => true)
  | .ldl _ _ w => wfOp w 0xA0
  | .stl _ _ w => wfOp w 0xA1
  | .ldd _ _ w => wfPlain w 0xA2
  | .ldf _ _ w => wfSub w 0xA2 28 27 1
  | .ldfe _ _ w => wfSub w 0xA2 28 27 2
  | .std _ _ w => wfPlain w 0xA3
  | .ste _ _ w => wfSub w 0xA3 28 27 1
  | .stf _ _ w => wfSub w 0xA3 28 27 2
  | .ldc _ _ w => wfOp w 0xA4
  | .atdFetchAdd _ _ w => wfSub w 0xA5 26 26 0
  | .atdCompareSwap _ _ w => wfSub w 0xA5 26 26 1
  | .redw _ _ w => wfOp w 0xA6
  | .redf _ _ w => wfOp w 0xA7
  | .redxMax _ _ w => wfSub w 0xA8 26 26 0
  | .redxMin _ _ w => wfSub w 0xA8 26 26 1
  | .stw _ _ w => wfOp w 0xA9
  | .br _ _ w => wfOp w 0xC0
  | .call _ _ w => wfOp w 0xC1
  | .ret _ _ w => wfOp w 0xC2
  | .exit _ _ w => wfOp w 0xC3
  | .conv _ _ w => wfOp w 0xC4
  | .mxi _ _ w => wfOp w 0xC8
  | .mxw _ _ w => wfOp w 0xC9
  | .cpd _ _ w => wfOp w 0xCA
  | .cpl _ _ w => wfOp w 0xCB
  | .flw _ _ w => wfOp w 0xD0
  | .fls _ _ w => wfOp w 0xD1
  | .flc _ _ w => wfOp w 0xD2
  | .take _ _ w => wfOp w 0xD4
  | .give _ _ w => wfOp w 0xD5
  | .fenceL _ _ w => wfSub w 0xD8 51 50 0
  | .fenceD _ _ w => wfSub w 0xD8 51 50 1
  | .fenceF _ _ w => wordOp w == 0xD8 && 2 ≤ wordBits w 51 50
  | .invRo _ _ w => wfOp w 0xD9
  | .dead _ _ w => wfOp w 0xDA
  | .rdst _ _ w => wfOp w 0xDC
  | .clst _ _ w => wfOp w 0xDD
  | .sfx _ _ w => wfOp w 0xB0
  | .tlu _ _ w => wfOp w 0xB1
  | .rowstatInit _ _ w => wfSub w 0xB2 51 49 0
  | .rowstatMaxe _ _ w => wfSub w 0xB2 51 49 1
  | .rowstatAcc _ _ w => wfSub w 0xB2 51 49 2
  | .rowstatCmb _ _ w => wfSub w 0xB2 51 49 3
  | .rowstatFin _ _ w => wordOp w == 0xB2 && 4 ≤ wordBits w 51 49
  -- Events of a cell.
  | .flwTimeout c g => c < pageCount p .cell && g < 16
  | .feAccessTimeout c g => c < pageCount p .cell && g < 16
  | .flagWake c g => c < pageCount p .cell && g < 16
  | .cellGate c => c < pageCount p .cell
  | .niLoadResponse _ => true
  | .niWriteAck _ => true
  | .mxOpStart c => c < pageCount p .cell
  | .mxHazardRelease c => c < pageCount p .cell
  | .mxTileFillDone c _ => c < pageCount p .cell
  | .mxBeat c stall => c < pageCount p .cell && (stall == 0 || stall == 1 || stall == 4)
  | .mxDrainRow c => c < pageCount p .cell
  | .mxOpComplete c => c < pageCount p .cell
  | .copyLineDone c => c < pageCount p .cell
  | .copyComplete c => c < pageCount p .cell
  -- Commands to a cell and a block.
  | .replay _ c g _ => c < 1440 && g < 16
  | .kill _ c g => c < 1440 && g < 16
  | .roInvI _ c => c < 1440
  | .roInvC _ c => c < 1440
  | .roInvD _ c => c < 1440
  | .mxCntClr _ c => c < 1440
  | .sfLoadGo _ b target lines off => b < 192 && target < 4 && lines < 256 && off < 256
  | .sfLoadResume b => b < pageCount p .block
  | .sfLoadLine b => b < pageCount p .block
  -- Reaches, flags, partitions and RUN.
  | .reachArm _ b => b < 192
  | .reachDisarm _ b => b < 192
  | .reachAbort _ b => b < 192
  | .fpTake _ b => b < 192
  | .reachClaim b => b < pageCount p .block
  | .fpPeriodExpire b => b < pageCount p .block
  | .reachLastGroupFree b => b < pageCount p .block
  | .reachSettle b => b < pageCount p .block
  | .flagSet _ r i => r < 32 && i < 4096
  | .flagClr _ r i => r < 32 && i < 4096
  | .partReset _ x => x < 8
  | .partResetDone x => x < 8
  | .cachePowerDown x => x < 8
  | .runEnter _ => true
  | .runLeave _ => true
  | .runDrained => true
  -- Shadow registers and switches of placement.
  | .strobe _ groups bad => groups < 65536 && bad.all (fun x => x.2 < 4096)
  | .stagedApply k i m => i < pageCount p k && (match m with | some (_, off) => off < 4096 && off % 4 == 0 | none => true)
  | .reshadow _ _ i => i < 1440
  | .swinSwitchDone remap n => if remap then n < 128 else n < 32
  | .feWindowSwitchDone => true
  -- The cache die, the HBM and integrity.
  | .sliceRead _ up => wfUpset up
  | .sliceWrite _ up => wfUpset up
  | .sliceAtd _ up => wfUpset up
  | .addWContribution _ up => wfUpset up
  | .addF32Contribution _ up => wfUpset up
  | .maxMinContribution _ up => wfUpset up
  | .deadHint _ => true
  | .sliceFillLanded sl _ => sl < 128
  | .sliceWritebackDone sl _ => sl < 128
  | .bypassRetry sl _ => sl < 128
  | .holdExpire sl _ => sl < 128
  | .maintWb _ sl => sl < 128
  | .maintWbi _ sl => sl < 128
  | .maintInvRemote _ sl => sl < 128
  | .maintDone sl => sl < 128
  | .sliceLogClr _ sl => sl < 128
  | .errLogClr _ hbm i => if hbm then i < 8 else i < 128
  | .hbmTempPoll b _ t => b < 8 && -128 ≤ t && t ≤ 127
  | .hbmCaParityErr sl _ _ _ => sl < 128
  | .hbmLaneParity b c _ => b < 8 && c < 16
  | .hbmPdnIdle b n => b < 8 && n < 32
  | .hbmTrainDone codes => codes.length == 8 && codes.all (fun c => 1 ≤ c && c ≤ 5)
  | .scourLine _ i => i < 128
  | .scourPeriodEnd _ b => b < 8
  | .bucketLeak hbm i c => if hbm then i < 8 && c < 16 else i < 128 && c = 0
  | .bondWindowEnd sl => sl < 128
  | .sliceRetireDone sl => sl < 128
  | .chkGo _ n _ => n < 16
  | .chkJobDone n => n < 16
  -- Arbitration.
  | .qosGrant a => (match a with | .slice sl _ => sl < 128 | .hbm o sl _ _ => o < 128 && sl < 128 | .port x _ => x < 24)
  -- Power.
  | .pwrLevelEval => true
  | .pwrCurrentSample cur _ => cur.length == regionCount p
  | .pwrWindow _ _ ps => ps.length == regionCount p
  | .railTargetReached r => r < regionCount p
  | .regionAdmit => true
  | .regionRampStep r => r < regionCount p
  | .regionRampDone r => r < regionCount p
  | .regionClockRunning r => r < regionCount p
  | .regionRailOff r => r < regionCount p
  | .regPhaseFail kind u => kind ≤ 2 && (if kind = 2 then u < 8 else u < regionCount p)
  | .lendComplete r => r < regionCount p
  | .droopEvent r rise _ => r < regionCount p && 0 < rise
  | .lwmClr _ r => r < 32
  | .pwrLogClr _ => true
  -- Temperature.
  | .thermDemand _ _ _ => true
  | .thermReq => true
  | .thermMeasureDone _ raw => -32768 ≤ raw && raw ≤ 32767
  | .orderlyStopComplete => true
  | .staleLimitExpire c => c < 46
  | .thermRecheck r => r < regionCount p
  | .suspectHotWindowEnd sl => sl < 128
  | .thermResume _ => true
  -- The PCI Express function.
  | .bar2Read _ x n => 0 < n && n ≤ 4096 && x + n ≤ 2 ^ 28
  | .bar2Write _ x bytes en _ => x < 2 ^ 28 && 0 < bytes.length && bytes.length ≤ 256 && x + bytes.length ≤ 2 ^ 28 && en.length == bytes.length
  | .regWrite _ off n _ => off < 2 ^ 24 && 0 < n && n ≤ 4096
  | .mbxSelWrite _ _ _ i _ => i < 1440
  | .mbxCaptureDone _ k i => i < pageCount p k
  | .mbxData3Read _ _ _ i => i < 1440
  | .mbxAbort _ _ _ i => i < 1440
  | .evtCntWrite _ _ i n _ => i < 1440 && n < 4
  | .functionLevelReset => true
  | .perstAssert => true
  | .perstRelease addr _ _ => addr < 4
  | .linkDown => true
  -- Interrupts.
  | .ircDeliver _ => true
  | .ircRaise _ _ n => n < 128
  | .ircEoi _ _ n => n < 128
  | .stackReset _ _ => true
  | .srcCntWrite _ _ n _ => n < 32
  -- Boot and messages.
  | .bootGo _ => true
  | .bootVerifyDone _ => true
  | .attest _ => true
  | .fuseRevoke _ => true
  | .fuseSvn _ => true
  | .fuseOemKey _ => true
  | .otpWrite _ => true
  | .ideKm _ => true
  | .msgUnknownType _ t => t < 256 && !namedMsg t
  | .msgDone _ reply _ => reply.length < 4096
  | .secLogClr _ => true
  -- Bring-up, resets and background work.
  | .bringupComplete => true
  | .recoveryDone => true
  | .bringupLimitExpire n => n == 9 || n == 10
  | .cellReset _ c => c < 65536
  | .blockReset _ b => b < 65536
  | .regionReset _ r => r < 65536
  | .chipReset _ key u => key < 256 && u < 65536
  | .resetDrainDone => true
  | .drainLimitExpire => true
  | .selftestSubmit _ item t _ _ => item < 256 && t < 65536
  | .selftestCancel _ item t => item < 256 && t < 65536
  | .selftestStart item t => item < 256 && t < 65536
  | .selftestDone item t _ detail cells => item < 256 && t < 65536 && detail < 2 ^ 32 && cells.all (fun c => c < pageCount p .cell)
  | .ageingCheck r age => r < regionCount p && age < 65536
  | .backgroundItemRun i u => wfItem p i u
  -- Observation.
  | .cntClr _ _ cls pg => cls < 8 && pg < 4096
  | .perfClearAll _ => true
  | .perfFreeze _ _ => true
  | .pcSample c obs => c < pageCount p .cell && (obs == 0 || obs == 2 || (7 ≤ obs && obs < 16))
  | .traceMark _ _ => true
  | .traceDrainLine => true
  | .traceRdPtrWrite _ _ => true
  | .gaugeFrame hbm => hbm.length == 8
  -- The fabric.
  | .portSignalDetect x => x < 24
  | .portRetryTimer x _ => x < 24
  | .portTrainingDone x _ _ pp => x < 24 && pp < 256
  | .portLockLoss x => x < 24
  | .linkHoldExpire x => x < 24
  | .fabPacketReceived x bytes _ _ => x < 24 && bytes.length ≤ 320
  | .lcpReceived x _ => x < 24
  | .lcpTimer x => x < 24
  | .replayTimeout x => x < 24
  | .fabRdReceived x => x < 24
  | .fabWrReceived x => x < 24
  | .fabRedReceived x => x < 24
  | .fabFlagReceived x => x < 24
  | .fabAtomReceived x => x < 24
  | .fabResponseReceived x => x < 24
  | .hello x h => x < 24 && h.port < 256 && h.eid < 65535 && h.credits.length == 4
  | .authChal x => x < 24
  | .authResp x k sig => x < 24 && k.ns.length == 32 && k.es.length == 64 && k.key.length == 64 && sig.length == 64
  | .authFin x => x < 24
  | .authAbort x code => x < 24 && code < 256
  | .reachAdd x rs => x < 24 && wfRanges rs
  | .reachDel x rs => x < 24 && wfRanges rs
  | .reachSync x _ => x < 24
  | .ping x _ => x < 24
  | .pong x _ => x < 24
  | .fabCompletionTimeout _ => true
  | .tagReleaseTimeout t => t < 32768
  | .flowSwitchoverTimeout _ => true
  | .topoSettleExpire => true
  | .evtPop _ n => n < 64
  -- Package.
  | .refclkCoreLoss => true
  | .supplyFault _ => true
  | .sidebandRead addr off n => addr < 128 && off < 256 && 1 ≤ n && n ≤ 16
  | .sidebandDemand addr off v => addr < 128 && off < 256 && v < 256
  | .sidebandRefresh => true
  | .tapInstructionLoad _ => true
  | .tapReset => true
  -- The rest of the table.
  | .linkUp => true
  | .configSpaceWrite off _ => off < 4096 && off % 4 == 0
  | .bar0Read _ off n => off < 2 ^ 24 && 0 < n && n ≤ 4096
  | .quickSelfTestDone faults => faults.length ≤ 128
  | .ideStreamLeavesSecure => true

end Sys2Proof
end

