-- ==== Sys2Proof/Safety.lean ====
section
/-! DEFINITION. What counts as a safe run, and the conditions in whose terms the statements about commands are made. -/
namespace Sys2Proof.Machine

/-- Every waiting command is well formed for the part. -/
def queueOk (s : State) : Bool := s.pending.all (Instr.wf s.part)

/-- An outcome that goes on. -/
def goesOn (o : Host.Outcome State Fault Refusal) : Prop := ∃ t, o = .next t

/-- No page is frozen by an active parity mismatch (R495). -/
def thawed (s : State) : Bool := s.pages.all (fun x => !bitN (mget 0 x.2.act o_COMMON_PAGE_STATUS).toNat 31)

/-- The memory is in its canonical form. -/
def memOk (s : State) : Bool := Memory.wf s.hbm.mem

/-- A group is ready to issue the word `w` (R130): no unit is held in reset, the cell may issue, and the instruction cache
gives the word at the group's PC. -/
abbrev ready (s : State) (c g : Nat) (w : W64) : Prop := inReset s = false ∧ canIssue s c g = true ∧ fetch s c g = (s, some w)

/-- The lane executes the instruction (R133): it is active and its guard is true. -/
def executes (s : State) (c g : Nat) (w : W64) (l : Nat) : Bool := bitN (guardLanes (group s c g) w).toNat l

/-- Host software's command reaches a unit (R435, R482, R486, R499, R607): the link is up and its clock runs, no earlier BAR2
write is outstanding, the part has the page, a secure-only page is reached by a secure request, and the unit is powered. -/
abbrev reaches (s : State) (secure : Bool) (k : PageKind) (i : Nat) : Prop :=
  inReset s = false ∧ s.link.up = true ∧ s.pkg.noClock = false ∧ barReady s = true ∧ present s k i = true
    ∧ (kindSecure k = true → hostSecure s secure = true) ∧ unitOn s k i = true

/-- Host software wants every region that is ON, so that none of them stops (R433). -/
abbrev allWanted (s : State) : Prop := ∀ r, r < 32 → regionOn s r = true → flag s .pwr 0 (f_PWR_REG_REQ_POWER r) = true

/-- The executing lanes of a device access of `n` bytes are aligned, all admitted to HBM without an event (R304, R520) and hit no
watchpoint of its kinds (R574). -/
abbrev deviceOk (s : State) (c g : Nat) (w : W64) (n kinds : Nat) (rd wr : Bool) : Prop :=
  (∀ x ∈ laneAddrs (group s c g) w false, x.2 % n = 0 ∧
    cellEntry s c (cellLabel s (group s c g).label) x.2 rd wr = (s, .hbm)) ∧
  watchLanes s c g kinds n (laneAddrs (group s c g) w false) = (s, [])

/-- The state once request `id` has left those that wait for their slices. -/
abbrev takenOff (s : State) (id : Nat) : State := { s with reqs := s.reqs.filter (fun x => x.id != id) }

/-- The granted request `q` of number `id` finds its line in way `key` of slice `sl`, alive and with sound words, while nothing holds
the line and no flip mask is armed (R287, R390). -/
abbrev hitsWay (s : State) (id : Nat) (q : Req) (sl key : Nat) : Prop :=
  inReset s = false ∧ nextReq s id = some q ∧ lineHeld (takenOff s id) q.line = false ∧ feLine s q.line = none ∧ sl = (placeOf s q.line).slice
    ∧ lineKey s sl (placeOf s q.line).set q.line = some key ∧ (wayAt s sl key).dead = false ∧ (wayAt s sl key).body.syn = []
    ∧ flag s .slice sl f_SLICE_FLIP_CTRL_ARM = false

/-- Line `l` sits in way `key` of slice `sl`, alive and with sound words; nothing holds it, neither a fetch nor a writeback of it is under way, no
flip mask is armed, and no other request waits for the slice (R287, R390, R410). -/
abbrev sits (s : State) (l sl key : Nat) : Prop :=
  lineHeld s l = false ∧ feLine s l = none ∧ sl = (placeOf s l).slice ∧ lineKey s sl (placeOf s l).set l = some key
    ∧ (wayAt s sl key).dead = false ∧ (wayAt s sl key).body.syn = [] ∧ flag s .slice sl f_SLICE_FLIP_CTRL_ARM = false ∧ missOf s sl l = none
    ∧ (slice s sl).wbs.any (fun x => x.line == l) = false ∧ ∀ x ∈ s.reqs, (placeOf s x.line).slice ≠ sl

end Sys2Proof.Machine
end

