-- ==== Sys2Proof/Certificates/Slice0/Obligations.lean ====
section
/-! DEFINITION. The statements for the provers, one `Obligations.<Name>` each. -/

open Sys2Proof Sys2Proof.Machine

/-! ## Vector, uniform and lane-exchange instructions (chapter 04) -/

/-- R126, R127, R133, R134: a vector integer instruction of a ready group whose registers lie within its allocation writes VD, or
for a compare its predicate, in each executing lane and nothing else of the group but the PC. -/
def Obligations.VectorIntLanes : Prop :=
  ∀ (s : State) (c g : Nat) (w : W64) (op : IntOp) (b : Second),
    ready s c g w → opc w ≤ 0x3F → op ≠ .unassigned → inAlloc (group s c g) (fVD w) 1 = true →
    inAlloc (group s c g) (fVA w) 1 = true → (b = .reg → inAlloc (group s c g) (fVB w) 1 = true) →
    ∃ k : Group,
      exec (.vectorIntOp c g w op b) s = .next (pmc (setGroup (drawn s) c g k) c 2 1) ∧
      k = { group s c g with v := k.v, p := k.p, pc := ((group s c g).pc + 8) % 2 ^ 48, skipWatch := [] } ∧
      (∀ r l, l < 32 → getV k r l =
        if r = fVD w ∧ executes s c g w l = true ∧ intCompare op 0 0 = none then
          intResult op (getV (group s c g) (fVA w) l) (if b = .reg then getV (group s c g) (fVB w) l else BitVec.ofNat 32 (fIMM w)) (freeLane s l)
        else getV (group s c g) r l) ∧
      (∀ r l, l < 32 → bitN (getP k r).toNat l =
        if r ≠ 0 ∧ r = cmpPred w (b != .reg) ∧ executes s c g w l = true ∧ intCompare op 0 0 ≠ none then
          intCompare op (getV (group s c g) (fVA w) l) (if b = .reg then getV (group s c g) (fVB w) l else BitVec.ofNat 32 (fIMM w)) == some true
        else bitN (getP (group s c g) r).toNat l)

/-- R55, R126, R127, R131, R133: a vector floating-point instruction of a ready group. An FP32 form gives the FP32 result;
a packed form computes each element in FP32 and rounds once; a compare writes its predicate. -/
def Obligations.VectorFpLanes : Prop :=
  ∀ (s : State) (c g : Nat) (w : W64) (op : FpOp) (p : Pack) (imm : Bool),
    ready s c g w → 0x40 ≤ opc w → opc w ≤ 0x7F → op ≠ .unassigned → (op = .fma → imm = false) →
    (fpCompare op 0 0 ≠ none → p = .fp32) →
    inAlloc (group s c g) (fVD w) 1 = true → inAlloc (group s c g) (fVA w) 1 = true →
    (imm = false → inAlloc (group s c g) (fVB w) 1 = true) → (op = .fma → inAlloc (group s c g) (fVC w) 1 = true) →
    ∃ k : Group,
      exec (.vectorFpOp c g w op p imm) s = .next (pmc (setGroup (drawn s) c g k) c 2 1) ∧
      k = { group s c g with v := k.v, p := k.p, pc := ((group s c g).pc + 8) % 2 ^ 48, skipWatch := [] } ∧
      (∀ r l, l < 32 → getV k r l =
        if r = fVD w ∧ executes s c g w l = true ∧ fpCompare op 0 0 = none then
          let x := getV (group s c g) (fVA w) l
          let y := if imm then BitVec.ofNat 32 (fIMM w) else getV (group s c g) (fVB w) l
          let z := if imm then 0 else getV (group s c g) (fVC w) l
          if p = .fp32 then fpResult op x y z (freeLane s l)
          else BitVec.ofNat 32 (packN (fmtWidth (packFmt p)) (fun i =>
            (encVal (packFmt p) .rne (f32 (fpResult op (elemF32 (packFmt p) x i) (elemF32 (packFmt p) y i) (elemF32 (packFmt p) z i) (freeLane s l)))).1)
            (packCount p))
        else getV (group s c g) r l) ∧
      (∀ r l, l < 32 → bitN (getP k r).toNat l =
        if r ≠ 0 ∧ r = cmpPred w imm ∧ executes s c g w l = true ∧ fpCompare op 0 0 ≠ none then
          fpCompare op (getV (group s c g) (fVA w) l) (if imm then BitVec.ofNat 32 (fIMM w) else getV (group s c g) (fVB w) l) == some true
        else bitN (getP (group s c g) r).toNat l)

/-- R53, R64, R79, R133: CVT of a ready group to an unscaled format encodes each executing lane's value in the low bits of VD and
collects the numeric status in GSTAT. -/
def Sys2Proof.Claims.CvtScalar : Prop :=
  ∀ (s : State) (c g : Nat) (w : W64) (src dst : CvtFmt) (rnd us : Nat),
    ready s c g w → 0x40 ≤ opc w → opc w ≤ 0x7F → rnd < 4 → us < 32 → dst ≠ .wide → cvtBlock dst = false →
    inAlloc (group s c g) (fVD w) 1 = true → inAlloc (group s c g) (fVA w) (if src = .wide then 4 else 1) = true →
    guardLanes (group s c g) w ≠ 0 →
    ∃ k : Group,
      exec (.cvt c g w src dst rnd us) s = .next (pmc (setGroup (drawn s) c g k) c 2 1) ∧
      k = { group s c g with v := k.v, gstat := k.gstat, pc := ((group s c g).pc + 8) % 2 ^ 48, skipWatch := [] } ∧
      (∀ r l, l < 32 → (r = fVD w ∧ executes s c g w l = true →
          (getV k r l).toNat % 2 ^ fmtWidth (cvtElem dst) =
            (encVal (cvtElem dst) (rndOf rnd) (cvtSource (group s c g) src (fVA w) us l)).1 % 2 ^ fmtWidth (cvtElem dst)) ∧
        (¬(r = fVD w ∧ executes s c g w l = true) → getV k r l = getV (group s c g) r l)) ∧
      (∀ i, i < 64 → bitN k.gstat.toNat i = (bitN (group s c g).gstat.toNat i ||
        (List.range 32).any (fun l => executes s c g w l && bitN (encVal (cvtElem dst) (rndOf rnd) (cvtSource (group s c g) src (fVA w) us l)).2 i)))

/-- R127, R133, R134: a uniform instruction of a ready group with a lane that executes. A write of u0 has no effect. -/
def Sys2Proof.Claims.UniformResult : Prop :=
  ∀ (s : State) (c g : Nat) (w : W64) (op : UniOp) (b : Second),
    ready s c g w → 0x80 ≤ opc w → opc w ≤ 0x8F → op ≠ .unassigned → guardLanes (group s c g) w ≠ 0 →
    (∀ vd, op = .toLanes vd → vd < 128 ∧ inAlloc (group s c g) vd 1 = true) →
    (∀ va l, op = .fromLane va l → va < 128 ∧ l < 32 ∧ inAlloc (group s c g) va 1 = true) →
    ∃ k : Group,
      exec (.uniformOp c g w op b) s = .next (pmc (setGroup (drawn s) c g k) c 2 1) ∧
      k = { group s c g with v := k.v, u := k.u, pc := ((group s c g).pc + 8) % 2 ^ 48, skipWatch := [] } ∧
      (∀ r, r ≠ fUD w ∨ r = 0 → getU k r = getU (group s c g) r) ∧
      (∀ vd, op = .toLanes vd → k.u = (group s c g).u ∧ ∀ r l, l < 32 → getV k r l =
        if r = vd ∧ executes s c g w l = true then (getU (group s c g) (fUA w)).setWidth 32 else getV (group s c g) r l) ∧
      (∀ va l, op = .fromLane va l → fUD w ≠ 0 → k.v = (group s c g).v ∧ (getU k (fUD w)).setWidth 32 = getV (group s c g) va l) ∧
      ((∀ vd, op ≠ .toLanes vd) → (∀ va l, op ≠ .fromLane va l) → fUD w ≠ 0 → k.v = (group s c g).v ∧
        getU k (fUD w) = uniResult op (getU (group s c g) (fUA w)) (uniSecond (group s c g) w b) (BitVec.ofNat 64 (freeU s)))

/-- Both of CvtScalar and UniformResult: see the claims above. -/
def Obligations.UniformAndConvert : Prop := Sys2Proof.Claims.CvtScalar ∧ Sys2Proof.Claims.UniformResult

/-- R126, R133, R134: a lane exchange of a ready group: a shuffle takes the lane that VB names, a broadcast one lane, an add or an
OR reduction combines the executing lanes; every form goes on, and other lanes and registers are unchanged. -/
def Obligations.LaneExchangeLanes : Prop :=
  ∀ (s : State) (c g : Nat) (w : W64) (op : LaneOp),
    ready s c g w → 0x90 ≤ opc w → opc w ≤ 0x9F → op ≠ .unassigned → (∀ l, op = .broadcast l → l < 32) →
    inAlloc (group s c g) (fVD w) 1 = true → inAlloc (group s c g) (fVA w) 1 = true →
    (op = .shuffle → inAlloc (group s c g) (fVB w) 1 = true) →
    ∃ k : Group,
      exec (.laneExchange c g w op) s = .next (pmc (setGroup (drawn s) c g k) c 2 1) ∧
      k = { group s c g with v := k.v, pc := ((group s c g).pc + 8) % 2 ^ 48, skipWatch := [] } ∧
      (∀ r l, l < 32 → ¬(r = fVD w ∧ executes s c g w l = true) → getV k r l = getV (group s c g) r l) ∧
      (∀ l, l < 32 → executes s c g w l = true →
        (op = .shuffle → (getV (group s c g) (fVB w) l).toNat < 32 →
          getV k (fVD w) l = getV (group s c g) (fVA w) (getV (group s c g) (fVB w) l).toNat) ∧
        (∀ n, op = .broadcast n → getV k (fVD w) l = getV (group s c g) (fVA w) n) ∧
        (op = .redAdd → getV k (fVD w) l =
          (((List.range 32).filter (executes s c g w)).map (getV (group s c g) (fVA w))).foldl (· + ·) 0) ∧
        (op = .redOr → getV k (fVD w) l =
          (((List.range 32).filter (executes s c g w)).map (getV (group s c g) (fVA w))).foldl (· ||| ·) 0))

/-! ## Control instructions (chapter 04) -/

/-- R127: u0 reads as 0 and p0 reads as 1 in every lane, and writes to them have no effect. -/
def Obligations.ConstantRegisters : Prop :=
  ∀ (k : Group) (x : W64) (y : W32),
    getU k 0 = 0 ∧ (∀ l, l < 32 → bitN (getP k 0).toNat l = true) ∧ setU k 0 x = k ∧ setP k 0 y = k ∧
    (∀ r, r ≠ 0 → getU (setU k r x) r = x ∧ getP (setP k r y) r = y)

/-- R133: a group-wide instruction whose guard is true in no active lane is not executed: only the PC moves on. -/
def Sys2Proof.Claims.GuardFalseSkips : Prop :=
  ∀ (s : State) (c g : Nat) (w : W64), ready s c g w → guardLanes (group s c g) w = 0 →
    ∀ i : Instr,
      (i = .call c g w ∧ opc w = 0xC1 ∧ ibits w 22 0 = 0) ∨ (i = .ret c g w ∧ opc w = 0xC2 ∧ ibits w 46 0 = 0) ∨
      (i = .conv c g w ∧ opc w = 0xC4 ∧ ibits w 51 0 = 0) ∨
      (i = .mxi c g w ∧ opc w = 0xC8 ∧ ibits w 46 44 = 0 ∧ ibits w 23 0 = 0) ∨ (i = .mxw c g w ∧ opc w = 0xC9 ∧ ibits w 42 0 = 0) ∨
      (i = .cpd c g w ∧ opc w = 0xCA ∧ ibits w 26 0 = 0) ∨ (i = .cpl c g w ∧ opc w = 0xCB ∧ ibits w 26 0 = 0) ∨
      (i = .flw c g w ∧ opc w = 0xD0 ∧ ibits w 20 0 = 0) ∨ (i = .fls c g w ∧ opc w = 0xD1 ∧ ibits w 30 0 = 0) ∨
      (i = .flc c g w ∧ opc w = 0xD2 ∧ ibits w 30 0 = 0) ∨
      (i = .fenceL c g w ∧ opc w = 0xD8 ∧ ibits w 51 0 = 0) ∨
      (i = .fenceD c g w ∧ opc w = 0xD8 ∧ ibits w 51 50 = 1 ∧ ibits w 49 0 = 0) ∨
      (i = .fenceF c g w ∧ opc w = 0xD8 ∧ ibits w 51 50 = 2 ∧ ibits w 49 0 = 0) ∨
      (i = .invRo c g w ∧ opc w = 0xD9 ∧ ibits w 51 49 ≠ 0 ∧ ibits w 48 0 = 0) ∨
      (i = .rdst c g w ∧ opc w = 0xDC ∧ ibits w 46 0 = 0) ∨ (i = .clst c g w ∧ opc w = 0xDD ∧ ibits w 41 0 = 0) →
    exec i s = .next (pmc (setGroup s c g { group s c g with pc := ((group s c g).pc + 8) % 2 ^ 48, skipWatch := [] }) c 2 1)

/-- R134, R170, R171: a control instruction with a nonzero reserved field parks the group with cause ILLEGAL and DETAIL 2, and has
no other effect: the record is written, CELL.IRQ_PENDING.PARK raised, and the park and the issue counted. -/
def Sys2Proof.Claims.ReservedFieldParks : Prop :=
  ∀ (s : State) (c g : Nat) (w : W64), ready s c g w →
    ∀ i : Instr,
      (i = .br c g w ∧ opc w = 0xC0 ∧ ibits w 3 0 ≠ 0) ∨ (i = .call c g w ∧ opc w = 0xC1 ∧ ibits w 22 0 ≠ 0) ∨
      (i = .ret c g w ∧ opc w = 0xC2 ∧ ibits w 46 0 ≠ 0) ∨ (i = .exit c g w ∧ opc w = 0xC3 ∧ ibits w 51 0 ≠ 0) ∨
      (i = .conv c g w ∧ opc w = 0xC4 ∧ ibits w 51 0 ≠ 0) ∨ (i = .mxi c g w ∧ opc w = 0xC8 ∧ (ibits w 46 44 ≠ 0 ∨ ibits w 23 0 ≠ 0)) ∨
      (i = .mxw c g w ∧ opc w = 0xC9 ∧ ibits w 42 0 ≠ 0) ∨ (i = .cpd c g w ∧ opc w = 0xCA ∧ ibits w 26 0 ≠ 0) ∨
      (i = .cpl c g w ∧ opc w = 0xCB ∧ ibits w 26 0 ≠ 0) ∨ (i = .flw c g w ∧ opc w = 0xD0 ∧ ibits w 20 0 ≠ 0) ∨
      (i = .fls c g w ∧ opc w = 0xD1 ∧ ibits w 30 0 ≠ 0) ∨ (i = .flc c g w ∧ opc w = 0xD2 ∧ ibits w 30 0 ≠ 0) ∨
      (i = .take c g w ∧ opc w = 0xD4 ∧ ibits w 34 0 ≠ 0) ∨ (i = .give c g w ∧ opc w = 0xD5 ∧ ibits w 34 0 ≠ 0) ∨
      (i = .dead c g w ∧ opc w = 0xDA ∧ ibits w 35 0 ≠ 0) ∨ (i = .rdst c g w ∧ opc w = 0xDC ∧ ibits w 46 0 ≠ 0) ∨
      (i = .clst c g w ∧ opc w = 0xDD ∧ ibits w 41 0 ≠ 0) →
    exec i s = .next (pmc (pmc (raiseIrq (setGroup s c g { group s c g with
      st := .parked, await := .none, park := { cause := 7, detail := 2, lanes := (group s c g).active } }) .cell c 0) c 0x0D 1) c 2 1)

/-- R134, R170, R171: an opcode that its class does not assign, in any class and also where the table of opcodes is empty, parks the
group with cause ILLEGAL and DETAIL 1, and has no other effect: the record is written, CELL.IRQ_PENDING.PARK raised, and the park
and the issue counted. Which operation an opcode of the first four classes has, if any, is an operand of the command (log entry 9). -/
def Sys2Proof.Claims.UnassignedOpcodeParks : Prop :=
  ∀ (s : State) (c g : Nat) (w : W64), ready s c g w →
    ∀ i : Instr,
      (∃ b, i = .vectorIntOp c g w .unassigned b ∧ (opc w ≤ 0x3F ∨ (0xAA ≤ opc w ∧ opc w ≤ 0xAF) ∨ (0xB3 ≤ opc w ∧ opc w ≤ 0xBF) ∨
        opc w ∈ [0xC5, 0xC6, 0xC7, 0xCC, 0xCD, 0xCE, 0xCF, 0xD3, 0xD6, 0xD7, 0xDB, 0xDE, 0xDF] ∨ 0xE0 ≤ opc w)) ∨
      (∃ k m, i = .vectorFpOp c g w .unassigned k m ∧ 0x40 ≤ opc w ∧ opc w ≤ 0x7F) ∨
      (∃ b, i = .uniformOp c g w .unassigned b ∧ 0x80 ≤ opc w ∧ opc w ≤ 0x8F) ∨
      (i = .laneExchange c g w .unassigned ∧ 0x90 ≤ opc w ∧ opc w ≤ 0x9F) →
    exec i s = .next (pmc (pmc (raiseIrq (setGroup s c g { group s c g with
      st := .parked, await := .none, park := { cause := 7, detail := 1, lanes := (group s c g).active } }) .cell c 0) c 0x0D 1) c 2 1)

/-- All of GuardFalseSkips, ReservedFieldParks, UnassignedOpcodeParks: see the claims above. -/
def Obligations.GuardsAndReservedFields : Prop := Sys2Proof.Claims.GuardFalseSkips ∧ Sys2Proof.Claims.ReservedFieldParks ∧ Sys2Proof.Claims.UnassignedOpcodeParks

/-- R133, R136, R139: BR, CALL and RET of a ready group. BR with every guard true jumps, with none true falls through, and
otherwise splits under a JOIN, with a merge into an entry of the same JOIN and PEND_PC. CALL and RET go to their targets when a
lane executes; a link register of u0 keeps nothing. A target is taken at a multiple of 8 B, to which instructions are aligned (for
RET a choice of the model: assumption log). -/
def Sys2Proof.Claims.BranchCallReturn : Prop :=
  ∀ (s : State) (c g : Nat) (w : W64), ready s c g w →
    let k := group s c g
    let t := guardLanes k w
    let f := k.active &&& ~~~t
    let target := wrapN 48 ((k.pc : Int) + 8 + 8 * signed 24 (ibits w 51 28))
    let join := wrapN 48 ((k.pc : Int) + 8 + 8 * signed 24 (ibits w 27 4))
    let next := (k.pc + 8) % 2 ^ 48
    (opc w = 0xC0 → ibits w 3 0 = 0 →
      (f = 0 → exec (.br c g w) s = .next (pmc (setGroup s c g { k with pc := target / 8 * 8, skipWatch := [] }) c 2 1)) ∧
      (f ≠ 0 → t = 0 → exec (.br c g w) s = .next (pmc (setGroup s c g { k with pc := next, skipWatch := [] }) c 2 1)) ∧
      (f ≠ 0 → t ≠ 0 → ibits w 27 4 ≠ 0 → ∀ e st, k.stack = e :: st → e.join = join → e.pendPc = next →
        exec (.br c g w) s = .next (pmc (setGroup s c g { k with pc := target / 8 * 8, skipWatch := [], active := t, stack := { e with pendMask := e.pendMask ||| f } :: st }) c 2 1)) ∧
      (f ≠ 0 → t ≠ 0 → ibits w 27 4 ≠ 0 → k.stack.length < 32 → (∀ e st, k.stack = e :: st → ¬(e.join = join ∧ e.pendPc = next)) →
        exec (.br c g w) s = .next (pmc (setGroup s c g { k with pc := target / 8 * 8, skipWatch := [], active := t, stack := ⟨join, k.active, next, f⟩ :: k.stack }) c 2 1))) ∧
    (opc w = 0xC1 → ibits w 22 0 = 0 → t ≠ 0 →
      exec (.call c g w) s = .next (pmc (setGroup s c g { setU k (ibits w 27 23) (BitVec.ofNat 64 next) with pc := target / 8 * 8, skipWatch := [] }) c 2 1)) ∧
    (opc w = 0xC2 → ibits w 46 0 = 0 → t ≠ 0 →
      exec (.ret c g w) s = .next (pmc (setGroup s c g { k with pc := (getU k (ibits w 51 47)).toNat % 2 ^ 48 / 8 * 8, skipWatch := [] }) c 2 1))

/-- R140: CONV of a ready group with a lane that executes. -/
def Obligations.ConvRejoins : Prop :=
  ∀ (s : State) (c g : Nat) (w : W64), ready s c g w → opc w = 0xC4 → ibits w 51 0 = 0 → guardLanes (group s c g) w ≠ 0 →
    let k := group s c g
    let next := (k.pc + 8) % 2 ^ 48
    (k.stack = [] → exec (.conv c g w) s = .next (pmc (setGroup s c g { k with pc := next, skipWatch := [] }) c 2 1)) ∧
    (∀ e st, k.stack = e :: st →
      (e.join ≠ k.pc → ∃ t, exec (.conv c g w) s = .next t ∧
        group t c g = { k with st := .parked, await := .none, park := { cause := 7, detail := 5, lanes := k.active } }) ∧
      (e.join = k.pc → e.pendMask ≠ 0 → e.pendPc ≠ k.pc →
        exec (.conv c g w) s = .next (pmc (setGroup s c g { k with pc := e.pendPc % 2 ^ 48 / 8 * 8, skipWatch := [], active := e.pendMask, stack := { e with pendMask := 0 } :: st }) c 2 1)) ∧
      (e.join = k.pc → (e.pendMask = 0 ∨ e.pendPc = k.pc) →
        exec (.conv c g w) s = .next (pmc (setGroup s c g { k with pc := next, skipWatch := [], active := e.saved &&& k.resident, stack := st }) c 2 1)))

/-- R141, R148: EXIT of a ready group. Its executing lanes leave the resident and active masks and every stack entry; while active
lanes remain the group goes on; when no lane is resident and no token is BUSY and every write has been accepted, its slot is FREE. -/
def Sys2Proof.Claims.ExitLeaves : Prop :=
  ∀ (s : State) (c g : Nat) (w : W64), ready s c g w → opc w = 0xC3 → ibits w 51 0 = 0 → guardLanes (group s c g) w ≠ 0 →
    let k := group s c g
    let e := guardLanes k w
    (k.active &&& ~~~e ≠ 0 → k.resident &&& ~~~e ≠ 0 →
      exec (.exit c g w) s = .next (pmc (setGroup s c g { k with
        pc := (k.pc + 8) % 2 ^ 48, skipWatch := [], resident := k.resident &&& ~~~e, active := k.active &&& ~~~e,
        stack := k.stack.map (fun x => { x with saved := x.saved &&& ~~~e, pendMask := x.pendMask &&& ~~~e }) }) c 2 1)) ∧
    (k.resident &&& ~~~e = 0 → k.outD = [] → k.outF = [] → k.tokens.any (fun t => t.2.st == 1) = false →
      exec (.exit c g w) s = .next (pmc (setGroup s c g {}) c 2 1))

/-- Both of BranchCallReturn and ExitLeaves: see the claims above. -/
def Obligations.BranchesAndExits : Prop := Sys2Proof.Claims.BranchCallReturn ∧ Sys2Proof.Claims.ExitLeaves

/-- R151, R154: the fences complete at once when no write that they wait for is outstanding, and make the group wait otherwise;
INV.RO empties the caches that it selects for the whole cell. -/
def Sys2Proof.Claims.FencesAndInvRo : Prop :=
  ∀ (s : State) (c g : Nat) (w : W64), ready s c g w → guardLanes (group s c g) w ≠ 0 →
    let k := group s c g
    let go := Host.Outcome.next (φ := Fault) (ρ := Refusal) (pmc (setGroup s c g { k with pc := (k.pc + 8) % 2 ^ 48, skipWatch := [] }) c 2 1)
    (opc w = 0xD8 → ibits w 51 0 = 0 → exec (.fenceL c g w) s = go) ∧
    (opc w = 0xD8 → ibits w 51 50 = 1 → ibits w 49 0 = 0 →
      (k.outD = [] → exec (.fenceD c g w) s = go) ∧
      (k.outD ≠ [] → exec (.fenceD c g w) s = .next (pmc (setGroup s c g { k with st := .wait, await := .fence 1 }) c 2 1))) ∧
    (opc w = 0xD8 → ibits w 51 50 = 2 → ibits w 49 0 = 0 → k.outD = [] → k.outF = [] → exec (.fenceF c g w) s = go) ∧
    (opc w = 0xD9 → ibits w 48 0 = 0 → ibits w 51 49 ≠ 0 → ∃ t, exec (.invRo c g w) s = .next t ∧
      (cell t c).icache = (if bitN w.toNat 51 then [] else (cell s c).icache) ∧
      (cell t c).ccache = (if bitN w.toNat 50 then [] else (cell s c).ccache) ∧
      (cell t c).dcache = (if bitN w.toNat 49 then [] else (cell s c).dcache) ∧
      group t c g = { k with pc := (k.pc + 8) % 2 ^ 48, skipWatch := [] } ∧
      (∀ d, d ≠ c → cell t d = cell s d) ∧ (cell t c).lm = (cell s c).lm ∧ t.hbm = s.hbm ∧ t.slices = s.slices)

/-- R129: RDST copies GSTAT to UD, and a UD of u0 keeps nothing; CLST clears the bits that its mask names. Nothing else of the
group changes but the PC. -/
def Sys2Proof.Claims.StatusWord : Prop :=
  ∀ (s : State) (c g : Nat) (w : W64), ready s c g w → guardLanes (group s c g) w ≠ 0 →
    let k := group s c g
    (opc w = 0xDC → ibits w 46 0 = 0 →
      exec (.rdst c g w) s = .next (pmc (setGroup s c g { setU k (ibits w 51 47) k.gstat with pc := (k.pc + 8) % 2 ^ 48, skipWatch := [] }) c 2 1)) ∧
    (opc w = 0xDD → ibits w 41 0 = 0 → ∃ v : W64,
      exec (.clst c g w) s = .next (pmc (setGroup s c g { k with gstat := v, pc := (k.pc + 8) % 2 ^ 48, skipWatch := [] }) c 2 1) ∧
      ∀ i, i < 64 → bitN v.toNat i = (bitN k.gstat.toNat i && !(decide (i < 10) && bitN w.toNat (42 + i))))

/-- Both of FencesAndInvRo and StatusWord: see the claims above. -/
def Obligations.FencesAndStatusWord : Prop := Sys2Proof.Claims.FencesAndInvRo ∧ Sys2Proof.Claims.StatusWord

/-! ## Memory instructions (chapter 04) -/

/-- R143 to R145, R371: LDL and STL of a ready group on aligned addresses within local memory without poison. LDL brings each
executing lane its bytes; STL changes the bytes that its lanes name, each to the value of the highest such lane, and no others. -/
def Sys2Proof.Claims.LocalLoadStore : Prop :=
  ∀ (s : State) (c g : Nat) (w : W64) (n : Nat), ready s c g w → sizeBytes (mSIZE w) = some n → modOnly w 1 = true →
    inAlloc (group s c g) (mVDS w) (regsOf n) = true → (bitN (mMOD w) 0 = false → inAlloc (group s c g) (mVA w) 1 = true) →
    guardLanes (group s c g) w ≠ 0 →
    (∀ l, l < 32 → executes s c g w l = true →
      laneAddr (group s c g) w true l % n = 0 ∧ laneAddr (group s c g) w true l + n ≤ 0x80000) →
    (cell s c).lmPois = [] → (cell s c).lmSyn = [] →
    (opc w = 0xA0 → ∃ k : Group,
      exec (.ldl c g w) s = .next (pmc (setGroup (drawn s) c g k) c 2 1) ∧
      k = { group s c g with v := k.v, pc := ((group s c g).pc + 8) % 2 ^ 48, skipWatch := [] } ∧
      (∀ l, l < 32 → executes s c g w l = true → ∀ i, i < n →
        byteOf (laneValue k (mVDS w) n l) i = mget 0 (cell s c).lm (laneAddr (group s c g) w true l + i)) ∧
      (∀ r l, l < 32 → ¬(mVDS w ≤ r ∧ r < mVDS w + regsOf n ∧ executes s c g w l = true) → getV k r l = getV (group s c g) r l)) ∧
    (opc w = 0xA1 → flag s .cell c f_CELL_FLIP_CTRL_ARM = false → ∃ m : List (Nat × Byte),
      exec (.stl c g w) s = .next (pmc (nextPc (setCell s c { cell s c with lm := m }) c g) c 2 1) ∧
      ∀ a, mget 0 m a =
        match ((List.range 32).filter (fun l => executes s c g w l && laneAddr (group s c g) w true l ≤ a
            && a < laneAddr (group s c g) w true l + n)).reverse with
        | l :: _ => byteOf (laneValue (group s c g) (mVDS w) n l) (a - laneAddr (group s c g) w true l)
        | [] => mget 0 (cell s c).lm a)

/-- R143, R145, R169: a local access with a misaligned lane parks the group with ALIGN, for the lanes that raised it and the address
of the lowest, and has no effect for any lane; with every lane aligned and one beyond the end it parks with ACCESS. -/
def Sys2Proof.Claims.LocalFaults : Prop :=
  ∀ (s : State) (c g : Nat) (w : W64) (n l : Nat), ready s c g w → sizeBytes (mSIZE w) = some n → modOnly w 1 = true →
    inAlloc (group s c g) (mVDS w) (regsOf n) = true → (bitN (mMOD w) 0 = false → inAlloc (group s c g) (mVA w) 1 = true) →
    l < 32 → executes s c g w l = true →
    ∀ i : Instr, (i = .ldl c g w ∧ opc w = 0xA0) ∨ (i = .stl c g w ∧ opc w = 0xA1) →
    (laneAddr (group s c g) w true l % n ≠ 0 →
      (∀ l', l' < l → executes s c g w l' = true → laneAddr (group s c g) w true l' % n = 0) →
      ∃ t, exec i s = .next t ∧ (group t c g).st = .parked ∧ (group t c g).park.cause = 9 ∧
        (group t c g).park.addr = laneAddr (group s c g) w true l ∧ (group t c g).v = (group s c g).v ∧ (cell t c).lm = (cell s c).lm) ∧
    ((∀ l', l' < 32 → executes s c g w l' = true → laneAddr (group s c g) w true l' % n = 0) →
      laneAddr (group s c g) w true l + n > 0x80000 →
      (∀ l', l' < l → executes s c g w l' = true → laneAddr (group s c g) w true l' + n ≤ 0x80000) →
      ∃ t, exec i s = .next t ∧ (group t c g).st = .parked ∧ (group t c g).park.cause = 3 ∧ (group t c g).park.detail = 3 ∧
        (group t c g).park.addr = laneAddr (group s c g) w true l ∧ (group t c g).v = (group s c g).v ∧ (cell t c).lm = (cell s c).lm)

/-- Both of LocalLoadStore and LocalFaults: see the claims above. -/
def Obligations.LocalMemoryAccesses : Prop := Sys2Proof.Claims.LocalLoadStore ∧ Sys2Proof.Claims.LocalFaults

/-- R145, R146, R287: LDD of a ready group sends one read for each line that its executing lanes touch, for the words they touch,
and waits for the answers; LDF and LDFE (R241) send one full/empty access for each lane and go to WAIT. Memory and the lane registers
are unchanged until the answers come. -/
def Obligations.DeviceLoadsRequest : Prop :=
  ∀ (s : State) (c g : Nat) (w : W64) (n : Nat), ready s c g w → opc w = 0xA2 → modOnly w 0x19 = true → sizeBytes (mSIZE w) = some n →
    inAlloc (group s c g) (mVDS w) (regsOf n) = true → (bitN (mMOD w) 0 = false → inAlloc (group s c g) (mVA w) 1 = true) →
    guardLanes (group s c g) w ≠ 0 → deviceOk s c g w n 4 true false →
    (ibits w 28 27 = 0 → ∃ t a new, exec (.ldd c g w) s = .next t ∧ t.reqs = s.reqs ++ new ∧
      new.map (·.line) = (laneLines (laneAddrs (group s c g) w false)).map (·.1) ∧
      (∀ q ∈ new, q.src = .group c g ∧ q.op = .read (laneWords (laneAddrs (group s c g) w false) n q.line)
        ∧ q.label = cellLabel s (group s c g).label ∧ q.granted = false) ∧
      group t c g = { group s c g with await := .mem a } ∧ a.kind = 0 ∧ a.vd = mVDS w ∧ a.size = n ∧
      a.lanes = laneAddrs (group s c g) w false ∧ a.ids = new.map (fun q => (q.id, q.line)) ∧ a.got = [] ∧
      t.hbm = s.hbm ∧ t.slices = s.slices) ∧
    (n = 8 → (∀ x ∈ laneAddrs (group s c g) w false, feLine s (lineOf x.2) ≠ none) →
      ∀ mode i, (mode = 1 ∧ i = Instr.ldf c g w) ∨ (mode = 2 ∧ i = Instr.ldfe c g w) → ibits w 28 27 = mode →
      ∃ t a new, exec i s = .next t ∧ t.reqs = s.reqs ++ new ∧
        new.map (fun q => (q.line, q.op)) = (laneAddrs (group s c g) w false).map (fun x => (lineOf x.2, ReqOp.fe false mode (x.2 % 256 / 8) 0 false)) ∧
        group t c g = { group s c g with await := .mem a, st := .wait } ∧ a.kind = 4 ∧ a.vd = mVDS w ∧
        a.lanes = laneAddrs (group s c g) w false ∧ t.hbm = s.hbm ∧ t.slices = s.slices)

/-- R145, R151: STD of a ready group to HBM sends one posted write for each line, with the bytes of its lanes merged in lane order, and
goes on; STE sends one access for each lane and waits, STF sends them and goes on (R241). Every write joins the group's unaccepted
writes, and memory is unchanged until the slices perform them. -/
def Obligations.DeviceStoresPost : Prop :=
  ∀ (s : State) (c g : Nat) (w : W64) (n : Nat), ready s c g w → opc w = 0xA3 → modOnly w 0x19 = true → sizeBytes (mSIZE w) = some n →
    inAlloc (group s c g) (mVDS w) (regsOf n) = true → (bitN (mMOD w) 0 = false → inAlloc (group s c g) (mVA w) 1 = true) →
    guardLanes (group s c g) w ≠ 0 → deviceOk s c g w n 2 false true →
    (ibits w 28 27 = 0 → ∃ t new, exec (.std c g w) s = .next t ∧ t.reqs = s.reqs ++ new ∧
      new.map (·.line) = (laneLines (laneAddrs (group s c g) w false)).map (·.1) ∧
      (∀ q ∈ new, ∃ ch, q.src = .group c g ∧ q.op = .write (mergeLanes (group s c g) (mVDS w) n q.line (laneAddrs (group s c g) w false)).1
        (mergeLanes (group s c g) (mVDS w) n q.line (laneAddrs (group s c g) w false)).2 0
        ((mergeLanes (group s c g) (mVDS w) n q.line (laneAddrs (group s c g) w false)).2 == BitVec.allOnes 256) ch none) ∧
      group t c g = { group s c g with pc := ((group s c g).pc + 8) % 2 ^ 48, skipWatch := [], outD := (group s c g).outD ++ new.map (·.id) } ∧
      t.hbm = s.hbm ∧ t.slices = s.slices) ∧
    (n = 8 → (∀ x ∈ laneAddrs (group s c g) w false, feLine s (lineOf x.2) ≠ none) →
      (ibits w 28 27 = 1 → ∃ t a new, exec (.ste c g w) s = .next t ∧ t.reqs = s.reqs ++ new ∧
        new.map (fun q => (q.line, q.op)) = (laneAddrs (group s c g) w false).map (fun x => (lineOf x.2,
          ReqOp.fe true 1 (x.2 % 256 / 8) (BitVec.ofNat 64 (laneValue (group s c g) (mVDS w) 8 x.1)) false)) ∧
        group t c g = { group s c g with await := .mem a, st := .wait } ∧ a.kind = 5 ∧ t.hbm = s.hbm ∧ t.slices = s.slices) ∧
      (ibits w 28 27 = 2 → ∃ t new, exec (.stf c g w) s = .next t ∧ t.reqs = s.reqs ++ new ∧
        new.map (fun q => (q.line, q.op)) = (laneAddrs (group s c g) w false).map (fun x => (lineOf x.2,
          ReqOp.fe true 2 (x.2 % 256 / 8) (BitVec.ofNat 64 (laneValue (group s c g) (mVDS w) 8 x.1)) false)) ∧
        group t c g = { group s c g with pc := ((group s c g).pc + 8) % 2 ^ 48, skipWatch := [], outD := (group s c g).outD ++ new.map (·.id) } ∧
        t.hbm = s.hbm ∧ t.slices = s.slices))

/-- R145: ATD of a ready group to HBM sends one atomic for each executing lane, in lane order: a fetch-add with the operand of VDS and
VDS + 1, or a compare-and-swap with the swap value of VDS + 2 and VDS + 3, and waits for the old values. -/
def Sys2Proof.Claims.AtomicsRequest : Prop :=
  ∀ (s : State) (c g : Nat) (w : W64) (cas : Bool), ready s c g w → opc w = 0xA5 → mSIZE w = 3 → modOnly w 5 = true →
    bitN (mMOD w) 2 = cas → inAlloc (group s c g) (mVDS w) (if cas then 4 else 2) = true →
    (bitN (mMOD w) 0 = false → inAlloc (group s c g) (mVA w) 1 = true) →
    guardLanes (group s c g) w ≠ 0 → deviceOk s c g w 8 6 true true →
    ∃ t a new, exec (if cas then .atdCompareSwap c g w else .atdFetchAdd c g w) s = .next t ∧ t.reqs = s.reqs ++ new ∧
      new.map (fun q => (q.line, q.op)) = (laneAddrs (group s c g) w false).map (fun x => (lineOf x.2,
        ReqOp.atd cas [(x.2 % 256 / 8, BitVec.ofNat 64 (laneValue (group s c g) (mVDS w) 8 x.1),
          if cas then BitVec.ofNat 64 (laneValue (group s c g) (mVDS w + 2) 8 x.1) else 0)] 0)) ∧
      group t c g = { group s c g with await := .mem a } ∧ a.kind = 3 ∧ a.vd = mVDS w ∧ a.lanes = laneAddrs (group s c g) w false ∧
      t.hbm = s.hbm ∧ t.slices = s.slices

/-- R67, R79, R145: the reductions of a ready group to HBM. REDW rounds each lane's FP32 value once at the anchor of u[VA[4:0]], sends one
contribution for each line and collects the status in GSTAT; REDF and REDX send the lane's word for each lane. All are posted. -/
def Sys2Proof.Claims.ReductionsPost : Prop :=
  ∀ (s : State) (c g : Nat) (w : W64), ready s c g w → inAlloc (group s c g) (mVDS w) 1 = true →
    (bitN (mMOD w) 0 = false → inAlloc (group s c g) (mVA w) 1 = true) → guardLanes (group s c g) w ≠ 0 →
    (opc w = 0xA6 → mSIZE w = 4 → modOnly w 1 = true → deviceOk s c g w 16 1 false true →
      ∃ t new, exec (.redw c g w) s = .next t ∧ t.reqs = s.reqs ++ new ∧
        new.map (·.line) = (laneLines (laneAddrs (group s c g) w false)).map (·.1) ∧
        (∀ q ∈ new, q.op = .addW ((getU (group s c g) (mVA w % 32)).setWidth 16)
          (((laneAddrs (group s c g) w false).filter (fun y => lineOf y.2 == q.line)).map (fun y =>
            (redwVal (signed 16 ((getU (group s c g) (mVA w % 32)).toNat % 65536)) (getV (group s c g) (mVDS w) y.1) (y.2 % 256 / 16)).1))) ∧
        (group t c g).outD = (group s c g).outD ++ new.map (·.id) ∧ (group t c g).pc = ((group s c g).pc + 8) % 2 ^ 48 ∧
        (group t c g).v = (group s c g).v ∧ (group t c g).u = (group s c g).u ∧
        (∀ j, j < 64 → bitN (group t c g).gstat.toNat j = (bitN (group s c g).gstat.toNat j || (List.range 32).any (fun l =>
          executes s c g w l && bitN (redwVal (signed 16 ((getU (group s c g) (mVA w % 32)).toNat % 65536)) (getV (group s c g) (mVDS w) l) 0).2 j))) ∧
        t.hbm = s.hbm ∧ t.slices = s.slices) ∧
    (∀ i mk, (i = Instr.redf c g w ∧ mk = ReqOp.addF ∧ opc w = 0xA7 ∧ modOnly w 1 = true) ∨
        (i = Instr.redxMax c g w ∧ mk = ReqOp.maxMin false ∧ opc w = 0xA8 ∧ modOnly w 5 = true ∧ bitN (mMOD w) 2 = false) ∨
        (i = Instr.redxMin c g w ∧ mk = ReqOp.maxMin true ∧ opc w = 0xA8 ∧ modOnly w 5 = true ∧ bitN (mMOD w) 2 = true) →
      mSIZE w = 2 → deviceOk s c g w 4 1 false true →
      ∃ t new, exec i s = .next t ∧ t.reqs = s.reqs ++ new ∧
        new.map (fun q => (q.line, q.op)) = (laneAddrs (group s c g) w false).map (fun x =>
          (lineOf x.2, mk [(x.2 % 256 / 4, getV (group s c g) (mVDS w) x.1, false)])) ∧
        group t c g = { group s c g with pc := ((group s c g).pc + 8) % 2 ^ 48, skipWatch := [], outD := (group s c g).outD ++ new.map (·.id) } ∧
        t.hbm = s.hbm ∧ t.slices = s.slices)

/-- Both of AtomicsRequest and ReductionsPost: see the claims above. -/
def Obligations.AtomicsAndReductions : Prop := Sys2Proof.Claims.AtomicsRequest ∧ Sys2Proof.Claims.ReductionsPost

/-- R145: LDC of a ready group whose line the constant cache holds without poison brings the 4 or 8 bytes at its address to VDS of every
executing lane, or to a uniform register when MOD bit 1 is set. -/
def Sys2Proof.Claims.ConstantLoad : Prop :=
  ∀ (s : State) (c g : Nat) (w : W64) (n l0 : Nat) (d : Line), ready s c g w → opc w = 0xA4 → modOnly w 3 = true →
    (mSIZE w = 2 ∧ n = 4 ∨ mSIZE w = 3 ∧ n = 8) →
    (bitN (mMOD w) 1 = false → inAlloc (group s c g) (mVDS w) (n / 4) = true) → (bitN (mMOD w) 0 = false → inAlloc (group s c g) (mVA w) 1 = true) →
    l0 < 32 → executes s c g w l0 = true → (∀ l, l < l0 → executes s c g w l = false) →
    let a := laneAddr (group s c g) w false l0
    a % n = 0 → (cell s c).ccache.find? (fun e => e.1 == a / 256) = some (a / 256, d, 0) →
    ∃ k : Group, exec (.ldc c g w) s = .next (pmc (setGroup (drawn s) c g k) c 2 1) ∧
      k = { group s c g with v := k.v, u := k.u, st := .run, await := .none, pc := ((group s c g).pc + 8) % 2 ^ 48, skipWatch := [] } ∧
      (bitN (mMOD w) 1 = false → k.u = (group s c g).u ∧
        (∀ l, l < 32 → executes s c g w l = true → laneValue k (mVDS w) n l = bitsN d.toNat (8 * (a % 256 + n) - 1) (8 * (a % 256))) ∧
        (∀ r l, l < 32 → ¬(mVDS w ≤ r ∧ r < mVDS w + n / 4 ∧ executes s c g w l = true) → getV k r l = getV (group s c g) r l)) ∧
      (bitN (mMOD w) 1 = true → k.v = (group s c g).v ∧ (∀ r, r ≠ mVDS w % 32 → getU k r = getU (group s c g) r) ∧
        (mVDS w % 32 ≠ 0 → (getU k (mVDS w % 32)).toNat % 256 ^ n = bitsN d.toNat (8 * (a % 256 + n) - 1) (8 * (a % 256))))

/-- R145, R157, R276, R376: STW of a ready group sends a whole line of partials from local memory with its anchor and its WIDE check value;
DEAD sends one hint for each line that HBM backs outside the full/empty window. Both are posted. -/
def Sys2Proof.Claims.WideStoreAndDead : Prop :=
  ∀ (s : State) (c g : Nat) (w : W64), ready s c g w → guardLanes (group s c g) w ≠ 0 →
    (opc w = 0xA9 → mSIZE w = 0 → mMOD w = 0 → ∀ la a, la = (getU (group s c g) (mVA w % 32)).toNat →
      a = wrapN 48 (((getU (group s c g) (mUB w)).toNat : Int) + mOFFS w) → la % 256 = 0 → la + 256 ≤ 0x80000 → a % 256 = 0 →
      cellEntry s c (cellLabel s (group s c g).label) a false true = (s, .hbm) →
      watchLanes s c g 2 256 ((lanesOf (guardLanes (group s c g) w)).map (fun l => (l, a))) = (s, []) →
      (cell s c).lmPois = [] → (cell s c).lmSyn = [] →
      ∃ t q d, exec (.stw c g w) s = .next t ∧ t.reqs = s.reqs ++ [q] ∧ q.line = a / 256 ∧
        (∀ i, i < 256 → lineByte d i = mget 0 (cell s c).lm (la + i)) ∧
        q.op = .write d (BitVec.allOnes 256) 0 true (checkValue .wide (a / 256) d) (some ((getU (group s c g) (mVDS w % 32)).setWidth 16, 0, 0)) ∧
        group t c g = { group s c g with pc := ((group s c g).pc + 8) % 2 ^ 48, skipWatch := [], outD := (group s c g).outD ++ [q.id] } ∧
        t.hbm = s.hbm ∧ t.slices = s.slices) ∧
    (opc w = 0xDA → ibits w 35 0 = 0 → ∀ a, a = (getU (group s c g) (fUD w)).toNat % 2 ^ 48 → a % 256 = 0 →
      watchOf s c 1 (cellLabel s (group s c g).label) ((List.range (ibits w 46 36 + 1)).map (fun j => ((a + 256 * j) % 2 ^ 48, 256))) (group s c g).skipWatch = none →
      (∀ j, j ≤ ibits w 46 36 → mrdCheck s (a + 256 * j) (secureCell s c) false true (some (labelPart (cellLabel s (group s c g).label))) = none ∧
        backed (a / 256 + j) = true ∧ feLine s (a / 256 + j) = none) →
      ∃ t new, exec (.dead c g w) s = .next t ∧ t.reqs = s.reqs ++ new ∧
        new.map (fun q => (q.line, q.op)) = (List.range (ibits w 46 36 + 1)).map (fun j => (a / 256 + j, ReqOp.dead)) ∧
        group t c g = { group s c g with pc := ((group s c g).pc + 8) % 2 ^ 48, skipWatch := [], outD := (group s c g).outD ++ new.map (·.id) } ∧
        t.hbm = s.hbm ∧ t.slices = s.slices)

/-- Both of ConstantLoad and WideStoreAndDead: see the claims above. -/
def Obligations.ConstantAndWideAccesses : Prop := Sys2Proof.Claims.ConstantLoad ∧ Sys2Proof.Claims.WideStoreAndDead

/-! ## Matrix, copy, flag, lock and special-function instructions (chapters 03 to 06) -/

/-- R97, R105, R106, R142, R147: MXI, CPD and CPL of a converged or any ready group. MXI appends the operation of its descriptor to the
array's queue and makes its token BUSY; CPD and CPL append a copy. The group goes on. MXW on a DONE token returns its status word and
makes the token IDLE; on a BUSY token the group waits. -/
def Obligations.MatrixAndCopyIssue : Prop :=
  ∀ (s : State) (c g : Nat) (w : W64), ready s c g w → guardLanes (group s c g) w ≠ 0 →
    let k := group s c g
    (∀ a d, opc w = 0xC8 → ibits w 46 44 = 0 → ibits w 23 0 = 0 → k.active = k.resident →
      a = ((getU k (ibits w 51 47)).toNat + ibits w 43 24) % 2 ^ 20 → a % 64 = 0 → a + 64 ≤ 0x80000 → (cell s c).ops.length < 4 →
      (cell s c).dcache.find? (fun e => e.1 == a / 64) = some (a / 64, d) →
      descFault d ((token k (dToken d)).st != 0) (entryEmpty s (blockOfCell s c) (activeBank s (blockOfCell s c))) = none →
      ∃ t o, exec (.mxi c g w) s = .next t ∧ (cell t c).ops = (cell s c).ops ++ [o] ∧ o.desc = d ∧ o.grp = g ∧ o.token = dToken d ∧
        o.started = false ∧ o.serial = (cell s c).serial ∧ token (group t c g) (dToken d) = { st := 1 } ∧
        (∀ j, j ≠ dToken d → token (group t c g) j = token k j) ∧
        group t c g = { k with tokens := (group t c g).tokens, pc := (k.pc + 8) % 2 ^ 48, skipWatch := [] } ∧
        (cell t c).lm = (cell s c).lm ∧ t.hbm = s.hbm ∧ t.slices = s.slices) ∧
    (opc w = 0xC9 → ibits w 42 0 = 0 → k.active = k.resident →
      (∀ tk, token k (ibits w 51 48) = tk → tk.st = 2 → fldW tk.status 23 16 = 0 →
        ∃ v, exec (.mxw c g w) s = .next (pmc (setGroup s c g v) c 2 1) ∧
          getU v (ibits w 47 43) = (if ibits w 47 43 = 0 then 0 else tk.status.setWidth 64) ∧ token v (ibits w 51 48) = {} ∧
          (∀ j, j ≠ ibits w 47 43 → getU v j = getU k j) ∧ (∀ j, j ≠ ibits w 51 48 → token v j = token k j) ∧
          v = { k with u := v.u, tokens := v.tokens, st := .run, await := .none, pc := (k.pc + 8) % 2 ^ 48, skipWatch := [] }) ∧
      ((token k (ibits w 51 48)).st = 1 →
        exec (.mxw c g w) s = .next (pmc (setGroup s c g { k with st := .wait, await := .mxw (ibits w 51 48) (ibits w 47 43) }) c 2 1))) ∧
    (∀ cpd : Bool, opc w = (if cpd then 0xCA else 0xCB) → ibits w 26 0 = 0 → (token k (ibits w 51 48)).st = 0 →
      (getU k (ibits w 47 43)).toNat % 2 ^ 48 % 256 = 0 → (getU k (ibits w 42 38)).toNat % 256 = 0 →
      (getU k (ibits w 42 38)).toNat + 256 * (ibits w 37 27 + 1) ≤ 0x80000 → (cell s c).copies.length < 16 →
      ∃ t q, exec (if cpd then .cpd c g w else .cpl c g w) s = .next t ∧ (cell t c).copies = (cell s c).copies ++ [q] ∧
        q.cpd = cpd ∧ q.grp = g ∧ q.token = ibits w 51 48 ∧ q.dev = (getU k (ibits w 47 43)).toNat % 2 ^ 48 ∧
        q.loc = (getU k (ibits w 42 38)).toNat ∧ q.lines = ibits w 37 27 + 1 ∧ q.next = 0 ∧ q.killed = false ∧
        token (group t c g) (ibits w 51 48) = { st := 1 } ∧
        group t c g = { k with tokens := (group t c g).tokens, pc := (k.pc + 8) % 2 ^ 48, skipWatch := [] } ∧
        (cell t c).lm = (cell s c).lm ∧ t.hbm = s.hbm ∧ t.slices = s.slices)

/-- R142: MXI and MXW of a ready group whose active mask differs from its resident mask park the group with cause DIVERGENT_MATRIX,
and nothing is queued or consumed. -/
def Obligations.DivergentMatrixParks : Prop :=
  ∀ (s : State) (c g : Nat) (w : W64), ready s c g w → guardLanes (group s c g) w ≠ 0 → (group s c g).active ≠ (group s c g).resident →
    ∀ i d, (i = Instr.mxi c g w ∧ d = 1 ∧ opc w = 0xC8 ∧ ibits w 46 44 = 0 ∧ ibits w 23 0 = 0 ∧
        ((getU (group s c g) (ibits w 51 47)).toNat + ibits w 43 24) % 64 = 0) ∨
      (i = Instr.mxw c g w ∧ d = 2 ∧ opc w = 0xC9 ∧ ibits w 42 0 = 0) →
    ∃ t, exec i s = .next t ∧
      group t c g = { group s c g with st := .parked, await := .none, park := { cause := 4, detail := d, lanes := (group s c g).active } } ∧
      (cell t c).ops = (cell s c).ops

/-- R137, R158, R159, R164, R224, R236: FLS, FLC and FLW of a ready group. On a flag of this device whose segment is not secure, or whose
cell is, FLS gives a clear flag its bit and no holder, lowers the level instead where the flag is a take flag, and leaves a set flag as it
is; FLC clears the flag and erases its holder; FLW goes on when the flag reads the wanted state, consuming a set flag when CONSUME is 1,
and otherwise waits. FLS and FLC on a flag of another device that their window admits send it a posted write and change no flag here. A write
to a secure segment from a cell that is not secure changes no flag, and the group goes on. No page is frozen. -/
def Sys2Proof.Claims.FlagInstructions : Prop :=
  ∀ (s : State) (c g : Nat) (w : W64), ready s c g w → thawed s = true → guardLanes (group s c g) w ≠ 0 →
    let k := group s c g
    let f := ((getU k (ibits w 51 47)).toNat + ibits w 46 31) % 65536
    let on := { k with pc := (k.pc + 8) % 2 ^ 48, skipWatch := [] }
    (∀ r i, xlat s (regionOfCell c) f = some (.loc r i) → (flagSecure s r i = true → secureCell s c = true) →
      (opc w = 0xD1 → ibits w 30 0 = 0 →
        ((flagAt s r i).set = false → takerOf s r i = none → exec (.fls c g w) s = .next (pmc (setGroup (putFlag s r i { set := true }) c g on) c 2 1)) ∧
        ((flagAt s r i).set = true → exec (.fls c g w) s = .next (pmc (setGroup s c g on) c 2 1)) ∧
        (∀ b, (flagAt s r i).set = false → takerOf s r i = some b → exec (.fls c g w) s = .next (pmc (setGroup (levelDown s b) c g on) c 2 1))) ∧
      (opc w = 0xD2 → ibits w 30 0 = 0 → exec (.flc c g w) s = .next (pmc (setGroup (putFlag s r i {}) c g on) c 2 1)) ∧
      (opc w = 0xD0 → ibits w 20 0 = 0 →
        ((flagAt s r i).set = bitN w.toNat 30 → ∃ v,
          exec (.flw c g w) s = .next (pmc (setGroup (if bitN w.toNat 30 && bitN w.toNat 29 then putFlag s r i {} else s) c g v) c 2 1) ∧
          v = { on with p := v.p, st := .run, await := .none } ∧
          ∀ j, getP v j = if bitN w.toNat 24 = true ∧ j = ibits w 23 21 then 0xFFFFFFFF else getP k j) ∧
        ((flagAt s r i).set ≠ bitN w.toNat 30 → exec (.flw c g w) s = .next (pmc (setGroup s c g { k with
          st := .wait, await := .flw r i (bitN w.toNat 30) (bitN w.toNat 29) (ibits w 28 25) (bitN w.toNat 24) (ibits w 23 21) f s.time.toNat }) c 2 1)))) ∧
    (∀ i, (i = Instr.fls c g w ∧ opc w = 0xD1 ∨ i = Instr.flc c g w ∧ opc w = 0xD2) → ibits w 30 0 = 0 →
      (∀ wd r j, xlat s (regionOfCell c) f = some (.remote wd r j) → fwEn (fwin s wd) = true →
        flagWinOk s wd (secureCell s c) (labelPart (cellLabel s k.label)) = true →
        ∃ t, exec i s = .next t ∧ group t c g = { on with outF := k.outF ++ [s.nextId] } ∧ t.regions = s.regions ∧ t.hbm = s.hbm ∧ t.slices = s.slices) ∧
      (∀ r j, xlat s (regionOfCell c) f = some (.loc r j) → flagSecure s r j = true → secureCell s c = false →
        ∃ t, exec i s = .next t ∧ t.regions = s.regions ∧ (group t c g).pc = (k.pc + 8) % 2 ^ 48 ∧ (group t c g).v = k.v ∧
          bitN (reg t .region r o_COMMON_IRQ_PENDING).toNat 0 = true ∧ t.hbm = s.hbm))

/-- R162, R163, R165, R224: TAKE and GIVE of a ready group whose executing lanes name locks of this device. The lanes act in ascending order;
the group goes on with their codes in VD and PD and the spin count of R165, which stays below its limit. Where one lane executes, the
codes are those of the table: the lock is taken by code 0 of TAKE, which lowers the level instead where it is a take flag, and freed by
code 0 of GIVE. No page is frozen. -/
def Sys2Proof.Claims.LockCodes : Prop :=
  ∀ (s : State) (c g : Nat) (w : W64), ready s c g w → thawed s = true → ibits w 34 0 = 0 →
    inAlloc (group s c g) (ibits w 51 45) 1 = true → inAlloc (group s c g) (ibits w 44 38) 1 = true →
    let k := group s c g
    let on := fun v : Group => { v with pc := (k.pc + 8) % 2 ^ 48, skipWatch := [] }
    (∀ ls, lockLanes s c ((lanesOf (guardLanes k w)).map (fun l => (l, (getV k (ibits w 44 38) l).toNat % 65536))) = ([], ls) →
      (∀ t rs n f, opc w = 0xD4 → lockRun (fun s r i => takeLock s r i c g) ls s = (t, rs) → spinNext k rs = (n, f) → n < 65536 →
        exec (.take c g w) s = .next (pmc (setGroup t c g (on (lockResults { k with spin := n, spinId := f } w rs))) c 2 1)) ∧
      (∀ t rs, opc w = 0xD5 → lockRun (fun s r i => giveLock s r i c g) ls s = (t, rs) →
        exec (.give c g w) s = .next (pmc (setGroup t c g (on (lockResults { k with spin := if rs.any (fun x => x.2.2 == 0) = true then 0 else k.spin } w rs))) c 2 1))) ∧
    (∀ l r i, l < 32 → (∀ x, x < 32 → (executes s c g w x = true ↔ x = l)) →
      let f := (getV k (ibits w 44 38) l).toNat % 65536
      xlat s (regionOfCell c) f = some (.loc r i) → (flagSecure s r i = true → secureCell s c = true) →
      (opc w = 0xD4 → k.spin < 65535 → ∃ t code, exec (.take c g w) s = .next t ∧
        code = (if (flagAt s r i).set = false then 0 else if (flagAt s r i).holder = some (c, g) then 2 else 1) ∧
        flagAt t r i = (if code = 0 ∧ takerOf s r i = none then { set := true, holder := some (c, g) } else flagAt s r i) ∧
        (∀ b, code = 0 → takerOf s r i = some b → fld t .block b f_BLOCK_REACH_STATUS_LEVEL = fld s .block b f_BLOCK_REACH_STATUS_LEVEL - 1) ∧
        (∀ r' i', (r', i') ≠ (r, i) → flagAt t r' i' = flagAt s r' i') ∧
        getV (group t c g) (ibits w 51 45) l = BitVec.ofNat 32 code ∧
        (ibits w 37 35 ≠ 0 → bitN (getP (group t c g) (ibits w 37 35)).toNat l = (code == 0)) ∧
        (group t c g).spin = (if code = 0 then 0 else if code = 2 then (if k.spinId = f ∧ k.spin ≠ 0 then k.spin + 1 else 1) else k.spin) ∧
        (group t c g).pc = (k.pc + 8) % 2 ^ 48 ∧ (group t c g).u = k.u ∧ t.hbm = s.hbm) ∧
      (opc w = 0xD5 → ∃ t code, exec (.give c g w) s = .next t ∧
        code = (if (flagAt s r i).set = false then 2 else if (flagAt s r i).holder = some (c, g) then 0 else 1) ∧
        flagAt t r i = (if code = 0 then {} else flagAt s r i) ∧
        (∀ r' i', (r', i') ≠ (r, i) → flagAt t r' i' = flagAt s r' i') ∧
        getV (group t c g) (ibits w 51 45) l = BitVec.ofNat 32 code ∧
        (ibits w 37 35 ≠ 0 → bitN (getP (group t c g) (ibits w 37 35)).toNat l = (code == 0)) ∧
        (group t c g).spin = (if code = 0 then 0 else k.spin) ∧
        (group t c g).pc = (k.pc + 8) % 2 ^ 48 ∧ (group t c g).u = k.u ∧ t.hbm = s.hbm))

/-- Both of FlagInstructions and LockCodes: see the claims above. -/
def Obligations.FlagAndLockInstructions : Prop := Sys2Proof.Claims.FlagInstructions ∧ Sys2Proof.Claims.LockCodes

/-- R185, R186, R187: SFX and TLU of a ready group whose entry or table is not empty, with the unit free: each executing lane receives the
result of the micro-program, or of the table and its PD bit; other lanes and registers are unchanged. -/
def Obligations.SpecialFunctionLanes : Prop :=
  ∀ (s : State) (c g : Nat) (w : W64) (b bank : Nat), ready s c g w → ibits w 29 0 = 0 → guardLanes (group s c g) w ≠ 0 →
    inAlloc (group s c g) (fVD w) 1 = true → inAlloc (group s c g) (fVA w) 1 = true →
    b = blockOfCell s c → bank = activeBank s b → sfuBusy s c = false →
    let k := group s c g
    (opc w = 0xB0 → entryEmpty s b bank (ibits w 37 30) = false → ∃ v : Group,
      exec (.sfx c g w) s = .next (pmc (setGroup s c g v) c 2 1) ∧ v = { k with v := v.v, pc := (k.pc + 8) % 2 ^ 48, skipWatch := [] } ∧
      ∀ r l, l < 32 → getV v r l = if r = fVD w ∧ executes s c g w l = true then
        sfuRun s b bank (ssCompat s b) (ibits w 37 30) (getV k (fVA w) l) else getV k r l) ∧
    (opc w = 0xB1 → (tableOf s b bank (ibits w 37 34)).isSome = true → ∃ v : Group,
      exec (.tlu c g w) s = .next (pmc (setGroup s c g v) c 2 1) ∧ v = { k with v := v.v, p := v.p, pc := (k.pc + 8) % 2 ^ 48, skipWatch := [] } ∧
      (∀ r l, l < 32 → getV v r l = if r = fVD w ∧ executes s c g w l = true then
        (tluLane s b bank (ibits w 37 34) (bitN w.toNat 33) (getV k (fVA w) l)).1 else getV k r l) ∧
      (∀ r l, l < 32 → bitN (getP v r).toNat l = if r ≠ 0 ∧ r = ibits w 32 30 ∧ executes s c g w l = true then
        (tluLane s b bank (ibits w 37 34) (bitN w.toNat 33) (getV k (fVA w) l)).2 else bitN (getP k r).toNat l))

/-- R194 to R199: the ROWSTAT sub-operations of a ready group with the unit free on a record at an aligned address of local memory that
holds no poison. INIT writes an empty record with its exponent, MAXE raises the exponent of UR, ACC adds the executing lanes' values to
the record, CMB joins a second record, FIN writes mean, variance and variance plus ε to three registers of every executing lane. -/
def Obligations.RowstatRecords : Prop :=
  ∀ (s : State) (c g : Nat) (w : W64), ready s c g w → opc w = 0xB2 → ibits w 28 0 = 0 → guardLanes (group s c g) w ≠ 0 →
    sfuBusy s c = false → (cell s c).lmPois = [] → (cell s c).lmSyn = [] → flag s .cell c f_CELL_FLIP_CTRL_ARM = false →
    let k := group s c g
    let a := (getU k (rsUR w)).toNat
    let on := fun v : Group => { v with pc := (v.pc + 8) % 2 ^ 48, skipWatch := [] }
    let rec' := fun (t : State) (x : Nat) => statOf (ofBytes ((List.range 64).map (fun i => mget 0 (cell t c).lm (x + i))))
    (ibits w 51 49 = 0 → a % 64 = 0 → a + 64 ≤ 0x80000 → ssCompat s (blockOfCell s c) = false → ∃ t, exec (.rowstatInit c g w) s = .next t ∧
      rec' t a = { e := signed 16 ((getU k (rsUS w)).toNat % 65536) } ∧ group t c g = on k ∧
      (∀ x, x < a ∨ a + 64 ≤ x → mget 0 (cell t c).lm x = mget 0 (cell s c).lm x) ∧ t.hbm = s.hbm) ∧
    (ibits w 51 49 = 1 → inAlloc k (ibits w 48 42) 1 = true → exec (.rowstatMaxe c g w) s = .next (pmc (setGroup s c g (on (setU k (rsUR w)
      (BitVec.ofNat 64 (wrapN 16 (((rowVals k w).filter (fun v => !isSpecial v && !isZero v)).foldl (fun m v => max m (vlog2 v))
        (signed 16 (a % 65536)))))))) c 2 1)) ∧
    (ibits w 51 49 = 2 → inAlloc k (ibits w 48 42) 1 = true → a % 64 = 0 → a + 64 ≤ 0x80000 → stCompat (rec' s a) = false →
      ∃ t, exec (.rowstatAcc c g w) s = .next t ∧ statBits (rec' t a) = statBits ((rowVals k w).foldl accNative (rec' s a)) ∧
      group t c g = on k ∧ (∀ x, x < a ∨ a + 64 ≤ x → mget 0 (cell t c).lm x = mget 0 (cell s c).lm x) ∧ t.hbm = s.hbm) ∧
    (∀ b, ibits w 51 49 = 3 → b = (getU k (rsUS w)).toNat → a % 64 = 0 → a + 64 ≤ 0x80000 → b % 64 = 0 → b + 64 ≤ 0x80000 →
      ∃ t, exec (.rowstatCmb c g w) s = .next t ∧ statBits (rec' t a) = statBits (statJoin (rec' s a) (rec' s b)) ∧
      group t c g = on k ∧ (∀ x, x < a ∨ a + 64 ≤ x → mget 0 (cell t c).lm x = mget 0 (cell s c).lm x) ∧ t.hbm = s.hbm) ∧
    (ibits w 51 49 = 4 → inAlloc k (ibits w 48 42) 3 = true → a % 64 = 0 → a + 64 ≤ 0x80000 → ∃ v,
      exec (.rowstatFin c g w) s = .next (pmc (setGroup s c g v) c 2 1) ∧ v = { on k with v := v.v } ∧
      ∀ r l, l < 32 → getV v r l =
        if executes s c g w l = true ∧ r = ibits w 48 42 then (statFin (rec' s a) ((getU k (rsUS w)).setWidth 32)).1
        else if executes s c g w l = true ∧ r = ibits w 48 42 + 1 then (statFin (rec' s a) ((getU k (rsUS w)).setWidth 32)).2.1
        else if executes s c g w l = true ∧ r = ibits w 48 42 + 2 then (statFin (rec' s a) ((getU k (rsUS w)).setWidth 32)).2.2
        else getV k r l)

/-! ## Events of a cell (chapters 03, 04 and 06) -/

/-- R149, R159, R160: a group that waits on a flag. When the flag reads the wanted state FLW returns, a consuming wait for a set flag
clears it and no other flag changes; when the limit has passed first it returns with PD clear, or parks with TIMEOUT where NP is 0. The
clock of a cell whose groups all wait on flags and whose units are idle is gated, and the signal ungates it. No page is frozen. -/
def Sys2Proof.Claims.FlagWaitEnds : Prop :=
  ∀ (s : State) (c g r i lim pd f born : Nat) (st consume np : Bool), inReset s = false → thawed s = true → present s .cell c = true → g < 16 →
    (group s c g).await = .flw r i st consume lim np pd f born →
    let k := group s c g
    let go := fun (v : W32) => { (if np = true then setP k pd v else k) with st := .run, await := .none, pc := (k.pc + 8) % 2 ^ 48, skipWatch := [] }
    ((flagAt s r i).set = st → ∃ t, exec (.flagWake c g) s = .next t ∧ group t c g = go 0xFFFFFFFF ∧
      (flagAt t r i).set = (st && !consume) ∧ (∀ r' i', ¬(r' = r ∧ i' = i) → flagAt t r' i' = flagAt s r' i') ∧
      (cell t c).gated = false ∧ t.hbm = s.hbm ∧ t.slices = s.slices) ∧
    (lim ≠ 0 → timedOut s born lim = true → ∃ t, exec (.flwTimeout c g) s = .next t ∧ (cell t c).gated = false ∧ t.regions = s.regions ∧ t.hbm = s.hbm ∧
      (np = true → group t c g = go 0) ∧
      (np = false → group t c g = { k with st := .parked, await := .none, park := { cause := 10, detail := lim, addr := f, lanes := k.active } })) ∧
    ((∀ x ∈ (cell s c).groups, x.2.st = .free ∨ (x.2.st = .wait ∧ ∃ a b d e h j p q n, x.2.await = .flw a b d e h j p q n)) →
      (cell s c).ops = [] → (cell s c).copies = [] → niIdle s c = true →
      exec (.cellGate c) s = .next (setCell s c { cell s c with gated := true }))

/-- R241, R242: a waiting full/empty access that has reached the limit of REGION.FE_CTRL with none of its lanes answered parks its group
with TIMEOUT and the address of its lowest lane, and its requests are withdrawn. Before the limit has passed nothing happens. -/
def Sys2Proof.Claims.FullEmptyTimeout : Prop :=
  ∀ (s : State) (c g l a0 : Nat) (a : AwaitMem) (rest : List (Nat × Nat)), inReset s = false → present s .cell c = true → g < 16 →
    (group s c g).st = .wait → (group s c g).await = .mem a → a.kind = 4 ∨ a.kind = 5 →
    fld s .region (regionOfCell c) f_REGION_FE_CTRL_TO ≠ 0 →
    (timedOut s a.born (fld s .region (regionOfCell c) f_REGION_FE_CTRL_TO) = false → exec (.feAccessTimeout c g) s = .next s) ∧
    (timedOut s a.born (fld s .region (regionOfCell c) f_REGION_FE_CTRL_TO) = true → a.lanes = (l, a0) :: rest → (∀ x ∈ rest, l < x.1) →
      (∀ x ∈ a.lanes, a.ids.any (fun y => y.2 == x.1) = true) → ∃ t, exec (.feAccessTimeout c g) s = .next t ∧ (group t c g).st = .parked ∧ (group t c g).park.cause = 10 ∧
      (group t c g).park.detail = fld s .region (regionOfCell c) f_REGION_FE_CTRL_TO ∧ (group t c g).park.addr = a0 ∧
      (group t c g).v = (group s c g).v ∧ (group t c g).pc = (group s c g).pc ∧
      t.reqs = s.reqs.filter (fun q => !(a.ids.map (·.1)).contains q.id) ∧ t.hbm = s.hbm ∧ t.slices = s.slices)

/-- Both of FlagWaitEnds and FullEmptyTimeout: see the claims above. -/
def Obligations.FlagWaitsEndOrTimeOut : Prop := Sys2Proof.Claims.FlagWaitEnds ∧ Sys2Proof.Claims.FullEmptyTimeout

/-- R145, R151, R153, R343: answers at an NI. The last answer of an ordinary load writes each lane its bytes and the group goes on; an
earlier one is kept. The acceptance of a posted write takes it from the group's outstanding writes, completes a fence that waited for
it alone, and a timeout sets FTO in GSTAT. No page is frozen. -/
def Obligations.RepliesReturn : Prop :=
  ∀ (s : State) (c g id : Nat) (r : Resp), inReset s = false → thawed s = true → s.resps.find? (fun x => x.id == id) = some r → r.src = .group c g →
    let k := group s c g
    (∀ a d ov, k.await = .mem a → a.kind = 0 → a.ids = [(id, r.line)] → a.got = [] → a.lanes.Pairwise (fun x y => x.1 < y.1) →
      (∀ x ∈ a.lanes, x.1 < 32 ∧ x.2 / 256 = r.line ∧ x.2 % 256 + a.size ≤ 256) → a.size ∈ [1, 2, 4, 8, 16] →
      r.reply = .data d 0 false ov →
      ∃ t, exec (.niLoadResponse id) s = .next t ∧
        group t c g = { k with st := .run, await := .none, pc := (k.pc + 8) % 2 ^ 48, skipWatch := [], v := (group t c g).v, gstat := (group t c g).gstat } ∧
        (∀ x ∈ a.lanes, laneValue (group t c g) a.vd a.size x.1 = bitsN d.toNat (8 * (x.2 % 256 + a.size) - 1) (8 * (x.2 % 256))) ∧
        (∀ q l, l < 32 → ¬(a.vd ≤ q ∧ q < a.vd + regsOf a.size ∧ l ∈ a.lanes.map (·.1)) → getV (group t c g) q l = getV k q l) ∧
        (∀ j, j < 64 → bitN (group t c g).gstat.toNat j = (bitN k.gstat.toNat j || (j == 3 && ov))) ∧
        t.resps = s.resps.filter (fun x => x.id != id) ∧ t.hbm = s.hbm ∧ t.slices = s.slices) ∧
    (∀ a j l, k.await = .mem a → a.kind = 0 → (id, r.line) ∈ a.ids → a.ids.Pairwise (fun x y => x.1 ≠ y.1) → (j, l) ∈ a.ids → j ≠ id →
      ∃ t, exec (.niLoadResponse id) s = .next t ∧ group t c g = { k with await := .mem { a with ids := a.ids.filter (fun x => x.1 != id), got := a.got ++ [(id, r.line, r.reply)] } }) ∧
    (k.await = .none → id ∈ k.outD → r.reply = .accepted →
      ∃ t, exec (.niWriteAck id) s = .next t ∧
        group t c g = { k with outD := k.outD.filter (· != id), outF := k.outF.filter (· != id) } ∧
        t.resps = s.resps.filter (fun x => x.id != id) ∧ t.hbm = s.hbm ∧ t.slices = s.slices ∧ t.pages = s.pages) ∧
    (k.await = .fence 1 → k.outD = [id] → r.reply = .accepted →
      ∃ t, exec (.niWriteAck id) s = .next t ∧ group t c g = { k with st := .run, await := .none, outD := [], outF := k.outF.filter (· != id), pc := (k.pc + 8) % 2 ^ 48, skipWatch := [] }) ∧
    (k.await = .none → id ∈ k.outF → r.reply = .timeout →
      ∃ t, exec (.niWriteAck id) s = .next t ∧ (group t c g).outF = k.outF.filter (· != id) ∧
        (∀ j, j < 64 → bitN (group t c g).gstat.toNat j = (bitN k.gstat.toNat j || j == 8)))

/-- R88, R90, R105, R110, R111, R117: a matrix operation starts when those before it have all their beats done, held while a read of it
overlaps what an earlier one still writes; a fill brings the next stationary tile to the shadow, or into the array when no row for another
is left, and a preload claims a bank; a beat moves the operation one row on, or freezes the array with a cause and leaves the operation
where it was. While the region is held by a PAUSE the array starts, fills and preloads nothing, and before the first fill no cycle counts. No page is frozen. -/
def Sys2Proof.Claims.MatrixBeats : Prop :=
  ∀ (s : State) (c : Nat) (o : MxOp), inReset s = false → thawed s = true → present s .cell c = true →
    let upd := fun (o' : MxOp) => (cell s c).ops.map (fun x => if x.serial = o.serial then o' else x)
    let k := swapTiles (cell s c)
    (allHeld s (regionOfCell c) = true → exec (.mxOpStart c) s = .next s ∧ ∀ pre, exec (.mxTileFillDone c pre) s = .next (setCell s c k)) ∧
    (allHeld s (regionOfCell c) = false → ∀ pre post, (cell s c).ops = pre ++ o :: post → (∀ x ∈ pre, x.started = true ∧ x.beatsDone = true) → o.started = false →
      ∃ t, exec (.mxOpStart c) s = .next t ∧ t.hbm = s.hbm ∧ (cell t c).ops =
        if hazard s c o = true then upd { o with started := true, held := true }
        else upd { o with started := true, held := false, anchor := (anchorOf s c o.desc).2 }) ∧
    ((cell s c).ops.find? (fun x => x.held && !x.beatsDone) = some o → hazard s c o = false →
      ∃ t, exec (.mxHazardRelease c) s = .next t ∧ t.hbm = s.hbm ∧
        (cell t c).ops = upd { o with started := true, held := false, anchor := (anchorOf s c o.desc).2 }) ∧
    (allHeld s (regionOfCell c) = false → ∀ g, preloadTarget k k.ops = none → fillTarget k k.ops = some (o, g) →
      ∃ t x, exec (.mxTileFillDone c false) s = .next t ∧ x.serial = o.serial ∧ (x.kT, x.nT, x.lo) = g ∧ x.vals.length = 64 ∧
        ((cell t c).shadowTile = some x ∧ (cell t c).tile = k.tile ∨ (cell t c).tile = some x ∧ (cell t c).shadowTile = none) ∧ t.hbm = s.hbm) ∧
    (allHeld s (regionOfCell c) = false → ∀ ot rt, preloadTarget k k.ops = some (o, ot, rt) → (cell s c).banks.length < 2 →
      ∃ t b, exec (.mxTileFillDone c true) s = .next t ∧ (cell t c).banks = (cell s c).banks ++ [b] ∧
        b.serial = o.serial ∧ b.ot = ot ∧ b.rt = rt ∧ b.preloaded = true ∧ b.full = false ∧ b.drained = 0 ∧ t.hbm = s.hbm) ∧
    (∀ stall, stall = 0 ∨ stall = 1 ∨ stall = 4 → beatOp (cell s c) = some o → (cell s c).resetting = false →
      (o.held = false → begun (cell s c) o = false → exec (.mxBeat c stall) s = .next s) ∧
      (allHeld s (regionOfCell c) = true → o.held = true ∨ begun (cell s c) o = true → ∃ t, exec (.mxBeat c stall) s = .next t ∧
        fld t .cell c f_CELL_MX_STATUS_FREEZE = 4 ∧ t.cells = s.cells ∧ t.hbm = s.hbm) ∧
      (allHeld s (regionOfCell c) = false → o.held = true → ∃ t, exec (.mxBeat c stall) s = .next t ∧
        fld t .cell c f_CELL_MX_STATUS_FREEZE = 1 ∧ t.cells = s.cells ∧ t.hbm = s.hbm) ∧
      (allHeld s (regionOfCell c) = false → o.held = false → begun (cell s c) o = true →
        (∀ f, freezeOf (cell s c) o stall = some f → ∃ t, exec (.mxBeat c stall) s = .next t ∧
          fld t .cell c f_CELL_MX_STATUS_FREEZE = f ∧ t.cells = s.cells ∧ t.hbm = s.hbm) ∧
        (freezeOf (cell s c) o stall = none → ∃ t o', exec (.mxBeat c stall) s = .next t ∧ o' ∈ (cell t c).ops ∧
          o' = { (advanceBeat o).1 with num := o'.num, fault := o'.fault, faddr := o'.faddr, faspace := o'.faspace } ∧
          (∃ b ∈ (cell t c).banks, b.serial = o.serial ∧ b.ot = o.ot ∧ b.rt = o.rt ∧ ((advanceBeat o).2 = true → b.full = true)) ∧
          fld t .cell c f_CELL_MX_STATUS_FREEZE = 0 ∧ t.hbm = s.hbm ∧ t.reqs = s.reqs)))

/-- R92, R106 to R108, R112, R116, R118: a row of a full bank drains, and with its last row the bank is free; a drain to local memory sends
nothing, and nothing drains while the region is held by a PAUSE. When every row has been written and accepted the operation leaves and its token is DONE with the status word; an MXW that
waits for it returns the word to its uniform register. No page is frozen. -/
def Sys2Proof.Claims.MatrixDrainAndDone : Prop :=
  ∀ (s : State) (c : Nat) (o : MxOp), inReset s = false → thawed s = true → present s .cell c = true →
    (allHeld s (regionOfCell c) = true → exec (.mxDrainRow c) s = .next s) ∧
    (allHeld s (regionOfCell c) = false → ∀ b rest, (cell s c).banks = b :: rest → b.full = true → (∀ x ∈ rest, ¬(x.serial = b.serial ∧ x.ot = b.ot ∧ x.rt = b.rt)) →
      (cell s c).ops.find? (fun x => x.serial == b.serial) = some o →
      ∃ t, exec (.mxDrainRow c) s = .next t ∧
        (b.drained + 1 < rowsOfTile o.desc b.rt → ∃ b', (cell t c).banks = b' :: rest ∧ b' = { b with drained := b.drained + 1, pois := b'.pois }) ∧
        (¬(b.drained + 1 < rowsOfTile o.desc b.rt) → (cell t c).banks = rest) ∧
        (dDst o.desc = 0 → t.reqs = s.reqs ∧ t.fab = s.fab ∧ t.hbm = s.hbm ∧ t.slices = s.slices)) ∧
    (∀ w, (cell s c).ops.find? (opFinished (cell s c)) = some o → o.stop = false → w = statusWord o.fault o.refused o.num →
      let k := group s c o.grp
      let tok : Token := { st := 2, status := w, addr := o.faddr, aspace := o.faspace, src := 6 }
      (k.await = .none → ∃ t, exec (.mxOpComplete c) s = .next t ∧
        (cell t c).ops = (cell s c).ops.filter (fun x => x.serial != o.serial) ∧
        group t c o.grp = { k with tokens := mset {} k.tokens o.token tok } ∧ t.hbm = s.hbm) ∧
      (∀ ud, k.await = .mxw o.token ud → o.fault = 0 → ∃ t, exec (.mxOpComplete c) s = .next t ∧
        (group t c o.grp).st = .run ∧ (group t c o.grp).await = .none ∧ (group t c o.grp).pc = (k.pc + 8) % 2 ^ 48 ∧
        token (group t c o.grp) o.token = {} ∧ (ud ≠ 0 → getU (group t c o.grp) ud = w.setWidth 64)))

/-- Both of MatrixBeats and MatrixDrainAndDone: see the claims above. -/
def Obligations.MatrixEvents : Prop := Sys2Proof.Claims.MatrixBeats ∧ Sys2Proof.Claims.MatrixDrainAndDone

/-- R147, R376, R383: a line of a CPD that the cache die delivers sound lands in local memory, and no other byte of it changes; a line of
a CPL goes out as a whole-line write with its PLAIN check value. A copy whose lines are all done leaves, and its token is DONE. No page is frozen. -/
def Obligations.CopyLines : Prop :=
  ∀ (s : State) (c : Nat) (q : Copy) (rest : List Copy), inReset s = false → thawed s = true → present s .cell c = true →
    (cell s c).copies = q :: rest → q.killed = false →
    let a := (q.dev + 256 * q.next) % 2 ^ 48
    let lbl := cellLabel s q.label
    (q.next < q.lines → (cell s c).resetting = false → allHeld s (regionOfCell c) = false →
      watchOf s c (if q.cpd then 4 else 2) lbl [(a, 256)] [] = none → cellEntry s c lbl a q.cpd (!q.cpd) = (s, .hbm) →
      q.loc % 256 = 0 →
      (q.cpd = true → ∀ s' r, cellLine s c (.copy c) lbl (winsOf s q.lead) (a / 256) = some (s', r) → r.ok = true → r.dead = false →
        r.pois = 0 → flag s' .cell c f_CELL_FLIP_CTRL_ARM = false → (cell s' c).copies = (cell s c).copies →
        ∃ t, exec (.copyLineDone c) s = .next t ∧
          (cell t c).copies = { q with next := q.next + 1, num := if r.ovf then q.num ||| stOVF else q.num } :: rest ∧
          (∀ i, i < 256 → mget 0 (cell t c).lm (q.loc + 256 * q.next + i) = lineByte r.data i) ∧
          (∀ x, x < q.loc + 256 * q.next ∨ q.loc + 256 * q.next + 256 ≤ x → mget 0 (cell t c).lm x = mget 0 (cell s' c).lm x) ∧
          t.hbm = s'.hbm) ∧
      (q.cpd = false → (cell s c).lmPois = [] → (cell s c).lmSyn = [] →
        ∃ t x d, exec (.copyLineDone c) s = .next t ∧ t.reqs = s.reqs ++ [x] ∧ x.src = .copy c ∧ x.line = a / 256 ∧
          x.op = .write d (BitVec.allOnes 256) 0 true (checkValue .plain (a / 256) d) none ∧
          (∀ i, i < 256 → lineByte d i = mget 0 (cell s c).lm (q.loc + 256 * q.next + i)) ∧
          (cell t c).copies = { q with next := q.next + 1, outs := q.outs ++ [(x.id, q.next)] } :: rest ∧
          (cell t c).lm = (cell s c).lm ∧ t.hbm = s.hbm ∧ t.slices = s.slices)) ∧
    (q.lines ≤ q.next → q.outs = [] → (group s c q.grp).await = .none →
      ∃ t, exec (.copyComplete c) s = .next t ∧ (cell t c).copies = rest ∧ (cell t c).lm = (cell s c).lm ∧
        group t c q.grp = { group s c q.grp with tokens := mset {} (group s c q.grp).tokens q.token { st := 2, status := statusWord q.fault false q.num, addr := q.faddr, aspace := q.faspace, src := 7 } } ∧ t.hbm = s.hbm)

/-- R123, R154, R168, R172: host software's commands to a cell that they reach. REPLAY runs a parked group again, after its instruction
where the record has DONE; KILL frees the group's slot; both show their result in CMD_STATUS. RO_INV empties the read-only cache it
names and MX_CNT_CLR clears the six matrix counters. -/
def Obligations.CellCommands : Prop :=
  ∀ (s : State) (secure : Bool) (c g : Nat), reaches s secure .cell c → c < 1440 → g < 16 →
    let k := group s c g
    (k.st = .parked → k.park.cause ≠ 5 → k.park.cause ≠ 6 → ∃ t, exec (.replay secure c g false) s = .next t ∧
      group t c g = (if k.park.done = true then { k with st := .run, park := {}, pc := (k.pc + 8) % 2 ^ 48, skipWatch := [] }
        else { k with st := .run, park := {} }) ∧
      (reg t .cell c o_CELL_CMD_STATUS).toNat = g * 4096 + 0x101 ∧ t.hbm = s.hbm ∧ (cell t c).icache = (cell s c).icache) ∧
    (k.st = .parked → k.park.cause = 6 → k.park.done = false → ∃ t, exec (.replay secure c g true) s = .next t ∧
      group t c g = { k with st := .run, park := {}, skipWatch := k.park.detail :: k.skipWatch } ∧
      (cell t c).icache = [] ∧ (cell t c).ccache = [] ∧ (cell t c).dcache = []) ∧
    (k.st ≠ .free → ∃ t, exec (.kill secure c g) s = .next t ∧ group t c g = {} ∧
      (reg t .cell c o_CELL_CMD_STATUS).toNat = g * 4096 + 0x201 ∧ (block t k.lead).run.killed = true ∧
      (∀ e, e ≠ g → group t c e = group s c e) ∧ (cell t c).lm = (cell s c).lm ∧ t.hbm = s.hbm) ∧
    (exec (.roInvI secure c) s = .next (setCell s c { cell s c with icache := [] })) ∧
    (exec (.roInvC secure c) s = .next (setCell s c { cell s c with ccache := [] })) ∧
    (exec (.roInvD secure c) s = .next (setCell s c { cell s c with dcache := [] })) ∧
    (∃ t, exec (.mxCntClr secure c) s = .next t ∧ (∀ o ∈ mxCounters, ctr t .cell c o = 0) ∧
      (∀ o, o ∉ mxCounters → ctr t .cell c o = ctr s .cell c o) ∧ t.cells = s.cells ∧ t.hbm = s.hbm)

/-! ## Blocks, reaches, flags, partitions and RUN (chapters 02, 05 and 06) -/

/-- R188, R189, R192: loads of a special-function bank or of the step words. A refused one leaves every block as it was and is a bus
error; an admitted one is BUSY from line 0. A held load goes on when nothing uses the old bank. A line that HBM delivers sound lands in
its 64 words and no other of the target changes; the last one makes the bank valid and raises the block's bit 8. No page is frozen. -/
def Obligations.BankLoads : Prop :=
  ∀ (s : State) (secure : Bool) (b target lines off : Nat), inReset s = false → thawed s = true → present s .block b = true → b < 192 → target < 4 → lines < 256 → off < 256 →
    (reaches s secure .block b → loadRefused s b target lines off = true → ∃ t, exec (.sfLoadGo secure b target lines off) s = .next t ∧
      t.blocks = s.blocks ∧ flag t .chip 0 f_CHIP_BUS_ERR_INFO_VALID = true ∧ t.hbm = s.hbm) ∧
    (reaches s secure .block b → loadRefused s b target lines off = false → ∃ t, exec (.sfLoadGo secure b target lines off) s = .next t ∧
      block t b = { block s b with load := some { target := target, src := sfSource s b, offset := off, lines := lines + 1, hold := (block s b).prev == some target && usersOf s b target != 0 } } ∧ (∀ d, d ≠ b → block t d = block s d) ∧ t.hbm = s.hbm) ∧
    (∀ l, (block s b).load = some l → l.hold = true → usersOf s b l.target = 0 →
      exec (.sfLoadResume b) s = .next (setBlock s b { block s b with load := some { l with hold := false } })) ∧
    (∀ l s' r, (block s b).load = some l → l.hold = false → l.out = none →
      let a := (l.src + 256 * l.next) % 2 ^ 48
      masterEntry s 0x70 false a true false = (s, .hbm) →
      readLineNow { s with nextId := s.nextId + 1 } { id := s.nextId, src := .block b, line := a / 256, op := .read allWords, label := 0x70, part := 0, ingress := false, wins := 0 } = some (s', r) →
      r.ok = true → r.dead = false → r.pois = 0 → s'.blocks = s.blocks →
      ∃ t, exec (.sfLoadLine b) s = .next t ∧ t.hbm = s'.hbm ∧
        (∀ n, n < 64 → mget 0 (if l.target = 2 then (block t b).steps else (block t b).banks)
          ((if l.target = 2 then 0 else l.target * 8192) + 64 * (l.offset + l.next) + n) = BitVec.ofNat 32 (bitsN r.data.toNat (32 * n + 31) (32 * n))) ∧
        (∀ x, x < 64 * (l.offset + l.next) ∨ 64 * (l.offset + l.next) + 64 ≤ x →
          (l.target = 2 → mget 0 (block t b).steps x = mget 0 (block s b).steps x) ∧
          (l.target ≠ 2 → mget 0 (block t b).banks (l.target * 8192 + x) = mget 0 (block s b).banks (l.target * 8192 + x))) ∧
        (l.next + 1 < l.lines → (block t b).load = some { l with next := l.next + 1, out := none }) ∧
        (¬(l.next + 1 < l.lines) → (block t b).load = none ∧ (l.target = 0 → (block t b).invalid0 = false) ∧
          (l.target = 1 → (block t b).invalid1 = false) ∧ bitN (reg t .block b o_COMMON_IRQ_PENDING).toNat 8 = true))

/-- R214, R215, R220, R224: commands to a reach by host software. ARM gathers the blocks of the reach and is ARMED, or is refused with the
lowest code and changes no state; a take flag that is set already is consumed then, with one off LEVEL, and no other flag changes. DISARM
ends an idle reach and marks a busy one; ABORT kills every group of the run; FP_TAKE takes one from LEVEL, which holds at 0. No page is frozen. -/
def Obligations.ReachCommands : Prop :=
  ∀ (s : State) (secure : Bool) (b : Nat), reaches s secure .block b → thawed s = true → b < 192 →
    (armRefusal s b = none → ∃ t, exec (.reachArm secure b) s = .next t ∧ reachState t b = 1 ∧ (block t b).run.blocks = gather s b ∧
      (block t b).run.lastStart = (block s b).run.lastStart ∧ (∀ d, d ≠ b → block t d = block s d ∧ reachState t d = reachState s d) ∧
      (block t b).run.take = (if flag s .block b f_BLOCK_REACH_CTRL_FP_EN = true then localFlag (xlat s (b / 6) (fld s .block b f_BLOCK_FP_MARKS_TAKE)) else none) ∧
      (∀ r i, (block t b).run.take = some (r, i) → (flagAt t r i).set = false ∧ fld t .block b f_BLOCK_REACH_STATUS_LEVEL =
        (if reachState s b = 0 then 0 else fld s .block b f_BLOCK_REACH_STATUS_LEVEL) - (if (flagAt s r i).set = true then 1 else 0)) ∧
      (∀ r i, (block t b).run.take ≠ some (r, i) → flagAt t r i = flagAt s r i) ∧ t.cells = s.cells ∧ t.hbm = s.hbm) ∧
    (∀ n, armRefusal s b = some n → ∃ t, exec (.reachArm secure b) s = .next t ∧ reachState t b = reachState s b ∧ t.blocks = s.blocks ∧
      fld t .block b f_BLOCK_REACH_STATUS_REFUSE = n ∧ bitN (reg t .block b o_COMMON_IRQ_PENDING).toNat 12 = true) ∧
    (isMember s b = false → reachState s b = 1 ∨ reachState s b = 4 → ∃ t, exec (.reachDisarm secure b) s = .next t ∧ reachState t b = 0 ∧
      (block t b).run = { lastStart := (block s b).run.lastStart } ∧ t.cells = s.cells) ∧
    (isMember s b = false → reachState s b = 2 ∨ reachState s b = 3 → ∃ t, exec (.reachDisarm secure b) s = .next t ∧
      reachState t b = reachState s b ∧ flag t .block b f_BLOCK_REACH_STATUS_DISARM_PEND = true ∧ t.blocks = s.blocks ∧ t.cells = s.cells) ∧
    (reachState s b = 2 → ∃ t, exec (.reachAbort secure b) s = .next t ∧ (block t b).run.aborted = true ∧
      (∀ x ∈ runGroups s b, group t x.1 x.2 = {}) ∧ t.hbm = s.hbm) ∧
    (∃ t, exec (.fpTake secure b) s = .next t ∧ fld t .block b f_BLOCK_REACH_STATUS_LEVEL = fld s .block b f_BLOCK_REACH_STATUS_LEVEL - 1 ∧
      reachState t b = reachState s b ∧ t.blocks = s.blocks ∧ t.cells = s.cells)

/-- R128, R211, R216, R223: an ARMED reach whose start condition holds claims its input flags, clears those with CONSUME and no others,
and launches its groups in every cell of its blocks, with the registers that R128 gives; otherwise nothing changes. The end of a pacing
period that has passed makes the reach evaluate its condition; before that it changes nothing. -/
def Sys2Proof.Claims.ReachLaunch : Prop :=
  ∀ (s : State) (b : Nat), inReset s = false → present s .block b = true →
    (∀ c, c = Instr.reachClaim b ∨ c = Instr.fpPeriodExpire b ∧ periodPassed s b = true → startMet s b = true →
      (block s b).run.ins.Pairwise (fun x y => ¬(x.1 = y.1 ∧ x.2.1 = y.2.1)) → ((block s b).run.blocks.flatMap (cellsIn s)).Nodup →
      ∃ t, exec c s = .next t ∧ reachState t b = 2 ∧ t.hbm = s.hbm ∧
        (block t b).run.lastStart = some s.time.toNat ∧
        (∀ x ∈ (block s b).run.ins, (flagAt t x.1 x.2.1).set = !x.2.2) ∧
        (∀ r i, (∀ x ∈ (block s b).run.ins, ¬(x.1 = r ∧ x.2.1 = i)) → flagAt t r i = flagAt s r i) ∧
        (∀ j c g, ((block s b).run.blocks.flatMap (cellsIn s))[j]? = some c → g < fld s .block b f_BLOCK_REACH_SHAPE_GROUPS →
          let k := group t c g
          let lanes := fld s .block b f_BLOCK_REACH_SHAPE_LANES
          k.st = .run ∧ k.pc = fld s .block b f_BLOCK_REACH_PROG_HI_BASE_HI * 2 ^ 32 + fld s .block b f_BLOCK_REACH_PROG_LO_BASE_LO * 8 ∧ k.base = k.pc ∧
          k.active = BitVec.ofNat 32 (2 ^ lanes - 1) ∧ k.resident = k.active ∧ k.alloc = 8 * fld s .block b f_BLOCK_REACH_SHAPE_ALLOC_U ∧
          k.stack = [] ∧ k.gstat = 0 ∧ k.lead = b ∧ (∀ l, l < 32 → getV k 0 l = BitVec.ofNat 32 l) ∧
          getU k 1 = BitVec.ofNat 64 c ∧ getU k 2 = BitVec.ofNat 64 g ∧ getU k 3 = BitVec.ofNat 64 j ∧
          getU k 4 = BitVec.ofNat 64 ((block s b).run.blocks.flatMap (cellsIn s)).length ∧
          getU k 5 = BitVec.ofNat 64 (fld s .block b f_BLOCK_REACH_SHAPE_GROUPS) ∧ getU k 6 = BitVec.ofNat 64 k.label.toNat ∧
          (cell t c).icache = [] ∧ (cell t c).lm = (cell s c).lm)) ∧
    (startMet s b = false → exec (.reachClaim b) s = .next s ∧ exec (.fpPeriodExpire b) s = .next s) ∧
    (periodPassed s b = false → exec (.fpPeriodExpire b) s = .next s)

/-- R214, R218, R219: a RUNNING reach whose last group is free is COMPLETING; it settles with its outcome in LAST. After OK it sets its
output flags, counts in REACH_RUNS and is ARMED again under REPEAT, else OFF; after a failure it raises bit 11 and is HALTED. Host
software wants every region that is ON here, so that none stops. No page is frozen. -/
def Sys2Proof.Claims.ReachSettles : Prop :=
  ∀ (s : State) (b : Nat), inReset s = false → thawed s = true → present s .block b = true →
    (reachState s b = 2 → runGroups s b = [] → ∃ t, exec (.reachLastGroupFree b) s = .next t ∧ reachState t b = 3 ∧ t.blocks = s.blocks ∧ t.cells = s.cells) ∧
    (reachState s b = 3 → flag s .block b f_BLOCK_REACH_STATUS_DISARM_PEND = false →
      allWanted s →
      (outcome s b = 1 →
        (∀ x ∈ (block s b).run.outs, ∃ r i, x.2 = .loc r i ∧ takerOf s r i = none ∧ flagSecure s r i = false) →
        ∃ t, exec (.reachSettle b) s = .next t ∧ fld t .block b f_BLOCK_REACH_STATUS_LAST = 1 ∧
          reachState t b = (if flag s .block b f_BLOCK_REACH_CTRL_REPEAT = true then 1 else 0) ∧
          (∀ x ∈ (block s b).run.outs, ∀ r i, x.2 = .loc r i → (flagAt t r i).set = true) ∧
          (fld s .trace 0 f_TRACE_PERF_CTRL_FREEZE = 0 → bitsN (ctr t .block b o_BLOCK_REACH_RUNS).toNat 47 0 =
            (bitsN (ctr s .block b o_BLOCK_REACH_RUNS).toNat 47 0 + 1) % 2 ^ 48) ∧ t.cells = s.cells ∧ t.hbm = s.hbm) ∧
      (outcome s b ≠ 1 → ∃ t, exec (.reachSettle b) s = .next t ∧ fld t .block b f_BLOCK_REACH_STATUS_LAST = outcome s b ∧
        reachState t b = 4 ∧ bitN (reg t .block b o_COMMON_IRQ_PENDING).toNat 11 = true ∧ t.regions = s.regions ∧ t.cells = s.cells))

/-- Both of ReachLaunch and ReachSettles: see the claims above. -/
def Obligations.ReachLaunchesAndSettles : Prop := Sys2Proof.Claims.ReachLaunch ∧ Sys2Proof.Claims.ReachSettles

/-- R224, R231, R232, R236: host software's flag writes. A set gives a clear flag no holder and leaves a set one as it is; the set of a clear
take flag is consumed at once, with one off LEVEL; a clear erases the holder; no other flag changes. A write to a secure segment by a request that is not secure changes no flag and raises the region's bit 0. No page is frozen. -/
def Sys2Proof.Claims.HostFlagWrites : Prop :=
  ∀ (s : State) (secure : Bool) (r i : Nat), reaches s secure .region r → thawed s = true → r < 32 → i < 4096 →
    (flagSecure s r i = false ∨ hostSecure s secure = true →
      (takerOf s r i = none → ∃ t, exec (.flagSet secure r i) s = .next t ∧
        flagAt t r i = (if (flagAt s r i).set = true then flagAt s r i else { set := true }) ∧
        (∀ r' i', ¬(r' = r ∧ i' = i) → flagAt t r' i' = flagAt s r' i') ∧ t.pages = s.pages ∧ t.cells = s.cells) ∧
      (∀ b, takerOf s r i = some b → (flagAt s r i).set = false → ∃ t, exec (.flagSet secure r i) s = .next t ∧ t.regions = s.regions ∧
        fld t .block b f_BLOCK_REACH_STATUS_LEVEL = fld s .block b f_BLOCK_REACH_STATUS_LEVEL - 1 ∧ t.blocks = s.blocks ∧ t.cells = s.cells) ∧
      (∃ t, exec (.flagClr secure r i) s = .next t ∧ flagAt t r i = {} ∧
        (∀ r' i', ¬(r' = r ∧ i' = i) → flagAt t r' i' = flagAt s r' i') ∧ t.pages = s.pages ∧ t.cells = s.cells)) ∧
    (flagSecure s r i = true → hostSecure s secure = false → ∀ c, c = Instr.flagSet secure r i ∨ c = Instr.flagClr secure r i →
      ∃ t, exec c s = .next t ∧ t.regions = s.regions ∧ bitN (reg t .region r o_COMMON_IRQ_PENDING).toNat 0 = true)

/-- R34, R35, R37: the phase RUN. A write of RUN = 1 enters it from READY and is refused elsewhere; RUN = 0 leaves the phase as it is until
every partition is drained, and then the phase is READY. -/
def Sys2Proof.Claims.RunPhase : Prop :=
  ∀ (s : State) (secure : Bool), reaches s secure .chip 0 →
    (phase s = 2 → ∃ t, exec (.runEnter secure) s = .next t ∧ phase t = 3 ∧ fld t .chip 0 f_CHIP_CTRL_RUN = 1 ∧ t.chores.runEnding = false ∧
      t.cells = s.cells ∧ t.blocks = s.blocks) ∧
    (phase s ≠ 2 → ∃ t, exec (.runEnter secure) s = .next t ∧ phase t = phase s ∧ fld t .chip 0 f_CHIP_CTRL_RUN = 1 ∧
      t.chores = s.chores ∧ fld t .chip 0 f_CHIP_STATE_RUN_REFUSED = 1 ∧ t.cells = s.cells ∧ t.blocks = s.blocks) ∧
    (∃ t, exec (.runLeave secure) s = .next t ∧ phase t = phase s ∧ fld t .chip 0 f_CHIP_CTRL_RUN = 0 ∧
      (phase s = 3 → t.chores.runEnding = true) ∧ t.cells = s.cells) ∧
    (phase s = 3 → s.chores.runEnding = true → (∀ p, p < 8 → partDrained s p = true) →
      ∃ t, exec .runDrained s = .next t ∧ phase t = 2 ∧ t.cells = s.cells ∧ t.blocks = s.blocks)

/-- R247, R248, R434: a partition reset that nothing hinders stops its cells, and when its requests have returned leaves its flags clear, its
groups gone and, where host software wants every region that is ON, its local memory as it was; a deferred CACHE power-down stops every region of a drained partition that lends no rail. -/
def Sys2Proof.Claims.PartitionCommands : Prop :=
  ∀ (s : State) (secure : Bool) (p : Nat), p < 8 →
    (reaches s secure .chip 0 → phase s = 2 ∨ phase s = 3 → s.chores.parts = [] → s.chores.unit = none →
      ∃ t, exec (.partReset secure p) s = .next t ∧ t.chores.parts = [p] ∧ flag t .chip 0 (f_CHIP_PART_STATUS_RESETTING p) = true ∧
        flag t .chip 0 f_CHIP_RESET_STATUS_BUSY = true ∧
        (∀ r c, r ∈ regionsOfPart s p → c ∈ cellsOfRegion r → (cell t c).resetting = true ∧ (cell t c).groups = (cell s c).groups) ∧ t.hbm = s.hbm) ∧
    (inReset s = false → p ∈ s.chores.parts → partIdle s p = true → ∃ t, exec (.partResetDone p) s = .next t ∧
      p ∉ t.chores.parts ∧ flag t .chip 0 (f_CHIP_PART_STATUS_RESETTING p) = false ∧ t.hbm = s.hbm ∧
      (∀ r, r ∈ regionsOfPart s p → (∀ i, flagAt t r i = {}) ∧
        (∀ c, c ∈ cellsOfRegion r → (∀ g, group t c g = {}) ∧ (allWanted s → (cell t c).lm = (cell s c).lm)))) ∧
    (inReset s = false → flag s .chip 0 (f_CHIP_PART_STATUS_DEFERRED p) = true → partDrained s p = true →
      ∃ t, exec (.cachePowerDown p) s = .next t ∧ flag t .chip 0 (f_CHIP_PART_STATUS_DEFERRED p) = false ∧ t.hbm = s.hbm ∧
        (∀ r, r < 32 → partOfRegion s r = some p → regionOn s r = true → flag s .pwr 0 (f_PWR_REG_STATUS_LEND r) = false → regionState t r = 5))

/-- All of HostFlagWrites, RunPhase, PartitionCommands: see the claims above. -/
def Obligations.HostFlagsAndPartitions : Prop := Sys2Proof.Claims.HostFlagWrites ∧ Sys2Proof.Claims.RunPhase ∧ Sys2Proof.Claims.PartitionCommands

/-! ## Shadow registers and switches of placement (chapters 07, 08 and 14) -/

/-- R488 to R490, R494: a strobe by host software stages every powered page that it names: each staged copy takes its shadow copy, the
page waits for its safe points and is DIRTY no more, and no active copy changes. A page whose shadow mismatches stages nothing and sets
PARITY. -/
def Sys2Proof.Claims.StrobeStages : Prop :=
  ∀ (s : State) (secure : Bool) (groups : Nat) (bad : List ((PageKind × Nat) × Nat)) (k : PageKind) (i : Nat), reaches s secure .chip 0 →
    groups < 65536 → (∀ x ∈ bad, x.2 < 4096) → (k, i) ∈ shadowPages s.part → names s groups k i = true → unitOn s k i = true →
    ∃ t, exec (.strobe secure groups bad) s = .next t ∧ t.hbm = s.hbm ∧ t.cells = s.cells ∧ t.slices = s.slices ∧
      (∀ off, regShd t k i off = regShd s k i off) ∧
      ((∀ y ∈ bad, y.1 ≠ (k, i)) → (page t k i).waiting = setsOf k ∧ (∀ off, regStg t k i off = regShd s k i off) ∧
        (∀ off, off ≠ o_COMMON_SHADOW_STATE → reg t k i off = reg s k i off) ∧ flag t k i f_COMMON_SHADOW_STATE_DIRTY = false) ∧
      (∀ off rest, bad = ((k, i), off) :: rest → flag t k i f_COMMON_SHADOW_STATE_PARITY = true ∧
        (k ≠ .chip → ∀ o, regStg t k i o = regStg s k i o))

/-- R491, R494, R495: the safe point of the plain fields of a page that has no rules of its own. Every RW-S field takes its staged value,
no other register but SHADOW_STATE changes, and nothing waits any more. A staged mismatch drops what waits and sets PARITY; a mismatch of
an active copy freezes the page, whatever it is, with the register in PARITY_ERR, and raises bit 2 of the CHIP page. -/
def Sys2Proof.Claims.SafePoint : Prop :=
  ∀ (s : State) (k : PageKind) (i : Nat), inReset s = false → present s k i = true → unitOn s k i = true →
    (frozen s k i = false → reportHolds s k = false → k ∉ [PageKind.sec, .fab, .port, .pwr, .therm, .cal, .hbm, .block] → 0 ∈ setsOf k →
      (page s k i).waiting = [0] → ∃ t, exec (.stagedApply k i none) s = .next t ∧ (page t k i).waiting = [] ∧
        (∀ off, setOf k off = 0 → reg t k i off = if off = o_COMMON_SHADOW_STATE then reg t k i off
          else (reg s k i off &&& ~~~(rwMask k off)) ||| (regStg s k i off &&& rwMask k off)) ∧
        (∀ k' i', pageNo k' i' ≠ pageNo k i → page t k' i' = page s k' i') ∧ t.hbm = s.hbm ∧ t.cells = s.cells) ∧
    (∀ off, off < 4096 → off % 4 = 0 →
      ((page s k i).waiting ≠ [] → k ≠ .chip → ∃ t, exec (.stagedApply k i (some (false, off))) s = .next t ∧ (page t k i).waiting = [] ∧
        flag t k i f_COMMON_SHADOW_STATE_PARITY = true ∧ (∀ o, regStg t k i o = regStg s k i o) ∧ t.hbm = s.hbm) ∧
      (∃ t, exec (.stagedApply k i (some (true, off))) s = .next t ∧ frozen t k i = true ∧ flag t k i f_COMMON_PARITY_ERR_VALID = true ∧
        bitN (reg t .chip 0 o_COMMON_IRQ_PENDING).toNat 2 = true ∧ t.hbm = s.hbm))

/-- R232, R495: a frozen unit does nothing until its recovery. In a frozen cell no group issues, and no event of the array or, where its
block is frozen, of its copies changes anything. A frozen block's reach takes no command, its reach does not start, end or settle, and its
loads stand still. A frozen slice holds its lines and serves none of its own commands. A frozen port takes and sends nothing. A flag write by
host software to a frozen region waits behind those that wait there already. -/
def Sys2Proof.Claims.FrozenUnits : Prop :=
  ∀ (s : State),
    (∀ c, cellFrozen s c = true → (∀ g, canIssue s c g = false) ∧ ∀ i ∈ [Instr.mxOpStart c, .mxHazardRelease c, .mxTileFillDone c false,
      .mxTileFillDone c true, .mxBeat c 0, .mxDrainRow c, .mxOpComplete c], exec i s = .next s) ∧
    (∀ c, frozen s .block (blockOfCell s c) = true → exec (.copyLineDone c) s = .next s ∧ exec (.copyComplete c) s = .next s) ∧
    (∀ b, reachFrozen s b = true → startMet s b = false ∧ exec (.reachLastGroupFree b) s = .next s ∧ exec (.reachSettle b) s = .next s) ∧
    (∀ b secure, frozen s .block b = true → ∀ i ∈ [Instr.reachArm secure b, .reachDisarm secure b, .reachAbort secure b, .fpTake secure b,
      .sfLoadResume b, .sfLoadLine b], exec i s = .next s) ∧
    (∀ sl, sliceFrozen s sl = true → (∀ l, (placeOf s l).slice = sl → lineHeld s l = true) ∧ (∀ id, exec (.qosGrant (.slice sl id)) s = .next s) ∧
      (∀ l, ∀ i ∈ [Instr.sliceFillLanded sl l, .sliceWritebackDone sl l, .bypassRetry sl l, .holdExpire sl l, .maintDone sl, .sliceRetireDone sl,
        .bondWindowEnd sl, .bucketLeak false sl 0, .scourLine false sl], exec i s = .next s)) ∧
    (∀ p, portFrozen s p = true → (∀ i, exec (.qosGrant (.port p i)) s = .next s) ∧ (∀ k corr uncorr, exec (.fabPacketReceived p k corr uncorr) s = .next s) ∧
      ∀ i ∈ [Instr.portSignalDetect p, .portLockLoss p, .linkHoldExpire p, .replayTimeout p, .lcpTimer p, .fabRdReceived p, .fabWrReceived p,
        .fabRedReceived p, .fabAtomReceived p, .fabFlagReceived p, .authChal p, .authFin p], exec i s = .next s) ∧
    (∀ secure r i (v : Bool), reaches s secure .region r → frozen s .region r = true → i < 4096 →
      exec (if v = true then .flagSet secure r i else .flagClr secure r i) s =
        .next (setRegion s r { region s r with held := (region s r).held ++ [(i, v, hostSecure s secure)] }))

/-- R209, R210: the safe point of a block's reach fields. While its reach is neither OFF nor HALTED nothing applies; a bad shape is
refused with its code and leaves every active field; otherwise each reach register takes its staged fields. -/
def Sys2Proof.Claims.ReachSafePoint : Prop :=
  ∀ (s : State) (b : Nat), inReset s = false → present s .block b = true → unitOn s .block b = true → frozen s .block b = false →
    reportHolds s .block = false → (page s .block b).waiting = [1] →
    (reachFree s b = false → exec (.stagedApply .block b none) s = .next s) ∧
    (reachFree s b = true → reachBad s b ≠ 0 → ∃ t, exec (.stagedApply .block b none) s = .next t ∧ (page t .block b).waiting = [] ∧
      fld t .block b f_BLOCK_REACH_STATUS_REFUSE = reachBad s b ∧ bitN (reg t .block b o_COMMON_IRQ_PENDING).toNat 12 = true ∧
      (∀ off, isShadowed .block off = true → reg t .block b off = reg s .block b off) ∧ t.blocks = s.blocks) ∧
    (reachFree s b = true → reachBad s b = 0 → ∃ t, exec (.stagedApply .block b none) s = .next t ∧ (page t .block b).waiting = [] ∧
      (∀ off, isShadowed .block off = true → setOf .block off = 1 →
        reg t .block b off = (reg s .block b off &&& ~~~(rwMask .block off)) ||| (regStg s .block b off &&& rwMask .block off)) ∧ t.blocks = s.blocks)

/-- All of SafePoint, FrozenUnits, ReachSafePoint: see the claims above. -/
def Obligations.SafePointsCommitBoundaries : Prop := Sys2Proof.Claims.SafePoint ∧ Sys2Proof.Claims.FrozenUnits ∧ Sys2Proof.Claims.ReachSafePoint

/-- R239, R266, R292, R493: RESHADOW gives every shadow the value that will govern; the end of a stream window's switch, of a remap entry's
and of the full/empty window's, once no fetch of their lines is in flight and no full/empty access waits, brings the fields that passed
their checks into force, and a new full/empty window has every word EMPTY. While a fetch is in flight the switch goes on. Nothing
holds the CHIP page here. -/
def Sys2Proof.Claims.ReshadowAndSwitches : Prop :=
  ∀ (s : State) (secure : Bool),
    (∀ k i, reaches s secure k i → i < 1440 → kindShadowed k = true → ∃ t, exec (.reshadow secure k i) s = .next t ∧
      (∀ off, isShadowed k off = true → regShd t k i off = futureReg s k i off) ∧ flag t k i f_COMMON_SHADOW_STATE_DIRTY = false ∧
      (∀ off, off ≠ o_COMMON_SHADOW_STATE → reg t k i off = reg s k i off) ∧ t.hbm = s.hbm ∧ t.cells = s.cells) ∧
    (inReset s = false → chipHeld s = false → ∀ n, n < 32 → switching s n = true → swinStaged s n = swinTo s n →
      (fetchBusy s (fun _ => true) (inEither (swin s n) (swinTo s n)) = true → exec (.swinSwitchDone false n) s = .next s) ∧
      (fetchBusy s (fun _ => true) (inEither (swin s n) (swinTo s n)) = false →
      ∃ t, exec (.swinSwitchDone false n) s = .next t ∧ switching t n = false ∧ t.cells = s.cells ∧
        differs t .chip 0 (o_CHIP_SWIN_BASE n) = false ∧ differs t .chip 0 (o_CHIP_SWIN_LIMIT n) = false ∧ differs t .chip 0 (o_CHIP_SWIN_CFG n) = false)) ∧
    (inReset s = false → chipHeld s = false → ∀ n, n < 128 → n ∈ s.cache.remapSw → regStg s .chip 0 (o_CHIP_SLICE_REMAP n) = remapNext s n →
      fetchBusy s (fun _ => true) (lineOfSlice s n) = false → ∃ t, exec (.swinSwitchDone true n) s = .next t ∧ n ∉ t.cache.remapSw ∧
      differs t .chip 0 (o_CHIP_SLICE_REMAP n) = false ∧ t.cells = s.cells) ∧
    (inReset s = false → chipHeld s = false → s.cache.feSw = true → feWaiting s = false → feStaged s = s.cache.feTo →
      fetchBusy s (fun _ => true) (fun l => inFe (feActive s).1.toNat (feActive s).2.toNat l || inFe s.cache.feTo.1.toNat s.cache.feTo.2.toNat l) = false →
      ∃ t, exec .feWindowSwitchDone s = .next t ∧ t.cache.feSw = false ∧ (s.cache.feTo = feActive s → t.slices = s.slices) ∧
      (s.cache.feTo ≠ feActive s → ∀ sl, (slice t sl).feFull = []) ∧ differs t .chip 0 o_CHIP_FE_BASE = false ∧ differs t .chip 0 o_CHIP_FE_CTRL = false ∧ t.cells = s.cells)

/-- Both of StrobeStages and ReshadowAndSwitches: see the claims above. -/
def Obligations.StrobesAndShadows : Prop := Sys2Proof.Claims.StrobeStages ∧ Sys2Proof.Claims.ReshadowAndSwitches

/-! ## The cache die, the HBM, integrity and arbitration (chapters 07, 08, 10 and 11) -/

/-- R277, R278, R282, R284, R287, R379: a read and a write at a slice that holds the line, its transfer sound. A request that was not
answered as it entered a miss register is answered now: a read with the line as it is, and it clears HOLD. A whole-line write replaces the line with its check value and form; another changes the bytes of its
mask alone and gives the line a new check value, after a verification whose failure poisons every word. -/
def Obligations.SliceReadsWrites : Prop :=
  ∀ (s : State) (id : Nat) (q : Req) (sl key : Nat), hitsWay s id q sl key →
    let w := wayAt s sl key
    (∀ words, q.op = .read words → w.body.av = false → ∃ t, exec (.sliceRead id .none) s = .next t ∧
      t.resps = (respond s q (.data w.body.data w.body.pois false false)).resps ∧
      t.reqs = s.reqs.filter (fun x => x.id != id) ∧ (wayAt t sl key).body = w.body ∧ (wayAt t sl key).hold = false ∧
      (wayAt t sl key).dirty = w.dirty ∧ t.hbm = s.hbm ∧ t.cells = s.cells) ∧
    (∀ d m p c wd, q.op = .write d m p true c wd → ∃ t, exec (.sliceWrite id .none) s = .next t ∧
      t.resps = (respond s q .accepted).resps ∧ (wayAt t sl key).body = wholeBody d p c wd ∧ (wayAt t sl key).dirty = true ∧
      (wayAt t sl key).hold = false ∧ t.hbm = s.hbm ∧ t.cells = s.cells) ∧
    (∀ d m p c, q.op = .write d m p false c none → checkOk q.line w.body = true → ∃ t, exec (.sliceWrite id .none) s = .next t ∧
      t.resps = (respond s q .accepted).resps ∧ (wayAt t sl key).dirty = true ∧
      (∀ i, i < 256 → lineByte (wayAt t sl key).body.data i = if bitN m.toNat i = true then lineByte d i else lineByte w.body.data i) ∧
      (wayAt t sl key).body.pois = (w.body.pois ||| (p &&& wordsTouched m)) ∧ (wayAt t sl key).body.av = w.body.av ∧
      (wayAt t sl key).body.chk = formValue q.line (wayAt t sl key).body ∧ t.hbm = s.hbm ∧ t.cells = s.cells) ∧
    (∀ d m p c, q.op = .write d m p false c none → checkOk q.line w.body = false → ∃ t, exec (.sliceWrite id .none) s = .next t ∧
      t.resps = (respond s q .accepted).resps ∧ (wayAt t sl key).body.data = w.body.data ∧ (wayAt t sl key).body.pois = allWords ∧
      bitN (reg t .slice sl o_COMMON_IRQ_PENDING).toNat 6 = true ∧ t.hbm = s.hbm)

/-- R145, R276, R279 to R281, R284: an atomic, a contribution and a DEAD hint at a slice that holds the line unpoisoned and verified. A
fetch-add or compare-and-swap answers the old word and changes that word, poisoned where its operand came poisoned; ADD.W adds exactly to a partial of a line with the same anchor
and refuses another anchor, poisoning the line; FP32 and MAX or MIN change their element; an accepted contribution sets HOLD. -/
def Obligations.SliceCombines : Prop :=
  ∀ (s : State) (id : Nat) (q : Req) (sl key : Nat), hitsWay s id q sl key → (wayAt s sl key).body.pois = 0 →
    checkOk q.line (wayAt s sl key).body = true →
    let w := wayAt s sl key
    (∀ cas i x y p, q.op = .atd cas [(i, x, y)] p → i < 32 → ∃ t, exec (.sliceAtd id .none) s = .next t ∧
      t.resps = (respond s q (.olds [(lineWord w.body.data i, false)])).resps ∧
      lineWord (wayAt t sl key).body.data i = (if cas = true then (if lineWord w.body.data i = x then y else lineWord w.body.data i)
        else lineWord w.body.data i + x) ∧
      (∀ j, j < 32 → j ≠ i → lineWord (wayAt t sl key).body.data j = lineWord w.body.data j) ∧
      (wayAt t sl key).body.pois = p &&& BitVec.ofNat 32 (2 ^ i) ∧ (wayAt t sl key).body.chk = formValue q.line (wayAt t sl key).body ∧
      (wayAt t sl key).hold = false ∧ t.hbm = s.hbm) ∧
    (∀ a v, q.op = .addW a [v] → v.idx < 16 → v.pois = false → v.ovf = false → v.spec = 0 → w.body.av = true →
      (w.body.anchor = a → bitN w.body.ovf.toNat v.idx = false → specAt w.body.spec v.idx = 0 →
        wideMin ≤ partialN w.body.data v.idx + v.n → partialN w.body.data v.idx + v.n ≤ wideMax →
        ∃ t, exec (.addWContribution id .none) s = .next t ∧ t.resps = (respond s q .accepted).resps ∧
          partialN (wayAt t sl key).body.data v.idx = partialN w.body.data v.idx + v.n ∧
          (∀ j, j < 16 → j ≠ v.idx → partialN (wayAt t sl key).body.data j = partialN w.body.data j) ∧
          (wayAt t sl key).body.pois = 0 ∧ (wayAt t sl key).hold = true ∧ t.hbm = s.hbm) ∧
      (w.body.anchor ≠ a → ∃ t, exec (.addWContribution id .none) s = .next t ∧
        t.resps = (respond s q (.refused 3)).resps ∧ (wayAt t sl key).body.pois = allWords ∧
        bitN (reg t .slice sl o_COMMON_IRQ_PENDING).toNat 1 = true ∧ t.hbm = s.hbm)) ∧
    (∀ i x f c, (q.op = .addF [(i, x, false)] ∧ f = f32Add ∧ c = Instr.addF32Contribution id .none) ∨
        (q.op = .maxMin false [(i, x, false)] ∧ f = f32Max ∧ c = Instr.maxMinContribution id .none) ∨
        (q.op = .maxMin true [(i, x, false)] ∧ f = f32Min ∧ c = Instr.maxMinContribution id .none) → i < 64 → w.body.av = false →
      ∃ t, exec c s = .next t ∧ t.resps = (respond s q .accepted).resps ∧
        lineF (wayAt t sl key).body.data i = f (lineF w.body.data i) x ∧
        (∀ j, j < 64 → j ≠ i → lineF (wayAt t sl key).body.data j = lineF w.body.data j) ∧ (wayAt t sl key).hold = true ∧ t.hbm = s.hbm) ∧
    (q.op = .dead → ∃ t, exec (.deadHint id) s = .next t ∧ t.resps = (respond s q .accepted).resps ∧
      (wayAt t sl key).dead = true ∧ (wayAt t sl key).dirty = false ∧ (wayAt t sl key).hold = false ∧ t.hbm = s.hbm)

/-- R271, R273, R275, R284, R288, R308: a read that misses takes a miss register and waits; the fill that its channel granted puts the
line in the way that R268 chose and answers it; an accepted writeback ends; a reduction that waited takes its way; and a hold expires
once the time of its code has passed since the last contribution, the line keeping its contents. No page is frozen. -/
def Sys2Proof.Claims.MissesAndFills : Prop :=
  ∀ (s : State) (sl l : Nat), inReset s = false → thawed s = true → sl < 128 →
    (∀ id q words, nextReq s id = some q → q.line = l → q.op = .read words → lineHeld (takenOff s id) l = false → feLine s l = none →
      sl = (placeOf s l).slice → lineKey s sl (placeOf s l).set l = none → (slice s sl).wbs.any (fun x => x.line == l) = false →
      missOf s sl l = none → (slice s sl).miss.length < 256 →
      ∃ t, exec (.sliceRead id .none) s = .next t ∧ (slice t sl).miss = (slice s sl).miss ++ [⟨l, [q], none, s.nextId⟩] ∧ t.resps = s.resps ∧
        (slice t sl).ways = (slice s sl).ways ∧ t.hbm = s.hbm) ∧
    (∀ q words w n, hbmGranted s sl l false = true → l ∉ s.cache.lost → missOf s sl l = some ⟨l, [q], none, n⟩ → q.line = l → q.op = .read words →
      chooseWay s sl (placeOf s l).set q = .take w → w < 24 → (wayAt s sl (wayKey (placeOf s l).set w)).valid = false →
      s.hbm.syn = [] → formOf l (memLine s.hbm.mem l) (entryOf s l) = some .plain → flag s .slice sl f_SLICE_FLIP_CTRL_ARM = false →
      ∃ t, exec (.sliceFillLanded sl l) s = .next t ∧
        t.resps = (respond s q (.data (memLine s.hbm.mem l) 0 false false)).resps ∧ missOf t sl l = none ∧
        (wayAt t sl (wayKey (placeOf s l).set w)).valid = true ∧ (wayAt t sl (wayKey (placeOf s l).set w)).tag = l ∧
        (wayAt t sl (wayKey (placeOf s l).set w)).dirty = false ∧ (wayAt t sl (wayKey (placeOf s l).set w)).body.data = memLine s.hbm.mem l ∧
        t.hbm = s.hbm) ∧
    (hbmGranted s sl l true = true → ∃ t, exec (.sliceWritebackDone sl l) s = .next t ∧
      (slice t sl).wbs = (slice s sl).wbs.filter (fun x => x.line != l) ∧ (slice t sl).ways = (slice s sl).ways ∧ t.hbm = s.hbm) ∧
    (∀ q v b w n, missOf s sl l = some ⟨l, [q], some (b, false), n⟩ → q.line = l → q.op = .addF [v] → b.av = false → b.pois = 0 → b.syn = [] →
      checkOk l b = true → v.1 < 64 → v.2.2 = false → chooseWay s sl (placeOf s l).set q = .take w → w < 24 →
      (wayAt s sl (wayKey (placeOf s l).set w)).valid = false → flag s .slice sl f_SLICE_FLIP_CTRL_ARM = false →
      ∃ t, exec (.bypassRetry sl l) s = .next t ∧ t.resps = (respond s q .accepted).resps ∧ missOf t sl l = none ∧
        (wayAt t sl (wayKey (placeOf s l).set w)).hold = true ∧ (wayAt t sl (wayKey (placeOf s l).set w)).dirty = true ∧
        lineF (wayAt t sl (wayKey (placeOf s l).set w)).body.data v.1 = f32Add (lineF b.data v.1) v.2.1 ∧ t.hbm = s.hbm) ∧
    (∀ k, keyOfLine s sl l = some k → (wayAt s sl k).hold = true →
      let h := fld s .slice sl f_SLICE_RED_CTRL_HOLD
      let late := (wayAt s sl k).heldAt + 2 ^ (h + 3) * 1000 ≤ s.time.toNat
      (h ≠ 0 → late → exec (.holdExpire sl l) s = .next (setWay s sl k { wayAt s sl k with hold := false })) ∧
      (h = 0 ∨ ¬late → exec (.holdExpire sl l) s = .next s))

/-- R305, R307, R308: a PLAIN line written to HBM with no flip mask armed is read back as it was, with its check value; no byte of another
line changes. -/
def Sys2Proof.Claims.WritebackReadsBack : Prop :=
  ∀ (s : State) (l src : Nat) (lbl : Byte) (b : Body), backed l = true → b.av = false → b.pois = 0 → b.syn = [] → b.spec = 0 → b.ovf = 0 → b.anchor = 0 →
    checkValue .plain l b.data = b.chk → flag s .hbm (owner l / 16) f_HBM_FLIP_CTRL_ARM = false →
    (hbmFetch (hbmWriteBody s l b) l src lbl).2 = ⟨b, false, false⟩ ∧
    (∀ i, i < 256 → memByte (hbmWriteBody s l b).hbm.mem (256 * l + i) = lineByte b.data i) ∧
    (∀ a, a / 256 ≠ l → memByte (hbmWriteBody s l b).hbm.mem a = memByte s.hbm.mem a)

/-- Both of MissesAndFills and WritebackReadsBack: see the claims above. -/
def Obligations.MissesFillsAndWritebacks : Prop := Sys2Proof.Claims.MissesAndFills ∧ Sys2Proof.Claims.WritebackReadsBack

/-- R291, R296, R386, R393, R395, R401: host software's commands to a slice and what ends them. WB leaves no dirty line, WBI no line at
all, INV_REMOTE no line of a fabric window and HBM as it was; each is BUSY until it is done and raises bit 3 then. A retired slice
is written back and empty, once no fetch for it is in flight. The logs empty; the wire counts clear at the end of each window, and a
bucket leaks one unit each time its period has passed. No page is frozen. -/
def Obligations.SliceMaintenance : Prop :=
  ∀ (s : State) (sl : Nat), sl < 128 → thawed s = true →
    (∀ secure, reaches s secure .slice sl → flag s .slice sl f_SLICE_MAINT_STATUS_BUSY = false →
      (∃ t, exec (.maintWb secure sl) s = .next t ∧ flag t .slice sl f_SLICE_MAINT_STATUS_BUSY = true ∧
        (∀ k, (wayAt t sl k).dirty = true → (wayAt t sl k).remote = true ∨ (wayAt t sl k).dead = true ∨ (wayAt t sl k).valid = false)) ∧
      (∃ t, exec (.maintWbi secure sl) s = .next t ∧ flag t .slice sl f_SLICE_MAINT_STATUS_BUSY = true ∧ (∀ k, (wayAt t sl k).valid = false)) ∧
      (∃ t, exec (.maintInvRemote secure sl) s = .next t ∧ flag t .slice sl f_SLICE_MAINT_STATUS_BUSY = true ∧
        (∀ k, (wayAt t sl k).valid = true → (wayAt t sl k).remote = false) ∧ t.hbm = s.hbm ∧
        (∀ k, (wayAt s sl k).remote = false → mapWf (fun _ => {}) (slice s sl).ways = true → { wayAt t sl k with lru := 0 } = { wayAt s sl k with lru := 0 }))) ∧
    (inReset s = false → flag s .slice sl f_SLICE_MAINT_STATUS_BUSY = true → ∃ t, exec (.maintDone sl) s = .next t ∧
      flag t .slice sl f_SLICE_MAINT_STATUS_BUSY = false ∧ fld t .slice sl f_SLICE_MAINT_STATUS_RESULT = 1 ∧
      bitN (reg t .slice sl o_COMMON_IRQ_PENDING).toNat 3 = true ∧ (slice t sl).ways = (slice s sl).ways ∧ t.hbm = s.hbm) ∧
    (inReset s = false → fetchBusy s (· == sl) (fun _ => true) = true → exec (.sliceRetireDone sl) s = .next s) ∧
    (inReset s = false → (slice s sl).retiring = true → fetchBusy s (· == sl) (fun _ => true) = false → ∃ t, exec (.sliceRetireDone sl) s = .next t ∧ (slice t sl).retiring = false ∧
      flag t .slice sl f_SLICE_BOND_STATUS_RETIRED = true ∧ (∀ k, (wayAt t sl k).valid = false)) ∧
    (inReset s = false → exec (.bondWindowEnd sl) s = .next (if due s (.bond sl) (bondWindow s sl) = true
      then setSlice (passed s (.bond sl) (bondWindow s sl)) sl { slice s sl with wires := [] } else s)) ∧
    (∀ secure, reaches s secure .slice sl →
      (∃ t, exec (.sliceLogClr secure sl) s = .next t ∧ (slice t sl).log = [] ∧ reg t .slice sl o_SLICE_LOG_STATUS = 0 ∧ (slice t sl).elog = (slice s sl).elog) ∧
      (∃ t, exec (.errLogClr secure false sl) s = .next t ∧ (slice t sl).elog = [] ∧ reg t .slice sl o_SLICE_ERR_LOG_STATUS = 0 ∧ (slice t sl).log = (slice s sl).log)) ∧
    (inReset s = false →
      let due := (slice s sl).leakAt + leakPeriod s .slice sl o_SLICE_BUCKET_CFG
      (s.time.toNat < due → exec (.bucketLeak false sl 0) s = .next s) ∧
      (due ≤ s.time.toNat → ∃ t, exec (.bucketLeak false sl 0) s = .next t ∧ (slice t sl).leakAt = due ∧
        fld t .slice sl ⟨o_SLICE_BUCKET, 15, 0⟩ = fld s .slice sl ⟨o_SLICE_BUCKET, 15, 0⟩ - 1 ∧ (∀ k, wayAt t sl k = wayAt s sl k) ∧ t.hbm = s.hbm))

/-- R300, R311 to R316, R386 to R389: events of an HBM stack `b` and of the patrol. A poll shows the temperature; a retried command changes
no data; an idle pseudo-channel enters power-down; a lane fault is shown and raised; successful training with no flip mask armed clears the HBM and completes step
6. A patrol step that its spacing permits moves on by one way of a slice and leaves a sound line as it is; a pass that its period outruns is
late. No page is frozen. -/
def Obligations.HbmAndScour : Prop :=
  ∀ (s : State) (b : Nat), inReset s = false → thawed s = true → b < 8 →
    (∀ tc : Int, -128 ≤ tc → tc < 85 → fld s .hbm b f_HBM_STATUS_THROTTLE = 0 → flag s .hbm b f_HBM_STATUS_REFRESH_X2 = false →
      ∃ t, exec (.hbmTempPoll b true tc) s = .next t ∧ signed 8 (fld t .hbm b f_HBM_TEMP_T) = tc ∧ flag t .hbm b f_HBM_STATUS_TEMP_FAIL = false ∧
        flag t .hbm b f_HBM_STATUS_REFRESH_X2 = false ∧ fld t .hbm b f_HBM_STATUS_THROTTLE = 0 ∧ t.hbm = s.hbm) ∧
    (∃ t, exec (.hbmTempPoll b false 0) s = .next t ∧ flag t .hbm b f_HBM_STATUS_TEMP_FAIL = true ∧
      flag t .hbm b f_HBM_STATUS_REFRESH_X2 = true ∧ 1 ≤ fld t .hbm b f_HBM_STATUS_THROTTLE ∧ bitN (reg t .hbm b o_COMMON_IRQ_PENDING).toNat 2 = true) ∧
    (∀ sl l wr, sl < 128 → owner l / 16 = b → hbmGranted s sl l wr = true → ∃ t, exec (.hbmCaParityErr sl l wr true) s = .next t ∧
      hbmGranted t sl l wr = true ∧ t.hbm = s.hbm ∧ t.slices = s.slices) ∧
    (∀ c, c < 16 → ∃ t, exec (.hbmLaneParity b c true) s = .next t ∧ bitN (reg t .hbm b o_HBM_LANE_STATUS).toNat c = true ∧
      bitN (reg t .hbm b o_HBM_LANE_STATUS).toNat (16 + c) = true ∧ bitN (reg t .hbm b o_COMMON_IRQ_PENDING).toNat 3 = true) ∧
    (∀ n, n < 32 → flag s .hbm b f_HBM_CTRL_PDN_EN = true → pseudoIdle s b n = true → ∃ t, exec (.hbmPdnIdle b n) s = .next t ∧
      bitN (hbmc t b).pdn.toNat n = true ∧ (∀ m, m < 32 → m ≠ n → bitN (hbmc t b).pdn.toNat m = bitN (hbmc s b).pdn.toNat m) ∧ t.hbm = s.hbm) ∧
    (mayTrain s = true → ∃ t, exec (.hbmTrainDone (List.replicate 8 1)) s = .next t ∧ fld t .hbm b f_HBM_STATUS_TRAIN = 1 ∧
      ((∀ i, i < 8 → flag s .hbm i f_HBM_FLIP_CTRL_ARM = false) → t.hbm = {}) ∧ flag t .hbm b f_HBM_STATUS_SELF_REFRESH = false ∧
      (fld s .chip 0 f_CHIP_BRINGUP_STATUS_STEP = 5 → fld t .chip 0 f_CHIP_BRINGUP_STATUS_STEP = 6)) ∧
    (∀ sl, sl < 128 → sl / 16 = b → mayPatrolSlice s sl = true → (slice s sl).scour < 8192 * 24 → b ∉ s.chores.lateBand →
      let k := scourKey s sl (slice s sl).scour
      (wayAt s sl k).body.syn = [] → checkOk (homeLine s (wayAt s sl k).tag) (wayAt s sl k).body = true →
      ∃ t, exec (.scourLine false sl) s = .next t ∧ (slice t sl).scour = (slice s sl).scour + 1 ∧ (slice t sl).ways = (slice s sl).ways ∧ t.hbm = s.hbm) ∧
    (passEnded s false b = true → flag s .band b f_BAND_SCOUR_CTRL_EN = true → b ∉ s.chores.lateBand → bandDone s b = false → ∃ t, exec (.scourPeriodEnd false b) s = .next t ∧
      flag t .band b f_BAND_SCOUR_STATUS_LATE = true ∧ b ∈ t.chores.lateBand ∧ bitN (reg t .band b o_COMMON_IRQ_PENDING).toNat 0 = true)

/-- R397 to R400, R410: a check-value job starts with its fields latched, and the read of its last bytes gives the CRC; a GO while a job
is BUSY is refused. An arbiter grants the request that R410 lets it, which then may be served. No page is frozen. -/
def Obligations.ChecksAndGrants : Prop :=
  ∀ (s : State) (n : Nat), inReset s = false → thawed s = true →
    (∀ secure w, n < 16 → reaches s secure .chk n → fld s .chk n f_CHK_STATUS_STATE ≠ 1 → (reg s .chk n o_CHK_LEN).toNat ≠ 0 →
      fldW w 27 26 = 0 → ∃ t j, exec (.chkGo secure n w) s = .next t ∧ fld t .chk n f_CHK_STATUS_STATE = 1 ∧ (chkOf t n).job = some j ∧
        j.len = (reg s .chk n o_CHK_LEN).toNat ∧ j.pos = 0 ∧ j.crc64 = bitN w.toNat 25 ∧ j.reg = crcOnes j.crc64 ∧ j.ek600 = bitN w.toNat 30 ∧
        j.src = (reg s .chk n o_CHK_SRC_LO).toNat + fld s .chk n f_CHK_SRC_HI_ADDR_HI * 2 ^ 32 ∧ t.hbm = s.hbm) ∧
    (∀ secure w, n < 16 → reaches s secure .chk n → fld s .chk n f_CHK_STATUS_STATE = 1 → ∃ t, exec (.chkGo secure n w) s = .next t ∧
      t.chk = s.chk ∧ flag t .chk n f_CHK_STATUS_REFUSED = true ∧ bitN (reg t .chk n o_COMMON_IRQ_PENDING).toNat 3 = true) ∧
    (∀ j s' d, n < 16 → (chkOf s n).job = some j → j.out = none → j.ek600 = false → j.pos < j.len → (chkNext j).2 = j.len - j.pos →
      masterEntry s j.label j.secure (chkNext j).1 true false = (s, .hbm) →
      readWhole { s with nextId := s.nextId + 1 } { id := s.nextId, src := .chk n, line := (chkNext j).1 / 256, op := .read allWords, label := j.label, part := labelPart j.label, ingress := false, wins := 0 } = some (s', d, 0, false) →
      s'.chk = s.chk →
      ∃ t, exec (.chkJobDone n) s = .next t ∧ fld t .chk n f_CHK_STATUS_STATE = 2 ∧ (chkOf t n).job = none ∧ t.hbm = s'.hbm ∧
        (chkOf t n).result = BitVec.ofNat 64 (crcBytes (if j.crc64 then poly64 else polyC) j.reg
          (((lineBytes d).drop ((chkNext j).1 % 256)).take (j.len - j.pos)) ^^^ crcOnes j.crc64) ∧
        bitN (reg t .chk n o_COMMON_IRQ_PENDING).toNat 0 = true) ∧
    (∀ sl id i, sl < 128 → (sliceWaiting s sl).findIdx? (fun q => q.id == id) = some i →
      mayGrant s (slice s sl).grants (slice s sl).wrr ((sliceWaiting s sl).map (reqCand s)) i = true → ∃ t, exec (.qosGrant (.slice sl id)) s = .next t ∧
        t.reqs = s.reqs.map (fun q => if q.id == id then { q with granted := true } else q) ∧ t.hbm = s.hbm) ∧
    (∀ o sl l wr i, o < 128 → sl < 128 → (hbmQueue s o).findIdx? (fun e => e.slice == sl && e.line == l && e.write == wr) = some i →
      mayGrant s (mget [] (hbmc s (o / 16)).grants (o % 16)) (mget [] (hbmc s (o / 16)).wrr (o % 16)) ((hbmQueue s o).map (entCand s)) i = true →
      ∃ t, exec (.qosGrant (.hbm o sl l wr)) s = .next t ∧ (sl, l, wr) ∈ (hbmc t (o / 16)).granted ∧ t.hbm = s.hbm ∧ t.slices = s.slices)

/-! ## Power and temperature (chapters 12 and 13) -/

/-- R432 to R438, R440: the course of a region's power-up and the end of its power-down. The region that the staged order admits enters
DEMAND and asks for its measurement; a ramp step raises its voltage in proportion, rounded either way, unless it borrows; after 32 steps
the clock starts, and a region that borrows no rail is ON at its start level where its neighbours permit that voltage. A rail that is off
leaves the region OFF, or DARK. -/
def Obligations.RegionPowerUp : Prop :=
  ∀ (s : State) (r : Nat), inReset s = false → present s .region r = true →
    let k := rail s r
    (phase s = 2 ∨ phase s = 3 → s.therm.stop = false → s.pkg.noClock = false → (List.range (partRegions s.part)).find? (admissible s) = some r →
      railHealthy k = true → k.lending = false → flag s .pwr 0 (f_PWR_REG_STATUS_BORROW r) = false → ((regionChannels s r).take 2).any (chEnabled s) = true →
      ∃ t, exec .regionAdmit s = .next t ∧ regionState t r = 1 ∧ (∀ q, q < 32 → q ≠ r → regionState t q = regionState s q) ∧
        (∃ d ∈ t.therm.demands, d.who = .powerUp r) ∧ t.hbm = s.hbm) ∧
    (regionState s r = 2 → k.ramp < 32 → k.start.2 ≤ 170 → ∃ t, exec (.regionRampStep r) s = .next t ∧ (rail t r).ramp = k.ramp + 1 ∧
      regionState t r = 2 ∧ (flag s .pwr 0 (f_PWR_REG_STATUS_BORROW r) = true → fld t .pwr 0 (f_PWR_REG_STATUS_VOLT r) = fld s .pwr 0 (f_PWR_REG_STATUS_VOLT r)) ∧
      (flag s .pwr 0 (f_PWR_REG_STATUS_BORROW r) = false → 32 * fld t .pwr 0 (f_PWR_REG_STATUS_VOLT r) < k.start.2 * (k.ramp + 1) + 32 ∧
        k.start.2 * (k.ramp + 1) < 32 * fld t .pwr 0 (f_PWR_REG_STATUS_VOLT r) + 32) ∧ t.hbm = s.hbm) ∧
    (regionState s r = 2 → 32 ≤ k.ramp → ∃ t, exec (.regionRampDone r) s = .next t ∧ regionState t r = 3 ∧
      flag t .pwr 0 (f_PWR_REG_STATUS_STRETCH r) = false ∧ (rail t r).nbs = [] ∧ t.hbm = s.hbm) ∧
    (regionState s r = 3 → wanted s r = true → k.start.1 < 16 → k.start.2 < 256 → k.lending = false → flag s .pwr 0 (f_PWR_REG_STATUS_BORROW r) = false →
      admits (permitted s r) (5 * k.start.2) = true → ∃ t, exec (.regionClockRunning r) s = .next t ∧ regionState t r = 4 ∧
      fld t .pwr 0 (f_PWR_REG_STATUS_LEVEL r) = k.start.1 ∧ fld t .pwr 0 (f_PWR_REG_STATUS_VOLT r) = k.start.2 ∧ (rail t r).lwm = 5 * k.start.2 ∧
      t.cells = s.cells ∧ t.hbm = s.hbm) ∧
    (regionState s r = 5 → ∃ t, exec (.regionRailOff r) s = .next t ∧ regionState t r = (if k.dark = true then 6 else 0) ∧
      fld t .pwr 0 (f_PWR_REG_STATUS_VOLT r) = 0 ∧ fld t .pwr 0 (f_PWR_REG_STATUS_LEVEL r) = 0 ∧ t.hbm = s.hbm)

/-- R420, R424, R428 to R431, R439 to R442, R444, R445, R448: levels, limits, regulator faults and droop, where no rail is borrowed or
lent. The one region that is ON moves to the level it asks for; its clock follows the rail; samples and windows are shown and step the
loops; a lost phase is counted and raised, and a region without enough of them goes DARK by way of STOPPING. -/
def Sys2Proof.Claims.PowerEvents : Prop :=
  ∀ (s : State) (r : Nat), inReset s = false → present s .region r = true →
    (∀ q, q < 32 → flag s .pwr 0 (f_PWR_REG_STATUS_BORROW q) = false ∧ flag s .pwr 0 (f_PWR_REG_STATUS_LEND q) = false) →
    let k := rail s r
    (regionOn s r = true → (∀ q, q < 32 → q ≠ r → regionOn s q = false ∧ physRegion s q ≠ physRegion s r) → physRegion s r < 32 → permitted s r = none →
      k.moving = false → fld s .pwr 0 (f_PWR_REG_STATUS_LEVEL r) ≠ fld s .pwr 0 (f_PWR_REG_REQ_LEVEL r) →
      ∃ t, exec .pwrLevelEval s = .next t ∧ (rail t r).moving = true ∧ (rail t r).toLevel = fld s .pwr 0 (f_PWR_REG_REQ_LEVEL r) ∧
        (rail t r).toVolt = levelVolt s r (fld s .pwr 0 (f_PWR_REG_REQ_LEVEL r)) / 5 ∧ t.hbm = s.hbm) ∧
    (regionOn s r = true → k.moving = true → k.toVolt < 256 → k.toLevel < 16 → ∃ t, exec (.railTargetReached r) s = .next t ∧
      (rail t r).moving = false ∧ fld t .pwr 0 (f_PWR_REG_STATUS_VOLT r) = k.toVolt ∧ fld t .pwr 0 (f_PWR_REG_STATUS_LEVEL r) = k.toLevel ∧
      regionState t r = 4 ∧ t.hbm = s.hbm) ∧
    (∀ cur vin, cur.length = partRegions s.part → ∃ t, exec (.pwrCurrentSample cur vin) s = .next t ∧ (rail t r).cur = cur.getD r 0 ∧
      ((rail t r).ilim, (rail t r).below) = loopStep k.ilim k.below (cur.getD r 0) (effLimit s r) ∧
      fld t .pwr 0 f_PWR_STATUS_VIN_STEP = (loopStep (fld s .pwr 0 f_PWR_STATUS_VIN_STEP) s.power.vinBelow vin 4200).1 ∧ t.hbm = s.hbm) ∧
    (∀ stack pkg ps, ps.length = partRegions s.part → ∃ t, exec (.pwrWindow stack pkg ps) s = .next t ∧
      fld t .pwr 0 f_PWR_STACK_W_W = min 65535 stack ∧ fld t .pwr 0 f_PWR_PKG_W_W = min 65535 pkg ∧ (rail t r).power = ps.getD r 0 ∧
      t.power.windows = (pkg :: s.power.windows).take 99 ∧
      (stack ≤ 5600 → fld t .pwr 0 f_PWR_STATUS_STACK_STEP = fld s .pwr 0 f_PWR_STATUS_STACK_STEP - (if 100 * stack < 95 * 5600 then 1 else 0)) ∧
      (5600 < stack → fld t .pwr 0 f_PWR_STATUS_STACK_STEP = min 16 (fld s .pwr 0 f_PWR_STATUS_STACK_STEP + (16 * (stack - 5600) + stack - 1) / stack)) ∧ t.hbm = s.hbm) ∧
    (12 < k.core → k.core ≤ 16 → 3 ≤ k.sram → ∃ t, exec (.regPhaseFail 0 r) s = .next t ∧ (rail t r).core = k.core - 1 ∧
      fld t .pwr 0 (f_PWR_REG_STATUS_PHASES r) = k.core - 1 ∧ regionState t r = regionState s r ∧
      bitN (reg t .pwr 0 o_COMMON_IRQ_PENDING).toNat 0 = true ∧ t.hbm = s.hbm) ∧
    (k.core = 12 → k.lending = false → regionOn s r = true → lenderOf s r = none → ∃ t, exec (.regPhaseFail 0 r) s = .next t ∧ regionState t r = 5 ∧
      (rail t r).dark = true ∧ bitN (reg t .pwr 0 o_COMMON_IRQ_PENDING).toNat 1 = true ∧ t.hbm = s.hbm) ∧
    (∀ q, k.lending = true → lenderOf s r = some q → r < 32 → q < 32 → ∃ t, exec (.lendComplete r) s = .next t ∧ flag t .pwr 0 (f_PWR_REG_STATUS_BORROW r) = true ∧
      flag t .pwr 0 (f_PWR_REG_STATUS_LEND q) = true ∧ (rail t r).lending = false ∧ bitN (reg t .pwr 0 o_COMMON_IRQ_PENDING).toNat 2 = true ∧ t.hbm = s.hbm) ∧
    (∀ rise dip, 0 < rise → fld s .pwr 0 f_PWR_DROOP_CFG_STEP ≤ rise → regionOn s r = true → ∃ t, exec (.droopEvent r rise dip) s = .next t ∧
      (rail t r).lwm = min k.lwm (railVolt s r - dip) ∧ t.hbm = s.hbm) ∧
    (∀ secure, reaches s secure .pwr 0 → r < 32 → exec (.lwmClr secure r) s = .next (setRail s r { k with lwm := railVolt s r, lwmTime := s.time }) ∧
      exec (.pwrLogClr secure) s = .next { s with power := { s.power with log := [] } })

/-- R452 to R454, R456, R457, R466, R468 to R471, R610: the sense front end and the stops. A demand by software or by the pin queues the
enabled channels it names; a completed measurement is stored and valid, or shows its fault; a reading at the trip point cuts the power at
once. A measurement older than the limit is stale; re-checks and the
windows of the slices come at the ends of their intervals. An orderly stop ends with every region off and the stacks in self-refresh; RESUME is refused until its conditions hold. No page is frozen. -/
def Sys2Proof.Claims.ThermalEvents : Prop :=
  ∀ (s : State), inReset s = false → thawed s = true →
    (∀ secure m, reaches s secure .therm 0 → (maskChannels (m.toNat % 2 ^ 32)).filter (chEnabled s) ≠ [] →
      ∃ t d, exec (.thermDemand secure false m) s = .next t ∧ t.therm.demands = s.therm.demands ++ [d] ∧ d.who = .host ∧
        d.chans.map (·.1) = (maskChannels (m.toNat % 2 ^ 32)).filter (chEnabled s) ∧ t.therm.busy ≠ none ∧ t.hbm = s.hbm) ∧
    (s.pkg.noClock = false → (pinChannels s).filter (chEnabled s) ≠ [] → ∃ t d, exec .thermReq s = .next t ∧
      t.therm.demands = s.therm.demands ++ [d] ∧ d.who = .host ∧ d.chans.map (·.1) = (pinChannels s).filter (chEnabled s) ∧ t.hbm = s.hbm) ∧
    (∀ c raw, s.therm.busy = some c → c < 46 → s.pkg.noClock = false → regionsOn s = [] → (∀ d ∈ s.therm.demands, d.who = .host) →
      -32768 ≤ raw → raw ≤ 32767 →
      (∃ t, exec (.thermMeasureDone true raw) s = .next t ∧ flag t .therm 0 (f_THERM_CH_FAULT c) = true ∧
        fld t .therm 0 (f_THERM_CH_T c) = fld s .therm 0 (f_THERM_CH_T c) ∧ bitN (reg t .therm 0 o_COMMON_IRQ_PENDING).toNat 6 = true ∧ t.hbm = s.hbm) ∧
      ((40 ≤ c ∨ (corrected s c raw < stopAt (dieOf c) ∧ raw < tripAt (dieOf c))) → ∃ t, exec (.thermMeasureDone false raw) s = .next t ∧
        fld t .therm 0 (f_THERM_CH_T c) = wrapN 16 (corrected s c raw) ∧ flag t .therm 0 (f_THERM_CH_VALID c) = true ∧
        flag t .therm 0 (f_THERM_CH_FAULT c) = false ∧ flag t .therm 0 (f_THERM_CH_STALE c) = false ∧ phase t = phase s ∧ t.hbm = s.hbm) ∧
      (c < 40 → tripAt (dieOf c) ≤ raw → ∃ t, exec (.thermMeasureDone false raw) s = .next t ∧ phase t = 6 ∧ t.pkg.trip = true ∧ t.pkg.fault = true ∧
        flag t .therm 0 f_THERM_STATUS_STOPPED = true ∧ flag t .therm 0 f_THERM_STATUS_HARD_TRIP = true)) ∧
    (s.therm.stop = true → ∃ t, exec .orderlyStopComplete s = .next t ∧ phase t = 6 ∧ t.therm.stop = false ∧ t.pkg.trip = true ∧ t.reqs = [] ∧
      flag t .therm 0 f_THERM_STATUS_STOPPED = true ∧ flag t .therm 0 f_THERM_STATUS_HARD_TRIP = false ∧
      (∀ r, r < partRegions s.part → regionOn t r = false) ∧ (∀ b, b < 8 → flag t .hbm b f_HBM_STATUS_SELF_REFRESH = true)) ∧
    (∀ c, c < 46 → tooOld s c = false → exec (.staleLimitExpire c) s = .next s) ∧
    (∀ c, c < 46 → chEnabled s c = true → flag s .therm 0 (f_THERM_CH_STALE c) = false →
      (mget 0 s.therm.times c).toNat + staleLimit s * 1000000 < s.time.toNat → ∃ t, exec (.staleLimitExpire c) s = .next t ∧
      flag t .therm 0 (f_THERM_CH_STALE c) = true ∧ flag t .therm 0 f_THERM_STATUS_STALE = true ∧ (∃ d ∈ t.therm.demands, d.who = .stale) ∧ t.hbm = s.hbm) ∧
    (∀ r, present s .region r = true → watched s r = true → s.therm.demands.any (fun d => d.who == .recheck r) = false →
      (regionChannels s r).any (chEnabled s) = true →
      (due s (.recheck r) (recheckEvery s) = false → exec (.thermRecheck r) s = .next s) ∧
      (due s (.recheck r) (recheckEvery s) = true → ∃ t, exec (.thermRecheck r) s = .next t ∧ (∃ d ∈ t.therm.demands, d.who = .recheck r) ∧
        regionState t r = regionState s r ∧ t.hbm = s.hbm)) ∧
    (∀ sl, sl < 128 → (due s (.hot sl) (hotWindow s) = false → exec (.suspectHotWindowEnd sl) s = .next s) ∧
      (due s (.hot sl) (hotWindow s) = true → ∃ t, exec (.suspectHotWindowEnd sl) s = .next t ∧ mget 0 t.therm.ceBase sl = ctrCount s .slice sl o_SLICE_CE ∧
      (fld s .therm 0 f_THERM_SH_CFG_THRESH = 0 → sl ∉ t.therm.suspects) ∧ t.slices = s.slices ∧ t.hbm = s.hbm)) ∧
    (∀ secure, reaches s secure .therm 0 → (resumeReady s = false → ∃ t, exec (.thermResume secure) s = .next t ∧ phase t = phase s ∧
        flag t .therm 0 f_THERM_STATUS_RESUME_REFUSED = true ∧ bitN (reg t .therm 0 o_COMMON_IRQ_PENDING).toNat 8 = true) ∧
      (resumeReady s = true → s.therm.began ≠ 0 → ∃ t, exec (.thermResume secure) s = .next t ∧ phase t = 5 ∧
        flag t .therm 0 f_THERM_STATUS_STOPPED = false ∧ t.hbm = s.hbm))

/-- Both of PowerEvents and ThermalEvents: see the claims above. -/
def Obligations.PowerAndThermalEvents : Prop := Sys2Proof.Claims.PowerEvents ∧ Sys2Proof.Claims.ThermalEvents

/-! ## Host software's accesses (chapters 14, 15 and 20) -/

/-- R14 to R16, R435, R485, R487, R488, R513: register accesses through BAR0. A read of a page whose registers only hold what was written
returns the shadow of RW-S bits, the register's other bits, and 0 in WO-P bits. A write gives RW-S bits to the shadow alone and marks the
page DIRTY, RW-I bits take effect at once, W1C bits are cleared. A request that BAR0 does not accept is a bus error, and a read of it ends
with Completer Abort. A write to an event counter subtracts byte by byte. -/
def Obligations.RegisterAccess : Prop :=
  ∀ (s : State) (secure : Bool) (off n : Nat) (v : W64), inReset s = false → s.link.up = true → s.pkg.noClock = false → barReady s = true →
    off < 2 ^ 24 → 0 < n → n ≤ 4096 →
    (∀ k i, bar0Place s (hostSecure s secure) off n = .ok (k, i) → n = 4 → unitOn s k i = true → counterAt k (off % 4096) = none →
      0x100 ≤ off % 4096 → k = .port ∨ k = .chk ∨ k = .cal ∨ k = .sec ∨ k = .pwr ∨ k = .hbm ∨ k = .slice →
      ∃ x, exec (.bar0Read secure off n) s = .next (emit s (.bar0Data off (BitVec.ofNat 64 x))) ∧ x < 2 ^ 32 ∧ ∀ b, b < 32 →
        let fs := fieldsAt k (off % 4096)
        (bitN (accMask fs .wo) b = true → bitN x b = false) ∧
        (bitN (accMask fs .wo) b = false → bitN (accMask fs .rwS) b = true → bitN x b = bitN (regShd s k i (off % 4096)).toNat b) ∧
        (bitN (accMask fs .wo) b = false → bitN (accMask fs .rwS) b = false → bitN x b = bitN (reg s k i (off % 4096)).toNat b)) ∧
    (∀ k i, bar0Place s (hostSecure s secure) off n = .ok (k, i) → n = 4 → unitOn s k i = true → 0x100 ≤ off % 4096 →
      lockMask s (hostSecure s secure) k (off % 4096) = 0 → k = .port ∨ k = .band ∨ k = .qos ∨ k = .gauge ∨ k = .cal →
      ∃ t, exec (.regWrite secure off n v) s = .next t ∧ t.hbm = s.hbm ∧ t.cells = s.cells ∧
        (accMask (fieldsAt k (off % 4096)) .rwS % 2 ^ 32 ≠ 0 → flag t k i f_COMMON_SHADOW_STATE_DIRTY = true) ∧ ∀ b, b < 32 →
        let fs := fieldsAt k (off % 4096)
        let o := off % 4096
        (bitN (accMask fs .rwS) b = true → bitN (regShd t k i o).toNat b = bitN v.toNat b) ∧
        (bitN (accMask fs .rwI) b = true → bitN (accMask fs .w1c) b = false → bitN (reg t k i o).toNat b = bitN v.toNat b) ∧
        (bitN (accMask fs .w1c) b = true → bitN v.toNat b = true → bitN (reg t k i o).toNat b = false) ∧
        (bitN (accMask fs .rwI) b = false → bitN (accMask fs .w1c) b = false → bitN (reg t k i o).toNat b = bitN (reg s k i o).toNat b)) ∧
    (∀ c, bar0Place s (hostSecure s secure) off n = .error c →
      (∃ t, exec (.regWrite secure off n v) s = .next t ∧ flag t .chip 0 f_CHIP_BUS_ERR_INFO_VALID = true ∧
        bitN (reg t .chip 0 o_COMMON_IRQ_PENDING).toNat 0 = true ∧ t.out = s.out ∧ t.hbm = s.hbm) ∧
      (∃ t, exec (.bar0Read secure off n) s = .next t ∧ flag t .chip 0 f_CHIP_BUS_ERR_INFO_VALID = true ∧
        t.out = s.out ++ [.completerAbort off] ∧ t.hbm = s.hbm)) ∧
    (∀ k i j w, reaches s secure k i → i < 1440 → j < 4 → ∃ t, exec (.evtCntWrite secure k i j w) s = .next t ∧ t.hbm = s.hbm ∧ ∀ b, b < 4 →
      (byteOf (reg t k i (o_COMMON_EVT_CNT j)).toNat b).toNat = (byteOf (reg s k i (o_COMMON_EVT_CNT j)).toNat b).toNat - (byteOf w.toNat b).toNat)

/-- R479 to R481: BAR2 over a line that is resident and sound. A write changes its enabled bytes and no other byte of the line; a read
returns its bytes. A device that does not serve refuses both and records NOTREADY; the read ends with Completer Abort. -/
def Obligations.WindowAccess : Prop :=
  ∀ (s : State) (secure : Bool) (x : Nat), inReset s = false → s.link.up = true → s.pkg.noClock = false →
    let a := winAddr s x
    let l := lineOf a
    (∀ sl key, serving s = true → sits s l sl key → backed l = true → (wayAt s sl key).body.pois = 0 → (wayAt s sl key).body.av = false →
      checkOk l (wayAt s sl key).body = true →
      (∀ bytes en, x < 2 ^ 28 → 0 < bytes.length → x + bytes.length ≤ 2 ^ 28 → a % 256 + bytes.length ≤ 256 → en.length = bytes.length →
        mrdCheck s a (hostSecure s secure) false true (some (labelPart (barLabel s))) = none →
        ∃ t, exec (.bar2Write secure x bytes en false) s = .next t ∧ t.hbm = s.hbm ∧ t.cells = s.cells ∧ t.out = s.out ∧ ∀ i, i < 256 →
          lineByte (wayAt t sl key).body.data i =
            if a % 256 ≤ i ∧ en.getD (i - a % 256) false = true then bytes.getD (i - a % 256) 0 else lineByte (wayAt s sl key).body.data i) ∧
      (∀ n, 0 < n → x + n ≤ 2 ^ 28 → a % 256 + n ≤ 256 → s.link.reads = [] →
        mrdCheck s a (hostSecure s secure) true false (some (labelPart (barLabel s))) = none →
        ∃ t, exec (.bar2Read secure x n) s = .next t ∧ t.hbm = s.hbm ∧ t.cells = s.cells ∧ (wayAt t sl key).body = (wayAt s sl key).body ∧
          t.out = s.out ++ [.bar2Data a (((lineBytes (wayAt s sl key).body.data).drop (a % 256)).take n) false])) ∧
    (serving s = false → x < 2 ^ 28 →
      (∃ t, exec (.bar2Write secure x [0] [true] false) s = .next t ∧ flag t .chip 0 f_CHIP_WIN_ERR_INFO_VALID = true ∧ t.hbm = s.hbm ∧
        t.slices = s.slices ∧ t.out = s.out) ∧
      (∃ t, exec (.bar2Read secure x 1) s = .next t ∧ flag t .chip 0 f_CHIP_WIN_ERR_INFO_VALID = true ∧ t.hbm = s.hbm ∧
        t.slices = s.slices ∧ t.out = s.out ++ [.bar2Abort a]))

/-- R496 to R498, R566, R592, R595: a mailbox. A write of MBX_SEL makes it BUSY; the value of an RW-S register is its active and its staged
copy, that of a counter its snapshot with the time-stamp; a selector that the page does not implement sets ERR, and a unit that is not
powered gives OFF. A read of DATA3 returns the top word and clears VALID and the data; ABORT clears BUSY and VALID. -/
def Obligations.Mailboxes : Prop :=
  ∀ (s : State) (h secure : Bool) (k : PageKind) (i : Nat), inReset s = false → present s k i = true → i < 1440 →
    (h = true → reaches s secure k i) →
    let m := mbx s h k i
    (∀ sel, ∃ t, exec (.mbxSelWrite h secure k i sel) s = .next t ∧ mbx t h k i = { sel := sel, busy := true, secure := !h || hostSecure s secure, on := unitOn s k i } ∧ mbx t (!h) k i = mbx s (!h) k i ∧ t.hbm = s.hbm) ∧
    (m.busy = true → m.on = true → unitOn s k i = true →
      (∀ off, selShadowed k m.sel.toNat = some off → isFwin k off = false → (page s k i).waiting = [] →
        ∃ t, exec (.mbxCaptureDone h k i) s = .next t ∧ t.hbm = s.hbm ∧
          mbx t h k i = { m with busy := false, valid := true, data := BitVec.ofNat 128 ((reg s k i off).toNat + (reg s k i off).toNat * 2 ^ 32) }) ∧
      (∀ off, selShadowed k m.sel.toNat = none → selCounter k m.sel.toNat = some off →
        ∃ t, exec (.mbxCaptureDone h k i) s = .next t ∧ t.hbm = s.hbm ∧
          mbx t h k i = { m with busy := false, valid := true, data := BitVec.ofNat 128 ((ctr s k i off).toNat + s.time.toNat * 2 ^ 64) }) ∧
      (selShadowed k m.sel.toNat = none → selCounter k m.sel.toNat = none → k ≠ .slice → pageValue s m.secure k i m.sel.toNat = none →
        ∃ t, exec (.mbxCaptureDone h k i) s = .next t ∧ mbx t h k i = { m with busy := false, valid := true, err := true } ∧ t.hbm = s.hbm)) ∧
    (m.busy = true → unitOn s k i = false → (m.on = true ∨ selShadowed k m.sel.toNat = none) →
      ∃ t, exec (.mbxCaptureDone h k i) s = .next t ∧ mbx t h k i = { m with busy := false, valid := true, off := true } ∧ t.hbm = s.hbm) ∧
    (m.valid = true → ∃ t, exec (.mbxData3Read h secure k i) s = .next t ∧ mbx t h k i = { m with valid := false, data := 0 } ∧ t.hbm = s.hbm ∧
      (h = true → t.out = s.out ++ [.bar0Data (bar0Of k i (o_COMMON_MBX_DATA 3)) (BitVec.ofNat 64 (bitsN m.data.toNat 127 96))])) ∧
    (∃ t, exec (.mbxAbort h secure k i) s = .next t ∧ mbx t h k i = { m with busy := false, valid := false, data := 0 } ∧ t.hbm = s.hbm)

/-- R499, R541, R555, R608: resets of the whole device, and the link. A chip reset and a Function Level Reset return every unit to reset
and keep the stacks, the fuses, the repair maps, the configuration space, the time-stamp, the sticky logs and the past power windows; a
wrong key only records BAD_KEY. PERST# resets the rest too and stays asserted until its release samples the straps and gives the pins
back. The link's state changes nothing else; a vector that can be delivered when the link returns is no longer pending. A write of the
configuration space changes its dword, but not those that identify the function. -/
def Obligations.DeviceResets : Prop :=
  ∀ (s : State), (s.pkg.perst = true → ∀ addr lrev testen, addr < 4 → exec (.perstRelease addr lrev testen) s =
      .next { s with pkg := { s.pkg with perst := false, sbAddr := addr, lrev := lrev, testen := testen, tap := if tapHeld s.pkg.tap then .bypass else s.pkg.tap } }) ∧
    (s.pkg.perst = false → ∀ addr lrev testen, exec (.perstRelease addr lrev testen) s = .next s) ∧ (inReset s = false →
    (∀ secure u c, u < 65536 → (c = Instr.functionLevelReset ∧ s.link.up = true) ∨ (c = Instr.chipReset secure 0xA5 u ∧ reaches s secure .chip 0) →
      ∃ t, exec c s = .next t ∧ phase t = 0 ∧ t.cells = [] ∧ t.blocks = [] ∧ t.regions = [] ∧ t.reqs = [] ∧ t.resps = [] ∧ t.hbm = s.hbm ∧
        t.repair = s.repair ∧ t.fuses = s.fuses ∧ t.pkg = s.pkg ∧ t.time = s.time ∧ t.link.up = s.link.up ∧ t.link.cfg = s.link.cfg ∧
        reg t .chip 0 o_CHIP_BUS_ERR_INFO = reg s .chip 0 o_CHIP_BUS_ERR_INFO ∧ t.power.log = s.power.log ∧ t.power.windows = s.power.windows ∧ t.secLog = [] ∧
        flag t .therm 0 f_THERM_STATUS_HARD_TRIP = flag s .therm 0 f_THERM_STATUS_HARD_TRIP ∧
        (∀ sl, sl < 128 → (slice t sl).elog = (slice s sl).elog ∧ (slice t sl).ways = [])) ∧
    (∀ secure key u, reaches s secure .chip 0 → key < 256 → u < 65536 → key ≠ 0xA5 →
      ∃ t, exec (.chipReset secure key u) s = .next t ∧ fld t .chip 0 f_CHIP_RESET_STATUS_RESULT = 4 ∧ t.cells = s.cells ∧ t.slices = s.slices ∧ t.hbm = s.hbm) ∧
    (∃ t, exec .perstAssert s = .next t ∧ inReset t = true ∧ phase t = 0 ∧ t.cells = [] ∧ t.slices = [] ∧ t.time = 0 ∧ t.link.up = false ∧
      t.power.log = [] ∧ t.power.windows = [] ∧ t.hbm = s.hbm ∧ t.repair = s.repair ∧ t.fuses = s.fuses ∧ t.pkg.perst = true) ∧
    exec .linkDown s = .next { s with link := { s.link with up := false, reads := [] } } ∧
    (∃ t, exec .linkUp s = .next t ∧ t.link.up = true ∧ t.cells = s.cells ∧ t.hbm = s.hbm ∧
      (∀ v, v < 64 → vecOpen { s with link := { s.link with up := true } } v = true → flag t .ircH 0 (pbaBit v) = false)) ∧
    (∀ off v, off = 0 ∨ off = 8 → exec (.configSpaceWrite off v) s = .next s) ∧
    (∀ off v, s.link.up = true → off < 4096 → off % 4 = 0 → off ≠ 0 → off ≠ 8 → ∃ t, exec (.configSpaceWrite off v) s = .next t ∧ mget 0 t.link.cfg off = v ∧
      (∀ o, o ≠ off → mget 0 t.link.cfg o = mget 0 s.link.cfg o) ∧ t.cells = s.cells ∧ t.hbm = s.hbm))

/-! ## Interrupts, boot and messages (chapters 15 and 16) -/

/-- R477, R504 to R508, R512, R513: an interrupt controller. Delivery pushes the eligible source of highest level, the lowest-numbered on a
tie, and sends its message; EOI of the top entry pops it; EOI of any other source freezes the controller and names what it expected;
STACK_RESET empties the stack and thaws; RAISE sets a PEND bit; a write to source counters subtracts byte by byte. No page is frozen. -/
def Obligations.Interrupts : Prop :=
  ∀ (s : State) (h secure : Bool), inReset s = false → thawed s = true → (h = true → reaches s secure .ircH 0) →
    let k := ircPage h
    (∀ n, flag s k 0 f_IRC_STATUS_FROZEN = false → n < 128 → eligible s h n = true →
      (∀ m, m < 128 → eligible s h m = true → levelOf s h m < levelOf s h n ∨ (levelOf s h m = levelOf s h n ∧ n ≤ m)) →
      ∃ t, exec (.ircDeliver h) s = .next t ∧ stackOf t h = stackOf s h ++ [(n, levelOf s h n)] ∧ stackOf t (!h) = stackOf s (!h) ∧
        fld t k 0 f_IRC_STATUS_TOP = n ∧ (h = false → t.out = s.out ++ [.mgmtIrq n]) ∧ t.hbm = s.hbm ∧ t.cells = s.cells ∧
        (h = true →
          let v := fld s .ircH 0 ⟨o_IRC_VEC (n / 4), 8 * (n % 4) + 5, 8 * (n % 4)⟩
          if vecOpen s v = true then ∃ a d, t.out = s.out ++ [.msix a d] else t.out = s.out ∧ flag t .ircH 0 (pbaBit v) = true)) ∧
    (∀ n, n < 128 → ∃ t, exec (.ircRaise h secure n) s = .next t ∧ flag t k 0 ⟨o_IRC_PEND (n / 32), n % 32, n % 32⟩ = true ∧
      (∀ m, m < 128 → m ≠ n → flag t k 0 ⟨o_IRC_PEND (m / 32), m % 32, m % 32⟩ = flag s k 0 ⟨o_IRC_PEND (m / 32), m % 32, m % 32⟩) ∧
      stackOf t h = stackOf s h ∧ t.hbm = s.hbm ∧ t.cells = s.cells) ∧
    (∀ n lv rest, n < 128 → flag s k 0 f_IRC_STATUS_FROZEN = false → stackOf s h = rest ++ [(n, lv)] →
      ∃ t, exec (.ircEoi h secure n) s = .next t ∧ stackOf t h = rest ∧ flag t k 0 f_IRC_STATUS_FROZEN = false ∧ t.out = s.out ∧ t.hbm = s.hbm) ∧
    (∀ n x lv rest, n < 128 → x < 128 → n ≠ x → flag s k 0 f_IRC_STATUS_FROZEN = false → stackOf s h = rest ++ [(x, lv)] →
      ∃ t, exec (.ircEoi h secure n) s = .next t ∧ stackOf t h = stackOf s h ∧ flag t k 0 f_IRC_STATUS_FROZEN = true ∧
        fld t k 0 f_IRC_ORDER_INFO_NAMED = n ∧ fld t k 0 f_IRC_ORDER_INFO_EXPECTED = x ∧ bitN (reg t k 0 o_COMMON_IRQ_PENDING).toNat 0 = true ∧ t.hbm = s.hbm) ∧
    (∃ t, exec (.stackReset h secure) s = .next t ∧ stackOf t h = [] ∧ flag t k 0 f_IRC_STATUS_FROZEN = false ∧ fld t k 0 f_IRC_STATUS_DEPTH = 0 ∧
      fld t k 0 f_IRC_STATUS_TOP = 0x7F ∧ t.hbm = s.hbm ∧ t.cells = s.cells) ∧
    (∀ n v, n < 32 → ∃ t, exec (.srcCntWrite h secure n v) s = .next t ∧ stackOf t h = stackOf s h ∧ t.hbm = s.hbm ∧ ∀ b, b < 4 →
      (byteOf (reg t k 0 (o_IRC_SRC_CNT n)).toNat b).toNat = (byteOf (reg s k 0 (o_IRC_SRC_CNT n)).toNat b).toNat - (byteOf v.toNat b).toNat)

/-- R523, R525 to R528, R539, R541: boot. GO starts a verification unless an image is being or has been verified, which is a bus error. A
verification ends in REFUSED with the first check that fails, or in the image's digest and BRINGUP with step 5 done. A bound stream that
leaves Secure clears BOUND; LOG_CLR empties the secure log. -/
def Sys2Proof.Claims.Boot : Prop :=
  ∀ (s : State) (secure : Bool), inReset s = false →
    (reaches s secure .boot 0 → fld s .boot 0 f_BOOT_STATUS_STATE = 0 ∨ fld s .boot 0 f_BOOT_STATUS_STATE = 3 →
      ∃ t, exec (.bootGo secure) s = .next t ∧ fld t .boot 0 f_BOOT_STATUS_STATE = 1 ∧ fld t .boot 0 f_BOOT_STATUS_REASON = 0 ∧ t.boot = s.boot ∧ phase t = phase s ∧ t.hbm = s.hbm) ∧
    (reaches s secure .boot 0 → fld s .boot 0 f_BOOT_STATUS_STATE = 1 ∨ fld s .boot 0 f_BOOT_STATUS_STATE = 2 →
      ∃ t, exec (.bootGo secure) s = .next t ∧ flag t .chip 0 f_CHIP_BUS_ERR_INFO_VALID = true ∧
        fld t .boot 0 f_BOOT_STATUS_STATE = fld s .boot 0 f_BOOT_STATUS_STATE ∧ t.hbm = s.hbm) ∧
    (∀ bad, fld s .boot 0 f_BOOT_STATUS_STATE = 1 → phase s = 0 →
      (∀ c, imageReason s bad = some c → ∃ t, exec (.bootVerifyDone bad) s = .next t ∧ fld t .boot 0 f_BOOT_STATUS_STATE = 3 ∧
        fld t .boot 0 f_BOOT_STATUS_REASON = c ∧ phase t = 0 ∧ bitN (reg t .boot 0 o_COMMON_IRQ_PENDING).toNat 0 = true ∧ t.boot = s.boot ∧ t.hbm = s.hbm) ∧
      (imageReason s bad = none → s.pkg.cold = false → ∃ t, exec (.bootVerifyDone bad) s = .next t ∧ fld t .boot 0 f_BOOT_STATUS_STATE = 2 ∧
        phase t = 1 ∧ fld t .chip 0 f_CHIP_BRINGUP_STATUS_STEP = 5 ∧ t.boot.digest = imgDigest s ∧ fld t .boot 0 f_BOOT_RUN_SVN_SVN = imgSvn s ∧
        fld t .boot 0 f_BOOT_RUN_SVN_SLOT = imgSlot s ∧ bitN (reg t .boot 0 o_COMMON_IRQ_PENDING).toNat 1 = true ∧ t.repair = s.repair ∧ t.hbm = s.hbm)) ∧
    (∃ t, exec .ideStreamLeavesSecure s = .next t ∧ flag t .sec 0 f_SEC_IDE_BOUND = false ∧ fld t .sec 0 f_SEC_IDE_STREAM = fld s .sec 0 f_SEC_IDE_STREAM ∧ t.hbm = s.hbm) ∧
    (reaches s secure .sec 0 → ∃ t, exec (.secLogClr secure) s = .next t ∧ t.secLog = [] ∧ fld t .sec 0 f_SEC_LOG_STATUS_COUNT = 0 ∧
      fld t .sec 0 f_SEC_LOG_STATUS_LOST = 0 ∧ t.hbm = s.hbm)

/-- R523, R530, R533, R534, R537, R538: management messages. GO latches the request and its world while none is in progress; an unknown type
ends at once with result 15. ATTEST ends with the signed report, IDE_KM with its reply; a fuse operation that nothing bars burns the fuses
that its request names and no others. -/
def Sys2Proof.Claims.Messages : Prop :=
  ∀ (s : State) (secure : Bool), inReset s = false →
    (∀ c ty, (c, ty) ∈ [(Instr.attest secure, 0x01), (.fuseRevoke secure, 0x10), (.fuseSvn secure, 0x11), (.fuseOemKey secure, 0x12),
        (.otpWrite secure, 0x13), (.ideKm secure, 0x20)] → reaches s secure .mgmt 0 → fld s .mgmt 0 f_MGMT_MSG_STATUS_STATE ≠ 1 →
      ∃ t m, exec c s = .next t ∧ t.mgmt.busy = some m ∧ m.type = ty ∧ m.secure = hostSecure s secure ∧ m.stopHit = false ∧
        m.words = (List.range 64).map (fun i => reg s .mgmt 0 (o_MGMT_MSG_REQ i)) ∧ fld t .mgmt 0 f_MGMT_MSG_STATUS_STATE = 1 ∧ t.fuses = s.fuses ∧ t.hbm = s.hbm) ∧
    (∀ ty, reaches s secure .mgmt 0 → fld s .mgmt 0 f_MGMT_MSG_STATUS_STATE ≠ 1 → ty < 256 → knownMsg ty = false → finostRuns s = true →
      ∃ t, exec (.msgUnknownType secure ty) s = .next t ∧ t.mgmt.busy = none ∧ fld t .mgmt 0 f_MGMT_MSG_STATUS_STATE = 2 ∧
        fld t .mgmt 0 f_MGMT_MSG_STATUS_RESULT = 15 ∧ t.fuses = s.fuses ∧ t.hbm = s.hbm) ∧
    (∀ m vpp reply keys, s.mgmt.busy = some m → finostRuns s = true → reply.length < 4096 →
      (m.type = 1 → ∃ t, exec (.msgDone vpp reply keys) s = .next t ∧ t.mgmt.rsp = m.report ++ Config.identitySign s.fresh m.report ∧ t.mgmt.busy = none ∧
        fld t .mgmt 0 f_MGMT_MSG_STATUS_STATE = 2 ∧ fld t .mgmt 0 f_MGMT_MSG_STATUS_RESULT = 0 ∧ t.fuses = s.fuses ∧ t.hbm = s.hbm) ∧
      (m.type = 0x20 → ∃ t, exec (.msgDone vpp reply keys) s = .next t ∧ t.mgmt.rsp = reply ∧ t.mgmt.busy = none ∧
        (keys = true → bitN s.boot.flags 1 = true → flag t .sec 0 f_SEC_IDE_BOUND = true) ∧ t.fuses = s.fuses ∧ t.hbm = s.hbm) ∧
      (0x10 ≤ m.type → m.type ≤ 0x13 → ∀ r, fuseBar s m vpp = some r → r < 16 → ∃ t, exec (.msgDone vpp reply keys) s = .next t ∧ t.fuses = s.fuses ∧
        t.mgmt.busy = none ∧ fld t .mgmt 0 f_MGMT_MSG_STATUS_RESULT = r ∧ t.hbm = s.hbm) ∧
      (fuseBar s m vpp = none → m.stopHit = false →
        (∀ j, m.type = 0x10 → msgWord m 0 < 4 → j < 4 → j ≠ msgWord m 0 → slotSet s j = true → slotRevoked s j = false →
          ∃ t, exec (.msgDone vpp reply keys) s = .next t ∧ t.fuses = { s.fuses with revoked := s.fuses.revoked ||| 2 ^ msgWord m 0 } ∧
            fld t .mgmt 0 f_MGMT_MSG_STATUS_RESULT = 0 ∧ t.hbm = s.hbm) ∧
        (m.type = 0x11 → msgWord m 0 ≤ fld s .boot 0 f_BOOT_RUN_SVN_SVN → msgWord m 0 ≤ 63 →
          ∃ t, exec (.msgDone vpp reply keys) s = .next t ∧ t.fuses = { s.fuses with minSvn := max s.fuses.minSvn (msgWord m 0) } ∧
            fld t .mgmt 0 f_MGMT_MSG_STATUS_RESULT = 0 ∧ t.hbm = s.hbm) ∧
        (m.type = 0x12 → msgWord m 0 < 4 → slotSet s (msgWord m 0) = false →
          ∃ t h, exec (.msgDone vpp reply keys) s = .next t ∧ t.fuses = { s.fuses with prog := s.fuses.prog ||| 2 ^ msgWord m 0, oem := s.fuses.oem ++ [(msgWord m 0, h)] } ∧
            fld t .mgmt 0 f_MGMT_MSG_STATUS_RESULT = 0 ∧ t.hbm = s.hbm) ∧
        (m.type = 0x13 → s.fuses.otp.length < 128 →
          ∃ t e, exec (.msgDone vpp reply keys) s = .next t ∧ t.fuses = { s.fuses with otp := s.fuses.otp ++ [e] } ∧ bitsN e.toNat 62 32 = msgWord m 0 % 2 ^ 31 ∧
            bitN e.toNat 63 = true ∧ t.mgmt.rsp = toBytes 4 s.fuses.otp.length ∧ t.hbm = s.hbm)))

/-- Both of Boot and Messages: see the claims above. -/
def Obligations.BootAndMessages : Prop := Sys2Proof.Claims.Boot ∧ Sys2Proof.Claims.Messages

/-! ## Bring-up, resets, self-tests, observation (chapters 17 and 18) -/

/-- R35, R541 to R543, R551 to R556: the end of bring-up and of recovery, and resets of cells, blocks and regions. Bring-up and recovery end
in READY with step 11 when the regions are settled and the topology agrees, the DARK regions leaving the map of partition 0 at the end of
step 8; the agreement's limit leads to RECOVERY once its time has passed. The quick self-test empties every slice and retires those with
too many faulty rows. A cell reset frees the cell at once; a block or region reset stops its cells, and ends when they are idle or its
limit has passed. -/
def Obligations.BringupAndResets : Prop :=
  ∀ (s : State), inReset s = false →
    let mapAfter := fun (t : State) => ∀ r, r < partRegions s.part → bitN (reg t .chip 0 (o_CHIP_PART_MAP 0)).toNat r =
      (bitN (reg s .chip 0 (o_CHIP_PART_MAP 0)).toNat r && !(fld s .chip 0 f_CHIP_BRINGUP_STATUS_STEP < 8 && regionState s r == 6))
    (phase s = 1 → 7 ≤ fld s .chip 0 f_CHIP_BRINGUP_STATUS_STEP → regionsSettled s = true → agreed s = true → s.pkg.noClock = false →
      ∃ t, exec .bringupComplete s = .next t ∧ phase t = 2 ∧ fld t .chip 0 f_CHIP_BRINGUP_STATUS_STEP = 11 ∧ mapAfter t ∧ t.hbm = s.hbm ∧ t.cells = s.cells) ∧
    (phase s = 5 → causesCleared s = true →
      ∃ t, exec .recoveryDone s = .next t ∧ phase t = 2 ∧ fld t .chip 0 f_CHIP_BRINGUP_STATUS_STEP = 11 ∧ mapAfter t ∧ t.hbm = s.hbm ∧ t.cells = s.cells) ∧
    let limit := s.chores.stepAt + fld s .chip 0 f_CHIP_BRINGUP_LIMIT * 1000000000
    (s.time.toNat < limit → ∀ n, n = 9 ∨ n = 10 → exec (.bringupLimitExpire n) s = .next s) ∧
    (∀ n, n = 9 ∨ n = 10 → limit ≤ s.time.toNat → phase s = 1 → 7 ≤ fld s .chip 0 f_CHIP_BRINGUP_STATUS_STEP → regionsSettled s = true → agreed s = false →
      ∃ t, exec (.bringupLimitExpire n) s = .next t ∧ phase t = 5 ∧ fld t .chip 0 f_CHIP_BRINGUP_STATUS_FAIL_STEP = n ∧
        fld t .chip 0 f_CHIP_BRINGUP_STATUS_STEP = n - 1 ∧ bitN (reg t .chip 0 o_COMMON_IRQ_PENDING).toNat 5 = true ∧ t.hbm = s.hbm) ∧
    (∀ faults, faults.length ≤ 128 → phase s = 1 ∨ phase s = 5 → fld s .chip 0 f_CHIP_BRINGUP_STATUS_STEP = 6 → fld s .chip 0 f_CHIP_BRINGUP_STATUS_FAIL_STEP ≠ 7 →
      ∃ t, exec (.quickSelfTestDone faults) s = .next t ∧ (∀ i, i < 128 → (slice t i).ways = [] ∧ (slice t i).rowFaults = faults.getD i 0 ∧
          (Config.spareRows i < faults.getD i 0 → flag t .slice i f_SLICE_BOND_STATUS_RETIRED = true)) ∧ t.hbm = s.hbm ∧
        ((∀ i, i < 128 → faults.getD i 0 ≤ Config.spareRows i) → phase t = phase s ∧ fld t .chip 0 f_CHIP_BRINGUP_STATUS_STEP = 7) ∧
        ((∃ i, i < 128 ∧ Config.spareRows i < faults.getD i 0) → phase t = 5 ∧ fld t .chip 0 f_CHIP_BRINGUP_STATUS_FAIL_STEP = 7)) ∧
    (∀ secure u, reaches s secure .chip 0 → phase s = 2 ∨ phase s = 3 → s.chores.unit = none → s.chores.parts = [] →
      (present s .cell u = true → u < 65536 → ∃ t, exec (.cellReset secure u) s = .next t ∧ (∀ g, (group t u g).st = .free) ∧
        (allWanted s → (cell t u).lm = (cell s u).lm ∧ ∀ d, d ≠ u → cell t d = cell s d) ∧ fld t .chip 0 f_CHIP_RESET_STATUS_RESULT = 1 ∧ flag t .chip 0 f_CHIP_RESET_STATUS_BUSY = false ∧
        bitN (reg t .chip 0 o_COMMON_IRQ_PENDING).toNat 4 = true ∧ t.hbm = s.hbm) ∧
      (present s .block u = true → u < 65536 → ∃ t, exec (.blockReset secure u) s = .next t ∧ t.chores.unit = some (1, u) ∧ (∀ c ∈ cellsIn s u, (cell t c).resetting = true) ∧
        flag t .chip 0 f_CHIP_RESET_STATUS_BUSY = true ∧ t.hbm = s.hbm) ∧
      (present s .region u = true → u < 65536 → ∃ t, exec (.regionReset secure u) s = .next t ∧ t.chores.unit = some (2, u) ∧ (∀ c ∈ cellsOfRegion u, (cell t c).resetting = true) ∧
        flag t .chip 0 f_CHIP_RESET_STATUS_BUSY = true ∧ t.hbm = s.hbm) ∧
      (present s .cell u = false → u < 65536 → ∃ t, exec (.cellReset secure u) s = .next t ∧ fld t .chip 0 f_CHIP_RESET_STATUS_RESULT = 3 ∧ t.cells = s.cells ∧ t.hbm = s.hbm)) ∧
    let drain := s.chores.drainAt + max 1 (fld s .chip 0 f_CHIP_RESET_CTRL_DRAIN_LIM) * 1000
    (s.time.toNat < drain → exec .drainLimitExpire s = .next s) ∧
    (∀ b v c, s.chores.unit = some v → v = (1, b) ∨ v = (2, b / 6) →
      (c = Instr.resetDrainDone ∧ (unitCells s v.1 v.2).all (niIdle s) = true) ∨ (c = Instr.drainLimitExpire ∧ drain ≤ s.time.toNat) →
      ∃ t, exec c s = .next t ∧ t.chores.unit = none ∧ (∀ d ∈ cellsIn s b, ∀ g, (group t d g).st = .free) ∧ flag t .chip 0 f_CHIP_RESET_STATUS_BUSY = false ∧
        bitN (reg t .chip 0 o_COMMON_IRQ_PENDING).toNat 4 = true ∧ t.hbm = s.hbm)

/-- R544, R547, R557 to R563: self-tests, ageing and background work. A request for a disruptive item is queued, for another starts at once;
CANCEL removes a queued item; an item starts once its target is drained, and its completion is recorded. An ageing step raises the guard
by 5 mV for each 0.5% of slowdown; background work renews a value. -/
def Obligations.Selftests : Prop :=
  ∀ (s : State) (item tg : Nat), inReset s = false → item < 256 → tg < 65536 →
    (∀ secure hold, reaches s secure .chip 0 → itemOk s item tg = true → disruptive item = true → s.chores.tests.any (isItem item tg) = false →
      s.chores.tests.length < 16 → ∃ t, exec (.selftestSubmit secure item tg false hold) s = .next t ∧ t.chores.tests = s.chores.tests ++ [⟨item, tg, hold⟩] ∧
        fld t .chip 0 f_CHIP_SELFTEST_STATUS_RESULT = 2 ∧ t.cells = s.cells ∧ t.hbm = s.hbm) ∧
    (∀ secure force hold, reaches s secure .chip 0 → itemOk s item tg = true → disruptive item = false → ∃ t, exec (.selftestSubmit secure item tg force hold) s = .next t ∧
      ⟨item, tg, false⟩ ∈ t.chores.run ∧ t.chores.tests = s.chores.tests ∧ fld t .chip 0 f_CHIP_SELFTEST_STATUS_RESULT = 1 ∧ t.cells = s.cells ∧ t.hbm = s.hbm) ∧
    (∀ secure, reaches s secure .chip 0 → s.chores.tests.any (isItem item tg) = true → ∃ t, exec (.selftestCancel secure item tg) s = .next t ∧
      t.chores.tests = s.chores.tests.filter (fun x => !isItem item tg x) ∧ fld t .chip 0 f_CHIP_SELFTEST_STATUS_RESULT = 6 ∧ t.cells = s.cells ∧ t.hbm = s.hbm) ∧
    (∀ x, s.chores.tests.find? (isItem item tg) = some x → itemDrained s item tg = true → s.chores.run.any (isItem item tg) = false →
      ∃ t, exec (.selftestStart item tg) s = .next t ∧ x ∈ t.chores.run ∧ t.chores.tests = s.chores.tests.filter (fun y => !isItem item tg y) ∧
        (item = 0x20 → phase t = 4) ∧ (item ≠ 0x20 → phase t = phase s)) ∧
    (∀ x pass detail cs, s.chores.run.find? (isItem item tg) = some x → detail < 2 ^ 32 → cs.all (present s .cell) = true →
      ∃ t e, exec (.selftestDone item tg pass detail cs) s = .next t ∧ t.chores.log = (e :: s.chores.log).take 16 ∧ bitsN e.toNat 63 56 = item ∧
        bitsN e.toNat 55 52 = (if pass = true then 1 else 2) ∧ bitsN e.toNat 47 32 = tg ∧ bitsN e.toNat 31 0 = (if pass = true then 0 else detail) ∧
        t.chores.run = s.chores.run.filter (fun y => !isItem item tg y) ∧ bitN (reg t .chip 0 o_COMMON_IRQ_PENDING).toNat 6 = true ∧ t.hbm = s.hbm ∧
        (item = 0x10 ∨ item = 0x11 → (cell t tg).lm = [] ∧ (pass = true → t.repair = s.repair))) ∧
    (∀ r age, present s .region r = true → age < 65536 → backgroundOn s = true → bitN (fld s .chip 0 f_CHIP_BG_CTRL_DIS) 4 = false → regionOn s r = true →
      ∃ t, exec (.ageingCheck r age) s = .next t ∧ mget 0 t.repair.age (physRegion s r) = age ∧ t.hbm = s.hbm ∧ t.cells = s.cells ∧
        mget 0 t.repair.guard (physRegion s r) = mget 0 s.repair.guard (physRegion s r) +
          (if mget 0 s.repair.risen (physRegion s r) + 500 ≤ age ∧ mget 0 s.repair.guard (physRegion s r) < 40 then 5 else 0)) ∧
    (∀ i u, i < 4 → itemOk s (i + 1) u = true → backgroundOn s = true → bitN (fld s .chip 0 f_CHIP_BG_CTRL_DIS) i = false →
      ∃ t v, exec (.backgroundItemRun i u) s = .next t ∧ ((i, u), v) ∈ t.chores.trims ∧ (∀ x ∈ s.chores.trims, x.1 ≠ (i, u) → x ∈ t.chores.trims) ∧ t.hbm = s.hbm)

/-- R567, R572, R576 to R579, R581: counters, samples, the trace buffer and Gauge. A clear zeroes the counters of its classes and no others;
FREEZE takes its bit; a PC sample that its interval makes due moves on to the next live group; a mark is one staged record; eight staged records become one line of the
buffer, and the write pointer moves past it, while the cap of lines in a microsecond leaves room; an advance of RD_PTR releases a full buffer; a Gauge frame that is due holds the enabled items' values. No page is frozen. -/
def Obligations.Observation : Prop :=
  ∀ (s : State) (secure : Bool), inReset s = false → thawed s = true →
    (∀ cls pg k i, reaches s secure .trace 0 → cls < 8 → pg < 4096 → pageOf s.part pg = some (k, i) → ∃ t, exec (.cntClr secure false cls pg) s = .next t ∧
      (∀ off, ctr t k i off = if classHit cls (counterAt k off) = true then 0 else ctr s k i off) ∧ t.hbm = s.hbm ∧ t.cells = s.cells) ∧
    (∀ k i, reaches s secure .trace 0 → pageOf s.part (pageNo k i) = some (k, i) → ∃ t, exec (.perfClearAll secure) s = .next t ∧
      (∀ off, ctr t k i off = if counterAt k off = some .perf then 0 else ctr s k i off) ∧ t.hbm = s.hbm ∧ t.cells = s.cells) ∧
    (∀ on, reaches s secure .trace 0 → exec (.perfFreeze secure on) s = .next (setF s .trace 0 f_TRACE_PERF_CTRL_FREEZE (b2n on))) ∧
    (∀ c obs g, present s .cell c = true → obsOk s c obs = true → sampleDue s c = true → nextSample s c = some g →
      ∃ t, exec (.pcSample c obs) s = .next t ∧ cell t c = { cell s c with lastSample := g } ∧ (∀ d, d ≠ c → cell t d = cell s d) ∧ t.hbm = s.hbm ∧
        (traceSrc s 3 = true → traceOn s = true → stagingFull s = false → s.trace.dropped = 0 →
          ∃ e, t.trace.staged = s.trace.staged ++ [e] ∧ bitsN e.toNat 71 64 = 1 ∧ bitsN e.toNat 95 80 = c % 65536)) ∧
    (∀ d, reaches s secure .trace 0 → traceOn s = true → stagingFull s = false → s.trace.dropped = 0 → ∃ t, exec (.traceMark secure d) s = .next t ∧
      t.trace.staged = s.trace.staged ++ [recordOf s 6 0 0xFFFF d.toNat] ∧ t.hbm = s.hbm ∧ t.cells = s.cells) ∧
    (traceRoom s = false → exec .traceDrainLine s = .next s) ∧
    (∀ sl key, traceOn s = true → traceRoom s = true → 8 ≤ s.trace.staged.length → flag s .trace 0 f_TRACE_STATUS_FULL = false →
      let a := fld s .trace 0 f_TRACE_BUF_BASE_BASE * 2 ^ 20 + fld s .trace 0 f_TRACE_WR_PTR_INDEX / 8 * 256
      masterEntry s 0x10 false a false true = (s, .hbm) → sits s (lineOf a) sl key →
      ∃ t, exec .traceDrainLine s = .next t ∧ t.trace.staged = s.trace.staged.drop 8 ∧
        fld t .trace 0 f_TRACE_WR_PTR_INDEX = (fld s .trace 0 f_TRACE_WR_PTR_INDEX / 8 * 8 + 8) % traceSize s ∧
        (∀ i, i < 8 → bitsN (wayAt t sl key).body.data.toNat (256 * i + 255) (256 * i) = (s.trace.staged.getD i 0).toNat) ∧ t.hbm = s.hbm ∧ t.cells = s.cells) ∧
    (∀ v, reaches s secure .trace 0 → ∃ t, exec (.traceRdPtrWrite secure v) s = .next t ∧ fld t .trace 0 f_TRACE_RD_PTR_INDEX = v.toNat % 2 ^ 27 ∧
      (v.toNat % 2 ^ 27 / 8 ≠ fld s .trace 0 f_TRACE_RD_PTR_INDEX / 8 → flag t .trace 0 f_TRACE_STATUS_FULL = false) ∧ t.hbm = s.hbm) ∧
    (∀ hbm, hbm.length = 8 → frameDue s = true →
      ∃ t, exec (.gaugeFrame hbm) s = .next t ∧ t.gauge.frame = gaugeValues s hbm ∧ fld t .gauge 0 f_GAUGE_STATUS_FRAME = (fld s .gauge 0 f_GAUGE_STATUS_FRAME + 1) % 65536 ∧
        bitN (reg t .gauge 0 o_COMMON_IRQ_PENDING).toNat 0 = true ∧ t.hbm = s.hbm ∧ t.cells = s.cells)

/-! ## The fabric (chapter 09) -/

/-- R320, R321, R360, R361: the states of a port. A signal takes DOWN to TRAINING, at the retry timer too once 100 ms have passed; lock takes it
to LINKING with a HELLO at its egress, failure back to DOWN; a lost lock takes ACTIVE to HOLD with its keys and replay buffer, and its
unordered requests back to their NIs; a partner that comes back the same takes HOLD to ACTIVE; the end of the hold takes it to DOWN with an
empty replay buffer. The agreement of the surveyed topology is set after its settle time; EVT_POP removes the oldest events. No page is frozen. -/
def Obligations.PortStates : Prop :=
  ∀ (s : State) (p : Nat), inReset s = false → thawed s = true → p < 24 →
    let now := s.time.toNat
    let moved := fun (t : State) => port t p = { port s p with stateAt := now } ∧ (∀ q, q ≠ p → port t q = port s q) ∧ t.hbm = s.hbm ∧ t.cells = s.cells
    (portState s p = 1 → ∃ t, exec (.portSignalDetect p) s = .next t ∧ portState t p = 2 ∧ bitN (reg t .port p o_COMMON_IRQ_PENDING).toNat 0 = true ∧ moved t) ∧
    (portState s p = 1 → ((port s p).stateAt + 100000000 ≤ now → ∃ t, exec (.portRetryTimer p true) s = .next t ∧ portState t p = 2 ∧ moved t) ∧
      ((port s p).stateAt + 100000000 ≤ now → ∃ t, exec (.portRetryTimer p false) s = .next t ∧ portState t p = 1 ∧ moved t) ∧
      (now < (port s p).stateAt + 100000000 → ∀ b, exec (.portRetryTimer p b) s = .next s)) ∧
    (∀ sw pp, portState s p = 2 → pp < 256 →
      (∃ t k, exec (.portTrainingDone p true sw pp) s = .next t ∧ portState t p = 3 ∧ (port t p).queue = (port s p).queue ++ [k] ∧ k.pkt.type = 7 ∧ k.pkt.opst = 1 ∧
        t.hbm = s.hbm ∧ t.cells = s.cells) ∧
      (∃ t, exec (.portTrainingDone p false sw pp) s = .next t ∧ portState t p = 1 ∧ moved t)) ∧
    (portState s p = 6 → (port s p).back = false → (port s p).tagFailed = false →
      ∃ t, exec (.portTrainingDone p true (reg s .port p o_PORT_PARTNER) (fld s .port p f_PORT_STATUS_PARTNER_PORT)) s = .next t ∧ portState t p = 5 ∧
        (port t p).replay = (port s p).replay ∧ (port t p).keys = (port s p).keys ∧ (port t p).downAt = none ∧ t.hbm = s.hbm ∧ t.cells = s.cells) ∧
    (portState s p = 5 → ∃ t, exec (.portLockLoss p) s = .next t ∧ portState t p = 6 ∧ (port t p).keys = (port s p).keys ∧
      (port t p).replay = (port s p).replay ∧ (port t p).queue = (port s p).queue.filter (fun e => !([1, 2, 4, 6].contains e.pkt.type)) ∧
      (port t p).downAt = some now ∧ t.hbm = s.hbm ∧ t.cells = s.cells) ∧
    (portState s p = 6 → let due := ((port s p).downAt.getD 0) + fld s .fab 0 f_FAB_CTRL_HOLD * 1000000
      (now < due → exec (.linkHoldExpire p) s = .next s) ∧
      (due ≤ now → ∃ t, exec (.linkHoldExpire p) s = .next t ∧ portState t p = 1 ∧ (port t p).replay = [] ∧ (port t p).hello = none ∧
        (∀ e, e < 65536 → bitN (reachMask t e) p = false) ∧ flag t .port p f_PORT_STATUS_AUTH = false ∧ t.hbm = s.hbm ∧ t.cells = s.cells)) ∧
    (topoMatches s = true → flag s .fab 0 f_FAB_TOPO_STATUS_AGREE = false → let due := s.fab.settleFrom + fld s .fab 0 f_FAB_CTRL_SETTLE * 1000000
      (now < due → exec .topoSettleExpire s = .next s) ∧
      (due ≤ now → ∃ t, exec .topoSettleExpire s = .next t ∧ flag t .fab 0 f_FAB_TOPO_STATUS_AGREE = true ∧
        bitN (reg t .fab 0 o_COMMON_IRQ_PENDING).toNat 1 = true ∧ t.hbm = s.hbm)) ∧
    (∀ secure n, reaches s secure .fab 0 → n < 64 → ∃ t, exec (.evtPop secure n) s = .next t ∧ t.fab.events = s.fab.events.drop (n + 1) ∧
      (s.fab.events.length ≤ 64 → fld t .fab 0 f_FAB_EVT_STATUS_COUNT = s.fab.events.length - (n + 1)) ∧ t.hbm = s.hbm)

/-- R320, R330 to R335, R410: link frames. A packet whose LCRC is good under the expected sequence number is accepted in order, and enters the
receive buffers on an ACTIVE port, or as a management message; one whose LCRC is bad is discarded and told once. A link control packet
frees what it acknowledges and extends the credit counts; 1 µs after the last one the timer tells changed counts; 10 µs without progress a
replay resends every unacknowledged packet that the port's state lets leave, and the ninth in a row takes an ACTIVE port to HOLD. The one
packet that waits at an egress, when it may be sent, leaves its queue for the wire and the replay buffer under the next sequence number. No page is frozen. -/
def Obligations.LinkFrames : Prop :=
  ∀ (s : State) (p : Nat), inReset s = false → thawed s = true → p < 24 →
    let q := port s p
    let now := s.time.toNat
    (∀ bytes corr uncorr body crc top post, linkUp s p = true → flag s .port p f_PORT_STATUS_ENC = false → 16 ≤ bytes.length → bytes.length ≤ 320 →
      splitPacket false bytes = (body, crc, top, post) →
      (∀ k, linkCrc q.rxSeq (body ++ top ++ post) = crc → decodePacket q.rxTrain body = some k → knownType k.type = true →
        ∃ t, exec (.fabPacketReceived p bytes corr uncorr) s = .next t ∧ (port t p).rxQ = (if k.type = 7 ∨ portState s p = 5 then q.rxQ ++ [k] else q.rxQ) ∧
          (port t p).rxSeq = (q.rxSeq + 1) % 2 ^ 24 ∧ (port t p).nak = false ∧ portState t p = portState s p ∧ t.hbm = s.hbm ∧ t.cells = s.cells) ∧
      (linkCrc q.rxSeq (body ++ top ++ post) ≠ crc → ∃ t, exec (.fabPacketReceived p bytes corr uncorr) s = .next t ∧ (port t p).rxQ = q.rxQ ∧
        (port t p).rxSeq = q.rxSeq ∧ (port t p).nak = true ∧ t.out.length = s.out.length + (if q.nak = true then 0 else 1) ∧ t.hbm = s.hbm)) ∧
    (∀ w, linkUp s p = true → bitsN w.toNat 63 60 = 0xE → bitN w.toNat 59 = false → lcpCrc w.toNat = w.toNat % 65536 →
      ∃ t, exec (.lcpReceived p w) s = .next t ∧ (port t p).replay = q.replay.filter (fun r => (bitsN w.toNat 47 24 + 2 ^ 24 - r.1) % 2 ^ 24 ≥ 2 ^ 23) ∧
        (∀ v, v < 4 → mget 0 (port t p).hdr v % 1024 = bitsN w.toNat (32 * v + 89) (32 * v + 80) ∧ mget 0 q.hdr v ≤ mget 0 (port t p).hdr v ∧
          mget 0 (port t p).data v % 4096 = bitsN w.toNat (32 * v + 75) (32 * v + 64) ∧ mget 0 q.data v ≤ mget 0 (port t p).data v) ∧ t.hbm = s.hbm ∧ t.cells = s.cells) ∧
    (linkUp s p = true → q.changed = true → (now < q.lcpAt + 1000 → exec (.lcpTimer p) s = .next s) ∧
      (q.lcpAt + 1000 ≤ now → ∃ t, exec (.lcpTimer p) s = .next t ∧ t.out = s.out ++ [.fabTx p (toBytes 32 (lcpOf s p false))] ∧
        (port t p).changed = false ∧ (port t p).replay = q.replay ∧ t.hbm = s.hbm ∧ t.cells = s.cells)) ∧
    (now < q.progAt + 10000 → exec (.replayTimeout p) s = .next s) ∧
    (linkUp s p = true → q.replay ≠ [] → q.progAt + 10000 ≤ now →
      (q.resent < 8 → ∃ t, exec (.replayTimeout p) s = .next t ∧ (port t p).resent = q.resent + 1 ∧ (port t p).replay = q.replay ∧
        t.out.length = s.out.length + (q.replay.filter (fun r => carries s p r.2)).length ∧ portState t p = portState s p ∧ t.hbm = s.hbm) ∧
      (8 ≤ q.resent → portState s p = 5 → ∃ t, exec (.replayTimeout p) s = .next t ∧ portState t p = 6 ∧ (port t p).replay = q.replay ∧ t.hbm = s.hbm)) ∧
    (∀ e, q.queue = [e] → sendable s p e.pkt = true → ∃ t b, exec (.qosGrant (.port p 0)) s = .next t ∧ t.out = s.out ++ [.fabTx p b] ∧
      (port t p).replay = q.replay ++ [(q.txSeq, egressCheck e.pkt)] ∧ (port t p).txSeq = (q.txSeq + 1) % 2 ^ 24 ∧ t.hbm = s.hbm ∧ t.cells = s.cells)

/-- R325, R326: the header of a packet holds every field at every value that its width admits, and a receiver reads back from header and
padded payload the packet that was sent. -/
def Obligations.PacketRoundTrip : Prop :=
  ∀ (k : Packet) (train : Option (Nat × Packet)), k.off < 2 ^ 42 → 1 ≤ k.len → k.len ≤ 256 → k.opst < 256 → k.type < 15 → k.vc < 4 →
    k.seid < 65536 → k.deid < 65536 → k.tag < 65536 → (k.zl = true → k.payload = []) → (k.zl = false → k.payload.length = k.len) →
    decodePacket train (toBytes 32 (headerBits k) ++ k.payload ++ List.replicate (padLen k - k.payload.length) 0) = some k

/-- R30, R235, R341, R342, R348, R376, R377, R406: requests that arrive over the fabric for a line that is resident and sound, or for a flag, at a
device with an EID. Each leaves the receive buffers, and its answer, with the requester's tag, waits at the port that R348 gives it: a read
with its bytes, a write after it changed its bytes alone, a contribution after its sum, a fetch-add with the old word, a FLAG write after the
flag is set. One with a wrong shape is answered with status 0x12. While the core clock has stopped the request stays where it is. No page is frozen. -/
def Sys2Proof.Claims.IngressRequests : Prop :=
  ∀ (s : State) (p : Nat) (k : Packet), inReset s = false → thawed s = true → p < 24 → (port s p).rxQ = [k] →
    (s.pkg.noClock = true → exec (.fabRdReceived p) s = .next s ∧ exec (.fabWrReceived p) s = .next s ∧ exec (.fabRedReceived p) s = .next s ∧
      exec (.fabAtomReceived p) s = .next s ∧ exec (.fabFlagReceived p) s = .next s) ∧
    (∀ n, s.pkg.noClock = false → phase s ≠ 6 → ownEid s ≠ none → answerPort s p { vc := 1, deid := k.seid, world := k.world && secureOk s p } = some n →
      slotFor s 64 (((port s n).queue.filter (fun e => e.pkt.vc == 1)).map (fun e => (e.part, e.resv))) (ingressPart s) ≠ none →
      let answered := fun (t : State) (ty st : Nat) (data : List Byte) => (port t p).rxQ = [] ∧ ∃ e ∈ (port t n).queue, e.pkt.type = ty ∧ e.pkt.opst = st ∧
        e.pkt.tag = k.tag ∧ e.pkt.deid = k.seid ∧ e.pkt.seid = k.deid ∧ e.pkt.vc = 1 ∧ e.pkt.payload = data
      (∀ sl key, sits s (lineOf k.off) sl key → (wayAt s sl key).body.pois = 0 → (wayAt s sl key).body.av = false →
        checkOk (lineOf k.off) (wayAt s sl key).body = true → k.pmask = 0 →
        (k.len = 256 → backed (lineOf k.off) = true ∧ (k.type = 2 → checkValue .plain (lineOf k.off) (BitVec.ofNat 2048 (ofBytes k.payload)) = k.check)) →
        let old := (wayAt s sl key).body.data
        (k.type = 1 → (ingressCheck s p k true false).2 = none → ∃ t, exec (.fabRdReceived p) s = .next t ∧
          answered t 8 0 (((lineBytes old).drop (k.off % 256)).take k.len) ∧ (wayAt t sl key).body = (wayAt s sl key).body ∧ t.hbm = s.hbm ∧ t.cells = s.cells) ∧
        (k.type = 2 → (ingressCheck s p k false true).2 = none → ∃ t, exec (.fabWrReceived p) s = .next t ∧
          answered t 9 0 [] ∧ t.hbm = s.hbm ∧ t.cells = s.cells ∧ ∀ i, i < 256 → lineByte (wayAt t sl key).body.data i =
            if k.off % 256 ≤ i ∧ i < k.off % 256 + k.len then k.payload.getD (i - k.off % 256) 0 else lineByte old i) ∧
        (k.type = 4 → k.opst = 1 → k.len = 4 → (ingressCheck s p k false true).2 = none → ∃ t, exec (.fabRedReceived p) s = .next t ∧
          answered t 9 0 [] ∧ t.hbm = s.hbm ∧ t.cells = s.cells ∧ lineF (wayAt t sl key).body.data (k.off % 256 / 4) =
            f32Add (lineF old (k.off % 256 / 4)) (BitVec.ofNat 32 (ofBytes k.payload)) ∧
          ∀ j, j < 64 → j ≠ k.off % 256 / 4 → lineF (wayAt t sl key).body.data j = lineF old j) ∧
        (k.type = 6 → k.opst = 0 → (ingressCheck s p k true true).2 = none → ∃ t, exec (.fabAtomReceived p) s = .next t ∧
          answered t 8 0 (toBytes 8 (lineWord old (k.off % 256 / 8)).toNat) ∧ t.hbm = s.hbm ∧ t.cells = s.cells ∧
          lineWord (wayAt t sl key).body.data (k.off % 256 / 8) = lineWord old (k.off % 256 / 8) + BitVec.ofNat 64 (ofBytes k.payload) ∧
          ∀ j, j < 32 → j ≠ k.off % 256 / 8 → lineWord (wayAt t sl key).body.data j = lineWord old j)) ∧
      (k.type = 5 → k.opst = 1 → k.zl = true → (k.world = true → secureOk s p = true) →
        let r := bitsN k.ts.toNat 16 12
        let i := bitsN k.ts.toNat 11 0
        ∀ m, present s .region r = true → partOfRegion s r = some m → flag s .chip 0 (f_CHIP_PART_STATUS_RESETTING m) = false →
          bitN (fld s .region r f_REGION_FLAG_INGRESS_SEG) (i / 256) = true → (flagSecure s r i = true → k.world = true) → takerOf s r i = none →
          ∃ t, exec (.fabFlagReceived p) s = .next t ∧ (flagAt t r i).set = true ∧ answered t 9 0 [] ∧ t.hbm = s.hbm ∧
            (∀ q j, (q, j) ≠ (r, i) → (flagAt t q j).set = (flagAt s q j).set)) ∧
      (k.type = 2 → wellShaped k = false → ∃ t, exec (.fabWrReceived p) s = .next t ∧ answered t 9 0x12 [] ∧
        bitN (reg t .fab 0 o_COMMON_IRQ_PENDING).toNat 4 = true ∧ t.hbm = s.hbm ∧ t.slices = s.slices))

/-- R342, R343, R346, R347, R350: answers of the fabric. A response to an outstanding tag travels to its source once; one that answers
nothing leaves every source alone. A request's completion timeout, once it has passed since its issue, is counted, raised and told to the
source, and its tag stays away until a further one has passed; a flow whose old port left ACTIVE moves when its time has passed. No page is frozen. -/
def Sys2Proof.Claims.FabricAnswers : Prop :=
  ∀ (s : State), inReset s = false → thawed s = true →
    (∀ p k rest, p < 24 → (port s p).rxQ = k :: rest → k.type = 8 ∨ k.type = 9 → bitN k.tag 15 = false → s.fab.flushes.find? (fun f => f.1 == k.tag) = none →
      (∀ t r y, s.fab.outst.find? (fun x => x.1 == k.tag) = some (t, r) → replyOf (stillMaps s r) r.pkt k = some y →
        ∃ u, exec (.fabResponseReceived p) s = .next u ∧ u.resps = s.resps ++ [⟨r.id, r.src, r.line, y⟩] ∧ (port u p).rxQ = rest ∧
          (r.pkt.type ≠ 1 → u.hbm = s.hbm) ∧ u.cells = s.cells) ∧
      (s.fab.outst.find? (fun x => x.1 == k.tag) = none →
        ∃ u, exec (.fabResponseReceived p) s = .next u ∧ u.resps = s.resps ∧ (port u p).rxQ = rest ∧ u.hbm = s.hbm ∧ u.cells = s.cells)) ∧
    (∀ id r, s.fab.wait.find? (fun x => x.id == id) = some r → isFlush r.pkt = false → ctoPassed s r.born = true →
      ∃ u, exec (.fabCompletionTimeout id) s = .next u ∧ u.resps = s.resps ++ [⟨r.id, r.src, r.line, .timeout⟩] ∧
        bitN (reg u .fab 0 o_COMMON_IRQ_PENDING).toNat 2 = true ∧ u.hbm = s.hbm ∧ u.cells = s.cells) ∧
    (∀ id t r, s.fab.wait.find? (fun x => x.id == id) = none → s.fab.outst.find? (fun x => x.2.id == id) = some (t, r) →
      (ctoPassed s r.born = false → exec (.fabCompletionTimeout id) s = .next s) ∧
      (ctoPassed s r.born = true → ∃ u, exec (.fabCompletionTimeout id) s = .next u ∧ u.resps = s.resps ++ [⟨r.id, r.src, r.line, .timeout⟩] ∧
        (t, s.time.toNat) ∈ u.fab.stale ∧ bitN (reg u .fab 0 o_COMMON_IRQ_PENDING).toNat 2 = true ∧ u.hbm = s.hbm ∧ u.cells = s.cells)) ∧
    (∀ t, t < 32768 → let due := s.fab.stale.any (fun x => x.1 == t && ctoPassed s x.2)
      (due = false → exec (.tagReleaseTimeout t) s = .next s) ∧
      (due = true → ∃ u, exec (.tagReleaseTimeout t) s = .next u ∧ u.fab.stale = s.fab.stale.filter (fun x => x.1 != t) ∧
        u.resps = s.resps ∧ u.hbm = s.hbm ∧ u.cells = s.cells)) ∧
    (∀ key, ∃ u, exec (.flowSwitchoverTimeout key) s = .next u ∧ (∀ m ∈ u.fab.moves, ∀ t, m.key = key → m.moveAt = some t → s.time.toNat < t) ∧
      u.resps = s.resps ∧ u.hbm = s.hbm ∧ u.cells = s.cells)

/-- Both of IngressRequests and FabricAnswers: see the claims above. -/
def Obligations.IngressAndFabricAnswers : Prop := Sys2Proof.Claims.IngressRequests ∧ Sys2Proof.Claims.FabricAnswers

/-- R321, R351 to R355, R363, R364: management messages of the partner. A HELLO that nothing refuses records the partner and leads to AUTH or
ACTIVE, and one that is refused to REFUSED with the code; the challenge, the partner's response, whose signature and anchor are checked, and
the device's signature follow in turn; a failed or abandoned authentication refuses the partner in AUTH, and leaves one that authenticates
again in HOLD. Reachability messages set and clear the port's bit for EIDs other than the device's own; PING is echoed; PONG is only received. No page is frozen. -/
def Obligations.SurveyMessages : Prop :=
  ∀ (s : State) (p : Nat), inReset s = false → thawed s = true → p < 24 →
    let refused := fun (t : State) (code : Nat) => portState t p = (if portState s p = 6 then 6 else 7) ∧ fld t .port p f_PORT_STATUS_REFUSE = code ∧ t.hbm = s.hbm
    (∀ h, portState s p = 3 → h.port < 256 → h.eid < 65535 → h.credits.length = 4 →
      (helloRefusal s p h = none → ∃ t, exec (.hello p h) s = .next t ∧ (port t p).hello = some h ∧ reg t .port p o_PORT_PARTNER = h.switchId ∧
        fld t .port p f_PORT_STATUS_PARTNER_PORT = h.port ∧ t.hbm = s.hbm ∧ t.cells = s.cells ∧
        portState t p = (if (flag s .port p f_PORT_SEC_CTRL_AUTH_REQ || flag s .port p f_PORT_SEC_CTRL_ENC_REQ || h.reqAuth || h.reqEnc) = true then 4 else 5)) ∧
      (∀ c, helloRefusal s p h = some c → c < 16 → ∃ t, exec (.hello p h) s = .next t ∧ refused t c)) ∧
    (authenticating s p = true → (port s p).chal = none → ∃ t e, exec (.authChal p) s = .next t ∧ (port t p).chal ≠ none ∧ (port t p).queue = (port s p).queue ++ [e] ∧
      e.pkt.type = 7 ∧ e.pkt.opst = 2 ∧ portState t p = portState s p ∧ t.hbm = s.hbm) ∧
    (∀ n k sig, authenticating s p = true → (port s p).chal = some n → k.ns.length = 32 → k.es.length = 64 → k.key.length = 64 → sig.length = 64 →
      let signed := Config.sm2Check k.key (authMessage s p n k) sig
      let known := (anchors s).contains (ofBytes (Config.sm3 k.key))
      (signed = true → known = true → ∃ t, exec (.authResp p k sig) s = .next t ∧ (port t p).verified = some k ∧
        portState t p = portState s p ∧ t.hbm = s.hbm) ∧
      (signed = true → known = false → ∃ t, exec (.authResp p k sig) s = .next t ∧ refused t 5) ∧
      (signed = false → ∃ t, exec (.authResp p k sig) s = .next t ∧ refused t 4)) ∧
    (∀ n k, authenticating s p = true → (port s p).chal = some n → (port s p).verified = some k →
      ∃ t, exec (.authFin p) s = .next t ∧ portState t p = 5 ∧ flag t .port p f_PORT_STATUS_AUTH = true ∧
        flag t .port p f_PORT_STATUS_ENC = encNeeded s p ∧ (port t p).keys = some (Config.sessionKeys n k.es k.key).1 ∧ (port t p).tagFailed = false ∧
        t.hbm = s.hbm ∧ t.cells = s.cells) ∧
    (∀ code, authenticating s p = true → code < 256 → ∃ t, exec (.authAbort p code) s = .next t ∧ refused t 4) ∧
    (∀ rs, portState s p = 5 → rangesOk rs = true →
      let named := fun (e : Nat) => rs.any (fun r => decide (r.1 ≤ e ∧ e ≤ r.2))
      (∃ t, exec (.reachAdd p rs) s = .next t ∧ t.hbm = s.hbm ∧ t.cells = s.cells ∧ ∀ e q, e < 65536 →
        bitN (reachMask t e) q = (bitN (reachMask s e) q || (q == p && named e && ownEid s != some e))) ∧
      (∃ t, exec (.reachDel p rs) s = .next t ∧ t.hbm = s.hbm ∧ t.cells = s.cells ∧ ∀ e q, e < 65536 →
        bitN (reachMask t e) q = (bitN (reachMask s e) q && !(q == p && named e)))) ∧
    (portState s p = 5 → (∃ t, exec (.reachSync p false) s = .next t ∧ (∀ e, e < 65536 → bitN (reachMask t e) p = false) ∧ t.hbm = s.hbm) ∧
      (∃ t, exec (.reachSync p true) s = .next t ∧ (∀ e, reachMask t e = reachMask s e) ∧ t.hbm = s.hbm)) ∧
    (∀ v, linkUp s p = true → ∃ t e, exec (.ping p v) s = .next t ∧ (port t p).queue = (port s p).queue ++ [e] ∧ e.pkt.type = 7 ∧ e.pkt.opst = 0x21 ∧
      e.pkt.payload = toBytes 8 v.toNat ∧ portState t p = portState s p ∧ t.hbm = s.hbm ∧ t.cells = s.cells) ∧
    (∀ v k, (port s p).rxQ = [k] → k.type = 7 → k.opst = 0x21 → ∃ t, exec (.pong p v) s = .next t ∧ (port t p).rxQ = [] ∧ (port t p).queue = (port s p).queue ∧
      t.pages = s.pages ∧ t.hbm = s.hbm ∧ t.cells = s.cells)

/-! ## The package (chapter 21) -/

/-- R606 to R608, R611 to R615: clock, supplies, sideband and test access. A lost clock cuts every regulator and pulls FAULT#; a supply
fault makes the next bring-up cold, and with VDD_BASE releases the held pins. The sideband target answers its own address with the bytes of
the last refresh, takes a demand at offset 0x10, and acknowledges no other write. An instruction that needs PERST# low is BYPASS while it is
high; IDCODE is selected by a reset of the port. -/
def Obligations.PackagePins : Prop :=
  ∀ (s : State),
    (inReset s = false → ∃ t, exec .refclkCoreLoss s = .next t ∧ t.pkg = { s.pkg with fault := true, noClock := true } ∧ t.reqs = [] ∧
      (∀ r, r < partRegions s.part → regionOn t r = false) ∧ t.hbm = s.hbm) ∧
    (∀ base, ∃ t, exec (.supplyFault base) s = .next t ∧ t.pkg.cold = true ∧ (base = true → t.pkg.trip = false ∧ t.pkg.fault = false ∧ t.repair.held = []) ∧
      (base = false → t.pkg.trip = s.pkg.trip ∧ t.repair = s.repair) ∧ (∀ sl, sl < 128 → (slice t sl).ways = []) ∧ t.fuses = s.fuses ∧ t.cells = s.cells) ∧
    (∀ off n, inReset s = false → s.pkg.noClock = false → s.pkg.sbAddr < 4 → 1 ≤ n → off + n ≤ 16 → s.pkg.sideband.length = 16 →
      ∃ t, exec (.sidebandRead (0x58 + s.pkg.sbAddr) off n) s = .next t ∧ t.out = s.out ++ [.sideband (some ((s.pkg.sideband.drop off).take n))] ∧
        t.pkg = s.pkg ∧ t.pages = s.pages ∧ t.hbm = s.hbm) ∧
    (inReset s = false → s.pkg.noClock = false → s.pkg.sbAddr < 4 →
      (exec (.sidebandDemand (0x58 + s.pkg.sbAddr) 0x10 1) s = .next (demand s .host (pinChannels s))) ∧
      ((pinChannels s).filter (chEnabled s) ≠ [] → (demand s .host (pinChannels s)).therm.demands ≠ s.therm.demands) ∧
      (∀ off v, off < 256 → v < 256 → off ≠ 0x10 → exec (.sidebandDemand (0x58 + s.pkg.sbAddr) off v) s = .next (emit s (.sideband none)))) ∧
    (inReset s = false → s.pkg.noClock = false → exec .sidebandRefresh s = .next { s with pkg := { s.pkg with sideband := sidebandBytes s } } ∧ (sidebandBytes s).length = 16) ∧
    (∀ x, x ≠ .idcode → exec (.tapInstructionLoad (some x)) s = .next { s with pkg := { s.pkg with tap := if tapHeld x = true ∧ s.pkg.perst = false then .bypass else x } }) ∧
    (exec (.tapInstructionLoad none) s = .next { s with pkg := { s.pkg with tap := .bypass } }) ∧
    (exec (.tapInstructionLoad (some .idcode)) s = .next (emit { s with pkg := { s.pkg with tap := .idcode } } (.tap (idcode s)))) ∧
    (exec .tapReset s = .next { s with pkg := { s.pkg with tap := .idcode } })

/-! ## The whole machine -/

/-- The host's queue discipline: a step takes the command at the front of the queue and performs it on the state with the rest of the
queue. On an empty queue the block idles: its time-stamp advances by 10 ns while its clock runs, which is the model's choice (log entry 2), and nothing else changes. -/
def Obligations.StepRunsFrontCommand : Prop :=
  (∀ (s : State) (c : Instr) (rest : List Instr), step { s with pending := c :: rest } = exec c { s with pending := rest }) ∧
  (∀ s : State, s.pending = [] → ∃ t, step s = .next t ∧ t = { s with time := t.time } ∧
    (inReset s = false → s.pkg.noClock = false → t.time = s.time + 10) ∧ (inReset s = true ∨ s.pkg.noClock = true → t = s))

/-- A command whose operands are well formed for the part answers a next state, from every state, and the command changes neither the
part nor the queue; a command whose operands are not changes nothing, which is the model's choice (log entry 7). -/
def Obligations.WellFormedAnswersNext : Prop :=
  ∀ (c : Instr) (s : State),
    (Instr.wf s.part c = true → ∃ t, exec c s = .next t ∧ t.part = s.part ∧ t.pending = s.pending) ∧
    (Instr.wf s.part c = false → exec c s = .next s)

/-- Every step keeps the queue well formed: from a state whose waiting commands are all well formed for the part, a step answers a next
state, and there too every waiting command is well formed. -/
def Obligations.StepKeepsQueueWellFormed : Prop :=
  ∀ s : State, queueOk s = true → ∃ t, step s = .next t ∧ queueOk t = true ∧ t.part = s.part ∧ t.pending = s.pending.tail

/-- R315 leaves every byte of HBM 0; the model lists the other bytes in one canonical form, addresses rising and no byte 0 (log entry 15).
Every step keeps that form: from any state whose HBM is in it, whatever command waits at the front, a step that answers a next state
leaves HBM in it. -/
def Obligations.MemoryStaysCanonical : Prop :=
  ∀ s t : State, memOk s = true → step s = .next t → memOk t = true

/-- R605, R609: while PERST# is low, or TESTEN was sampled high, every unit is held in reset: a command other than those of the package pins
that need no running unit changes nothing. -/
def Obligations.ResetHoldsEveryUnit : Prop :=
  ∀ (s : State) (c : Instr), inReset s = true → Instr.wf s.part c = true →
    (match c with
     | .perstAssert | .perstRelease _ _ _ | .supplyFault _ | .sidebandRead _ _ _ | .sidebandDemand _ _ _ | .tapInstructionLoad _ | .tapReset => False
     | _ => True) → exec c s = .next s

/-- R486: the SEC page is secure only. A write or a read of it by host software that is not secure changes no register of it beyond the
common block and the log's status, records a bus error with cause 2 where none stands, and raises the CHIP page's bit 0; the read ends with
Completer Abort. -/
def Obligations.SecurePageRefuses : Prop :=
  ∀ (s : State) (secure : Bool) (off : Nat) (v : W64), inReset s = false → s.link.up = true → s.pkg.noClock = false → barReady s = true →
    hostSecure s secure = false → off < 4096 → off % 4 = 0 →
    let held := fun (t : State) => t.hbm = s.hbm ∧ bitN (reg t .chip 0 o_COMMON_IRQ_PENDING).toNat 0 = true ∧
      (∀ o, 0x100 ≤ o → o ≠ o_SEC_LOG_STATUS → reg t .sec 0 o = reg s .sec 0 o ∧ regShd t .sec 0 o = regShd s .sec 0 o ∧ regStg t .sec 0 o = regStg s .sec 0 o) ∧
      (flag s .chip 0 f_CHIP_BUS_ERR_INFO_VALID = false → fldW (reg t .chip 0 o_CHIP_BUS_ERR_INFO) 28 24 = 2)
    (∃ t, exec (.regWrite secure (bar0Of .sec 0 off) 4 v) s = .next t ∧ held t ∧ t.out = s.out) ∧
    (∃ t, exec (.bar0Read secure (bar0Of .sec 0 off) 4) s = .next t ∧ held t ∧ t.out = s.out ++ [.completerAbort (bar0Of .sec 0 off)])

/-- R4, R33, R35, R488: the state after reset as the spec gives it: phase ROM, no message, no request, no run and no waiting command, HBM that
lists nothing, every port DISABLED, every region OFF, and for each register the shadow and the staged copy equal to the active one. -/
def Obligations.ResetState : Prop :=
  phase State.reset = 0 ∧ State.reset.pending = [] ∧ State.reset.cells = [] ∧ State.reset.reqs = [] ∧ State.reset.hbm.mem = [] ∧ memOk State.reset = true ∧
    queueOk State.reset = true ∧ (∀ r, r < 32 → regionState State.reset r = 0) ∧ (∀ p, p < 24 → portState State.reset p = 0) ∧
    (∀ k i off, regShd State.reset k i off = reg State.reset k i off ∧ regStg State.reset k i off = reg State.reset k i off) ∧
    (∀ k i, present State.reset k i = true → flag State.reset k i f_COMMON_SHADOW_STATE_DIRTY = false)
end

