-- ==== Sys2Proof/Laws/Bits.lean ====
section
/-! SUPPORT. Bit fields: reading a field after writing one. -/
namespace Sys2Proof.Laws

open Sys2Proof.Machine

/-- A replaced field as a sum of three parts. -/
theorem putBitsN_eq (w hi lo v : Nat) :
    putBitsN w hi lo v = 2 ^ lo * (2 ^ (hi + 1 - lo) * (w / 2 ^ lo / 2 ^ (hi + 1 - lo)) + v % 2 ^ (hi + 1 - lo)) + w % 2 ^ lo := by
  unfold putBitsN bitsN
  simp only [Nat.shiftLeft_eq, Nat.shiftRight_eq_div_pow]
  generalize 2 ^ lo = P
  generalize 2 ^ (hi + 1 - lo) = M
  have h1 : P * (w / P) + w % P = w := Nat.div_add_mod w P
  have h2 : M * (w / P / M) + w / P % M = w / P := Nat.div_add_mod (w / P) M
  have h3 : P * (w / P) = P * (M * (w / P / M)) + w / P % M * P := by
    conv_lhs => rw [← h2]
    rw [Nat.mul_add, Nat.mul_comm P (w / P % M)]
  rw [Nat.mul_add, Nat.mul_comm P (v % M)]
  omega

/-- The bits of a number after a field is replaced. -/
theorem testBit_putBitsN (w hi lo v i : Nat) (h : lo ≤ hi + 1) :
    (putBitsN w hi lo v).testBit i = if lo ≤ i ∧ i ≤ hi then v.testBit (i - lo) else w.testBit i := by
  rw [putBitsN_eq, Nat.testBit_two_pow_mul_add _ (Nat.mod_lt _ (Nat.two_pow_pos _))]
  by_cases h1 : i < lo
  · have : ¬(lo ≤ i ∧ i ≤ hi) := by omega
    rw [if_pos h1, if_neg this, Nat.testBit_mod_two_pow]; simp [h1]
  · rw [if_neg h1, Nat.testBit_two_pow_mul_add _ (Nat.mod_lt _ (Nat.two_pow_pos _))]
    by_cases h2 : i - lo < hi + 1 - lo
    · have : lo ≤ i ∧ i ≤ hi := by omega
      rw [if_pos h2, if_pos this, Nat.testBit_mod_two_pow]; simp [h2]
    · have : ¬(lo ≤ i ∧ i ≤ hi) := by omega
      rw [if_neg h2, if_neg this, Nat.testBit_div_two_pow, Nat.testBit_div_two_pow]
      congr 1; omega

/-- The bits of a field. -/
theorem testBit_bitsN (w hi lo i : Nat) : (bitsN w hi lo).testBit i = (decide (i < hi + 1 - lo) && w.testBit (lo + i)) := by
  rw [bitsN, Nat.testBit_mod_two_pow, Nat.testBit_shiftRight]

/-- A field reads as it was written. -/
theorem bitsN_putBitsN (w hi lo v : Nat) (h : lo ≤ hi + 1) : bitsN (putBitsN w hi lo v) hi lo = v % 2 ^ (hi + 1 - lo) := by
  apply Nat.eq_of_testBit_eq
  intro i
  rw [testBit_bitsN, testBit_putBitsN _ _ _ _ _ h, Nat.testBit_mod_two_pow]
  by_cases hi' : i < hi + 1 - lo
  · have : lo ≤ lo + i ∧ lo + i ≤ hi := by omega
    simp [hi', this]
  · simp [hi']

/-- A field that shares no bit with the written one is unchanged. -/
theorem bitsN_putBitsN_disjoint (w hi lo v hi' lo' : Nat) (h : lo ≤ hi + 1) (hd : hi < lo' ∨ hi' < lo) :
    bitsN (putBitsN w hi lo v) hi' lo' = bitsN w hi' lo' := by
  apply Nat.eq_of_testBit_eq
  intro i
  rw [testBit_bitsN, testBit_bitsN, testBit_putBitsN _ _ _ _ _ h]
  by_cases hi2 : i < hi' + 1 - lo'
  · have : ¬(lo ≤ lo' + i ∧ lo' + i ≤ hi) := by omega
    simp [hi2, this]
  · simp [hi2]

/-- A field of a register word. -/
theorem bitsN_mod_32 (w hi lo : Nat) (h : hi < 32) : bitsN (w % 2 ^ 32) hi lo = bitsN w hi lo := by
  apply Nat.eq_of_testBit_eq
  intro i
  rw [testBit_bitsN, testBit_bitsN, Nat.testBit_mod_two_pow]
  by_cases hi2 : i < hi + 1 - lo
  · have : lo + i < 32 := by omega
    simp [hi2, this]
  · simp [hi2]

/-- A register's field reads as it was written. -/
theorem fldW_putW (w : W32) (hi lo v : Nat) (h : lo ≤ hi) (h32 : hi < 32) : fldW (putW w hi lo v) hi lo = v % 2 ^ (hi + 1 - lo) := by
  rw [fldW, putW, BitVec.toNat_ofNat, bitsN_mod_32 _ _ _ h32, bitsN_putBitsN _ _ _ _ (by omega)]

/-- A register's field that shares no bit with the written one is unchanged. -/
theorem fldW_putW_disjoint (w : W32) (hi lo v hi' lo' : Nat) (h : lo ≤ hi) (h32 : hi' < 32) (hd : hi < lo' ∨ hi' < lo) :
    fldW (putW w hi lo v) hi' lo' = fldW w hi' lo' := by
  rw [fldW, putW, BitVec.toNat_ofNat, bitsN_mod_32 _ _ _ h32, bitsN_putBitsN_disjoint _ _ _ _ _ _ (by omega) hd, fldW]

end Sys2Proof.Laws
end

