-- ==== Sys2Proof/Laws/Maps.lean ====
section
/-! SUPPORT. Sparse maps: reading after writing, and the canonical form that every write keeps. -/
namespace Sys2Proof.Laws

open Sys2Proof.Machine

variable {α : Type}

/-- Reading a map with a key removed. -/
theorem mget_mdel (d : α) (k x : Nat) (m : List (Nat × α)) :
    mget d (mdel k m) x = if x = k then d else mget d m x := by
  induction m with
  | nil => simp [mdel, mget]
  | cons e t ih =>
    obtain ⟨a, v⟩ := e
    by_cases ha : a = k
    · subst ha
      simp only [mdel, if_true, ih, mget]
      by_cases hx : x = a
      · simp [hx]
      · simp [hx, Ne.symm hx]
    · simp only [mdel, if_neg ha, mget, ih]
      by_cases hx : a = x
      · subst hx; simp [ha]
      · simp [hx]

/-- A removed key is not listed. -/
theorem not_mem_mdel (k : Nat) (m : List (Nat × α)) : ∀ e ∈ mdel k m, e.1 ≠ k := by
  induction m with
  | nil => simp [mdel]
  | cons e t ih =>
    by_cases ha : e.1 = k
    · simpa [mdel, ha] using ih
    · intro f hf
      simp only [mdel, if_neg ha, List.mem_cons] at hf
      rcases hf with rfl | hf
      · exact ha
      · exact ih f hf

/-- Reading after the insertion of a key that is not listed. -/
theorem mget_mins (d : α) (k : Nat) (v : α) (x : Nat) (m : List (Nat × α)) (h : ∀ e ∈ m, e.1 ≠ k) :
    mget d (mins k v m) x = if x = k then v else mget d m x := by
  induction m with
  | nil => simp only [mins, mget]; by_cases hx : k = x <;> simp [hx, eq_comm]
  | cons e t ih =>
    obtain ⟨a, w⟩ := e
    have ht : ∀ e ∈ t, e.1 ≠ k := fun e he => h e (List.mem_cons_of_mem _ he)
    have ha : a ≠ k := h (a, w) List.mem_cons_self
    by_cases hk : k < a
    · simp only [mins, if_pos hk, mget]
      by_cases hx : k = x
      · simp [hx]
      · simp [hx, Ne.symm hx]
    · simp only [mins, if_neg hk, mget, ih ht]
      by_cases hx : a = x
      · subst hx; simp [ha]
      · simp [hx]

/-- Reading after writing: the written key has the value, every other key is unchanged. -/
theorem mget_mset [DecidableEq α] (d : α) (m : List (Nat × α)) (k : Nat) (v : α) (x : Nat) :
    mget d (mset d m k v) x = if x = k then v else mget d m x := by
  unfold mset
  by_cases hv : v = d
  · rw [if_pos hv, mget_mdel, hv]
  · rw [if_neg hv, mget_mins d k v x _ (not_mem_mdel k m), mget_mdel]
    by_cases hx : x = k <;> simp [hx]

/-- The written key has the value. -/
@[simp] theorem mget_mset_self [DecidableEq α] (d : α) (m : List (Nat × α)) (k : Nat) (v : α) :
    mget d (mset d m k v) k = v := by simp [mget_mset]

/-- Every other key is unchanged. -/
theorem mget_mset_ne [DecidableEq α] (d : α) (m : List (Nat × α)) {k x : Nat} (v : α) (h : x ≠ k) :
    mget d (mset d m k v) x = mget d m x := by simp [mget_mset, h]

/-- Removing a key that is not listed. -/
theorem mdel_of_not_mem (k : Nat) (m : List (Nat × α)) (h : ∀ e ∈ m, e.1 ≠ k) : mdel k m = m := by
  induction m with
  | nil => rfl
  | cons e t ih =>
    have ha : e.1 ≠ k := h e List.mem_cons_self
    simp [mdel, ha, ih (fun e he => h e (List.mem_cons_of_mem _ he))]

/-- Removing the key that was inserted. -/
theorem mdel_mins (k : Nat) (v : α) (m : List (Nat × α)) (h : ∀ e ∈ m, e.1 ≠ k) : mdel k (mins k v m) = m := by
  induction m with
  | nil => simp [mins, mdel]
  | cons e t ih =>
    obtain ⟨a, w⟩ := e
    have ha : a ≠ k := h (a, w) List.mem_cons_self
    have ht := ih (fun e he => h e (List.mem_cons_of_mem _ he))
    have hn := mdel_of_not_mem k t (fun e he => h e (List.mem_cons_of_mem _ he))
    unfold mins
    split
    · simp [mdel, ha, hn]
    · simp [mdel, ha, ht]

/-- Two writes of one key: the later stands. -/
@[simp] theorem mset_mset [DecidableEq α] (d : α) (m : List (Nat × α)) (k : Nat) (v w : α) :
    mset d (mset d m k v) k w = mset d m k w := by
  have h : mdel k (mset d m k v) = mdel k m := by
    unfold mset
    split
    · exact mdel_of_not_mem k _ (not_mem_mdel k m)
    · exact mdel_mins k v _ (not_mem_mdel k m)
  rw [mset, h, ← mset]

/-- A list whose keys rise from `b` has no key below it. -/
theorem risingFrom_le {b : Nat} {m : List (Nat × α)} (h : risingFrom b m = true) : ∀ e ∈ m, b ≤ e.1 := by
  induction m generalizing b with
  | nil => simp
  | cons e t ih =>
    obtain ⟨a, v⟩ := e
    simp only [risingFrom, Bool.and_eq_true, decide_eq_true_eq] at h
    intro f hf
    rcases List.mem_cons.1 hf with rfl | hf
    · exact h.1
    · have := ih h.2 f hf; omega

/-- A lower bound may be lowered. -/
theorem risingFrom_mono {b c : Nat} {m : List (Nat × α)} (hc : c ≤ b) (h : risingFrom b m = true) : risingFrom c m = true := by
  cases m with
  | nil => rfl
  | cons e t =>
    simp only [risingFrom, Bool.and_eq_true, decide_eq_true_eq] at h ⊢
    exact ⟨by omega, h.2⟩

/-- Removing a key keeps the keys rising. -/
theorem risingFrom_mdel (k : Nat) {b : Nat} {m : List (Nat × α)} (h : risingFrom b m = true) : risingFrom b (mdel k m) = true := by
  induction m generalizing b with
  | nil => simp [mdel, risingFrom]
  | cons e t ih =>
    obtain ⟨a, v⟩ := e
    simp only [risingFrom, Bool.and_eq_true, decide_eq_true_eq] at h
    by_cases ha : a = k
    · simp only [mdel, if_pos ha]
      exact ih (risingFrom_mono (by omega) h.2)
    · simp only [mdel, if_neg ha, risingFrom, Bool.and_eq_true, decide_eq_true_eq]
      exact ⟨h.1, ih h.2⟩

/-- Inserting a key that is not listed keeps the keys rising. -/
theorem risingFrom_mins (k : Nat) (v : α) {b : Nat} {m : List (Nat × α)} (hb : b ≤ k) (hn : ∀ e ∈ m, e.1 ≠ k)
    (h : risingFrom b m = true) : risingFrom b (mins k v m) = true := by
  induction m generalizing b with
  | nil => simp [mins, risingFrom, hb]
  | cons e t ih =>
    obtain ⟨a, w⟩ := e
    simp only [risingFrom, Bool.and_eq_true, decide_eq_true_eq] at h
    have ha : a ≠ k := hn (a, w) List.mem_cons_self
    have ht : ∀ e ∈ t, e.1 ≠ k := fun e he => hn e (List.mem_cons_of_mem _ he)
    by_cases hk : k < a
    · simp only [mins, if_pos hk, risingFrom, Bool.and_eq_true, decide_eq_true_eq]
      exact ⟨hb, by omega, h.2⟩
    · simp only [mins, if_neg hk, risingFrom, Bool.and_eq_true, decide_eq_true_eq]
      exact ⟨h.1, ih (by omega) ht h.2⟩

/-- The entries after the insertion of a pair. -/
theorem mem_mins (k : Nat) (v : α) (m : List (Nat × α)) : ∀ e ∈ mins k v m, e = (k, v) ∨ e ∈ m := by
  induction m with
  | nil => simp [mins]
  | cons a t ih =>
    intro e he
    simp only [mins] at he
    split at he
    · simpa using he
    · rcases List.mem_cons.1 he with rfl | he
      · simp
      · rcases ih e he with h | h
        · exact .inl h
        · exact .inr (List.mem_cons_of_mem _ h)

/-- The entries after a removal. -/
theorem mem_mdel (k : Nat) (m : List (Nat × α)) : ∀ e ∈ mdel k m, e ∈ m := by
  induction m with
  | nil => simp [mdel]
  | cons a t ih =>
    intro e he
    simp only [mdel] at he
    split at he
    · exact List.mem_cons_of_mem _ (ih e he)
    · rcases List.mem_cons.1 he with rfl | he
      · simp
      · exact List.mem_cons_of_mem _ (ih e he)

/-- A write keeps the canonical form. -/
theorem mapWf_mset [DecidableEq α] (d : Nat → α) (m : List (Nat × α)) (k : Nat) (v : α) (h : mapWf d m = true) :
    mapWf d (mset (d k) m k v) = true := by
  simp only [mapWf, Bool.and_eq_true, List.all_eq_true, decide_eq_true_eq] at h ⊢
  unfold mset
  by_cases hv : v = d k
  · rw [if_pos hv]
    exact ⟨risingFrom_mdel k h.1, fun e he => h.2 e (mem_mdel k m e he)⟩
  · rw [if_neg hv]
    refine ⟨risingFrom_mins k v (Nat.zero_le _) (not_mem_mdel k m) (risingFrom_mdel k h.1), fun e he => ?_⟩
    rcases mem_mins k v _ e he with rfl | he
    · exact hv
    · exact h.2 e (mem_mdel k m e he)

/-- Keeping the entries whose keys pass a test keeps the keys rising. -/
theorem risingFrom_filter (p : Nat × α → Bool) {b : Nat} {m : List (Nat × α)} (h : risingFrom b m = true) :
    risingFrom b (m.filter p) = true := by
  induction m generalizing b with
  | nil => simp [risingFrom]
  | cons e t ih =>
    obtain ⟨a, v⟩ := e
    simp only [risingFrom, Bool.and_eq_true, decide_eq_true_eq] at h
    by_cases hp : p (a, v)
    · simp only [List.filter_cons_of_pos hp, risingFrom, Bool.and_eq_true, decide_eq_true_eq]
      exact ⟨h.1, ih h.2⟩
    · simp only [List.filter_cons_of_neg hp]
      exact ih (risingFrom_mono (by omega) h.2)

/-- A filtered map keeps the canonical form. -/
theorem mapWf_filter [DecidableEq α] (d : Nat → α) (p : Nat × α → Bool) (m : List (Nat × α)) (h : mapWf d m = true) :
    mapWf d (m.filter p) = true := by
  simp only [mapWf, Bool.and_eq_true, List.all_eq_true, decide_eq_true_eq] at h ⊢
  exact ⟨risingFrom_filter p h.1, fun e he => h.2 e (List.mem_of_mem_filter he)⟩

end Sys2Proof.Laws
end

