-- ==== Sys2Proof/Laws/State.lean ====
section
/-! SUPPORT. State: one lemma for each field and each update, true by unfolding the update. -/
namespace Sys2Proof.Laws

open Sys2Proof.Machine

variable (s : State)

/-! ## setPage -/

@[simp] theorem setPage_part (k : PageKind) (i : Nat) (v : Page) : (setPage s k i v).part = s.part := rfl
@[simp] theorem setPage_time (k : PageKind) (i : Nat) (v : Page) : (setPage s k i v).time = s.time := rfl
@[simp] theorem setPage_fresh (k : PageKind) (i : Nat) (v : Page) : (setPage s k i v).fresh = s.fresh := rfl
@[simp] theorem setPage_nextId (k : PageKind) (i : Nat) (v : Page) : (setPage s k i v).nextId = s.nextId := rfl
@[simp] theorem setPage_stackH (k : PageKind) (i : Nat) (v : Page) : (setPage s k i v).stackH = s.stackH := rfl
@[simp] theorem setPage_stackM (k : PageKind) (i : Nat) (v : Page) : (setPage s k i v).stackM = s.stackM := rfl
@[simp] theorem setPage_link (k : PageKind) (i : Nat) (v : Page) : (setPage s k i v).link = s.link := rfl
@[simp] theorem setPage_repair (k : PageKind) (i : Nat) (v : Page) : (setPage s k i v).repair = s.repair := rfl
@[simp] theorem setPage_hbm (k : PageKind) (i : Nat) (v : Page) : (setPage s k i v).hbm = s.hbm := rfl
@[simp] theorem setPage_slices (k : PageKind) (i : Nat) (v : Page) : (setPage s k i v).slices = s.slices := rfl
@[simp] theorem setPage_cache (k : PageKind) (i : Nat) (v : Page) : (setPage s k i v).cache = s.cache := rfl
@[simp] theorem setPage_hbmCtl (k : PageKind) (i : Nat) (v : Page) : (setPage s k i v).hbmCtl = s.hbmCtl := rfl
@[simp] theorem setPage_chk (k : PageKind) (i : Nat) (v : Page) : (setPage s k i v).chk = s.chk := rfl
@[simp] theorem setPage_reqs (k : PageKind) (i : Nat) (v : Page) : (setPage s k i v).reqs = s.reqs := rfl
@[simp] theorem setPage_resps (k : PageKind) (i : Nat) (v : Page) : (setPage s k i v).resps = s.resps := rfl
@[simp] theorem setPage_cells (k : PageKind) (i : Nat) (v : Page) : (setPage s k i v).cells = s.cells := rfl
@[simp] theorem setPage_blocks (k : PageKind) (i : Nat) (v : Page) : (setPage s k i v).blocks = s.blocks := rfl
@[simp] theorem setPage_regions (k : PageKind) (i : Nat) (v : Page) : (setPage s k i v).regions = s.regions := rfl
@[simp] theorem setPage_fab (k : PageKind) (i : Nat) (v : Page) : (setPage s k i v).fab = s.fab := rfl
@[simp] theorem setPage_ports (k : PageKind) (i : Nat) (v : Page) : (setPage s k i v).ports = s.ports := rfl
@[simp] theorem setPage_power (k : PageKind) (i : Nat) (v : Page) : (setPage s k i v).power = s.power := rfl
@[simp] theorem setPage_therm (k : PageKind) (i : Nat) (v : Page) : (setPage s k i v).therm = s.therm := rfl
@[simp] theorem setPage_trace (k : PageKind) (i : Nat) (v : Page) : (setPage s k i v).trace = s.trace := rfl
@[simp] theorem setPage_gauge (k : PageKind) (i : Nat) (v : Page) : (setPage s k i v).gauge = s.gauge := rfl
@[simp] theorem setPage_chores (k : PageKind) (i : Nat) (v : Page) : (setPage s k i v).chores = s.chores := rfl
@[simp] theorem setPage_pkg (k : PageKind) (i : Nat) (v : Page) : (setPage s k i v).pkg = s.pkg := rfl
@[simp] theorem setPage_boot (k : PageKind) (i : Nat) (v : Page) : (setPage s k i v).boot = s.boot := rfl
@[simp] theorem setPage_fuses (k : PageKind) (i : Nat) (v : Page) : (setPage s k i v).fuses = s.fuses := rfl
@[simp] theorem setPage_mgmt (k : PageKind) (i : Nat) (v : Page) : (setPage s k i v).mgmt = s.mgmt := rfl
@[simp] theorem setPage_secLog (k : PageKind) (i : Nat) (v : Page) : (setPage s k i v).secLog = s.secLog := rfl
@[simp] theorem setPage_out (k : PageKind) (i : Nat) (v : Page) : (setPage s k i v).out = s.out := rfl
@[simp] theorem setPage_pending (k : PageKind) (i : Nat) (v : Page) : (setPage s k i v).pending = s.pending := rfl

/-! ## setReg -/

@[simp] theorem setReg_part (k : PageKind) (i o : Nat) (v : W32) : (setReg s k i o v).part = s.part := rfl
@[simp] theorem setReg_time (k : PageKind) (i o : Nat) (v : W32) : (setReg s k i o v).time = s.time := rfl
@[simp] theorem setReg_fresh (k : PageKind) (i o : Nat) (v : W32) : (setReg s k i o v).fresh = s.fresh := rfl
@[simp] theorem setReg_nextId (k : PageKind) (i o : Nat) (v : W32) : (setReg s k i o v).nextId = s.nextId := rfl
@[simp] theorem setReg_stackH (k : PageKind) (i o : Nat) (v : W32) : (setReg s k i o v).stackH = s.stackH := rfl
@[simp] theorem setReg_stackM (k : PageKind) (i o : Nat) (v : W32) : (setReg s k i o v).stackM = s.stackM := rfl
@[simp] theorem setReg_link (k : PageKind) (i o : Nat) (v : W32) : (setReg s k i o v).link = s.link := rfl
@[simp] theorem setReg_repair (k : PageKind) (i o : Nat) (v : W32) : (setReg s k i o v).repair = s.repair := rfl
@[simp] theorem setReg_hbm (k : PageKind) (i o : Nat) (v : W32) : (setReg s k i o v).hbm = s.hbm := rfl
@[simp] theorem setReg_slices (k : PageKind) (i o : Nat) (v : W32) : (setReg s k i o v).slices = s.slices := rfl
@[simp] theorem setReg_cache (k : PageKind) (i o : Nat) (v : W32) : (setReg s k i o v).cache = s.cache := rfl
@[simp] theorem setReg_hbmCtl (k : PageKind) (i o : Nat) (v : W32) : (setReg s k i o v).hbmCtl = s.hbmCtl := rfl
@[simp] theorem setReg_chk (k : PageKind) (i o : Nat) (v : W32) : (setReg s k i o v).chk = s.chk := rfl
@[simp] theorem setReg_reqs (k : PageKind) (i o : Nat) (v : W32) : (setReg s k i o v).reqs = s.reqs := rfl
@[simp] theorem setReg_resps (k : PageKind) (i o : Nat) (v : W32) : (setReg s k i o v).resps = s.resps := rfl
@[simp] theorem setReg_cells (k : PageKind) (i o : Nat) (v : W32) : (setReg s k i o v).cells = s.cells := rfl
@[simp] theorem setReg_blocks (k : PageKind) (i o : Nat) (v : W32) : (setReg s k i o v).blocks = s.blocks := rfl
@[simp] theorem setReg_regions (k : PageKind) (i o : Nat) (v : W32) : (setReg s k i o v).regions = s.regions := rfl
@[simp] theorem setReg_fab (k : PageKind) (i o : Nat) (v : W32) : (setReg s k i o v).fab = s.fab := rfl
@[simp] theorem setReg_ports (k : PageKind) (i o : Nat) (v : W32) : (setReg s k i o v).ports = s.ports := rfl
@[simp] theorem setReg_power (k : PageKind) (i o : Nat) (v : W32) : (setReg s k i o v).power = s.power := rfl
@[simp] theorem setReg_therm (k : PageKind) (i o : Nat) (v : W32) : (setReg s k i o v).therm = s.therm := rfl
@[simp] theorem setReg_trace (k : PageKind) (i o : Nat) (v : W32) : (setReg s k i o v).trace = s.trace := rfl
@[simp] theorem setReg_gauge (k : PageKind) (i o : Nat) (v : W32) : (setReg s k i o v).gauge = s.gauge := rfl
@[simp] theorem setReg_chores (k : PageKind) (i o : Nat) (v : W32) : (setReg s k i o v).chores = s.chores := rfl
@[simp] theorem setReg_pkg (k : PageKind) (i o : Nat) (v : W32) : (setReg s k i o v).pkg = s.pkg := rfl
@[simp] theorem setReg_boot (k : PageKind) (i o : Nat) (v : W32) : (setReg s k i o v).boot = s.boot := rfl
@[simp] theorem setReg_fuses (k : PageKind) (i o : Nat) (v : W32) : (setReg s k i o v).fuses = s.fuses := rfl
@[simp] theorem setReg_mgmt (k : PageKind) (i o : Nat) (v : W32) : (setReg s k i o v).mgmt = s.mgmt := rfl
@[simp] theorem setReg_secLog (k : PageKind) (i o : Nat) (v : W32) : (setReg s k i o v).secLog = s.secLog := rfl
@[simp] theorem setReg_out (k : PageKind) (i o : Nat) (v : W32) : (setReg s k i o v).out = s.out := rfl
@[simp] theorem setReg_pending (k : PageKind) (i o : Nat) (v : W32) : (setReg s k i o v).pending = s.pending := rfl

/-! ## setShd -/

@[simp] theorem setShd_part (k : PageKind) (i o : Nat) (v : W32) : (setShd s k i o v).part = s.part := rfl
@[simp] theorem setShd_time (k : PageKind) (i o : Nat) (v : W32) : (setShd s k i o v).time = s.time := rfl
@[simp] theorem setShd_fresh (k : PageKind) (i o : Nat) (v : W32) : (setShd s k i o v).fresh = s.fresh := rfl
@[simp] theorem setShd_nextId (k : PageKind) (i o : Nat) (v : W32) : (setShd s k i o v).nextId = s.nextId := rfl
@[simp] theorem setShd_stackH (k : PageKind) (i o : Nat) (v : W32) : (setShd s k i o v).stackH = s.stackH := rfl
@[simp] theorem setShd_stackM (k : PageKind) (i o : Nat) (v : W32) : (setShd s k i o v).stackM = s.stackM := rfl
@[simp] theorem setShd_link (k : PageKind) (i o : Nat) (v : W32) : (setShd s k i o v).link = s.link := rfl
@[simp] theorem setShd_repair (k : PageKind) (i o : Nat) (v : W32) : (setShd s k i o v).repair = s.repair := rfl
@[simp] theorem setShd_hbm (k : PageKind) (i o : Nat) (v : W32) : (setShd s k i o v).hbm = s.hbm := rfl
@[simp] theorem setShd_slices (k : PageKind) (i o : Nat) (v : W32) : (setShd s k i o v).slices = s.slices := rfl
@[simp] theorem setShd_cache (k : PageKind) (i o : Nat) (v : W32) : (setShd s k i o v).cache = s.cache := rfl
@[simp] theorem setShd_hbmCtl (k : PageKind) (i o : Nat) (v : W32) : (setShd s k i o v).hbmCtl = s.hbmCtl := rfl
@[simp] theorem setShd_chk (k : PageKind) (i o : Nat) (v : W32) : (setShd s k i o v).chk = s.chk := rfl
@[simp] theorem setShd_reqs (k : PageKind) (i o : Nat) (v : W32) : (setShd s k i o v).reqs = s.reqs := rfl
@[simp] theorem setShd_resps (k : PageKind) (i o : Nat) (v : W32) : (setShd s k i o v).resps = s.resps := rfl
@[simp] theorem setShd_cells (k : PageKind) (i o : Nat) (v : W32) : (setShd s k i o v).cells = s.cells := rfl
@[simp] theorem setShd_blocks (k : PageKind) (i o : Nat) (v : W32) : (setShd s k i o v).blocks = s.blocks := rfl
@[simp] theorem setShd_regions (k : PageKind) (i o : Nat) (v : W32) : (setShd s k i o v).regions = s.regions := rfl
@[simp] theorem setShd_fab (k : PageKind) (i o : Nat) (v : W32) : (setShd s k i o v).fab = s.fab := rfl
@[simp] theorem setShd_ports (k : PageKind) (i o : Nat) (v : W32) : (setShd s k i o v).ports = s.ports := rfl
@[simp] theorem setShd_power (k : PageKind) (i o : Nat) (v : W32) : (setShd s k i o v).power = s.power := rfl
@[simp] theorem setShd_therm (k : PageKind) (i o : Nat) (v : W32) : (setShd s k i o v).therm = s.therm := rfl
@[simp] theorem setShd_trace (k : PageKind) (i o : Nat) (v : W32) : (setShd s k i o v).trace = s.trace := rfl
@[simp] theorem setShd_gauge (k : PageKind) (i o : Nat) (v : W32) : (setShd s k i o v).gauge = s.gauge := rfl
@[simp] theorem setShd_chores (k : PageKind) (i o : Nat) (v : W32) : (setShd s k i o v).chores = s.chores := rfl
@[simp] theorem setShd_pkg (k : PageKind) (i o : Nat) (v : W32) : (setShd s k i o v).pkg = s.pkg := rfl
@[simp] theorem setShd_boot (k : PageKind) (i o : Nat) (v : W32) : (setShd s k i o v).boot = s.boot := rfl
@[simp] theorem setShd_fuses (k : PageKind) (i o : Nat) (v : W32) : (setShd s k i o v).fuses = s.fuses := rfl
@[simp] theorem setShd_mgmt (k : PageKind) (i o : Nat) (v : W32) : (setShd s k i o v).mgmt = s.mgmt := rfl
@[simp] theorem setShd_secLog (k : PageKind) (i o : Nat) (v : W32) : (setShd s k i o v).secLog = s.secLog := rfl
@[simp] theorem setShd_out (k : PageKind) (i o : Nat) (v : W32) : (setShd s k i o v).out = s.out := rfl
@[simp] theorem setShd_pending (k : PageKind) (i o : Nat) (v : W32) : (setShd s k i o v).pending = s.pending := rfl

/-! ## setStg -/

@[simp] theorem setStg_part (k : PageKind) (i o : Nat) (v : W32) : (setStg s k i o v).part = s.part := rfl
@[simp] theorem setStg_time (k : PageKind) (i o : Nat) (v : W32) : (setStg s k i o v).time = s.time := rfl
@[simp] theorem setStg_fresh (k : PageKind) (i o : Nat) (v : W32) : (setStg s k i o v).fresh = s.fresh := rfl
@[simp] theorem setStg_nextId (k : PageKind) (i o : Nat) (v : W32) : (setStg s k i o v).nextId = s.nextId := rfl
@[simp] theorem setStg_stackH (k : PageKind) (i o : Nat) (v : W32) : (setStg s k i o v).stackH = s.stackH := rfl
@[simp] theorem setStg_stackM (k : PageKind) (i o : Nat) (v : W32) : (setStg s k i o v).stackM = s.stackM := rfl
@[simp] theorem setStg_link (k : PageKind) (i o : Nat) (v : W32) : (setStg s k i o v).link = s.link := rfl
@[simp] theorem setStg_repair (k : PageKind) (i o : Nat) (v : W32) : (setStg s k i o v).repair = s.repair := rfl
@[simp] theorem setStg_hbm (k : PageKind) (i o : Nat) (v : W32) : (setStg s k i o v).hbm = s.hbm := rfl
@[simp] theorem setStg_slices (k : PageKind) (i o : Nat) (v : W32) : (setStg s k i o v).slices = s.slices := rfl
@[simp] theorem setStg_cache (k : PageKind) (i o : Nat) (v : W32) : (setStg s k i o v).cache = s.cache := rfl
@[simp] theorem setStg_hbmCtl (k : PageKind) (i o : Nat) (v : W32) : (setStg s k i o v).hbmCtl = s.hbmCtl := rfl
@[simp] theorem setStg_chk (k : PageKind) (i o : Nat) (v : W32) : (setStg s k i o v).chk = s.chk := rfl
@[simp] theorem setStg_reqs (k : PageKind) (i o : Nat) (v : W32) : (setStg s k i o v).reqs = s.reqs := rfl
@[simp] theorem setStg_resps (k : PageKind) (i o : Nat) (v : W32) : (setStg s k i o v).resps = s.resps := rfl
@[simp] theorem setStg_cells (k : PageKind) (i o : Nat) (v : W32) : (setStg s k i o v).cells = s.cells := rfl
@[simp] theorem setStg_blocks (k : PageKind) (i o : Nat) (v : W32) : (setStg s k i o v).blocks = s.blocks := rfl
@[simp] theorem setStg_regions (k : PageKind) (i o : Nat) (v : W32) : (setStg s k i o v).regions = s.regions := rfl
@[simp] theorem setStg_fab (k : PageKind) (i o : Nat) (v : W32) : (setStg s k i o v).fab = s.fab := rfl
@[simp] theorem setStg_ports (k : PageKind) (i o : Nat) (v : W32) : (setStg s k i o v).ports = s.ports := rfl
@[simp] theorem setStg_power (k : PageKind) (i o : Nat) (v : W32) : (setStg s k i o v).power = s.power := rfl
@[simp] theorem setStg_therm (k : PageKind) (i o : Nat) (v : W32) : (setStg s k i o v).therm = s.therm := rfl
@[simp] theorem setStg_trace (k : PageKind) (i o : Nat) (v : W32) : (setStg s k i o v).trace = s.trace := rfl
@[simp] theorem setStg_gauge (k : PageKind) (i o : Nat) (v : W32) : (setStg s k i o v).gauge = s.gauge := rfl
@[simp] theorem setStg_chores (k : PageKind) (i o : Nat) (v : W32) : (setStg s k i o v).chores = s.chores := rfl
@[simp] theorem setStg_pkg (k : PageKind) (i o : Nat) (v : W32) : (setStg s k i o v).pkg = s.pkg := rfl
@[simp] theorem setStg_boot (k : PageKind) (i o : Nat) (v : W32) : (setStg s k i o v).boot = s.boot := rfl
@[simp] theorem setStg_fuses (k : PageKind) (i o : Nat) (v : W32) : (setStg s k i o v).fuses = s.fuses := rfl
@[simp] theorem setStg_mgmt (k : PageKind) (i o : Nat) (v : W32) : (setStg s k i o v).mgmt = s.mgmt := rfl
@[simp] theorem setStg_secLog (k : PageKind) (i o : Nat) (v : W32) : (setStg s k i o v).secLog = s.secLog := rfl
@[simp] theorem setStg_out (k : PageKind) (i o : Nat) (v : W32) : (setStg s k i o v).out = s.out := rfl
@[simp] theorem setStg_pending (k : PageKind) (i o : Nat) (v : W32) : (setStg s k i o v).pending = s.pending := rfl

/-! ## setF -/

@[simp] theorem setF_part (k : PageKind) (i : Nat) (f : Fld) (v : Nat) : (setF s k i f v).part = s.part := rfl
@[simp] theorem setF_time (k : PageKind) (i : Nat) (f : Fld) (v : Nat) : (setF s k i f v).time = s.time := rfl
@[simp] theorem setF_fresh (k : PageKind) (i : Nat) (f : Fld) (v : Nat) : (setF s k i f v).fresh = s.fresh := rfl
@[simp] theorem setF_nextId (k : PageKind) (i : Nat) (f : Fld) (v : Nat) : (setF s k i f v).nextId = s.nextId := rfl
@[simp] theorem setF_stackH (k : PageKind) (i : Nat) (f : Fld) (v : Nat) : (setF s k i f v).stackH = s.stackH := rfl
@[simp] theorem setF_stackM (k : PageKind) (i : Nat) (f : Fld) (v : Nat) : (setF s k i f v).stackM = s.stackM := rfl
@[simp] theorem setF_link (k : PageKind) (i : Nat) (f : Fld) (v : Nat) : (setF s k i f v).link = s.link := rfl
@[simp] theorem setF_repair (k : PageKind) (i : Nat) (f : Fld) (v : Nat) : (setF s k i f v).repair = s.repair := rfl
@[simp] theorem setF_hbm (k : PageKind) (i : Nat) (f : Fld) (v : Nat) : (setF s k i f v).hbm = s.hbm := rfl
@[simp] theorem setF_slices (k : PageKind) (i : Nat) (f : Fld) (v : Nat) : (setF s k i f v).slices = s.slices := rfl
@[simp] theorem setF_cache (k : PageKind) (i : Nat) (f : Fld) (v : Nat) : (setF s k i f v).cache = s.cache := rfl
@[simp] theorem setF_hbmCtl (k : PageKind) (i : Nat) (f : Fld) (v : Nat) : (setF s k i f v).hbmCtl = s.hbmCtl := rfl
@[simp] theorem setF_chk (k : PageKind) (i : Nat) (f : Fld) (v : Nat) : (setF s k i f v).chk = s.chk := rfl
@[simp] theorem setF_reqs (k : PageKind) (i : Nat) (f : Fld) (v : Nat) : (setF s k i f v).reqs = s.reqs := rfl
@[simp] theorem setF_resps (k : PageKind) (i : Nat) (f : Fld) (v : Nat) : (setF s k i f v).resps = s.resps := rfl
@[simp] theorem setF_cells (k : PageKind) (i : Nat) (f : Fld) (v : Nat) : (setF s k i f v).cells = s.cells := rfl
@[simp] theorem setF_blocks (k : PageKind) (i : Nat) (f : Fld) (v : Nat) : (setF s k i f v).blocks = s.blocks := rfl
@[simp] theorem setF_regions (k : PageKind) (i : Nat) (f : Fld) (v : Nat) : (setF s k i f v).regions = s.regions := rfl
@[simp] theorem setF_fab (k : PageKind) (i : Nat) (f : Fld) (v : Nat) : (setF s k i f v).fab = s.fab := rfl
@[simp] theorem setF_ports (k : PageKind) (i : Nat) (f : Fld) (v : Nat) : (setF s k i f v).ports = s.ports := rfl
@[simp] theorem setF_power (k : PageKind) (i : Nat) (f : Fld) (v : Nat) : (setF s k i f v).power = s.power := rfl
@[simp] theorem setF_therm (k : PageKind) (i : Nat) (f : Fld) (v : Nat) : (setF s k i f v).therm = s.therm := rfl
@[simp] theorem setF_trace (k : PageKind) (i : Nat) (f : Fld) (v : Nat) : (setF s k i f v).trace = s.trace := rfl
@[simp] theorem setF_gauge (k : PageKind) (i : Nat) (f : Fld) (v : Nat) : (setF s k i f v).gauge = s.gauge := rfl
@[simp] theorem setF_chores (k : PageKind) (i : Nat) (f : Fld) (v : Nat) : (setF s k i f v).chores = s.chores := rfl
@[simp] theorem setF_pkg (k : PageKind) (i : Nat) (f : Fld) (v : Nat) : (setF s k i f v).pkg = s.pkg := rfl
@[simp] theorem setF_boot (k : PageKind) (i : Nat) (f : Fld) (v : Nat) : (setF s k i f v).boot = s.boot := rfl
@[simp] theorem setF_fuses (k : PageKind) (i : Nat) (f : Fld) (v : Nat) : (setF s k i f v).fuses = s.fuses := rfl
@[simp] theorem setF_mgmt (k : PageKind) (i : Nat) (f : Fld) (v : Nat) : (setF s k i f v).mgmt = s.mgmt := rfl
@[simp] theorem setF_secLog (k : PageKind) (i : Nat) (f : Fld) (v : Nat) : (setF s k i f v).secLog = s.secLog := rfl
@[simp] theorem setF_out (k : PageKind) (i : Nat) (f : Fld) (v : Nat) : (setF s k i f v).out = s.out := rfl
@[simp] theorem setF_pending (k : PageKind) (i : Nat) (f : Fld) (v : Nat) : (setF s k i f v).pending = s.pending := rfl

/-! ## setCtr -/

@[simp] theorem setCtr_part (k : PageKind) (i o : Nat) (v : W64) : (setCtr s k i o v).part = s.part := rfl
@[simp] theorem setCtr_time (k : PageKind) (i o : Nat) (v : W64) : (setCtr s k i o v).time = s.time := rfl
@[simp] theorem setCtr_fresh (k : PageKind) (i o : Nat) (v : W64) : (setCtr s k i o v).fresh = s.fresh := rfl
@[simp] theorem setCtr_nextId (k : PageKind) (i o : Nat) (v : W64) : (setCtr s k i o v).nextId = s.nextId := rfl
@[simp] theorem setCtr_stackH (k : PageKind) (i o : Nat) (v : W64) : (setCtr s k i o v).stackH = s.stackH := rfl
@[simp] theorem setCtr_stackM (k : PageKind) (i o : Nat) (v : W64) : (setCtr s k i o v).stackM = s.stackM := rfl
@[simp] theorem setCtr_link (k : PageKind) (i o : Nat) (v : W64) : (setCtr s k i o v).link = s.link := rfl
@[simp] theorem setCtr_repair (k : PageKind) (i o : Nat) (v : W64) : (setCtr s k i o v).repair = s.repair := rfl
@[simp] theorem setCtr_hbm (k : PageKind) (i o : Nat) (v : W64) : (setCtr s k i o v).hbm = s.hbm := rfl
@[simp] theorem setCtr_slices (k : PageKind) (i o : Nat) (v : W64) : (setCtr s k i o v).slices = s.slices := rfl
@[simp] theorem setCtr_cache (k : PageKind) (i o : Nat) (v : W64) : (setCtr s k i o v).cache = s.cache := rfl
@[simp] theorem setCtr_hbmCtl (k : PageKind) (i o : Nat) (v : W64) : (setCtr s k i o v).hbmCtl = s.hbmCtl := rfl
@[simp] theorem setCtr_chk (k : PageKind) (i o : Nat) (v : W64) : (setCtr s k i o v).chk = s.chk := rfl
@[simp] theorem setCtr_reqs (k : PageKind) (i o : Nat) (v : W64) : (setCtr s k i o v).reqs = s.reqs := rfl
@[simp] theorem setCtr_resps (k : PageKind) (i o : Nat) (v : W64) : (setCtr s k i o v).resps = s.resps := rfl
@[simp] theorem setCtr_cells (k : PageKind) (i o : Nat) (v : W64) : (setCtr s k i o v).cells = s.cells := rfl
@[simp] theorem setCtr_blocks (k : PageKind) (i o : Nat) (v : W64) : (setCtr s k i o v).blocks = s.blocks := rfl
@[simp] theorem setCtr_regions (k : PageKind) (i o : Nat) (v : W64) : (setCtr s k i o v).regions = s.regions := rfl
@[simp] theorem setCtr_fab (k : PageKind) (i o : Nat) (v : W64) : (setCtr s k i o v).fab = s.fab := rfl
@[simp] theorem setCtr_ports (k : PageKind) (i o : Nat) (v : W64) : (setCtr s k i o v).ports = s.ports := rfl
@[simp] theorem setCtr_power (k : PageKind) (i o : Nat) (v : W64) : (setCtr s k i o v).power = s.power := rfl
@[simp] theorem setCtr_therm (k : PageKind) (i o : Nat) (v : W64) : (setCtr s k i o v).therm = s.therm := rfl
@[simp] theorem setCtr_trace (k : PageKind) (i o : Nat) (v : W64) : (setCtr s k i o v).trace = s.trace := rfl
@[simp] theorem setCtr_gauge (k : PageKind) (i o : Nat) (v : W64) : (setCtr s k i o v).gauge = s.gauge := rfl
@[simp] theorem setCtr_chores (k : PageKind) (i o : Nat) (v : W64) : (setCtr s k i o v).chores = s.chores := rfl
@[simp] theorem setCtr_pkg (k : PageKind) (i o : Nat) (v : W64) : (setCtr s k i o v).pkg = s.pkg := rfl
@[simp] theorem setCtr_boot (k : PageKind) (i o : Nat) (v : W64) : (setCtr s k i o v).boot = s.boot := rfl
@[simp] theorem setCtr_fuses (k : PageKind) (i o : Nat) (v : W64) : (setCtr s k i o v).fuses = s.fuses := rfl
@[simp] theorem setCtr_mgmt (k : PageKind) (i o : Nat) (v : W64) : (setCtr s k i o v).mgmt = s.mgmt := rfl
@[simp] theorem setCtr_secLog (k : PageKind) (i o : Nat) (v : W64) : (setCtr s k i o v).secLog = s.secLog := rfl
@[simp] theorem setCtr_out (k : PageKind) (i o : Nat) (v : W64) : (setCtr s k i o v).out = s.out := rfl
@[simp] theorem setCtr_pending (k : PageKind) (i o : Nat) (v : W64) : (setCtr s k i o v).pending = s.pending := rfl

/-! ## setCell -/

@[simp] theorem setCell_part (c : Nat) (v : Cell) : (setCell s c v).part = s.part := rfl
@[simp] theorem setCell_time (c : Nat) (v : Cell) : (setCell s c v).time = s.time := rfl
@[simp] theorem setCell_fresh (c : Nat) (v : Cell) : (setCell s c v).fresh = s.fresh := rfl
@[simp] theorem setCell_nextId (c : Nat) (v : Cell) : (setCell s c v).nextId = s.nextId := rfl
@[simp] theorem setCell_pages (c : Nat) (v : Cell) : (setCell s c v).pages = s.pages := rfl
@[simp] theorem setCell_stackH (c : Nat) (v : Cell) : (setCell s c v).stackH = s.stackH := rfl
@[simp] theorem setCell_stackM (c : Nat) (v : Cell) : (setCell s c v).stackM = s.stackM := rfl
@[simp] theorem setCell_link (c : Nat) (v : Cell) : (setCell s c v).link = s.link := rfl
@[simp] theorem setCell_repair (c : Nat) (v : Cell) : (setCell s c v).repair = s.repair := rfl
@[simp] theorem setCell_hbm (c : Nat) (v : Cell) : (setCell s c v).hbm = s.hbm := rfl
@[simp] theorem setCell_slices (c : Nat) (v : Cell) : (setCell s c v).slices = s.slices := rfl
@[simp] theorem setCell_cache (c : Nat) (v : Cell) : (setCell s c v).cache = s.cache := rfl
@[simp] theorem setCell_hbmCtl (c : Nat) (v : Cell) : (setCell s c v).hbmCtl = s.hbmCtl := rfl
@[simp] theorem setCell_chk (c : Nat) (v : Cell) : (setCell s c v).chk = s.chk := rfl
@[simp] theorem setCell_reqs (c : Nat) (v : Cell) : (setCell s c v).reqs = s.reqs := rfl
@[simp] theorem setCell_resps (c : Nat) (v : Cell) : (setCell s c v).resps = s.resps := rfl
@[simp] theorem setCell_blocks (c : Nat) (v : Cell) : (setCell s c v).blocks = s.blocks := rfl
@[simp] theorem setCell_regions (c : Nat) (v : Cell) : (setCell s c v).regions = s.regions := rfl
@[simp] theorem setCell_fab (c : Nat) (v : Cell) : (setCell s c v).fab = s.fab := rfl
@[simp] theorem setCell_ports (c : Nat) (v : Cell) : (setCell s c v).ports = s.ports := rfl
@[simp] theorem setCell_power (c : Nat) (v : Cell) : (setCell s c v).power = s.power := rfl
@[simp] theorem setCell_therm (c : Nat) (v : Cell) : (setCell s c v).therm = s.therm := rfl
@[simp] theorem setCell_trace (c : Nat) (v : Cell) : (setCell s c v).trace = s.trace := rfl
@[simp] theorem setCell_gauge (c : Nat) (v : Cell) : (setCell s c v).gauge = s.gauge := rfl
@[simp] theorem setCell_chores (c : Nat) (v : Cell) : (setCell s c v).chores = s.chores := rfl
@[simp] theorem setCell_pkg (c : Nat) (v : Cell) : (setCell s c v).pkg = s.pkg := rfl
@[simp] theorem setCell_boot (c : Nat) (v : Cell) : (setCell s c v).boot = s.boot := rfl
@[simp] theorem setCell_fuses (c : Nat) (v : Cell) : (setCell s c v).fuses = s.fuses := rfl
@[simp] theorem setCell_mgmt (c : Nat) (v : Cell) : (setCell s c v).mgmt = s.mgmt := rfl
@[simp] theorem setCell_secLog (c : Nat) (v : Cell) : (setCell s c v).secLog = s.secLog := rfl
@[simp] theorem setCell_out (c : Nat) (v : Cell) : (setCell s c v).out = s.out := rfl
@[simp] theorem setCell_pending (c : Nat) (v : Cell) : (setCell s c v).pending = s.pending := rfl

/-! ## setGroup -/

@[simp] theorem setGroup_part (c g : Nat) (v : Group) : (setGroup s c g v).part = s.part := rfl
@[simp] theorem setGroup_time (c g : Nat) (v : Group) : (setGroup s c g v).time = s.time := rfl
@[simp] theorem setGroup_fresh (c g : Nat) (v : Group) : (setGroup s c g v).fresh = s.fresh := rfl
@[simp] theorem setGroup_nextId (c g : Nat) (v : Group) : (setGroup s c g v).nextId = s.nextId := rfl
@[simp] theorem setGroup_pages (c g : Nat) (v : Group) : (setGroup s c g v).pages = s.pages := rfl
@[simp] theorem setGroup_stackH (c g : Nat) (v : Group) : (setGroup s c g v).stackH = s.stackH := rfl
@[simp] theorem setGroup_stackM (c g : Nat) (v : Group) : (setGroup s c g v).stackM = s.stackM := rfl
@[simp] theorem setGroup_link (c g : Nat) (v : Group) : (setGroup s c g v).link = s.link := rfl
@[simp] theorem setGroup_repair (c g : Nat) (v : Group) : (setGroup s c g v).repair = s.repair := rfl
@[simp] theorem setGroup_hbm (c g : Nat) (v : Group) : (setGroup s c g v).hbm = s.hbm := rfl
@[simp] theorem setGroup_slices (c g : Nat) (v : Group) : (setGroup s c g v).slices = s.slices := rfl
@[simp] theorem setGroup_cache (c g : Nat) (v : Group) : (setGroup s c g v).cache = s.cache := rfl
@[simp] theorem setGroup_hbmCtl (c g : Nat) (v : Group) : (setGroup s c g v).hbmCtl = s.hbmCtl := rfl
@[simp] theorem setGroup_chk (c g : Nat) (v : Group) : (setGroup s c g v).chk = s.chk := rfl
@[simp] theorem setGroup_reqs (c g : Nat) (v : Group) : (setGroup s c g v).reqs = s.reqs := rfl
@[simp] theorem setGroup_resps (c g : Nat) (v : Group) : (setGroup s c g v).resps = s.resps := rfl
@[simp] theorem setGroup_blocks (c g : Nat) (v : Group) : (setGroup s c g v).blocks = s.blocks := rfl
@[simp] theorem setGroup_regions (c g : Nat) (v : Group) : (setGroup s c g v).regions = s.regions := rfl
@[simp] theorem setGroup_fab (c g : Nat) (v : Group) : (setGroup s c g v).fab = s.fab := rfl
@[simp] theorem setGroup_ports (c g : Nat) (v : Group) : (setGroup s c g v).ports = s.ports := rfl
@[simp] theorem setGroup_power (c g : Nat) (v : Group) : (setGroup s c g v).power = s.power := rfl
@[simp] theorem setGroup_therm (c g : Nat) (v : Group) : (setGroup s c g v).therm = s.therm := rfl
@[simp] theorem setGroup_trace (c g : Nat) (v : Group) : (setGroup s c g v).trace = s.trace := rfl
@[simp] theorem setGroup_gauge (c g : Nat) (v : Group) : (setGroup s c g v).gauge = s.gauge := rfl
@[simp] theorem setGroup_chores (c g : Nat) (v : Group) : (setGroup s c g v).chores = s.chores := rfl
@[simp] theorem setGroup_pkg (c g : Nat) (v : Group) : (setGroup s c g v).pkg = s.pkg := rfl
@[simp] theorem setGroup_boot (c g : Nat) (v : Group) : (setGroup s c g v).boot = s.boot := rfl
@[simp] theorem setGroup_fuses (c g : Nat) (v : Group) : (setGroup s c g v).fuses = s.fuses := rfl
@[simp] theorem setGroup_mgmt (c g : Nat) (v : Group) : (setGroup s c g v).mgmt = s.mgmt := rfl
@[simp] theorem setGroup_secLog (c g : Nat) (v : Group) : (setGroup s c g v).secLog = s.secLog := rfl
@[simp] theorem setGroup_out (c g : Nat) (v : Group) : (setGroup s c g v).out = s.out := rfl
@[simp] theorem setGroup_pending (c g : Nat) (v : Group) : (setGroup s c g v).pending = s.pending := rfl

/-! ## setBlock -/

@[simp] theorem setBlock_part (b : Nat) (v : Block) : (setBlock s b v).part = s.part := rfl
@[simp] theorem setBlock_time (b : Nat) (v : Block) : (setBlock s b v).time = s.time := rfl
@[simp] theorem setBlock_fresh (b : Nat) (v : Block) : (setBlock s b v).fresh = s.fresh := rfl
@[simp] theorem setBlock_nextId (b : Nat) (v : Block) : (setBlock s b v).nextId = s.nextId := rfl
@[simp] theorem setBlock_pages (b : Nat) (v : Block) : (setBlock s b v).pages = s.pages := rfl
@[simp] theorem setBlock_stackH (b : Nat) (v : Block) : (setBlock s b v).stackH = s.stackH := rfl
@[simp] theorem setBlock_stackM (b : Nat) (v : Block) : (setBlock s b v).stackM = s.stackM := rfl
@[simp] theorem setBlock_link (b : Nat) (v : Block) : (setBlock s b v).link = s.link := rfl
@[simp] theorem setBlock_repair (b : Nat) (v : Block) : (setBlock s b v).repair = s.repair := rfl
@[simp] theorem setBlock_hbm (b : Nat) (v : Block) : (setBlock s b v).hbm = s.hbm := rfl
@[simp] theorem setBlock_slices (b : Nat) (v : Block) : (setBlock s b v).slices = s.slices := rfl
@[simp] theorem setBlock_cache (b : Nat) (v : Block) : (setBlock s b v).cache = s.cache := rfl
@[simp] theorem setBlock_hbmCtl (b : Nat) (v : Block) : (setBlock s b v).hbmCtl = s.hbmCtl := rfl
@[simp] theorem setBlock_chk (b : Nat) (v : Block) : (setBlock s b v).chk = s.chk := rfl
@[simp] theorem setBlock_reqs (b : Nat) (v : Block) : (setBlock s b v).reqs = s.reqs := rfl
@[simp] theorem setBlock_resps (b : Nat) (v : Block) : (setBlock s b v).resps = s.resps := rfl
@[simp] theorem setBlock_cells (b : Nat) (v : Block) : (setBlock s b v).cells = s.cells := rfl
@[simp] theorem setBlock_regions (b : Nat) (v : Block) : (setBlock s b v).regions = s.regions := rfl
@[simp] theorem setBlock_fab (b : Nat) (v : Block) : (setBlock s b v).fab = s.fab := rfl
@[simp] theorem setBlock_ports (b : Nat) (v : Block) : (setBlock s b v).ports = s.ports := rfl
@[simp] theorem setBlock_power (b : Nat) (v : Block) : (setBlock s b v).power = s.power := rfl
@[simp] theorem setBlock_therm (b : Nat) (v : Block) : (setBlock s b v).therm = s.therm := rfl
@[simp] theorem setBlock_trace (b : Nat) (v : Block) : (setBlock s b v).trace = s.trace := rfl
@[simp] theorem setBlock_gauge (b : Nat) (v : Block) : (setBlock s b v).gauge = s.gauge := rfl
@[simp] theorem setBlock_chores (b : Nat) (v : Block) : (setBlock s b v).chores = s.chores := rfl
@[simp] theorem setBlock_pkg (b : Nat) (v : Block) : (setBlock s b v).pkg = s.pkg := rfl
@[simp] theorem setBlock_boot (b : Nat) (v : Block) : (setBlock s b v).boot = s.boot := rfl
@[simp] theorem setBlock_fuses (b : Nat) (v : Block) : (setBlock s b v).fuses = s.fuses := rfl
@[simp] theorem setBlock_mgmt (b : Nat) (v : Block) : (setBlock s b v).mgmt = s.mgmt := rfl
@[simp] theorem setBlock_secLog (b : Nat) (v : Block) : (setBlock s b v).secLog = s.secLog := rfl
@[simp] theorem setBlock_out (b : Nat) (v : Block) : (setBlock s b v).out = s.out := rfl
@[simp] theorem setBlock_pending (b : Nat) (v : Block) : (setBlock s b v).pending = s.pending := rfl

/-! ## setRegion -/

@[simp] theorem setRegion_part (r : Nat) (v : Region) : (setRegion s r v).part = s.part := rfl
@[simp] theorem setRegion_time (r : Nat) (v : Region) : (setRegion s r v).time = s.time := rfl
@[simp] theorem setRegion_fresh (r : Nat) (v : Region) : (setRegion s r v).fresh = s.fresh := rfl
@[simp] theorem setRegion_nextId (r : Nat) (v : Region) : (setRegion s r v).nextId = s.nextId := rfl
@[simp] theorem setRegion_pages (r : Nat) (v : Region) : (setRegion s r v).pages = s.pages := rfl
@[simp] theorem setRegion_stackH (r : Nat) (v : Region) : (setRegion s r v).stackH = s.stackH := rfl
@[simp] theorem setRegion_stackM (r : Nat) (v : Region) : (setRegion s r v).stackM = s.stackM := rfl
@[simp] theorem setRegion_link (r : Nat) (v : Region) : (setRegion s r v).link = s.link := rfl
@[simp] theorem setRegion_repair (r : Nat) (v : Region) : (setRegion s r v).repair = s.repair := rfl
@[simp] theorem setRegion_hbm (r : Nat) (v : Region) : (setRegion s r v).hbm = s.hbm := rfl
@[simp] theorem setRegion_slices (r : Nat) (v : Region) : (setRegion s r v).slices = s.slices := rfl
@[simp] theorem setRegion_cache (r : Nat) (v : Region) : (setRegion s r v).cache = s.cache := rfl
@[simp] theorem setRegion_hbmCtl (r : Nat) (v : Region) : (setRegion s r v).hbmCtl = s.hbmCtl := rfl
@[simp] theorem setRegion_chk (r : Nat) (v : Region) : (setRegion s r v).chk = s.chk := rfl
@[simp] theorem setRegion_reqs (r : Nat) (v : Region) : (setRegion s r v).reqs = s.reqs := rfl
@[simp] theorem setRegion_resps (r : Nat) (v : Region) : (setRegion s r v).resps = s.resps := rfl
@[simp] theorem setRegion_cells (r : Nat) (v : Region) : (setRegion s r v).cells = s.cells := rfl
@[simp] theorem setRegion_blocks (r : Nat) (v : Region) : (setRegion s r v).blocks = s.blocks := rfl
@[simp] theorem setRegion_fab (r : Nat) (v : Region) : (setRegion s r v).fab = s.fab := rfl
@[simp] theorem setRegion_ports (r : Nat) (v : Region) : (setRegion s r v).ports = s.ports := rfl
@[simp] theorem setRegion_power (r : Nat) (v : Region) : (setRegion s r v).power = s.power := rfl
@[simp] theorem setRegion_therm (r : Nat) (v : Region) : (setRegion s r v).therm = s.therm := rfl
@[simp] theorem setRegion_trace (r : Nat) (v : Region) : (setRegion s r v).trace = s.trace := rfl
@[simp] theorem setRegion_gauge (r : Nat) (v : Region) : (setRegion s r v).gauge = s.gauge := rfl
@[simp] theorem setRegion_chores (r : Nat) (v : Region) : (setRegion s r v).chores = s.chores := rfl
@[simp] theorem setRegion_pkg (r : Nat) (v : Region) : (setRegion s r v).pkg = s.pkg := rfl
@[simp] theorem setRegion_boot (r : Nat) (v : Region) : (setRegion s r v).boot = s.boot := rfl
@[simp] theorem setRegion_fuses (r : Nat) (v : Region) : (setRegion s r v).fuses = s.fuses := rfl
@[simp] theorem setRegion_mgmt (r : Nat) (v : Region) : (setRegion s r v).mgmt = s.mgmt := rfl
@[simp] theorem setRegion_secLog (r : Nat) (v : Region) : (setRegion s r v).secLog = s.secLog := rfl
@[simp] theorem setRegion_out (r : Nat) (v : Region) : (setRegion s r v).out = s.out := rfl
@[simp] theorem setRegion_pending (r : Nat) (v : Region) : (setRegion s r v).pending = s.pending := rfl

/-! ## setPort -/

@[simp] theorem setPort_part (p : Nat) (v : Port) : (setPort s p v).part = s.part := rfl
@[simp] theorem setPort_time (p : Nat) (v : Port) : (setPort s p v).time = s.time := rfl
@[simp] theorem setPort_fresh (p : Nat) (v : Port) : (setPort s p v).fresh = s.fresh := rfl
@[simp] theorem setPort_nextId (p : Nat) (v : Port) : (setPort s p v).nextId = s.nextId := rfl
@[simp] theorem setPort_pages (p : Nat) (v : Port) : (setPort s p v).pages = s.pages := rfl
@[simp] theorem setPort_stackH (p : Nat) (v : Port) : (setPort s p v).stackH = s.stackH := rfl
@[simp] theorem setPort_stackM (p : Nat) (v : Port) : (setPort s p v).stackM = s.stackM := rfl
@[simp] theorem setPort_link (p : Nat) (v : Port) : (setPort s p v).link = s.link := rfl
@[simp] theorem setPort_repair (p : Nat) (v : Port) : (setPort s p v).repair = s.repair := rfl
@[simp] theorem setPort_hbm (p : Nat) (v : Port) : (setPort s p v).hbm = s.hbm := rfl
@[simp] theorem setPort_slices (p : Nat) (v : Port) : (setPort s p v).slices = s.slices := rfl
@[simp] theorem setPort_cache (p : Nat) (v : Port) : (setPort s p v).cache = s.cache := rfl
@[simp] theorem setPort_hbmCtl (p : Nat) (v : Port) : (setPort s p v).hbmCtl = s.hbmCtl := rfl
@[simp] theorem setPort_chk (p : Nat) (v : Port) : (setPort s p v).chk = s.chk := rfl
@[simp] theorem setPort_reqs (p : Nat) (v : Port) : (setPort s p v).reqs = s.reqs := rfl
@[simp] theorem setPort_resps (p : Nat) (v : Port) : (setPort s p v).resps = s.resps := rfl
@[simp] theorem setPort_cells (p : Nat) (v : Port) : (setPort s p v).cells = s.cells := rfl
@[simp] theorem setPort_blocks (p : Nat) (v : Port) : (setPort s p v).blocks = s.blocks := rfl
@[simp] theorem setPort_regions (p : Nat) (v : Port) : (setPort s p v).regions = s.regions := rfl
@[simp] theorem setPort_fab (p : Nat) (v : Port) : (setPort s p v).fab = s.fab := rfl
@[simp] theorem setPort_power (p : Nat) (v : Port) : (setPort s p v).power = s.power := rfl
@[simp] theorem setPort_therm (p : Nat) (v : Port) : (setPort s p v).therm = s.therm := rfl
@[simp] theorem setPort_trace (p : Nat) (v : Port) : (setPort s p v).trace = s.trace := rfl
@[simp] theorem setPort_gauge (p : Nat) (v : Port) : (setPort s p v).gauge = s.gauge := rfl
@[simp] theorem setPort_chores (p : Nat) (v : Port) : (setPort s p v).chores = s.chores := rfl
@[simp] theorem setPort_pkg (p : Nat) (v : Port) : (setPort s p v).pkg = s.pkg := rfl
@[simp] theorem setPort_boot (p : Nat) (v : Port) : (setPort s p v).boot = s.boot := rfl
@[simp] theorem setPort_fuses (p : Nat) (v : Port) : (setPort s p v).fuses = s.fuses := rfl
@[simp] theorem setPort_mgmt (p : Nat) (v : Port) : (setPort s p v).mgmt = s.mgmt := rfl
@[simp] theorem setPort_secLog (p : Nat) (v : Port) : (setPort s p v).secLog = s.secLog := rfl
@[simp] theorem setPort_out (p : Nat) (v : Port) : (setPort s p v).out = s.out := rfl
@[simp] theorem setPort_pending (p : Nat) (v : Port) : (setPort s p v).pending = s.pending := rfl

/-! ## setSlice -/

@[simp] theorem setSlice_part (sl : Nat) (v : Slice) : (setSlice s sl v).part = s.part := rfl
@[simp] theorem setSlice_time (sl : Nat) (v : Slice) : (setSlice s sl v).time = s.time := rfl
@[simp] theorem setSlice_fresh (sl : Nat) (v : Slice) : (setSlice s sl v).fresh = s.fresh := rfl
@[simp] theorem setSlice_nextId (sl : Nat) (v : Slice) : (setSlice s sl v).nextId = s.nextId := rfl
@[simp] theorem setSlice_pages (sl : Nat) (v : Slice) : (setSlice s sl v).pages = s.pages := rfl
@[simp] theorem setSlice_stackH (sl : Nat) (v : Slice) : (setSlice s sl v).stackH = s.stackH := rfl
@[simp] theorem setSlice_stackM (sl : Nat) (v : Slice) : (setSlice s sl v).stackM = s.stackM := rfl
@[simp] theorem setSlice_link (sl : Nat) (v : Slice) : (setSlice s sl v).link = s.link := rfl
@[simp] theorem setSlice_repair (sl : Nat) (v : Slice) : (setSlice s sl v).repair = s.repair := rfl
@[simp] theorem setSlice_hbm (sl : Nat) (v : Slice) : (setSlice s sl v).hbm = s.hbm := rfl
@[simp] theorem setSlice_cache (sl : Nat) (v : Slice) : (setSlice s sl v).cache = s.cache := rfl
@[simp] theorem setSlice_hbmCtl (sl : Nat) (v : Slice) : (setSlice s sl v).hbmCtl = s.hbmCtl := rfl
@[simp] theorem setSlice_chk (sl : Nat) (v : Slice) : (setSlice s sl v).chk = s.chk := rfl
@[simp] theorem setSlice_reqs (sl : Nat) (v : Slice) : (setSlice s sl v).reqs = s.reqs := rfl
@[simp] theorem setSlice_resps (sl : Nat) (v : Slice) : (setSlice s sl v).resps = s.resps := rfl
@[simp] theorem setSlice_cells (sl : Nat) (v : Slice) : (setSlice s sl v).cells = s.cells := rfl
@[simp] theorem setSlice_blocks (sl : Nat) (v : Slice) : (setSlice s sl v).blocks = s.blocks := rfl
@[simp] theorem setSlice_regions (sl : Nat) (v : Slice) : (setSlice s sl v).regions = s.regions := rfl
@[simp] theorem setSlice_fab (sl : Nat) (v : Slice) : (setSlice s sl v).fab = s.fab := rfl
@[simp] theorem setSlice_ports (sl : Nat) (v : Slice) : (setSlice s sl v).ports = s.ports := rfl
@[simp] theorem setSlice_power (sl : Nat) (v : Slice) : (setSlice s sl v).power = s.power := rfl
@[simp] theorem setSlice_therm (sl : Nat) (v : Slice) : (setSlice s sl v).therm = s.therm := rfl
@[simp] theorem setSlice_trace (sl : Nat) (v : Slice) : (setSlice s sl v).trace = s.trace := rfl
@[simp] theorem setSlice_gauge (sl : Nat) (v : Slice) : (setSlice s sl v).gauge = s.gauge := rfl
@[simp] theorem setSlice_chores (sl : Nat) (v : Slice) : (setSlice s sl v).chores = s.chores := rfl
@[simp] theorem setSlice_pkg (sl : Nat) (v : Slice) : (setSlice s sl v).pkg = s.pkg := rfl
@[simp] theorem setSlice_boot (sl : Nat) (v : Slice) : (setSlice s sl v).boot = s.boot := rfl
@[simp] theorem setSlice_fuses (sl : Nat) (v : Slice) : (setSlice s sl v).fuses = s.fuses := rfl
@[simp] theorem setSlice_mgmt (sl : Nat) (v : Slice) : (setSlice s sl v).mgmt = s.mgmt := rfl
@[simp] theorem setSlice_secLog (sl : Nat) (v : Slice) : (setSlice s sl v).secLog = s.secLog := rfl
@[simp] theorem setSlice_out (sl : Nat) (v : Slice) : (setSlice s sl v).out = s.out := rfl
@[simp] theorem setSlice_pending (sl : Nat) (v : Slice) : (setSlice s sl v).pending = s.pending := rfl

/-! ## setHbmc -/

@[simp] theorem setHbmc_part (b : Nat) (v : HbmCtl) : (setHbmc s b v).part = s.part := rfl
@[simp] theorem setHbmc_time (b : Nat) (v : HbmCtl) : (setHbmc s b v).time = s.time := rfl
@[simp] theorem setHbmc_fresh (b : Nat) (v : HbmCtl) : (setHbmc s b v).fresh = s.fresh := rfl
@[simp] theorem setHbmc_nextId (b : Nat) (v : HbmCtl) : (setHbmc s b v).nextId = s.nextId := rfl
@[simp] theorem setHbmc_pages (b : Nat) (v : HbmCtl) : (setHbmc s b v).pages = s.pages := rfl
@[simp] theorem setHbmc_stackH (b : Nat) (v : HbmCtl) : (setHbmc s b v).stackH = s.stackH := rfl
@[simp] theorem setHbmc_stackM (b : Nat) (v : HbmCtl) : (setHbmc s b v).stackM = s.stackM := rfl
@[simp] theorem setHbmc_link (b : Nat) (v : HbmCtl) : (setHbmc s b v).link = s.link := rfl
@[simp] theorem setHbmc_repair (b : Nat) (v : HbmCtl) : (setHbmc s b v).repair = s.repair := rfl
@[simp] theorem setHbmc_hbm (b : Nat) (v : HbmCtl) : (setHbmc s b v).hbm = s.hbm := rfl
@[simp] theorem setHbmc_slices (b : Nat) (v : HbmCtl) : (setHbmc s b v).slices = s.slices := rfl
@[simp] theorem setHbmc_cache (b : Nat) (v : HbmCtl) : (setHbmc s b v).cache = s.cache := rfl
@[simp] theorem setHbmc_chk (b : Nat) (v : HbmCtl) : (setHbmc s b v).chk = s.chk := rfl
@[simp] theorem setHbmc_reqs (b : Nat) (v : HbmCtl) : (setHbmc s b v).reqs = s.reqs := rfl
@[simp] theorem setHbmc_resps (b : Nat) (v : HbmCtl) : (setHbmc s b v).resps = s.resps := rfl
@[simp] theorem setHbmc_cells (b : Nat) (v : HbmCtl) : (setHbmc s b v).cells = s.cells := rfl
@[simp] theorem setHbmc_blocks (b : Nat) (v : HbmCtl) : (setHbmc s b v).blocks = s.blocks := rfl
@[simp] theorem setHbmc_regions (b : Nat) (v : HbmCtl) : (setHbmc s b v).regions = s.regions := rfl
@[simp] theorem setHbmc_fab (b : Nat) (v : HbmCtl) : (setHbmc s b v).fab = s.fab := rfl
@[simp] theorem setHbmc_ports (b : Nat) (v : HbmCtl) : (setHbmc s b v).ports = s.ports := rfl
@[simp] theorem setHbmc_power (b : Nat) (v : HbmCtl) : (setHbmc s b v).power = s.power := rfl
@[simp] theorem setHbmc_therm (b : Nat) (v : HbmCtl) : (setHbmc s b v).therm = s.therm := rfl
@[simp] theorem setHbmc_trace (b : Nat) (v : HbmCtl) : (setHbmc s b v).trace = s.trace := rfl
@[simp] theorem setHbmc_gauge (b : Nat) (v : HbmCtl) : (setHbmc s b v).gauge = s.gauge := rfl
@[simp] theorem setHbmc_chores (b : Nat) (v : HbmCtl) : (setHbmc s b v).chores = s.chores := rfl
@[simp] theorem setHbmc_pkg (b : Nat) (v : HbmCtl) : (setHbmc s b v).pkg = s.pkg := rfl
@[simp] theorem setHbmc_boot (b : Nat) (v : HbmCtl) : (setHbmc s b v).boot = s.boot := rfl
@[simp] theorem setHbmc_fuses (b : Nat) (v : HbmCtl) : (setHbmc s b v).fuses = s.fuses := rfl
@[simp] theorem setHbmc_mgmt (b : Nat) (v : HbmCtl) : (setHbmc s b v).mgmt = s.mgmt := rfl
@[simp] theorem setHbmc_secLog (b : Nat) (v : HbmCtl) : (setHbmc s b v).secLog = s.secLog := rfl
@[simp] theorem setHbmc_out (b : Nat) (v : HbmCtl) : (setHbmc s b v).out = s.out := rfl
@[simp] theorem setHbmc_pending (b : Nat) (v : HbmCtl) : (setHbmc s b v).pending = s.pending := rfl

/-! ## setChk -/

@[simp] theorem setChk_part (n : Nat) (v : Chk) : (setChk s n v).part = s.part := rfl
@[simp] theorem setChk_time (n : Nat) (v : Chk) : (setChk s n v).time = s.time := rfl
@[simp] theorem setChk_fresh (n : Nat) (v : Chk) : (setChk s n v).fresh = s.fresh := rfl
@[simp] theorem setChk_nextId (n : Nat) (v : Chk) : (setChk s n v).nextId = s.nextId := rfl
@[simp] theorem setChk_pages (n : Nat) (v : Chk) : (setChk s n v).pages = s.pages := rfl
@[simp] theorem setChk_stackH (n : Nat) (v : Chk) : (setChk s n v).stackH = s.stackH := rfl
@[simp] theorem setChk_stackM (n : Nat) (v : Chk) : (setChk s n v).stackM = s.stackM := rfl
@[simp] theorem setChk_link (n : Nat) (v : Chk) : (setChk s n v).link = s.link := rfl
@[simp] theorem setChk_repair (n : Nat) (v : Chk) : (setChk s n v).repair = s.repair := rfl
@[simp] theorem setChk_hbm (n : Nat) (v : Chk) : (setChk s n v).hbm = s.hbm := rfl
@[simp] theorem setChk_slices (n : Nat) (v : Chk) : (setChk s n v).slices = s.slices := rfl
@[simp] theorem setChk_cache (n : Nat) (v : Chk) : (setChk s n v).cache = s.cache := rfl
@[simp] theorem setChk_hbmCtl (n : Nat) (v : Chk) : (setChk s n v).hbmCtl = s.hbmCtl := rfl
@[simp] theorem setChk_reqs (n : Nat) (v : Chk) : (setChk s n v).reqs = s.reqs := rfl
@[simp] theorem setChk_resps (n : Nat) (v : Chk) : (setChk s n v).resps = s.resps := rfl
@[simp] theorem setChk_cells (n : Nat) (v : Chk) : (setChk s n v).cells = s.cells := rfl
@[simp] theorem setChk_blocks (n : Nat) (v : Chk) : (setChk s n v).blocks = s.blocks := rfl
@[simp] theorem setChk_regions (n : Nat) (v : Chk) : (setChk s n v).regions = s.regions := rfl
@[simp] theorem setChk_fab (n : Nat) (v : Chk) : (setChk s n v).fab = s.fab := rfl
@[simp] theorem setChk_ports (n : Nat) (v : Chk) : (setChk s n v).ports = s.ports := rfl
@[simp] theorem setChk_power (n : Nat) (v : Chk) : (setChk s n v).power = s.power := rfl
@[simp] theorem setChk_therm (n : Nat) (v : Chk) : (setChk s n v).therm = s.therm := rfl
@[simp] theorem setChk_trace (n : Nat) (v : Chk) : (setChk s n v).trace = s.trace := rfl
@[simp] theorem setChk_gauge (n : Nat) (v : Chk) : (setChk s n v).gauge = s.gauge := rfl
@[simp] theorem setChk_chores (n : Nat) (v : Chk) : (setChk s n v).chores = s.chores := rfl
@[simp] theorem setChk_pkg (n : Nat) (v : Chk) : (setChk s n v).pkg = s.pkg := rfl
@[simp] theorem setChk_boot (n : Nat) (v : Chk) : (setChk s n v).boot = s.boot := rfl
@[simp] theorem setChk_fuses (n : Nat) (v : Chk) : (setChk s n v).fuses = s.fuses := rfl
@[simp] theorem setChk_mgmt (n : Nat) (v : Chk) : (setChk s n v).mgmt = s.mgmt := rfl
@[simp] theorem setChk_secLog (n : Nat) (v : Chk) : (setChk s n v).secLog = s.secLog := rfl
@[simp] theorem setChk_out (n : Nat) (v : Chk) : (setChk s n v).out = s.out := rfl
@[simp] theorem setChk_pending (n : Nat) (v : Chk) : (setChk s n v).pending = s.pending := rfl

/-! ## setRail -/

@[simp] theorem setRail_part (r : Nat) (v : Rail) : (setRail s r v).part = s.part := rfl
@[simp] theorem setRail_time (r : Nat) (v : Rail) : (setRail s r v).time = s.time := rfl
@[simp] theorem setRail_fresh (r : Nat) (v : Rail) : (setRail s r v).fresh = s.fresh := rfl
@[simp] theorem setRail_nextId (r : Nat) (v : Rail) : (setRail s r v).nextId = s.nextId := rfl
@[simp] theorem setRail_pages (r : Nat) (v : Rail) : (setRail s r v).pages = s.pages := rfl
@[simp] theorem setRail_stackH (r : Nat) (v : Rail) : (setRail s r v).stackH = s.stackH := rfl
@[simp] theorem setRail_stackM (r : Nat) (v : Rail) : (setRail s r v).stackM = s.stackM := rfl
@[simp] theorem setRail_link (r : Nat) (v : Rail) : (setRail s r v).link = s.link := rfl
@[simp] theorem setRail_repair (r : Nat) (v : Rail) : (setRail s r v).repair = s.repair := rfl
@[simp] theorem setRail_hbm (r : Nat) (v : Rail) : (setRail s r v).hbm = s.hbm := rfl
@[simp] theorem setRail_slices (r : Nat) (v : Rail) : (setRail s r v).slices = s.slices := rfl
@[simp] theorem setRail_cache (r : Nat) (v : Rail) : (setRail s r v).cache = s.cache := rfl
@[simp] theorem setRail_hbmCtl (r : Nat) (v : Rail) : (setRail s r v).hbmCtl = s.hbmCtl := rfl
@[simp] theorem setRail_chk (r : Nat) (v : Rail) : (setRail s r v).chk = s.chk := rfl
@[simp] theorem setRail_reqs (r : Nat) (v : Rail) : (setRail s r v).reqs = s.reqs := rfl
@[simp] theorem setRail_resps (r : Nat) (v : Rail) : (setRail s r v).resps = s.resps := rfl
@[simp] theorem setRail_cells (r : Nat) (v : Rail) : (setRail s r v).cells = s.cells := rfl
@[simp] theorem setRail_blocks (r : Nat) (v : Rail) : (setRail s r v).blocks = s.blocks := rfl
@[simp] theorem setRail_regions (r : Nat) (v : Rail) : (setRail s r v).regions = s.regions := rfl
@[simp] theorem setRail_fab (r : Nat) (v : Rail) : (setRail s r v).fab = s.fab := rfl
@[simp] theorem setRail_ports (r : Nat) (v : Rail) : (setRail s r v).ports = s.ports := rfl
@[simp] theorem setRail_therm (r : Nat) (v : Rail) : (setRail s r v).therm = s.therm := rfl
@[simp] theorem setRail_trace (r : Nat) (v : Rail) : (setRail s r v).trace = s.trace := rfl
@[simp] theorem setRail_gauge (r : Nat) (v : Rail) : (setRail s r v).gauge = s.gauge := rfl
@[simp] theorem setRail_chores (r : Nat) (v : Rail) : (setRail s r v).chores = s.chores := rfl
@[simp] theorem setRail_pkg (r : Nat) (v : Rail) : (setRail s r v).pkg = s.pkg := rfl
@[simp] theorem setRail_boot (r : Nat) (v : Rail) : (setRail s r v).boot = s.boot := rfl
@[simp] theorem setRail_fuses (r : Nat) (v : Rail) : (setRail s r v).fuses = s.fuses := rfl
@[simp] theorem setRail_mgmt (r : Nat) (v : Rail) : (setRail s r v).mgmt = s.mgmt := rfl
@[simp] theorem setRail_secLog (r : Nat) (v : Rail) : (setRail s r v).secLog = s.secLog := rfl
@[simp] theorem setRail_out (r : Nat) (v : Rail) : (setRail s r v).out = s.out := rfl
@[simp] theorem setRail_pending (r : Nat) (v : Rail) : (setRail s r v).pending = s.pending := rfl

/-! ## emit -/

@[simp] theorem emit_part (m : OutMsg) : (emit s m).part = s.part := rfl
@[simp] theorem emit_time (m : OutMsg) : (emit s m).time = s.time := rfl
@[simp] theorem emit_fresh (m : OutMsg) : (emit s m).fresh = s.fresh := rfl
@[simp] theorem emit_nextId (m : OutMsg) : (emit s m).nextId = s.nextId := rfl
@[simp] theorem emit_pages (m : OutMsg) : (emit s m).pages = s.pages := rfl
@[simp] theorem emit_stackH (m : OutMsg) : (emit s m).stackH = s.stackH := rfl
@[simp] theorem emit_stackM (m : OutMsg) : (emit s m).stackM = s.stackM := rfl
@[simp] theorem emit_link (m : OutMsg) : (emit s m).link = s.link := rfl
@[simp] theorem emit_repair (m : OutMsg) : (emit s m).repair = s.repair := rfl
@[simp] theorem emit_hbm (m : OutMsg) : (emit s m).hbm = s.hbm := rfl
@[simp] theorem emit_slices (m : OutMsg) : (emit s m).slices = s.slices := rfl
@[simp] theorem emit_cache (m : OutMsg) : (emit s m).cache = s.cache := rfl
@[simp] theorem emit_hbmCtl (m : OutMsg) : (emit s m).hbmCtl = s.hbmCtl := rfl
@[simp] theorem emit_chk (m : OutMsg) : (emit s m).chk = s.chk := rfl
@[simp] theorem emit_reqs (m : OutMsg) : (emit s m).reqs = s.reqs := rfl
@[simp] theorem emit_resps (m : OutMsg) : (emit s m).resps = s.resps := rfl
@[simp] theorem emit_cells (m : OutMsg) : (emit s m).cells = s.cells := rfl
@[simp] theorem emit_blocks (m : OutMsg) : (emit s m).blocks = s.blocks := rfl
@[simp] theorem emit_regions (m : OutMsg) : (emit s m).regions = s.regions := rfl
@[simp] theorem emit_fab (m : OutMsg) : (emit s m).fab = s.fab := rfl
@[simp] theorem emit_ports (m : OutMsg) : (emit s m).ports = s.ports := rfl
@[simp] theorem emit_power (m : OutMsg) : (emit s m).power = s.power := rfl
@[simp] theorem emit_therm (m : OutMsg) : (emit s m).therm = s.therm := rfl
@[simp] theorem emit_trace (m : OutMsg) : (emit s m).trace = s.trace := rfl
@[simp] theorem emit_gauge (m : OutMsg) : (emit s m).gauge = s.gauge := rfl
@[simp] theorem emit_chores (m : OutMsg) : (emit s m).chores = s.chores := rfl
@[simp] theorem emit_pkg (m : OutMsg) : (emit s m).pkg = s.pkg := rfl
@[simp] theorem emit_boot (m : OutMsg) : (emit s m).boot = s.boot := rfl
@[simp] theorem emit_fuses (m : OutMsg) : (emit s m).fuses = s.fuses := rfl
@[simp] theorem emit_mgmt (m : OutMsg) : (emit s m).mgmt = s.mgmt := rfl
@[simp] theorem emit_secLog (m : OutMsg) : (emit s m).secLog = s.secLog := rfl
@[simp] theorem emit_pending (m : OutMsg) : (emit s m).pending = s.pending := rfl

/-! ## nextFresh -/

@[simp] theorem nextFresh_part : (nextFresh s).part = s.part := rfl
@[simp] theorem nextFresh_time : (nextFresh s).time = s.time := rfl
@[simp] theorem nextFresh_nextId : (nextFresh s).nextId = s.nextId := rfl
@[simp] theorem nextFresh_pages : (nextFresh s).pages = s.pages := rfl
@[simp] theorem nextFresh_stackH : (nextFresh s).stackH = s.stackH := rfl
@[simp] theorem nextFresh_stackM : (nextFresh s).stackM = s.stackM := rfl
@[simp] theorem nextFresh_link : (nextFresh s).link = s.link := rfl
@[simp] theorem nextFresh_repair : (nextFresh s).repair = s.repair := rfl
@[simp] theorem nextFresh_hbm : (nextFresh s).hbm = s.hbm := rfl
@[simp] theorem nextFresh_slices : (nextFresh s).slices = s.slices := rfl
@[simp] theorem nextFresh_cache : (nextFresh s).cache = s.cache := rfl
@[simp] theorem nextFresh_hbmCtl : (nextFresh s).hbmCtl = s.hbmCtl := rfl
@[simp] theorem nextFresh_chk : (nextFresh s).chk = s.chk := rfl
@[simp] theorem nextFresh_reqs : (nextFresh s).reqs = s.reqs := rfl
@[simp] theorem nextFresh_resps : (nextFresh s).resps = s.resps := rfl
@[simp] theorem nextFresh_cells : (nextFresh s).cells = s.cells := rfl
@[simp] theorem nextFresh_blocks : (nextFresh s).blocks = s.blocks := rfl
@[simp] theorem nextFresh_regions : (nextFresh s).regions = s.regions := rfl
@[simp] theorem nextFresh_fab : (nextFresh s).fab = s.fab := rfl
@[simp] theorem nextFresh_ports : (nextFresh s).ports = s.ports := rfl
@[simp] theorem nextFresh_power : (nextFresh s).power = s.power := rfl
@[simp] theorem nextFresh_therm : (nextFresh s).therm = s.therm := rfl
@[simp] theorem nextFresh_trace : (nextFresh s).trace = s.trace := rfl
@[simp] theorem nextFresh_gauge : (nextFresh s).gauge = s.gauge := rfl
@[simp] theorem nextFresh_chores : (nextFresh s).chores = s.chores := rfl
@[simp] theorem nextFresh_pkg : (nextFresh s).pkg = s.pkg := rfl
@[simp] theorem nextFresh_boot : (nextFresh s).boot = s.boot := rfl
@[simp] theorem nextFresh_fuses : (nextFresh s).fuses = s.fuses := rfl
@[simp] theorem nextFresh_mgmt : (nextFresh s).mgmt = s.mgmt := rfl
@[simp] theorem nextFresh_secLog : (nextFresh s).secLog = s.secLog := rfl
@[simp] theorem nextFresh_out : (nextFresh s).out = s.out := rfl
@[simp] theorem nextFresh_pending : (nextFresh s).pending = s.pending := rfl

/-! ## What an update writes -/

@[simp] theorem emit_out (m : OutMsg) : (emit s m).out = s.out ++ [m] := rfl
@[simp] theorem nextFresh_fresh : (nextFresh s).fresh = s.fresh + 1 := rfl

/-- A cell after a write of a cell. -/
theorem cell_setCell (c d : Nat) (v : Cell) : cell (setCell s c v) d = if d = c then v else cell s d := by
  simp [cell, setCell, mget_mset]

@[simp] theorem cell_setCell_self (c : Nat) (v : Cell) : cell (setCell s c v) c = v := by simp [cell_setCell]
theorem cell_setCell_ne {c d : Nat} (v : Cell) (h : d ≠ c) : cell (setCell s c v) d = cell s d := by simp [cell_setCell, h]

/-- A block after a write of a block. -/
theorem block_setBlock (b d : Nat) (v : Block) : block (setBlock s b v) d = if d = b then v else block s d := by
  simp [block, setBlock, mget_mset]

@[simp] theorem block_setBlock_self (b : Nat) (v : Block) : block (setBlock s b v) b = v := by simp [block_setBlock]

/-- A region after a write of a region. -/
theorem region_setRegion (r d : Nat) (v : Region) : region (setRegion s r v) d = if d = r then v else region s d := by
  simp [region, setRegion, mget_mset]

@[simp] theorem region_setRegion_self (r : Nat) (v : Region) : region (setRegion s r v) r = v := by simp [region_setRegion]

/-- A port after a write of a port. -/
theorem port_setPort (p d : Nat) (v : Port) : port (setPort s p v) d = if d = p then v else port s d := by
  simp [port, setPort, mget_mset]

@[simp] theorem port_setPort_self (p : Nat) (v : Port) : port (setPort s p v) p = v := by simp [port_setPort]

/-- A slice after a write of a slice. -/
theorem slice_setSlice (a d : Nat) (v : Slice) : slice (setSlice s a v) d = if d = a then v else slice s d := by
  simp [slice, setSlice, mget_mset]

@[simp] theorem slice_setSlice_self (a : Nat) (v : Slice) : slice (setSlice s a v) a = v := by simp [slice_setSlice]

/-- A group after a write of a group. -/
theorem group_setGroup (c g d e : Nat) (v : Group) :
    group (setGroup s c g v) d e = if d = c ∧ e = g then v else group s d e := by
  by_cases hd : d = c
  · subst hd; simp [group, setGroup, mget_mset]
  · simp [group, setGroup, cell_setCell, hd]

@[simp] theorem group_setGroup_self (c g : Nat) (v : Group) : group (setGroup s c g v) c g = v := by simp [group_setGroup]

/-- Two writes of one cell: the later stands. -/
@[simp] theorem setCell_setCell (c : Nat) (v w : Cell) : setCell (setCell s c v) c w = setCell s c w := by simp [setCell]

/-- Two writes of one group: the later stands. -/
@[simp] theorem setGroup_setGroup (c g : Nat) (v w : Group) : setGroup (setGroup s c g v) c g w = setGroup s c g w := by
  simp [setGroup]

/-! A write of a page leaves the records of units alone. -/

@[simp] theorem group_setPage (k : PageKind) (i : Nat) (v : Page) (c g : Nat) : group (setPage s k i v) c g = group s c g := rfl
@[simp] theorem cell_setPage (k : PageKind) (i : Nat) (v : Page) (c : Nat) : cell (setPage s k i v) c = cell s c := rfl
@[simp] theorem group_setF (k : PageKind) (i : Nat) (f : Fld) (v c g : Nat) : group (setF s k i f v) c g = group s c g := rfl
@[simp] theorem cell_setF (k : PageKind) (i : Nat) (f : Fld) (v c : Nat) : cell (setF s k i f v) c = cell s c := rfl

/-- A page after a write of a page: pages are told apart by their numbers. -/
theorem page_setPage (k k' : PageKind) (i j : Nat) (v : Page) :
    page (setPage s k i v) k' j = if pageNo k' j = pageNo k i then v else page s k' j := by
  simp [page, setPage, mget_mset]

@[simp] theorem page_setPage_self (k : PageKind) (i : Nat) (v : Page) : page (setPage s k i v) k i = v := by simp [page_setPage]

end Sys2Proof.Laws
end

