-- ==== Sys2Proof/Laws/Regs.lean ====
section
/-! SUPPORT. Registers and their fields after a write, and what raising an interrupt bit and counting an event can change. -/
namespace Sys2Proof.Laws

open Sys2Proof.Machine

variable (s : State)

/-! ## Registers -/

/-- A register of a page after a write of a register of that page. -/
theorem reg_setReg (k : PageKind) (i o x : Nat) (v : W32) : reg (setReg s k i o v) k i x = if x = o then v else reg s k i x := by
  simp only [reg, setReg, page_setPage_self, setPage_part]
  by_cases h : x = o
  · subst h; simp
  · rw [if_neg h, mget_mset_other _ _ _ _ _ _ h]
where
  mget_mset_other (d d' : W32) (m : List (Nat × W32)) (k : Nat) (v : W32) (x : Nat) (h : x ≠ k) :
      mget d' (mset d m k v) x = mget d' m x := by
    unfold mset
    split
    · rw [mget_mdel, if_neg h]
    · rw [mget_mins _ _ _ _ _ (not_mem_mdel k m), if_neg h, mget_mdel, if_neg h]

@[simp] theorem reg_setReg_self (k : PageKind) (i o : Nat) (v : W32) : reg (setReg s k i o v) k i o = v := by simp [reg_setReg]

/-- A register of another page is unchanged. -/
theorem reg_setReg_page (k k' : PageKind) (i i' o x : Nat) (v : W32) (h : pageNo k' i' ≠ pageNo k i) :
    reg (setReg s k i o v) k' i' x = reg s k' i' x := by
  simp only [reg, setReg, page_setPage, if_neg h, setPage_part]

/-- A field reads as it was written. -/
theorem fld_setF (k : PageKind) (i : Nat) (f : Fld) (v : Nat) (h : f.lo ≤ f.hi) (h32 : f.hi < 32) :
    fld (setF s k i f v) k i f = v % 2 ^ (f.hi + 1 - f.lo) := by
  simp only [fld, setF, reg_setReg_self, fldW_putW _ _ _ _ h h32]

/-- A field of another register of the page is unchanged. -/
theorem fld_setF_off (k : PageKind) (i : Nat) (f e : Fld) (v : Nat) (h : e.off ≠ f.off) :
    fld (setF s k i f v) k i e = fld s k i e := by
  simp only [fld, setF, reg_setReg, if_neg h]

/-- A field of the same register that shares no bit is unchanged. -/
theorem fld_setF_bits (k : PageKind) (i : Nat) (f e : Fld) (v : Nat) (h : f.lo ≤ f.hi) (h32 : e.hi < 32)
    (hd : f.hi < e.lo ∨ e.hi < f.lo) : fld (setF s k i f v) k i e = fld s k i e := by
  simp only [fld, setF, reg_setReg]
  split
  · rename_i ho; rw [fldW_putW_disjoint _ _ _ _ _ _ h h32 hd, ho]
  · rfl

/-- A field of another page is unchanged. -/
theorem fld_setF_page (k k' : PageKind) (i i' : Nat) (f e : Fld) (v : Nat) (h : pageNo k' i' ≠ pageNo k i) :
    fld (setF s k i f v) k' i' e = fld s k' i' e := by
  simp only [fld, setF, reg_setReg_page _ _ _ _ _ _ _ _ h]

/-! ## What touches pages only -/

/-- Two states that differ in their register pages only. -/
def PagesOnly (s t : State) : Prop := t = { s with pages := t.pages }

theorem PagesOnly.refl : PagesOnly s s := rfl

theorem PagesOnly.trans {s t u : State} (h : PagesOnly s t) (k : PagesOnly t u) : PagesOnly s u := by
  unfold PagesOnly at *; rw [k, h]

theorem pagesOnly_setF (k : PageKind) (i : Nat) (f : Fld) (v : Nat) : PagesOnly s (setF s k i f v) := rfl
theorem pagesOnly_setReg (k : PageKind) (i o : Nat) (v : W32) : PagesOnly s (setReg s k i o v) := rfl
theorem pagesOnly_setCtr (k : PageKind) (i o : Nat) (v : W64) : PagesOnly s (setCtr s k i o v) := rfl

theorem pagesOnly_setF3 (k : PageKind) (i : Nat) (f : Fld) (v : Nat) : PagesOnly s (setF3 s k i f v) := rfl

theorem pagesOnly_bumpByte (k : PageKind) (i b t p n : Nat) : PagesOnly s (bumpByte s k i b t p n) := by
  unfold bumpByte; simp only; split <;> exact pagesOnly_setF _ _ _ _ _

theorem pagesOnly_ircEvent (h : Bool) (src : Nat) : PagesOnly s (ircEvent s h src) := by
  unfold ircEvent
  exact (pagesOnly_bumpByte _ _ _ _ _ _ _).trans (pagesOnly_setF _ _ _ _ _)

/-- Raising an interrupt bit changes register pages only. -/
theorem pagesOnly_raiseIrq (k : PageKind) (i bit : Nat) : PagesOnly s (raiseIrq s k i bit) := by
  unfold raiseIrq
  simp only
  have h := (pagesOnly_setF s k i ⟨o_COMMON_IRQ_PENDING, bit, bit⟩ 1).trans
    (pagesOnly_bumpByte _ k i (o_COMMON_EVT_CNT 0) o_COMMON_EVT_SAT 16 (evtOf bit))
  split
  · exact h
  · split
    · split
      · exact (h.trans (pagesOnly_ircEvent _ _ _)).trans (pagesOnly_ircEvent _ _ _)
      · exact h.trans (pagesOnly_ircEvent _ _ _)
    · split
      · exact h.trans (pagesOnly_ircEvent _ _ _)
      · exact h

/-- Counting an event changes register pages only. -/
theorem pagesOnly_bump (k : PageKind) (i off n : Nat) : PagesOnly s (bump s k i off n) := by
  unfold bump
  simp only
  split
  · split
    · rfl
    · split
      · exact pagesOnly_setCtr _ _ _ _ _
      · exact (pagesOnly_setCtr _ _ _ _ _).trans (pagesOnly_raiseIrq _ _ _ _)
  · split <;> exact pagesOnly_setCtr _ _ _ _ _
  · rfl

theorem pagesOnly_bumpField (k : PageKind) (i : Nat) (f : Fld) (n : Nat) : PagesOnly s (bumpField s k i f n) := rfl

theorem pagesOnly_pmcFrom (c ev n j : Nat) : PagesOnly s (pmcFrom s c ev n j) := by
  induction j with
  | zero => rfl
  | succ j ih =>
    unfold pmcFrom
    simp only
    split
    · exact ih.trans (pagesOnly_bump _ _ _ _ _)
    · exact ih

/-- Counting an event of a cell changes register pages only. -/
theorem pagesOnly_pmc (c ev n : Nat) : PagesOnly s (pmc s c ev n) := pagesOnly_pmcFrom s c ev n 8

theorem pagesOnly_busError (off : Nat) (w sec : Bool) (cause : Nat) : PagesOnly s (busError s off w sec cause) := by
  unfold busError
  simp only
  split
  · exact (pagesOnly_bumpField _ _ _ _ _).trans (pagesOnly_raiseIrq _ _ _ _)
  · exact (((pagesOnly_setF _ _ _ _ _).trans (pagesOnly_setReg _ _ _ _ _)).trans (pagesOnly_bumpField _ _ _ _ _)).trans
      (pagesOnly_raiseIrq _ _ _ _)

theorem pagesOnly_winError (a : Nat) (w : Bool) (cause : Nat) : PagesOnly s (winError s a w cause) := by
  unfold winError
  simp only
  split
  · exact (pagesOnly_bumpField _ _ _ _ _).trans (pagesOnly_raiseIrq _ _ _ _)
  · exact ((((pagesOnly_setReg _ _ _ _ _).trans (pagesOnly_setReg _ _ _ _ _)).trans (pagesOnly_setReg _ _ _ _ _)).trans
      (pagesOnly_bumpField _ _ _ _ _)).trans (pagesOnly_raiseIrq _ _ _ _)

/-! ## Fields that raiseIrq leaves alone -/

@[simp] theorem raiseIrq_part (k : PageKind) (i b : Nat) : (raiseIrq s k i b).part = s.part := by rw [pagesOnly_raiseIrq s k i b]
@[simp] theorem raiseIrq_time (k : PageKind) (i b : Nat) : (raiseIrq s k i b).time = s.time := by rw [pagesOnly_raiseIrq s k i b]
@[simp] theorem raiseIrq_fresh (k : PageKind) (i b : Nat) : (raiseIrq s k i b).fresh = s.fresh := by rw [pagesOnly_raiseIrq s k i b]
@[simp] theorem raiseIrq_nextId (k : PageKind) (i b : Nat) : (raiseIrq s k i b).nextId = s.nextId := by rw [pagesOnly_raiseIrq s k i b]
@[simp] theorem raiseIrq_stackH (k : PageKind) (i b : Nat) : (raiseIrq s k i b).stackH = s.stackH := by rw [pagesOnly_raiseIrq s k i b]
@[simp] theorem raiseIrq_stackM (k : PageKind) (i b : Nat) : (raiseIrq s k i b).stackM = s.stackM := by rw [pagesOnly_raiseIrq s k i b]
@[simp] theorem raiseIrq_link (k : PageKind) (i b : Nat) : (raiseIrq s k i b).link = s.link := by rw [pagesOnly_raiseIrq s k i b]
@[simp] theorem raiseIrq_repair (k : PageKind) (i b : Nat) : (raiseIrq s k i b).repair = s.repair := by rw [pagesOnly_raiseIrq s k i b]
@[simp] theorem raiseIrq_hbm (k : PageKind) (i b : Nat) : (raiseIrq s k i b).hbm = s.hbm := by rw [pagesOnly_raiseIrq s k i b]
@[simp] theorem raiseIrq_slices (k : PageKind) (i b : Nat) : (raiseIrq s k i b).slices = s.slices := by rw [pagesOnly_raiseIrq s k i b]
@[simp] theorem raiseIrq_cache (k : PageKind) (i b : Nat) : (raiseIrq s k i b).cache = s.cache := by rw [pagesOnly_raiseIrq s k i b]
@[simp] theorem raiseIrq_hbmCtl (k : PageKind) (i b : Nat) : (raiseIrq s k i b).hbmCtl = s.hbmCtl := by rw [pagesOnly_raiseIrq s k i b]
@[simp] theorem raiseIrq_chk (k : PageKind) (i b : Nat) : (raiseIrq s k i b).chk = s.chk := by rw [pagesOnly_raiseIrq s k i b]
@[simp] theorem raiseIrq_reqs (k : PageKind) (i b : Nat) : (raiseIrq s k i b).reqs = s.reqs := by rw [pagesOnly_raiseIrq s k i b]
@[simp] theorem raiseIrq_resps (k : PageKind) (i b : Nat) : (raiseIrq s k i b).resps = s.resps := by rw [pagesOnly_raiseIrq s k i b]
@[simp] theorem raiseIrq_cells (k : PageKind) (i b : Nat) : (raiseIrq s k i b).cells = s.cells := by rw [pagesOnly_raiseIrq s k i b]
@[simp] theorem raiseIrq_blocks (k : PageKind) (i b : Nat) : (raiseIrq s k i b).blocks = s.blocks := by rw [pagesOnly_raiseIrq s k i b]
@[simp] theorem raiseIrq_regions (k : PageKind) (i b : Nat) : (raiseIrq s k i b).regions = s.regions := by rw [pagesOnly_raiseIrq s k i b]
@[simp] theorem raiseIrq_fab (k : PageKind) (i b : Nat) : (raiseIrq s k i b).fab = s.fab := by rw [pagesOnly_raiseIrq s k i b]
@[simp] theorem raiseIrq_ports (k : PageKind) (i b : Nat) : (raiseIrq s k i b).ports = s.ports := by rw [pagesOnly_raiseIrq s k i b]
@[simp] theorem raiseIrq_power (k : PageKind) (i b : Nat) : (raiseIrq s k i b).power = s.power := by rw [pagesOnly_raiseIrq s k i b]
@[simp] theorem raiseIrq_therm (k : PageKind) (i b : Nat) : (raiseIrq s k i b).therm = s.therm := by rw [pagesOnly_raiseIrq s k i b]
@[simp] theorem raiseIrq_trace (k : PageKind) (i b : Nat) : (raiseIrq s k i b).trace = s.trace := by rw [pagesOnly_raiseIrq s k i b]
@[simp] theorem raiseIrq_gauge (k : PageKind) (i b : Nat) : (raiseIrq s k i b).gauge = s.gauge := by rw [pagesOnly_raiseIrq s k i b]
@[simp] theorem raiseIrq_chores (k : PageKind) (i b : Nat) : (raiseIrq s k i b).chores = s.chores := by rw [pagesOnly_raiseIrq s k i b]
@[simp] theorem raiseIrq_pkg (k : PageKind) (i b : Nat) : (raiseIrq s k i b).pkg = s.pkg := by rw [pagesOnly_raiseIrq s k i b]
@[simp] theorem raiseIrq_boot (k : PageKind) (i b : Nat) : (raiseIrq s k i b).boot = s.boot := by rw [pagesOnly_raiseIrq s k i b]
@[simp] theorem raiseIrq_fuses (k : PageKind) (i b : Nat) : (raiseIrq s k i b).fuses = s.fuses := by rw [pagesOnly_raiseIrq s k i b]
@[simp] theorem raiseIrq_mgmt (k : PageKind) (i b : Nat) : (raiseIrq s k i b).mgmt = s.mgmt := by rw [pagesOnly_raiseIrq s k i b]
@[simp] theorem raiseIrq_secLog (k : PageKind) (i b : Nat) : (raiseIrq s k i b).secLog = s.secLog := by rw [pagesOnly_raiseIrq s k i b]
@[simp] theorem raiseIrq_out (k : PageKind) (i b : Nat) : (raiseIrq s k i b).out = s.out := by rw [pagesOnly_raiseIrq s k i b]
@[simp] theorem raiseIrq_pending (k : PageKind) (i b : Nat) : (raiseIrq s k i b).pending = s.pending := by rw [pagesOnly_raiseIrq s k i b]
@[simp] theorem raiseIrq_group (k : PageKind) (i b : Nat) (d e : Nat) : group (raiseIrq s k i b) d e = group s d e := by simp only [group, cell, raiseIrq_cells]
@[simp] theorem raiseIrq_cell (k : PageKind) (i b : Nat) (d : Nat) : cell (raiseIrq s k i b) d = cell s d := by simp only [cell, raiseIrq_cells]
@[simp] theorem raiseIrq_block (k : PageKind) (i b : Nat) (d : Nat) : block (raiseIrq s k i b) d = block s d := by simp only [block, raiseIrq_blocks]
@[simp] theorem raiseIrq_slice (k : PageKind) (i b : Nat) (d : Nat) : slice (raiseIrq s k i b) d = slice s d := by simp only [slice, raiseIrq_slices]
@[simp] theorem raiseIrq_port (k : PageKind) (i b : Nat) (d : Nat) : port (raiseIrq s k i b) d = port s d := by simp only [port, raiseIrq_ports]

/-! ## Fields that bump leaves alone -/

@[simp] theorem bump_part (k : PageKind) (i o n : Nat) : (bump s k i o n).part = s.part := by rw [pagesOnly_bump s k i o n]
@[simp] theorem bump_time (k : PageKind) (i o n : Nat) : (bump s k i o n).time = s.time := by rw [pagesOnly_bump s k i o n]
@[simp] theorem bump_fresh (k : PageKind) (i o n : Nat) : (bump s k i o n).fresh = s.fresh := by rw [pagesOnly_bump s k i o n]
@[simp] theorem bump_nextId (k : PageKind) (i o n : Nat) : (bump s k i o n).nextId = s.nextId := by rw [pagesOnly_bump s k i o n]
@[simp] theorem bump_stackH (k : PageKind) (i o n : Nat) : (bump s k i o n).stackH = s.stackH := by rw [pagesOnly_bump s k i o n]
@[simp] theorem bump_stackM (k : PageKind) (i o n : Nat) : (bump s k i o n).stackM = s.stackM := by rw [pagesOnly_bump s k i o n]
@[simp] theorem bump_link (k : PageKind) (i o n : Nat) : (bump s k i o n).link = s.link := by rw [pagesOnly_bump s k i o n]
@[simp] theorem bump_repair (k : PageKind) (i o n : Nat) : (bump s k i o n).repair = s.repair := by rw [pagesOnly_bump s k i o n]
@[simp] theorem bump_hbm (k : PageKind) (i o n : Nat) : (bump s k i o n).hbm = s.hbm := by rw [pagesOnly_bump s k i o n]
@[simp] theorem bump_slices (k : PageKind) (i o n : Nat) : (bump s k i o n).slices = s.slices := by rw [pagesOnly_bump s k i o n]
@[simp] theorem bump_cache (k : PageKind) (i o n : Nat) : (bump s k i o n).cache = s.cache := by rw [pagesOnly_bump s k i o n]
@[simp] theorem bump_hbmCtl (k : PageKind) (i o n : Nat) : (bump s k i o n).hbmCtl = s.hbmCtl := by rw [pagesOnly_bump s k i o n]
@[simp] theorem bump_chk (k : PageKind) (i o n : Nat) : (bump s k i o n).chk = s.chk := by rw [pagesOnly_bump s k i o n]
@[simp] theorem bump_reqs (k : PageKind) (i o n : Nat) : (bump s k i o n).reqs = s.reqs := by rw [pagesOnly_bump s k i o n]
@[simp] theorem bump_resps (k : PageKind) (i o n : Nat) : (bump s k i o n).resps = s.resps := by rw [pagesOnly_bump s k i o n]
@[simp] theorem bump_cells (k : PageKind) (i o n : Nat) : (bump s k i o n).cells = s.cells := by rw [pagesOnly_bump s k i o n]
@[simp] theorem bump_blocks (k : PageKind) (i o n : Nat) : (bump s k i o n).blocks = s.blocks := by rw [pagesOnly_bump s k i o n]
@[simp] theorem bump_regions (k : PageKind) (i o n : Nat) : (bump s k i o n).regions = s.regions := by rw [pagesOnly_bump s k i o n]
@[simp] theorem bump_fab (k : PageKind) (i o n : Nat) : (bump s k i o n).fab = s.fab := by rw [pagesOnly_bump s k i o n]
@[simp] theorem bump_ports (k : PageKind) (i o n : Nat) : (bump s k i o n).ports = s.ports := by rw [pagesOnly_bump s k i o n]
@[simp] theorem bump_power (k : PageKind) (i o n : Nat) : (bump s k i o n).power = s.power := by rw [pagesOnly_bump s k i o n]
@[simp] theorem bump_therm (k : PageKind) (i o n : Nat) : (bump s k i o n).therm = s.therm := by rw [pagesOnly_bump s k i o n]
@[simp] theorem bump_trace (k : PageKind) (i o n : Nat) : (bump s k i o n).trace = s.trace := by rw [pagesOnly_bump s k i o n]
@[simp] theorem bump_gauge (k : PageKind) (i o n : Nat) : (bump s k i o n).gauge = s.gauge := by rw [pagesOnly_bump s k i o n]
@[simp] theorem bump_chores (k : PageKind) (i o n : Nat) : (bump s k i o n).chores = s.chores := by rw [pagesOnly_bump s k i o n]
@[simp] theorem bump_pkg (k : PageKind) (i o n : Nat) : (bump s k i o n).pkg = s.pkg := by rw [pagesOnly_bump s k i o n]
@[simp] theorem bump_boot (k : PageKind) (i o n : Nat) : (bump s k i o n).boot = s.boot := by rw [pagesOnly_bump s k i o n]
@[simp] theorem bump_fuses (k : PageKind) (i o n : Nat) : (bump s k i o n).fuses = s.fuses := by rw [pagesOnly_bump s k i o n]
@[simp] theorem bump_mgmt (k : PageKind) (i o n : Nat) : (bump s k i o n).mgmt = s.mgmt := by rw [pagesOnly_bump s k i o n]
@[simp] theorem bump_secLog (k : PageKind) (i o n : Nat) : (bump s k i o n).secLog = s.secLog := by rw [pagesOnly_bump s k i o n]
@[simp] theorem bump_out (k : PageKind) (i o n : Nat) : (bump s k i o n).out = s.out := by rw [pagesOnly_bump s k i o n]
@[simp] theorem bump_pending (k : PageKind) (i o n : Nat) : (bump s k i o n).pending = s.pending := by rw [pagesOnly_bump s k i o n]
@[simp] theorem bump_group (k : PageKind) (i o n : Nat) (d e : Nat) : group (bump s k i o n) d e = group s d e := by simp only [group, cell, bump_cells]
@[simp] theorem bump_cell (k : PageKind) (i o n : Nat) (d : Nat) : cell (bump s k i o n) d = cell s d := by simp only [cell, bump_cells]
@[simp] theorem bump_block (k : PageKind) (i o n : Nat) (d : Nat) : block (bump s k i o n) d = block s d := by simp only [block, bump_blocks]
@[simp] theorem bump_slice (k : PageKind) (i o n : Nat) (d : Nat) : slice (bump s k i o n) d = slice s d := by simp only [slice, bump_slices]
@[simp] theorem bump_port (k : PageKind) (i o n : Nat) (d : Nat) : port (bump s k i o n) d = port s d := by simp only [port, bump_ports]

/-! ## Fields that pmc leaves alone -/

@[simp] theorem pmc_part (c ev n : Nat) : (pmc s c ev n).part = s.part := by rw [pagesOnly_pmc s c ev n]
@[simp] theorem pmc_time (c ev n : Nat) : (pmc s c ev n).time = s.time := by rw [pagesOnly_pmc s c ev n]
@[simp] theorem pmc_fresh (c ev n : Nat) : (pmc s c ev n).fresh = s.fresh := by rw [pagesOnly_pmc s c ev n]
@[simp] theorem pmc_nextId (c ev n : Nat) : (pmc s c ev n).nextId = s.nextId := by rw [pagesOnly_pmc s c ev n]
@[simp] theorem pmc_stackH (c ev n : Nat) : (pmc s c ev n).stackH = s.stackH := by rw [pagesOnly_pmc s c ev n]
@[simp] theorem pmc_stackM (c ev n : Nat) : (pmc s c ev n).stackM = s.stackM := by rw [pagesOnly_pmc s c ev n]
@[simp] theorem pmc_link (c ev n : Nat) : (pmc s c ev n).link = s.link := by rw [pagesOnly_pmc s c ev n]
@[simp] theorem pmc_repair (c ev n : Nat) : (pmc s c ev n).repair = s.repair := by rw [pagesOnly_pmc s c ev n]
@[simp] theorem pmc_hbm (c ev n : Nat) : (pmc s c ev n).hbm = s.hbm := by rw [pagesOnly_pmc s c ev n]
@[simp] theorem pmc_slices (c ev n : Nat) : (pmc s c ev n).slices = s.slices := by rw [pagesOnly_pmc s c ev n]
@[simp] theorem pmc_cache (c ev n : Nat) : (pmc s c ev n).cache = s.cache := by rw [pagesOnly_pmc s c ev n]
@[simp] theorem pmc_hbmCtl (c ev n : Nat) : (pmc s c ev n).hbmCtl = s.hbmCtl := by rw [pagesOnly_pmc s c ev n]
@[simp] theorem pmc_chk (c ev n : Nat) : (pmc s c ev n).chk = s.chk := by rw [pagesOnly_pmc s c ev n]
@[simp] theorem pmc_reqs (c ev n : Nat) : (pmc s c ev n).reqs = s.reqs := by rw [pagesOnly_pmc s c ev n]
@[simp] theorem pmc_resps (c ev n : Nat) : (pmc s c ev n).resps = s.resps := by rw [pagesOnly_pmc s c ev n]
@[simp] theorem pmc_cells (c ev n : Nat) : (pmc s c ev n).cells = s.cells := by rw [pagesOnly_pmc s c ev n]
@[simp] theorem pmc_blocks (c ev n : Nat) : (pmc s c ev n).blocks = s.blocks := by rw [pagesOnly_pmc s c ev n]
@[simp] theorem pmc_regions (c ev n : Nat) : (pmc s c ev n).regions = s.regions := by rw [pagesOnly_pmc s c ev n]
@[simp] theorem pmc_fab (c ev n : Nat) : (pmc s c ev n).fab = s.fab := by rw [pagesOnly_pmc s c ev n]
@[simp] theorem pmc_ports (c ev n : Nat) : (pmc s c ev n).ports = s.ports := by rw [pagesOnly_pmc s c ev n]
@[simp] theorem pmc_power (c ev n : Nat) : (pmc s c ev n).power = s.power := by rw [pagesOnly_pmc s c ev n]
@[simp] theorem pmc_therm (c ev n : Nat) : (pmc s c ev n).therm = s.therm := by rw [pagesOnly_pmc s c ev n]
@[simp] theorem pmc_trace (c ev n : Nat) : (pmc s c ev n).trace = s.trace := by rw [pagesOnly_pmc s c ev n]
@[simp] theorem pmc_gauge (c ev n : Nat) : (pmc s c ev n).gauge = s.gauge := by rw [pagesOnly_pmc s c ev n]
@[simp] theorem pmc_chores (c ev n : Nat) : (pmc s c ev n).chores = s.chores := by rw [pagesOnly_pmc s c ev n]
@[simp] theorem pmc_pkg (c ev n : Nat) : (pmc s c ev n).pkg = s.pkg := by rw [pagesOnly_pmc s c ev n]
@[simp] theorem pmc_boot (c ev n : Nat) : (pmc s c ev n).boot = s.boot := by rw [pagesOnly_pmc s c ev n]
@[simp] theorem pmc_fuses (c ev n : Nat) : (pmc s c ev n).fuses = s.fuses := by rw [pagesOnly_pmc s c ev n]
@[simp] theorem pmc_mgmt (c ev n : Nat) : (pmc s c ev n).mgmt = s.mgmt := by rw [pagesOnly_pmc s c ev n]
@[simp] theorem pmc_secLog (c ev n : Nat) : (pmc s c ev n).secLog = s.secLog := by rw [pagesOnly_pmc s c ev n]
@[simp] theorem pmc_out (c ev n : Nat) : (pmc s c ev n).out = s.out := by rw [pagesOnly_pmc s c ev n]
@[simp] theorem pmc_pending (c ev n : Nat) : (pmc s c ev n).pending = s.pending := by rw [pagesOnly_pmc s c ev n]
@[simp] theorem pmc_group (c ev n : Nat) (d e : Nat) : group (pmc s c ev n) d e = group s d e := by simp only [group, cell, pmc_cells]
@[simp] theorem pmc_cell (c ev n : Nat) (d : Nat) : cell (pmc s c ev n) d = cell s d := by simp only [cell, pmc_cells]
@[simp] theorem pmc_block (c ev n : Nat) (d : Nat) : block (pmc s c ev n) d = block s d := by simp only [block, pmc_blocks]
@[simp] theorem pmc_slice (c ev n : Nat) (d : Nat) : slice (pmc s c ev n) d = slice s d := by simp only [slice, pmc_slices]
@[simp] theorem pmc_port (c ev n : Nat) (d : Nat) : port (pmc s c ev n) d = port s d := by simp only [port, pmc_ports]

end Sys2Proof.Laws
end

