-- ==== Sys2Proof/Laws/Step.lean ====
section
/-! SUPPORT. What a command's meaning answers: `done`, `run`, `hostCmd` and `issue`, each said once. -/
namespace Sys2Proof.Laws

open Sys2Proof.Machine

variable {s t : State}

/-- A meaning that leaves the part and the queue alone answers the state it reaches. -/
theorem done_eq (hp : t.part = s.part) (hq : t.pending = s.pending) : done s t = .next t := by
  unfold done; rw [← hp, ← hq]

/-- A meaning answers a state with the part and the queue it had. -/
theorem done_next : done s t = .next { t with part := s.part, pending := s.pending } := rfl

/-- A well-formed command outside reset has its effect. -/
theorem run_eq {ok : Bool} {f : State → State} (hok : ok = true) (hr : inReset s = false) : run ok s f = done s (f s) := by
  simp [run, runAlways, hok, hr]

/-- A well-formed command in reset has none. -/
theorem run_inReset {ok : Bool} {f : State → State} (hok : ok = true) (hr : inReset s = true) : run ok s f = .next s := by
  simp [run, runAlways, hok, hr, done]

/-- A command that is not well formed changes nothing. -/
theorem run_illFormed {ok : Bool} {f : State → State} (hok : ok = false) : run ok s f = .next s := by
  simp [run, runAlways, hok, done]

/-- A command of host software that reaches its unit has its effect. -/
theorem hostCmd_eq {secure : Bool} {k : PageKind} {i : Nat} (off : Nat) (f : State → State) (h : reaches s secure k i) :
    hostCmd s secure k i off f = f s := by
  obtain ⟨_, h1, h2, h3, h4, h5, h6⟩ := h
  unfold hostCmd
  by_cases hk : kindSecure k = true
  · simp [h1, h2, h3, h4, h6, h5 hk]
  · simp only [Bool.not_eq_true] at hk; simp [h1, h2, h3, h4, h6, hk]

/-- A ready group issues its word: what the meaning answers, with the instruction counted (R570). -/
theorem issue_eq {c g : Nat} {w : W64} {body : State → Option State} (h : ready s c g w) (hb : body s = some t) :
    issue s c g w body = pmc t c 2 1 := by
  obtain ⟨_, h1, h2⟩ := h
  simp [issue, h1, h2, hb]

/-- The outcome of a ready group's instruction. -/
theorem run_issue {c g : Nat} {w : W64} {ok : Bool} {body : State → Option State} (hok : ok = true) (h : ready s c g w)
    (hb : body s = some t) (hp : t.part = s.part) (hq : t.pending = s.pending) :
    run ok s (fun s => issue s c g w body) = .next (pmc t c 2 1) := by
  rw [run_eq hok h.1, issue_eq h hb, done_eq (by simp [hp]) (by simp [hq])]

end Sys2Proof.Laws
end

