-- ==== Sys2Proof/Laws/Group.lean ====
section
/-! SUPPORT. Registers of a group: reading after writing, and instructions that write one register in every executing lane. -/
namespace Sys2Proof.Laws

open Sys2Proof.Machine

variable (k : Group)

/-- A lane register after a write of a lane. -/
theorem getV_setV (r l r' l' : Nat) (x : W32) (h : l < 32) (h' : l' < 32) :
    getV (setV k r l x) r' l' = if r' = r ∧ l' = l then x else getV k r' l' := by
  simp only [getV, setV, mget_mset]
  by_cases he : r' = r ∧ l' = l
  · obtain ⟨rfl, rfl⟩ := he; simp
  · have : r' * 32 + l' ≠ r * 32 + l := by omega
    rw [if_neg this, if_neg he]

/-- u0 reads as 0 (R127). -/
@[simp] theorem getU_zero : getU k 0 = 0 := rfl
/-- p0 reads as 1 in every lane (R127). -/
@[simp] theorem getP_zero : getP k 0 = 0xFFFFFFFF := rfl

/-- A uniform register after a write: u0 keeps nothing (R127). -/
theorem getU_setU (r r' : Nat) (x : W64) : getU (setU k r x) r' = if r' = r ∧ r ≠ 0 then x else getU k r' := by
  unfold setU getU
  by_cases h0 : r' = 0
  · subst h0
    simp only [if_true]
    by_cases h : 0 = r ∧ r ≠ 0
    · omega
    · rw [if_neg h]
  · by_cases hr : r = 0
    · subst hr; simp [h0]
    · simp only [if_neg hr, if_neg h0, mget_mset]
      by_cases h : r' = r <;> simp [h, hr]

/-- A predicate after a write: p0 keeps nothing (R127). -/
theorem getP_setP (r r' : Nat) (x : W32) : getP (setP k r x) r' = if r' = r ∧ r ≠ 0 then x else getP k r' := by
  unfold setP getP
  by_cases h0 : r' = 0
  · subst h0
    simp only [if_true]
    by_cases h : 0 = r ∧ r ≠ 0
    · omega
    · rw [if_neg h]
  · by_cases hr : r = 0
    · subst hr; simp [h0]
    · simp only [if_neg hr, if_neg h0, mget_mset]
      by_cases h : r' = r <;> simp [h, hr]

/-- A bit as a number's bit. -/
theorem bitN_eq_testBit (w i : Nat) : bitN w i = w.testBit i := by
  rw [Nat.testBit_eq_decide_div_mod_eq, bitN, Nat.shiftRight_eq_div_pow, beq_eq_decide]

/-- A lane of a predicate after a write of a lane. -/
theorem bitN_getP_setPLane (r l r' l' : Nat) (b : Bool) (h : l < 32) (h' : l' < 32) :
    bitN (getP (setPLane k r l b) r').toNat l' = if r' = r ∧ r ≠ 0 ∧ l' = l then b else bitN (getP k r').toNat l' := by
  unfold setPLane
  rw [getP_setP]
  by_cases hr : r' = r ∧ r ≠ 0
  · obtain ⟨rfl, hr0⟩ := hr
    rw [if_pos ⟨rfl, hr0⟩, bitN_eq_testBit, bitN_eq_testBit, BitVec.toNat_ofNat, Nat.testBit_mod_two_pow,
      testBit_putBitsN _ _ _ _ _ (by omega)]
    by_cases hl : l' = l
    · subst hl; cases b <;> simp [h', hr0, b2n]
    · have : ¬(l ≤ l' ∧ l' ≤ l) := by omega
      simp [h', this, hl]
  · rw [if_neg hr]
    have : ¬(r' = r ∧ r ≠ 0 ∧ l' = l) := fun hc => hr ⟨hc.1, hc.2.1⟩
    rw [if_neg this]

/-- The lanes of a mask are below 32, each once. -/
theorem mem_lanesOf (m : W32) (l : Nat) : l ∈ lanesOf m ↔ l < 32 ∧ bitN m.toNat l = true := by
  simp [lanesOf]

theorem lanesOf_nodup (m : W32) : (lanesOf m).Nodup := List.Nodup.filter _ List.nodup_range

/-- Steps that each write one lane of register `r` leave every other place alone and give the listed lanes their values. -/
theorem getV_mapLanes (r : Nat) (f : Nat → W32) (step : Group → Nat → Group) (lanes : List Nat) (hl : ∀ l ∈ lanes, l < 32)
    (hs : ∀ k l, l ∈ lanes → step k l = setV k r l (f l)) (r' l' : Nat) (h' : l' < 32) :
    getV (mapLanes k lanes step) r' l' = if r' = r ∧ l' ∈ lanes then f l' else getV k r' l' := by
  unfold mapLanes
  induction lanes generalizing k with
  | nil => simp
  | cons a t ih =>
    rw [List.foldl_cons, ih _ (fun l h => hl l (List.mem_cons_of_mem _ h)) (fun k l h => hs k l (List.mem_cons_of_mem _ h)),
      hs k a List.mem_cons_self, getV_setV _ _ _ _ _ _ (hl a List.mem_cons_self) h']
    by_cases hr : r' = r
    · by_cases ht : l' ∈ t
      · simp [hr, ht]
      · by_cases ha : l' = a
        · subst ha; simp [hr]
        · simp [hr, ht, ha]
    · simp [hr]

/-- Steps that each write one lane of register `r` change the lane registers only. -/
theorem mapLanes_setV_eq (r : Nat) (f : Nat → W32) (step : Group → Nat → Group) (lanes : List Nat)
    (hs : ∀ k l, l ∈ lanes → step k l = setV k r l (f l)) :
    mapLanes k lanes step = { k with v := (mapLanes k lanes step).v } := by
  unfold mapLanes
  induction lanes generalizing k with
  | nil => rfl
  | cons a t ih =>
    rw [List.foldl_cons, ih _ (fun k l h => hs k l (List.mem_cons_of_mem _ h)), hs k a List.mem_cons_self]
    rfl

/-- Steps that each write one lane of predicate `r` give the listed lanes their values. -/
theorem getP_mapLanes (r : Nat) (f : Nat → Bool) (step : Group → Nat → Group) (lanes : List Nat) (hl : ∀ l ∈ lanes, l < 32)
    (hs : ∀ k l, l ∈ lanes → step k l = setPLane k r l (f l)) (r' l' : Nat) (h' : l' < 32) :
    bitN (getP (mapLanes k lanes step) r').toNat l' =
      if r' = r ∧ r ≠ 0 ∧ l' ∈ lanes then f l' else bitN (getP k r').toNat l' := by
  unfold mapLanes
  induction lanes generalizing k with
  | nil => simp
  | cons a t ih =>
    rw [List.foldl_cons, ih _ (fun l h => hl l (List.mem_cons_of_mem _ h)) (fun k l h => hs k l (List.mem_cons_of_mem _ h)),
      hs k a List.mem_cons_self, bitN_getP_setPLane _ _ _ _ _ _ (hl a List.mem_cons_self) h']
    by_cases hr : r' = r ∧ r ≠ 0
    · obtain ⟨rfl, h0⟩ := hr
      by_cases ht : l' ∈ t
      · simp [h0, ht]
      · by_cases ha : l' = a
        · subst ha; simp [h0]
        · simp [h0, ht, ha]
    · have h1 : ∀ p, ¬(r' = r ∧ r ≠ 0 ∧ p) := fun p hc => hr ⟨hc.1, hc.2.1⟩
      rw [if_neg (h1 _), if_neg (h1 _), if_neg (h1 _)]

/-- Steps that each write one lane of predicate `r` change the predicates only. -/
theorem mapLanes_setPLane_eq (r : Nat) (f : Nat → Bool) (step : Group → Nat → Group) (lanes : List Nat)
    (hs : ∀ k l, l ∈ lanes → step k l = setPLane k r l (f l)) :
    mapLanes k lanes step = { k with p := (mapLanes k lanes step).p } := by
  unfold mapLanes
  induction lanes generalizing k with
  | nil => rfl
  | cons a t ih =>
    rw [List.foldl_cons, ih _ (fun k l h => hs k l (List.mem_cons_of_mem _ h)), hs k a List.mem_cons_self]
    unfold setPLane setP
    split <;> rfl

/-- Retiring an instruction: the group's record with the next PC. -/
theorem retire_eq (s : State) (c g : Nat) (v : Group) :
    retire s c g v = setGroup s c g { v with pc := (v.pc + 8) % 2 ^ 48, skipWatch := [] } := by
  unfold retire nextPc
  simp only [group_setGroup_self]
  exact setGroup_setGroup s c g v _

end Sys2Proof.Laws
end

