-- ==== Sys2Proof/Laws/Memory.lean ====
section
/-! SUPPORT. The memory of the HBM: what a write does to each byte, and the canonical form that every memory operation keeps. -/
namespace Sys2Proof.Laws

open Sys2Proof.Machine

/-- One byte after a write of `n` bytes. -/
theorem memByte_memWrite (m : List Host.Cell) (a n v x : Nat) :
    memByte (memWrite m a n v) x = if a ≤ x ∧ x < a + n then BitVec.ofNat 8 (v / 256 ^ (x - a)) else memByte m x := by
  induction n generalizing m a v with
  | zero =>
    have h : ¬(a ≤ x ∧ x < a + 0) := by omega
    rw [if_neg h, memWrite]
  | succ n ih =>
    simp only [memWrite, ih]
    by_cases h : x = a
    · subst h; simp [memByte]
    · by_cases hx : a < x ∧ x < a + (n + 1)
      · have h1 : a + 1 ≤ x ∧ x < a + 1 + n := by omega
        have h2 : a ≤ x ∧ x < a + (n + 1) := by omega
        have h3 : x - a = (x - (a + 1)) + 1 := by omega
        rw [if_pos h1, if_pos h2, h3, Nat.pow_succ, Nat.div_div_eq_div_mul, Nat.mul_comm]
      · have h1 : ¬(a + 1 ≤ x ∧ x < a + 1 + n) := by omega
        have h2 : ¬(a ≤ x ∧ x < a + (n + 1)) := by omega
        rw [if_neg h1, if_neg h2]
        exact mget_mset_ne _ _ _ h

/-- One byte after a write of a line. -/
theorem memByte_memPutLine (m : List Host.Cell) (l : Nat) (d : Line) (x : Nat) :
    memByte (memPutLine m l d) x = if x / 256 = l then BitVec.ofNat 8 (d.toNat / 256 ^ (x % 256)) else memByte m x := by
  rw [memPutLine, memByte_memWrite]
  by_cases h : x / 256 = l
  · have h1 : 256 * l ≤ x ∧ x < 256 * l + 256 := by omega
    have h2 : x - 256 * l = x % 256 := by omega
    rw [if_pos h1, if_pos h, h2]
  · have h1 : ¬(256 * l ≤ x ∧ x < 256 * l + 256) := by omega
    rw [if_neg h1, if_neg h]

/-- A write keeps the canonical form. -/
theorem wf_memWrite (m : List Host.Cell) (a n v : Nat) (h : Memory.wf m = true) : Memory.wf (memWrite m a n v) = true := by
  induction n generalizing m a v with
  | zero => exact h
  | succ n ih => exact ih _ _ _ (mapWf_mset (fun _ => hbmDefault) m a _ h)

/-- A line write keeps the canonical form. -/
theorem wf_memPutLine (m : List Host.Cell) (l : Nat) (d : Line) (h : Memory.wf m = true) : Memory.wf (memPutLine m l d) = true :=
  wf_memWrite m _ _ _ h

/-- Writing check bits leaves the data bytes alone. -/
theorem hbmEncode_mem (s : State) (sl w : Nat) (p : Bool) : (hbmEncode s sl w p).1.hbm.mem = s.hbm.mem := by
  unfold hbmEncode
  simp only
  split <;> simp only [setF_hbm]

/-- Writing a line's check bits leaves the data bytes alone. -/
theorem hbmEncodeLine_mem (s : State) (l : Nat) (p : BitVec 32) (n : Nat) : (hbmEncodeLine s l p n).1.hbm.mem = s.hbm.mem := by
  induction n with
  | zero => rfl
  | succ n ih => simp only [hbmEncodeLine, hbmEncode_mem, ih]

/-- The data bytes after a write of a line with its code: the line, each word with the flip mask that was armed for it. -/
theorem hbmPutData_mem (s : State) (l : Nat) (d : Line) (p : BitVec 32) :
    (hbmPutData s l d p).hbm.mem = memPutLine s.hbm.mem l (d ^^^ BitVec.ofNat 2048 (hbmEncodeLine s l p 32).2) := by
  simp only [hbmPutData, hbmEncodeLine_mem]

/-- A write of a line with its code keeps the canonical form. -/
theorem wf_hbmPutData (s : State) (l : Nat) (d : Line) (p : BitVec 32) (h : Memory.wf s.hbm.mem = true) :
    Memory.wf (hbmPutData s l d p).hbm.mem = true := by
  rw [hbmPutData_mem]; exact wf_memPutLine _ _ _ h

/-- Writing a check-table entry leaves the data bytes alone. -/
theorem putEntry_mem (s : State) (l : Nat) (e : W32) : (putEntry s l e).hbm.mem = s.hbm.mem := by
  unfold putEntry
  simp only
  split
  · rw [hbmEncode_mem]; rfl
  · simp only [setEntryRaw, hbmEncode_mem]

/-- A line written back with its entry keeps the canonical form. -/
theorem wf_hbmWriteBody (s : State) (l : Nat) (b : Body) (h : Memory.wf s.hbm.mem = true) :
    Memory.wf (hbmWriteBody s l b).hbm.mem = true := by
  unfold hbmWriteBody
  split <;> simp only [putEntry_mem] <;> exact wf_hbmPutData _ _ _ _ h

/-- Marking a line dead keeps the data bytes. -/
theorem hbmMarkDead_mem (s : State) (l : Nat) : (hbmMarkDead s l).hbm.mem = s.hbm.mem := putEntry_mem (unmark s l) l _

/-- The memory at reset is in its canonical form. -/
theorem wf_reset : Memory.wf State.reset.hbm.mem = true := rfl

end Sys2Proof.Laws
end

