-- ==== Sys2Proof/Laws/Thawed.lean ====
section
/-! SUPPORT. What holds while no page is frozen (R495): nothing waits for a unit to thaw, and every field acts as it is programmed. -/
namespace Sys2Proof.Laws

open Sys2Proof.Machine

variable {s : State}

/-- PAGE_STATUS resets to 0 on every page. -/
theorem regReset_pageStatus (p : Part) (k : PageKind) (i : Nat) : regReset p k i o_COMMON_PAGE_STATUS = 0 := by
  cases k <;> rfl

/-- A key's value is the default or stands in the map. -/
theorem mget_mem {α : Type} (d : α) (m : List (Nat × α)) (k : Nat) : mget d m k = d ∨ ∃ x ∈ m, mget d m k = x.2 := by
  induction m with
  | nil => exact .inl rfl
  | cons e t ih =>
    unfold mget
    split
    · exact .inr ⟨e, List.mem_cons_self, rfl⟩
    · rcases ih with h | ⟨x, hx, h⟩
      · exact .inl h
      · exact .inr ⟨x, List.mem_cons_of_mem _ hx, h⟩

/-- No page is frozen. -/
@[simp] theorem frozen_of_thawed (h : thawed s = true) (k : PageKind) (i : Nat) : frozen s k i = false := by
  have hw : reg s k i o_COMMON_PAGE_STATUS = mget 0 (page s k i).act o_COMMON_PAGE_STATUS := by
    unfold reg; rw [regReset_pageStatus]
  have hb : bitN (reg s k i o_COMMON_PAGE_STATUS).toNat 31 = false := by
    rw [hw]
    rcases mget_mem ({} : Page) s.pages (pageNo k i) with e | ⟨x, hx, e⟩
    · have : page s k i = {} := e
      rw [this]; rfl
    · have : page s k i = x.2 := e
      rw [this]
      have := List.all_eq_true.mp h x hx
      simpa using this
  exact hb

@[simp] theorem sliceFrozen_of_thawed (h : thawed s = true) (sl : Nat) : sliceFrozen s sl = false := by
  simp [sliceFrozen, frozen_of_thawed h]

@[simp] theorem portFrozen_of_thawed (h : thawed s = true) (p : Nat) : portFrozen s p = false := by
  simp [portFrozen, frozen_of_thawed h]

@[simp] theorem cellFrozen_of_thawed (h : thawed s = true) (c : Nat) : cellFrozen s c = false := by
  simp [cellFrozen, frozen_of_thawed h]

@[simp] theorem niFrozen_of_thawed (h : thawed s = true) (src : Src) : niFrozen s src = false := by
  cases src <;> simp [niFrozen, frozen_of_thawed h]

@[simp] theorem flagHeld_of_thawed (h : thawed s = true) (r : Nat) (t : Option FlagAt) : flagHeld s r t = false := by
  rcases t with _ | f
  · simp [flagHeld, frozen_of_thawed h]
  · cases f <;> simp [flagHeld, frozen_of_thawed h]

@[simp] theorem reachFrozen_of_thawed (h : thawed s = true) (b : Nat) : reachFrozen s b = false := by
  simp [reachFrozen, frozen_of_thawed h, flagHeld_of_thawed h]

@[simp] theorem hostSet_of_thawed (h : thawed s = true) (k : PageKind) (f : Fld) : hostSet s k f = fld s k 0 f := by
  simp [hostSet, frozen_of_thawed h]

/-- Nothing is frozen at reset. -/
theorem thawed_reset : thawed State.reset = true := by decide

end Sys2Proof.Laws
end

