-- ==== Sys2Proof/Machine/SfuBounds.lean ====
section
/-! DEFINITION. What the spec promises of the results of the built-in special functions: the maximum errors of R183 and of R203's
compatible forms, in ulp of the result format. `Config.sfu` gives the results; a claim that needs their accuracy takes
`SfuConforms` as a premise. -/
namespace Sys2Proof.Machine

/-- The real number that a finite value stands for. -/
def realOf (v : Val) (y : ℝ) : Prop :=
  match v with
  | .fin neg m e => y = (if neg then -1 else 1) * (m : ℝ) * (2 : ℝ) ^ e
  | _ => False

/-- The function of an entry at a real argument, where it is defined (R183). -/
def sfuFunction (e : Nat) (x y : ℝ) : Prop :=
  match e with
  | 0x01 => y = Real.rpow 2 x
  | 0x02 => 0 < x ∧ y = Real.logb 2 x
  | 0x03 => x ≠ 0 ∧ y = x⁻¹
  | 0x04 => 0 < x ∧ y = (Real.sqrt x)⁻¹
  | 0x05 => |x| < 2 ^ 20 ∧ y = Real.sin x
  | 0x06 => |x| < 2 ^ 20 ∧ y = Real.cos x
  | 0x07 => y = Real.tanh x
  | 0x08 => y = (1 + Real.exp (-x))⁻¹
  | 0x11 => y = x * ((Real.sqrt (2 * Real.pi))⁻¹ * ∫ t in Set.Iic x, Real.exp (-(t ^ 2) / 2))
  | 0x12 => y = x * (1 + Real.exp (-x))⁻¹
  | _ => False

/-- The maximum error of an entry in FP32, in tenths of an ulp, in its own form and in the form of SS_COMPAT (R183). -/
def sfuUlps (e : Nat) (compat : Bool) : Nat :=
  match e with
  | 0x01 => if compat then 20 else 10
  | 0x02 => if compat then 25 else 15
  | 0x03 => if compat then 15 else 10
  | 0x04 => if compat then 20 else 15
  | 0x05 | 0x06 => if compat then 40 else 20
  | 0x07 | 0x08 => if compat then 30 else 20
  | 0x11 => if compat then 40 else 30
  | _ => 20

/-- The entries whose FP32 bound is relaxed to 2^-24 absolute where that is larger (R183). -/
def sfuRelaxed (e : Nat) : Prop := e ∈ [0x05, 0x06, 0x07, 0x08, 0x11, 0x12]

/-- `r` lies within `b` ulp of `y` in a format of `p` fraction bits and smallest normal exponent `lo`. -/
def withinUlps (p lo : ℤ) (b y r : ℝ) : Prop :=
  ∃ k : ℤ, lo ≤ k ∧ (k = lo ∨ (2 : ℝ) ^ k ≤ |y|) ∧ |r - y| ≤ b * (2 : ℝ) ^ (k - p)

/-- The FP32 result `w` of an entry at `y`: within its bound. -/
def fp32Within (e : Nat) (compat : Bool) (y : ℝ) (w : W32) : Prop :=
  ∃ r, realOf (f32 w) r ∧
    (withinUlps 23 (-126) ((sfuUlps e compat : ℝ) / 10) y r ∨ (sfuRelaxed e ∧ |r - y| ≤ (2 : ℝ) ^ (-24 : ℤ)))

/-- The result converted under RNE to a 16-bit format: within 0.51 ulp. -/
def fp16Within (f : Fmt) (p lo : ℤ) (y : ℝ) (w : W32) : Prop :=
  ∃ r, realOf (decodeFmt f (encVal f .rne (f32 w)).1) r ∧ withinUlps p lo (51 / 100) y r

/-- The results of the built-in entries keep the maximum errors of R183 at every finite argument of their domain whose result the
format can hold; in the compatibility mode, the bounds of its column in FP32 (R203). -/
def SfuConforms : Prop :=
  ∀ e ∈ [0x01, 0x02, 0x03, 0x04, 0x05, 0x06, 0x07, 0x08, 0x11, 0x12], ∀ (compat : Bool) (x : W32) (a y : ℝ),
    realOf (f32 x) a → sfuFunction e a y →
    (|y| < 2 ^ 127 → fp32Within e (compat && e != 0x12) y (builtinRun e compat x)) ∧
    (¬ (compat && e != 0x12) → |y| < 2 ^ 127 → fp16Within .bf16 7 (-126) y (builtinRun e compat x)) ∧
    (¬ (compat && e != 0x12) → |y| < 2 ^ 15 → fp16Within .fp16 10 (-14) y (builtinRun e compat x))

end Sys2Proof.Machine
end

