-- ==== Sys2Proof/Tests/Slice0.lean ====
section
/-! SUPPORT. Tests: ill-formed commands that the checks refuse, worked examples of the spec, and for each statement with hypotheses a
theorem witness_<its claim> that states and operands meet them. -/
set_option Elab.async false
open Sys2Proof Sys2Proof.Machine
namespace Sys2Proof.Tests

/-- An instruction: its opcode over its other bits. -/
def inst (op rest : Nat) : W64 := BitVec.ofNat 64 (op <<< 56 + rest)

/-- A running group of 32 lanes at address 0 with 16 lane registers. -/
def runner : Group := { st := .run, resident := 0xFFFFFFFF, active := 0xFFFFFFFF, alloc := 16 }

/-! ## Well-formedness: an ill-formed command for each kind of check, which the check refuses -/

/-- Words of another row; operands beyond their widths. -/
theorem test_wf_words :
    [Instr.vectorIntOp 0 0 (inst 0x40 0) .add .reg, .vectorFpOp 0 0 (inst 0x80 0) .add .fp32 false, .vectorFpOp 0 0 (inst 0x40 0) .fma .fp32 true,
      .vectorFpOp 0 0 (inst 0x40 0) .cmpEq .bf16 false, .cvt 0 0 (inst 0x40 0) .fp16 .fp16 4 0, .cvt 0 0 (inst 0x40 0) .fp16 .fp16 0 32,
      .uniformOp 0 0 (inst 0x90 0) .add .reg, .uniformOp 0 0 (inst 0x80 0) (.toLanes 128) .reg, .uniformOp 0 0 (inst 0x80 0) (.fromLane 0 32) .reg,
      .laneExchange 0 0 (inst 0x80 0) .shuffle, .laneExchange 0 0 (inst 0x90 0) (.broadcast 32), .ldl 0 0 (inst 0xA1 0), .ldd 0 0 (inst 0xA2 (1 <<< 27)),
      .ldf 0 0 (inst 0xA2 0), .atdCompareSwap 0 0 (inst 0xA5 0), .redxMin 0 0 (inst 0xA8 0), .fenceD 0 0 (inst 0xD8 0), .fenceF 0 0 (inst 0xD8 0),
      .rowstatFin 0 0 (inst 0xB2 0)].all (fun c => !Instr.wf .ek810 c) = true := by decide +kernel

theorem test_wf_units :
    [Instr.flwTimeout 1440 0, .flagWake 0 16, .cellGate 1440, .mxBeat 0 2, .replay false 1440 0 false, .kill false 0 16, .sfLoadGo false 192 0 0 0,
      .sfLoadLine 192, .reachArm false 192, .flagSet false 32 0, .flagClr false 0 4096, .partReset false 8, .swinSwitchDone true 128,
      .sliceRead 0 (.link 32 1 0), .sliceWrite 0 (.mesh 0 7 0), .sliceFillLanded 128 0, .errLogClr false true 8, .hbmLaneParity 8 0 0, .hbmTrainDone [1],
      .chkGo false 16 0, .qosGrant (.port 24 0), .regionRampStep 32, .droopEvent 0 0 0, .pwrCurrentSample [] 0, .staleLimitExpire 46, .thermMeasureDone 0 32768
      ].all (fun c => !Instr.wf .ek810 c) = true := by decide +kernel

theorem test_wf_host :
    [Instr.bar2Read false 0 4097, .bar2Write false 0 [0] [] false, .regWrite false (2 ^ 24) 4 0, .bar0Read false 0 0, .mbxSelWrite true false .port 1440 0,
      .evtCntWrite false .port 0 4 0, .perstRelease 4 false false, .configSpaceWrite 2 0, .ircRaise true false 128, .srcCntWrite true false 32 0,
      .msgUnknownType false 1, .msgDone true (List.replicate 4096 0) false, .bringupLimitExpire 8, .cellReset false 65536, .chipReset false 256 0,
      .selftestStart 256 0, .ageingCheck 32 0, .backgroundItemRun 4 0, .cntClr false false 8 0, .pcSample 0 1, .gaugeFrame [], .quickSelfTestDone (List.replicate 129 0),
      .portTrainingDone 0 true 0 256, .fabPacketReceived 0 (List.replicate 321 0) 0 0, .hello 0 ⟨1, true, true, true, false, false, 0, 0, 0, []⟩,
      .reachAdd 0 [(2, 1)], .tagReleaseTimeout 32768, .evtPop false 64, .sidebandRead 128 0 1, .sidebandDemand 0 0 256].all (fun c => !Instr.wf .ek810 c) = true := by
  decide +kernel

/-- Regions 30 and 31 are units of the EK810 alone (R3). -/
theorem test_wf_part : Instr.wf .ek810 (.regionRampStep 31) = true ∧ Instr.wf .ek806 (.regionRampStep 30) = false := by decide +kernel

/-- A command for a unit that the device does not have changes nothing. -/
theorem test_no_such_unit : exec (.chkGo false 16 0) State.reset = .next State.reset := by rfl

/-! ## Worked examples of the spec -/

/-- The example after R23: region 13 lies above band 2, and its home slices begin at 44. -/
theorem test_home_of_region_13 : bandOf 13 = 2 ∧ homeBase 13 = 44 := by decide +kernel

/-- The examples after R65: E4M3 460 gives 448 with INX, 470 gives 448 with SAT and INX. -/
theorem test_e4m3_range : encQ .e4m3 .rne false 460 1 = (0x7E, stINX) ∧ encQ .e4m3 .rne false 470 1 = (0x7E, stSAT ||| stINX) := by decide +kernel

/-- The example after R63: a block of SS4 with 5.0, 1.2, 0.3 and −0.2. -/
theorem test_ss4_block :
    (let r := encodeBlock .e2m1 true ([f32 0x40A00000] ++ List.replicate 7 (f32 0) ++ [f32 0x3F99999A] ++ List.replicate 7 (f32 0) ++
        [f32 0x3E99999A, f32 0xBE4CCCCD] ++ List.replicate 14 (f32 0))
     (r.1, r.2.1, r.2.2.1.getD 0 0, r.2.2.1.getD 8 0, r.2.2.1.getD 16 0, r.2.2.1.getD 17 0, r.2.2.1.getD 24 0)) =
    (0x7F, 0x38, 0x6, 0x6, 0x4, 0xB, 0x0) := by decide +kernel

/-- "One anchor, two tilings": seven products at anchor −90, in order. -/
theorem test_one_anchor :
    (let w := [valOfInt (-384) 0, valOfInt 12 0, valOfInt (-12) 0, valOfInt 36 (-92), valOfInt 9 (-93), valOfInt 2 (-92), valOfInt 6 (-92)].foldl
        (fun (x : Wide × Nat) v => let y := wideAccum (-90) x.1 v; (y.1, x.2 ||| y.2)) ({}, 0)
     (wrapN 128 w.1.n, w.2, (encWide .fp32 .rne (-90) w.1).1)) = (0xFFFFFFFA00000000000000000000000C, stINX, 0xC3C00000) := by decide +kernel

/-- "Variance in both modes", identical large values: the record of 1,024 values 57,344. -/
theorem test_variance_identical :
    statFin { n := 1024, e := 15, s1 := 7 * 2 ^ 70, s2 := 49 * 2 ^ 130 } 0x35800000 = (0x47600000, 0, 0x35800000) := by decide +kernel

/-- The same, two close values in native mode. -/
theorem test_variance_close :
    (statFin { n := 2, e := 0, s1 := 2 ^ 63 + 3 * 2 ^ 39, s2 := 2 ^ 125 + 3 * 2 ^ 102 + 5 * 2 ^ 78 } 0x35800000) =
    (0x3F800002, 0x27800000, 0x35800000) := by decide +kernel

/-- R375 gives the CRC-32C of a line; the algorithm's published check value is that of the digits 1 to 9. -/
theorem test_crc32c : crcBytes polyC 0xFFFFFFFF [0x31, 0x32, 0x33, 0x34, 0x35, 0x36, 0x37, 0x38, 0x39] ^^^ 0xFFFFFFFF = 0xE3069283 := by decide +kernel

/-! ## Witnesses: for each statement with hypotheses, states and operands that meet them -/

/-- Region 0 is ON. -/
def onState : State := setF State.reset .pwr 0 (f_PWR_REG_STATUS_STATE 0) 4

/-- Cell 0 holds the word `w` at address 0 in its instruction cache, and its group 0 is `k`. -/
def at0 (w : W64) (k : Group := runner) (x : Cell := {}) (s : State := onState) : State :=
  setCell s 0 { x with groups := [(0, k)], icache := [(0, (w.setWidth 2048, 0))] }

def vecW : W64 := inst 0x01 (1 <<< 45 + 2 <<< 38 + 3 <<< 31)
theorem witness_VectorIntLanes :
    ready (at0 vecW) 0 0 vecW ∧ opc vecW ≤ 0x3F ∧ IntOp.cmpLtU ≠ .unassigned ∧ inAlloc (group (at0 vecW) 0 0) (fVD vecW) 1 = true ∧
    inAlloc (group (at0 vecW) 0 0) (fVA vecW) 1 = true ∧ inAlloc (group (at0 vecW) 0 0) (fVB vecW) 1 = true := by decide +kernel

def fpW : W64 := inst 0x40 (1 <<< 45 + 2 <<< 38 + 3 <<< 31 + 4 <<< 24)
theorem witness_VectorFpLanes :
    ready (at0 fpW) 0 0 fpW ∧ 0x40 ≤ opc fpW ∧ opc fpW ≤ 0x7F ∧ FpOp.fma ≠ .unassigned ∧ fpCompare .fma 0 0 = none ∧
    inAlloc (group (at0 fpW) 0 0) (fVD fpW) 1 = true ∧ inAlloc (group (at0 fpW) 0 0) (fVA fpW) 1 = true ∧
    inAlloc (group (at0 fpW) 0 0) (fVB fpW) 1 = true ∧ inAlloc (group (at0 fpW) 0 0) (fVC fpW) 1 = true := by decide +kernel

theorem witness_CvtScalar :
    ready (at0 fpW) 0 0 fpW ∧ 0x40 ≤ opc fpW ∧ opc fpW ≤ 0x7F ∧ CvtFmt.fp16 ≠ .wide ∧ cvtBlock .fp16 = false ∧
    inAlloc (group (at0 fpW) 0 0) (fVD fpW) 1 = true ∧ inAlloc (group (at0 fpW) 0 0) (fVA fpW) 4 = true ∧
    guardLanes (group (at0 fpW) 0 0) fpW ≠ 0 := by decide +kernel

def uniW : W64 := inst 0x80 (1 <<< 47 + 2 <<< 42)
/-- For a sum, a move to lane register 15 and a move from lane 31 of it. -/
theorem witness_UniformResult :
    ready (at0 uniW) 0 0 uniW ∧ 0x80 ≤ opc uniW ∧ opc uniW ≤ 0x8F ∧ UniOp.add ≠ .unassigned ∧ guardLanes (group (at0 uniW) 0 0) uniW ≠ 0 ∧
    (15 < 128 ∧ inAlloc (group (at0 uniW) 0 0) 15 1 = true) ∧ fUD uniW ≠ 0 := by decide +kernel

def laneW : W64 := inst 0x90 (1 <<< 45 + 2 <<< 38 + 3 <<< 31)
theorem witness_LaneExchangeLanes :
    ready (at0 laneW) 0 0 laneW ∧ 0x90 ≤ opc laneW ∧ opc laneW ≤ 0x9F ∧ LaneOp.shuffle ≠ .unassigned ∧
    inAlloc (group (at0 laneW) 0 0) (fVD laneW) 1 = true ∧ inAlloc (group (at0 laneW) 0 0) (fVA laneW) 1 = true ∧
    inAlloc (group (at0 laneW) 0 0) (fVB laneW) 1 = true ∧ executes (at0 laneW) 0 0 laneW 31 = true ∧
    (getV (group (at0 laneW) 0 0) (fVB laneW) 31).toNat < 32 := by decide +kernel

/-- The guard p1 is 0 in every lane of a new group. -/
def p1 : Nat := 1 <<< 52

theorem witness_GuardFalseSkips :
    ∀ x ∈ [(0xC1, 0), (0xC2, 0), (0xC4, 0), (0xC8, 0), (0xC9, 0), (0xCA, 0), (0xCB, 0), (0xD0, 0), (0xD1, 0), (0xD2, 0), (0xD8, 0),
        (0xD8, 1 <<< 50), (0xD8, 2 <<< 50), (0xD9, 7 <<< 49), (0xDC, 0), (0xDD, 0)],
      let w := inst x.1 (x.2 + p1)
      ready (at0 w) 0 0 w ∧ guardLanes (group (at0 w) 0 0) w = 0 ∧ opc w = x.1 ∧ ibits w 48 0 = 0 ∧ ibits w 51 49 = x.2 / 2 ^ 49 := by
  decide +kernel

theorem witness_ReservedFieldParks :
    ∀ o ∈ [0xC0, 0xC1, 0xC2, 0xC3, 0xC4, 0xC8, 0xC9, 0xCA, 0xCB, 0xD0, 0xD1, 0xD2, 0xD4, 0xD5, 0xDA, 0xDC, 0xDD],
      let w := inst o 1
      ready (at0 w) 0 0 w ∧ opc w = o ∧ ibits w 3 0 ≠ 0 ∧ ibits w 20 0 ≠ 0 ∧ ibits w 51 0 ≠ 0 := by decide +kernel

theorem witness_UnassignedOpcodeParks :
    (∀ o ∈ [0x3F, 0xAA, 0xAF, 0xB3, 0xBF, 0xC5, 0xCC, 0xD3, 0xDF, 0xE0, 0xFF], let w := inst o 0
      ready (at0 w) 0 0 w ∧ opc w = o ∧ Instr.wf .ek810 (.vectorIntOp 0 0 w .unassigned .reg) = true ∧
      Instr.wf .ek810 (.vectorIntOp 0 0 w .add .reg) = decide (o ≤ 0x3F)) ∧
    (∀ o ∈ [0x40, 0x7F, 0x80, 0x8F, 0x90, 0x9F], let w := inst o 0
      ready (at0 w) 0 0 w ∧ opc w = o ∧ Instr.wf .ek810 (.vectorIntOp 0 0 w .unassigned .reg) = false) := by decide +kernel

/-- A BR with every guard true, with none, and split: with an entry of its JOIN and PEND_PC, and with none; CALL and RET. -/
def halfP1 : Group := { runner with p := [(1, 0xFFFF)] }
def brW : W64 := inst 0xC0 (p1 + 4 <<< 28 + 2 <<< 4)
theorem witness_BranchCallReturn :
    (ready (at0 (inst 0xC0 0)) 0 0 (inst 0xC0 0) ∧ runner.active &&& ~~~ guardLanes runner (inst 0xC0 0) = 0) ∧
    (ready (at0 (inst 0xC0 p1)) 0 0 (inst 0xC0 p1) ∧ guardLanes runner (inst 0xC0 p1) = 0) ∧
    (let k := { halfP1 with stack := [⟨24, 0xFFFFFFFF, 8, 0⟩] }
     ready (at0 brW k) 0 0 brW ∧ opc brW = 0xC0 ∧ ibits brW 3 0 = 0 ∧ ibits brW 27 4 ≠ 0 ∧ guardLanes k brW ≠ 0 ∧ k.active &&& ~~~ guardLanes k brW ≠ 0
      ∧ wrapN 48 ((k.pc : Int) + 8 + 8 * signed 24 (ibits brW 27 4)) = 24 ∧ (k.pc + 8) % 2 ^ 48 = 8) ∧
    (ready (at0 brW halfP1) 0 0 brW ∧ guardLanes halfP1 brW ≠ 0 ∧ halfP1.active &&& ~~~ guardLanes halfP1 brW ≠ 0 ∧ halfP1.stack.length < 32) ∧
    (ready (at0 (inst 0xC1 0)) 0 0 (inst 0xC1 0) ∧ ibits (inst 0xC1 0) 22 0 = 0 ∧ guardLanes runner (inst 0xC1 0) ≠ 0) ∧
    (ready (at0 (inst 0xC2 0)) 0 0 (inst 0xC2 0) ∧ ibits (inst 0xC2 0) 46 0 = 0 ∧ guardLanes runner (inst 0xC2 0) ≠ 0) := by decide +kernel

/-- CONV with no entry, away from its JOIN, with a pending side, and with none. -/
def convW : W64 := inst 0xC4 0
theorem witness_ConvRejoins :
    opc convW = 0xC4 ∧ ibits convW 51 0 = 0 ∧ guardLanes runner convW ≠ 0 ∧ ready (at0 convW) 0 0 convW ∧
    ready (at0 convW { runner with stack := [⟨8, 1, 8, 1⟩] }) 0 0 convW ∧ ready (at0 convW { runner with stack := [⟨0, 1, 8, 1⟩] }) 0 0 convW ∧
    ready (at0 convW { runner with stack := [⟨0, 1, 8, 0⟩] }) 0 0 convW ∧ ready (at0 convW { runner with stack := [⟨0, 1, 0, 1⟩] }) 0 0 convW := by
  decide +kernel

theorem witness_ExitLeaves :
    (let w := inst 0xC3 p1
     ready (at0 w halfP1) 0 0 w ∧ opc w = 0xC3 ∧ ibits w 51 0 = 0 ∧ guardLanes halfP1 w ≠ 0 ∧ halfP1.active &&& ~~~ guardLanes halfP1 w ≠ 0
      ∧ halfP1.resident &&& ~~~ guardLanes halfP1 w ≠ 0) ∧
    (let w := inst 0xC3 0
     ready (at0 w) 0 0 w ∧ opc w = 0xC3 ∧ guardLanes runner w ≠ 0 ∧ runner.resident &&& ~~~ guardLanes runner w = 0 ∧ runner.outD = [] ∧ runner.outF = []) := by
  decide +kernel

theorem witness_FencesAndInvRo :
    (∀ x ∈ [(0xD8, 0), (0xD8, 1 <<< 50), (0xD8, 2 <<< 50), (0xD9, 7 <<< 49)],
      let w := inst x.1 x.2
      ready (at0 w) 0 0 w ∧ guardLanes runner w ≠ 0 ∧ opc w = x.1 ∧ ibits w 48 0 = 0 ∧ runner.outD = [] ∧ runner.outF = []) ∧
    (let w := inst 0xD8 (1 <<< 50)
     ready (at0 w { runner with outD := [1] }) 0 0 w) := by decide +kernel

theorem witness_StatusWord :
    ∀ o ∈ [0xDC, 0xDD], let w := inst o (1 <<< 47)
      ready (at0 w) 0 0 w ∧ guardLanes runner w ≠ 0 ∧ opc w = o ∧ ibits w 46 0 = 0 := by decide +kernel

/-- Accesses of 8 B of lane register 2 at u1 + v4: lane l at 8 × l, in local memory or in HBM. -/
def mem (op : Nat) (size md : Nat) (off : Nat := 0) : W64 := inst op (2 <<< 45 + 4 <<< 38 + 1 <<< 33 + size <<< 30 + md <<< 24 + off)
def lanes8 : Group := { runner with v := (List.range 31).map (fun l => (129 + l, BitVec.ofNat 32 (8 * (l + 1)))) }

theorem witness_LocalLoadStore :
    ∀ o ∈ [0xA0, 0xA1], let w := mem o 3 0
      ready (at0 w lanes8) 0 0 w ∧ opc w = o ∧ sizeBytes (mSIZE w) = some 8 ∧ modOnly w 1 = true ∧ inAlloc lanes8 (mVDS w) (regsOf 8) = true ∧
      inAlloc lanes8 (mVA w) 1 = true ∧ guardLanes lanes8 w ≠ 0 ∧
      (∀ l, l < 32 → executes (at0 w lanes8) 0 0 w l = true → laneAddr lanes8 w true l % 8 = 0 ∧ laneAddr lanes8 w true l + 8 ≤ 0x80000) ∧
      (cell (at0 w lanes8) 0).lmPois = [] ∧ (cell (at0 w lanes8) 0).lmSyn = [] ∧ flag (at0 w lanes8) .cell 0 f_CELL_FLIP_CTRL_ARM = false := by
  decide +kernel

/-- Lane 0 misaligned; lane 31 beyond the end, the others within. -/
theorem witness_LocalFaults :
    (let w := mem 0xA0 3 0 1
     ready (at0 w lanes8) 0 0 w ∧ sizeBytes (mSIZE w) = some 8 ∧ executes (at0 w lanes8) 0 0 w 0 = true ∧ laneAddr lanes8 w true 0 % 8 ≠ 0) ∧
    (let w := mem 0xA1 3 0 0x7FF08
     ready (at0 w lanes8) 0 0 w ∧ modOnly w 1 = true ∧ executes (at0 w lanes8) 0 0 w 31 = true ∧
      (∀ l, l < 32 → executes (at0 w lanes8) 0 0 w l = true → laneAddr lanes8 w true l % 8 = 0) ∧ laneAddr lanes8 w true 31 + 8 > 0x80000 ∧
      (∀ l, l < 31 → executes (at0 w lanes8) 0 0 w l = true → laneAddr lanes8 w true l + 8 ≤ 0x80000)) := by decide +kernel


/-! ### Device memory, units and records -/

/-- The full/empty window is enabled. -/
def feState : State := setF onState .chip 0 f_CHIP_FE_CTRL_EN 1

theorem witness_DeviceLoadsRequest :
    (let w := mem 0xA2 3 0
     ready (at0 w lanes8) 0 0 w ∧ opc w = 0xA2 ∧ modOnly w 0x19 = true ∧ sizeBytes (mSIZE w) = some 8 ∧ inAlloc lanes8 (mVDS w) (regsOf 8) = true ∧
      inAlloc lanes8 (mVA w) 1 = true ∧ guardLanes lanes8 w ≠ 0 ∧ deviceOk (at0 w lanes8) 0 0 w 8 4 true false ∧ ibits w 28 27 = 0) ∧
    (∀ mode ∈ [1, 2], let w := mem 0xA2 3 (8 * mode); let s := at0 w lanes8 {} feState
      ready s 0 0 w ∧ modOnly w 0x19 = true ∧ deviceOk s 0 0 w 8 4 true false ∧ ibits w 28 27 = mode ∧
      ∀ x ∈ laneAddrs (group s 0 0) w false, feLine s (lineOf x.2) ≠ none) := by decide +kernel

theorem witness_DeviceStoresPost :
    (let w := mem 0xA3 3 0
     ready (at0 w lanes8) 0 0 w ∧ opc w = 0xA3 ∧ modOnly w 0x19 = true ∧ sizeBytes (mSIZE w) = some 8 ∧ inAlloc lanes8 (mVDS w) (regsOf 8) = true ∧
      inAlloc lanes8 (mVA w) 1 = true ∧ guardLanes lanes8 w ≠ 0 ∧ deviceOk (at0 w lanes8) 0 0 w 8 2 false true ∧ ibits w 28 27 = 0) ∧
    (∀ mode ∈ [1, 2], let w := mem 0xA3 3 (8 * mode); let s := at0 w lanes8 {} feState
      ready s 0 0 w ∧ modOnly w 0x19 = true ∧ deviceOk s 0 0 w 8 2 false true ∧ ibits w 28 27 = mode ∧
      ∀ x ∈ laneAddrs (group s 0 0) w false, feLine s (lineOf x.2) ≠ none) := by decide +kernel

theorem witness_AtomicsRequest :
    ∀ cas ∈ [false, true], let w := mem 0xA5 3 (if cas then 4 else 0)
      ready (at0 w lanes8) 0 0 w ∧ opc w = 0xA5 ∧ mSIZE w = 3 ∧ modOnly w 5 = true ∧ bitN (mMOD w) 2 = cas ∧
      inAlloc lanes8 (mVDS w) (if cas then 4 else 2) = true ∧ inAlloc lanes8 (mVA w) 1 = true ∧ guardLanes lanes8 w ≠ 0 ∧
      deviceOk (at0 w lanes8) 0 0 w 8 6 true true := by decide +kernel

/-- One address for every lane: MOD bit 0. -/
theorem witness_ReductionsPost :
    (let w := mem 0xA6 4 1
     ready (at0 w) 0 0 w ∧ inAlloc runner (mVDS w) 1 = true ∧ bitN (mMOD w) 0 = true ∧ guardLanes runner w ≠ 0 ∧ opc w = 0xA6 ∧ mSIZE w = 4 ∧
      modOnly w 1 = true ∧ deviceOk (at0 w) 0 0 w 16 1 false true) ∧
    (∀ x ∈ [(0xA7, 1), (0xA8, 1), (0xA8, 5)], let w := mem x.1 2 x.2
      ready (at0 w) 0 0 w ∧ inAlloc runner (mVDS w) 1 = true ∧ guardLanes runner w ≠ 0 ∧ opc w = x.1 ∧ mSIZE w = 2 ∧ modOnly w (x.2 ||| 1) = true ∧
      bitN (mMOD w) 2 = (x.2 == 5) ∧ deviceOk (at0 w) 0 0 w 4 1 false true) := by decide +kernel

/-- To lane registers with 4 B, and to a uniform register with 8 B at the end of the line. -/
theorem witness_ConstantLoad :
    ∀ x ∈ [(2, 1, 4, 252), (3, 3, 8, 248)], let w := mem 0xA4 x.1 x.2.1 x.2.2.2; let s := at0 w runner { ccache := [(0, (7, 0))] }
      ready s 0 0 w ∧ opc w = 0xA4 ∧ modOnly w 3 = true ∧ mSIZE w = x.1 ∧ inAlloc (group s 0 0) (mVDS w) (x.2.2.1 / 4) = true ∧ bitN (mMOD w) 0 = true ∧
      executes s 0 0 w 0 = true ∧ laneAddr (group s 0 0) w false 0 = x.2.2.2 ∧ x.2.2.2 % x.2.2.1 = 0 ∧
      (cell s 0).ccache.find? (fun e => e.1 == x.2.2.2 / 256) = some (x.2.2.2 / 256, 7, 0) := by decide +kernel

theorem witness_WideStoreAndDead :
    (let w := mem 0xA9 0 0; let s := at0 w
     ready s 0 0 w ∧ guardLanes runner w ≠ 0 ∧ opc w = 0xA9 ∧ mSIZE w = 0 ∧ mMOD w = 0 ∧ (getU runner (mVA w % 32)).toNat = 0 ∧
      wrapN 48 (((getU runner (mUB w)).toNat : Int) + mOFFS w) = 0 ∧ cellEntry s 0 (cellLabel s 0) 0 false true = (s, .hbm) ∧
      watchLanes s 0 0 2 256 ((lanesOf (guardLanes runner w)).map (fun l => (l, 0))) = (s, []) ∧ (cell s 0).lmPois = [] ∧ (cell s 0).lmSyn = []) ∧
    (let w := inst 0xDA (1 <<< 36); let s := at0 w
     ready s 0 0 w ∧ guardLanes runner w ≠ 0 ∧ opc w = 0xDA ∧ ibits w 35 0 = 0 ∧ ibits w 46 36 = 1 ∧ (getU runner (fUD w)).toNat = 0 ∧
      watchOf s 0 1 (cellLabel s 0) [(0, 512)] [] = none ∧
      ∀ j, j ≤ 1 → mrdCheck s (256 * j) (secureCell s 0) false true (some (labelPart (cellLabel s 0))) = none ∧ backed j = true ∧ feLine s j = none) := by
  decide +kernel

/-- A descriptor of one FP32 tile. -/
def desc0 : BitVec 512 := BitVec.ofNat 512 (1 <<< 116 + 1 <<< 104 + 1 <<< 92)

theorem witness_MatrixAndCopyIssue :
    (let w := inst 0xC8 0; let s := at0 w runner { dcache := [(0, desc0)] }
     ready s 0 0 w ∧ guardLanes runner w ≠ 0 ∧ opc w = 0xC8 ∧ ibits w 46 44 = 0 ∧ ibits w 23 0 = 0 ∧ runner.active = runner.resident ∧
      ((getU runner (ibits w 51 47)).toNat + ibits w 43 24) % 2 ^ 20 = 0 ∧ (cell s 0).ops.length < 4 ∧
      (cell s 0).dcache.find? (fun e => e.1 == 0 / 64) = some (0 / 64, desc0) ∧
      descFault desc0 ((token runner (dToken desc0)).st != 0) (entryEmpty s (blockOfCell s 0) (activeBank s (blockOfCell s 0))) = none) ∧
    (∀ st ∈ [1, 2], let w := inst 0xC9 (15 <<< 48); let k := { runner with tokens := [(15, { st := st, status := 0x100 })] }
      ready (at0 w k) 0 0 w ∧ guardLanes k w ≠ 0 ∧ opc w = 0xC9 ∧ ibits w 42 0 = 0 ∧ k.active = k.resident ∧ (token k (ibits w 51 48)).st = st ∧
      fldW (token k (ibits w 51 48)).status 23 16 = 0) ∧
    (∀ cpd ∈ [false, true], let w := inst (if cpd then 0xCA else 0xCB) (2047 <<< 27)
      ready (at0 w) 0 0 w ∧ guardLanes runner w ≠ 0 ∧ opc w = (if cpd then 0xCA else 0xCB) ∧ ibits w 26 0 = 0 ∧
      (token runner (ibits w 51 48)).st = 0 ∧ (getU runner (ibits w 47 43)).toNat % 2 ^ 48 % 256 = 0 ∧ (getU runner (ibits w 42 38)).toNat % 256 = 0 ∧
      (getU runner (ibits w 42 38)).toNat + 256 * (ibits w 37 27 + 1) ≤ 0x80000 ∧ (cell (at0 w) 0).copies.length < 16) := by decide +kernel

theorem witness_DivergentMatrixParks :
    ∀ o ∈ [0xC8, 0xC9], let w := inst o 0; let k := { runner with active := 1 }
      ready (at0 w k) 0 0 w ∧ guardLanes k w ≠ 0 ∧ k.active ≠ k.resident ∧ opc w = o ∧ ibits w 46 44 = 0 ∧ ibits w 23 0 = 0 ∧ ibits w 42 0 = 0 ∧
      ((getU k (ibits w 51 47)).toNat + ibits w 43 24) % 64 = 0 := by decide +kernel

/-- Segment 0 of region 0 translates to its own segment 0; flag 5 is set and held by group 3 of cell 0; flag 9 is the take flag of block 1. -/
def flagState : State :=
  let s := setReg onState .region 0 (o_REGION_FLAG_XLAT 0) 0x40000000
  setBlock (putFlag s 0 5 { set := true, holder := some (0, 3) }) 1 { run := { take := some (0, 9) } }

theorem witness_FlagInstructions :
    (∀ x ∈ [(0xD1, 0), (0xD1, 5), (0xD1, 9), (0xD2, 5), (0xD0, 5), (0xD0, 0)], let w := inst x.1 (x.2 <<< 31 + (if x.1 = 0xD0 then 1 <<< 30 else 0))
      let s := at0 w runner {} flagState
      ready s 0 0 w ∧ thawed s = true ∧ guardLanes runner w ≠ 0 ∧ xlat s (regionOfCell 0) (((getU runner (ibits w 51 47)).toNat + ibits w 46 31) % 65536) = some (.loc 0 x.2)
        ∧ flagSecure s 0 x.2 = false ∧ opc w = x.1 ∧ ibits w 20 0 = 0 ∧ (flagAt s 0 x.2).set = (x.2 == 5)) ∧
    takerOf flagState 0 0 = none ∧ takerOf flagState 0 9 = some 1 := by decide +kernel

/-- FLS and FLC on a flag behind window 3, and on one of a secure segment. -/
theorem witness_FlagInstructions_away :
    ∀ o ∈ [0xD1, 0xD2], let w := inst o 0
      let far := setReg { onState with fab := { wAct := [(3, { cfg := 0x80000000 })] } } .region 0 (o_REGION_FLAG_XLAT 0) 0x80C00000
      let shut := setF flagState .region 0 f_REGION_FLAG_WORLD_SEG 1
      (let s := at0 w runner {} far
       ready s 0 0 w ∧ thawed s = true ∧ guardLanes runner w ≠ 0 ∧ opc w = o ∧ ibits w 30 0 = 0 ∧ xlat s (regionOfCell 0) 0 = some (.remote 3 0 0) ∧ fwEn (fwin s 3) = true ∧
        flagWinOk s 3 (secureCell s 0) (labelPart (cellLabel s runner.label)) = true) ∧
      (let s := at0 w runner {} shut
       ready s 0 0 w ∧ thawed s = true ∧ xlat s (regionOfCell 0) 0 = some (.loc 0 0) ∧ flagSecure s 0 0 = true ∧ secureCell s 0 = false) := by decide +kernel

/-- TAKE and GIVE of lane 31 alone, on a free lock, on one of another group and on its own. -/
theorem witness_LockCodes :
    ∀ o ∈ [0xD4, 0xD5], ∀ f ∈ [0, 5], ∀ g ∈ [0, 3], let w := inst o (p1 + 1 <<< 45 + 2 <<< 38 + 2 <<< 35)
      let k := { runner with p := [(1, 0x80000000)], v := [(95, BitVec.ofNat 32 f)] }
      let s := setCell flagState 0 { groups := [(g, k)], icache := [(0, (w.setWidth 2048, 0))] }
      ready s 0 g w ∧ thawed s = true ∧ ibits w 34 0 = 0 ∧ (∀ x, x < 32 → (executes s 0 g w x = true ↔ x = 31)) ∧ inAlloc k (ibits w 51 45) 1 = true ∧
      inAlloc k (ibits w 44 38) 1 = true ∧ (getV k (ibits w 44 38) 31).toNat % 65536 = f ∧ xlat s (regionOfCell 0) f = some (.loc 0 f) ∧
      flagSecure s 0 f = false ∧ opc w = o ∧ k.spin < 65535 ∧
      (lockLanes s 0 ((lanesOf (guardLanes k w)).map (fun l => (l, (getV k (ibits w 44 38) l).toNat % 65536)))).1 = [] := by decide +kernel

/-- Entry 1 is built in, and table 15 of bank 0 has two words and order 1. -/
def sfState : State := setBlock onState 0 { banks := [(271, 0xA000)] }
theorem witness_SpecialFunctionLanes :
    (∀ x ∈ [(0xB0, 1 <<< 30), (0xB1, 15 <<< 34)], let w := inst x.1 (1 <<< 45 + 2 <<< 38 + x.2); let s := at0 w runner {} sfState
      ready s 0 0 w ∧ ibits w 29 0 = 0 ∧ guardLanes runner w ≠ 0 ∧ inAlloc runner (fVD w) 1 = true ∧ inAlloc runner (fVA w) 1 = true ∧
      blockOfCell s 0 = 0 ∧ activeBank s 0 = 0 ∧ sfuBusy s 0 = false ∧ opc w = x.1) ∧
    entryEmpty sfState 0 0 1 = false ∧ (tableOf sfState 0 0 15).isSome = true := by decide +kernel

/-- Records at 64, the value of u1, and at the last aligned address of local memory, the value of u2. -/
theorem witness_RowstatRecords :
    ∀ sub ∈ [0, 1, 2, 3, 4], let w := inst 0xB2 (sub <<< 49 + 3 <<< 42 + 1 <<< 37 + 2 <<< 32); let k := { runner with u := [(1, 64), (2, 0x7FFC0)] }
      let s := at0 w k
      ready s 0 0 w ∧ opc w = 0xB2 ∧ ibits w 28 0 = 0 ∧ guardLanes k w ≠ 0 ∧ sfuBusy s 0 = false ∧ (cell s 0).lmPois = [] ∧ (cell s 0).lmSyn = [] ∧
      flag s .cell 0 f_CELL_FLIP_CTRL_ARM = false ∧ ibits w 51 49 = sub ∧ (getU k (rsUR w)).toNat = 64 ∧ (getU k (rsUS w)).toNat = 0x7FFC0 ∧
      inAlloc k (ibits w 48 42) 3 = true ∧ ssCompat s (blockOfCell s 0) = false ∧
      stCompat (statOf (ofBytes ((List.range 64).map (fun i => mget 0 (cell s 0).lm (64 + i))))) = false := by decide +kernel

/-! ### Events of a cell -/

/-- A sound line 2 in the slice that serves it. -/
def body0 : Body := { chk := checkValue .plain 2 0 }
def spot : Spot := placeOf onState 2
def lineState (b : Body := body0) : State :=
  setSlice onState spot.slice { ways := [(wayKey spot.set 0, { valid := true, tag := 2, body := b })] }

/-- Group 0 of cell 0 is `k`. -/
def grp0 (k : Group) (x : Cell := {}) (s : State := onState) : State := setCell s 0 { x with groups := [(0, k)] }

/-- A group that waits for flag 5 of region 0 to read `st`, with limit 3. -/
def waiter (st : Bool) : Group := { runner with st := .wait, await := .flw 0 5 st true 3 true 1 5 0 }

theorem witness_FlagWaitEnds :
    let s := grp0 (waiter true) {} { flagState with time := 64000 }
    inReset s = false ∧ thawed s = true ∧ present s .cell 0 = true ∧ (group s 0 0).await = .flw 0 5 true true 3 true 1 5 0 ∧ (flagAt s 0 5).set = true ∧ 3 ≠ 0 ∧
    timedOut s 0 3 = true ∧ timedOut { s with time := 63999 } 0 3 = false ∧
    (∀ x ∈ (cell s 0).groups, x.2.st = .wait ∧ x.2.await = .flw 0 5 true true 3 true 1 5 0) ∧ (cell s 0).ops = [] ∧ (cell s 0).copies = [] ∧ niIdle s 0 = true := by
  decide +kernel

theorem witness_FullEmptyTimeout :
    let a : AwaitMem := ⟨4, 2, 8, [(31, 248)], [(7, 31)], [], 0⟩
    let s := grp0 { runner with st := .wait, await := .mem a } {} { setF onState .region 0 f_REGION_FE_CTRL_TO 1 with time := 16000 }
    inReset s = false ∧ present s .cell 0 = true ∧ (group s 0 0).st = .wait ∧ (group s 0 0).await = .mem a ∧ a.kind = 4 ∧
    fld s .region (regionOfCell 0) f_REGION_FE_CTRL_TO ≠ 0 ∧ a.lanes = (31, 248) :: [] ∧
    (∀ x ∈ a.lanes, a.ids.any (fun y => y.2 == x.1) = true) ∧ timedOut s a.born (fld s .region (regionOfCell 0) f_REGION_FE_CTRL_TO) = true ∧
    timedOut { s with time := 15999 } a.born (fld s .region (regionOfCell 0) f_REGION_FE_CTRL_TO) = false := by decide +kernel

/-- The answer `r` to request 7 of group 0 comes back. -/
def answer (k : Group) (r : Reply) : State := { grp0 k with resps := [⟨7, .group 0 0, 0, r⟩] }

theorem witness_RepliesReturn :
    (let a : AwaitMem := ⟨0, 2, 4, [(0, 0), (31, 252)], [(7, 0)], [], 0⟩; let s := answer { runner with await := .mem a } (.data 0 0 false true)
     inReset s = false ∧ thawed s = true ∧ s.resps.find? (fun x => x.id == 7) = some ⟨7, .group 0 0, 0, .data 0 0 false true⟩ ∧ (group s 0 0).await = .mem a ∧
      a.lanes.Pairwise (fun x y => x.1 < y.1) ∧ (∀ x ∈ a.lanes, x.1 < 32 ∧ x.2 / 256 = 0 ∧ x.2 % 256 + a.size ≤ 256) ∧ a.size ∈ [1, 2, 4, 8, 16]) ∧
    (let a : AwaitMem := ⟨0, 2, 4, [(0, 0), (31, 256)], [(7, 0), (8, 1)], [], 0⟩; let s := answer { runner with await := .mem a } (.data 0 0 false false)
     (group s 0 0).await = .mem a ∧ (7, 0) ∈ a.ids ∧ a.ids.Pairwise (fun x y => x.1 ≠ y.1) ∧ (8, 1) ∈ a.ids ∧ 8 ≠ 7) ∧
    (let s := answer { runner with outD := [7, 8] } .accepted; (group s 0 0).await = .none ∧ 7 ∈ (group s 0 0).outD) ∧
    (let s := answer { runner with st := .wait, await := .fence 1, outD := [7] } .accepted; (group s 0 0).await = .fence 1 ∧ (group s 0 0).outD = [7]) ∧
    (let s := answer { runner with outF := [7] } .timeout; (group s 0 0).await = .none ∧ 7 ∈ (group s 0 0).outF) := by decide +kernel

/-- An operation of a descriptor: tiles of FP32, and an element-wise one that accumulates. -/
def opOf (d : BitVec 512) : MxOp := { grp := 0, token := 0, desc := d }
def elemD : BitVec 512 := desc0 ||| BitVec.ofNat 512 (2 <<< 62 + 1 <<< 61)
def elemPlain : BitVec 512 := desc0 ||| BitVec.ofNat 512 (2 <<< 62)
def opCell (o : MxOp) (s : State := onState) : State := setCell s 0 { ops := [o] }
def started (d : BitVec 512) : MxOp := { opOf d with started := true }

theorem witness_MatrixBeats :
    (let s := opCell (opOf desc0); inReset s = false ∧ thawed s = true ∧ present s .cell 0 = true ∧ (cell s 0).ops = [] ++ opOf desc0 :: [] ∧ (opOf desc0).started = false ∧
      allHeld s (regionOfCell 0) = false) ∧
    (let o := { started desc0 with held := true }; let s := opCell o
     (cell s 0).ops.find? (fun x => x.held && !x.beatsDone) = some o ∧ hazard s 0 o = false) ∧
    (let s := opCell (started desc0); let k := swapTiles (cell s 0)
     preloadTarget k k.ops = none ∧ fillTarget k k.ops = some (started desc0, (0, 0, false)) ∧ allHeld s (regionOfCell 0) = false ∧
      beatOp (cell s 0) = some (started desc0) ∧ (started desc0).held = false ∧ begun (cell s 0) (started desc0) = false ∧ (cell s 0).resetting = false) ∧
    (let s := opCell (started elemD); let k := swapTiles (cell s 0)
     preloadTarget k k.ops = some (started elemD, 0, 0) ∧ (cell s 0).banks.length < 2 ∧ allHeld s (regionOfCell 0) = false) ∧
    (let o := started elemPlain; let s := opCell o
     beatOp (cell s 0) = some o ∧ allHeld s (regionOfCell 0) = false ∧ o.held = false ∧ begun (cell s 0) o = true ∧ (cell s 0).resetting = false ∧
      freezeOf (cell s 0) o 4 = some 4 ∧ freezeOf (cell s 0) o 1 = some 1 ∧ freezeOf (cell s 0) o 0 = none) ∧
    (let o := { started elemPlain with held := true }; beatOp (cell (opCell o) 0) = some o ∧ allHeld (opCell o) (regionOfCell 0) = false) ∧
    (let o := started elemPlain; let s := opCell o (setF onState .pwr 0 (f_PWR_REG_STATUS_PAUSE 0) 16)
     beatOp (cell s 0) = some o ∧ allHeld s (regionOfCell 0) = true ∧ begun (cell s 0) o = true ∧ (cell s 0).resetting = false) := by decide +kernel

theorem witness_MatrixDrainAndDone :
    (∀ dr ∈ [0, 63], let o := started elemPlain; let b : MxBank := { serial := 0, ot := 0, rt := 0, full := true, drained := dr }
     let s := setCell onState 0 { ops := [o], banks := [b] }
     inReset s = false ∧ thawed s = true ∧ present s .cell 0 = true ∧ (cell s 0).banks = b :: [] ∧ b.full = true ∧ (cell s 0).ops.find? (fun x => x.serial == b.serial) = some o ∧
      (b.drained + 1 < rowsOfTile o.desc b.rt ↔ dr = 0) ∧ dDst o.desc = 0 ∧ allHeld s (regionOfCell 0) = false) ∧
    (let o := { started elemPlain with beatsDone := true }
     let s := setCell onState 0 { ops := [o], groups := [(0, { runner with tokens := [(0, { st := 1 })] })] }
     let s' := setCell onState 0 { ops := [o], groups := [(0, { runner with st := GSt.wait, await := Await.mxw 0 3, tokens := [(0, { st := 1 })] })] }
     (cell s 0).ops.find? (opFinished (cell s 0)) = some o ∧ o.stop = false ∧ o.fault = 0 ∧ (group s 0 o.grp).await = .none ∧
      (cell s' 0).ops.find? (opFinished (cell s' 0)) = some o ∧ (group s' 0 o.grp).await = .mxw o.token 3) := by decide +kernel

set_option maxRecDepth 20000 in
theorem witness_CopyLines :
    (∀ cpd ∈ [true, false], let q : Copy := { grp := 0, token := 0, cpd := cpd, dev := 512, loc := 0x7FF00, lines := 1 }
     let s := setCell lineState 0 { copies := [q], groups := [(0, runner)] }; let lbl := cellLabel s q.label
     inReset s = false ∧ thawed s = true ∧ present s .cell 0 = true ∧ (cell s 0).copies = q :: [] ∧ q.killed = false ∧ q.next < q.lines ∧ (cell s 0).resetting = false ∧
      allHeld s (regionOfCell 0) = false ∧ watchOf s 0 (if q.cpd then 4 else 2) lbl [(512, 256)] [] = none ∧ cellEntry s 0 lbl 512 q.cpd (!q.cpd) = (s, .hbm) ∧
      q.loc % 256 = 0 ∧ (cell s 0).lmPois = [] ∧ (cell s 0).lmSyn = [] ∧
      (cellLine s 0 (.copy 0) lbl (winsOf s q.lead) 2).any (fun x => x.2.ok && !x.2.dead && x.2.pois == 0 && !flag x.1 .cell 0 f_CELL_FLIP_CTRL_ARM
        && (cell x.1 0).copies == (cell s 0).copies)) ∧
    (let q : Copy := { grp := 0, token := 0, cpd := true, dev := 512, loc := 0, lines := 1, next := 1 }
     let s := setCell onState 0 { copies := [q], groups := [(0, runner)] }
     (cell s 0).copies = q :: [] ∧ q.lines ≤ q.next ∧ q.outs = [] ∧ (group s 0 q.grp).await = .none) := by decide +kernel

theorem witness_CellCommands :
    ∀ x ∈ [(9, false), (9, true), (6, false)], let s := grp0 { runner with st := .parked, park := { cause := x.1, done := x.2 } }
      reaches s false .cell 0 ∧ (group s 0 0).st = .parked ∧ (group s 0 0).park.cause = x.1 ∧ (group s 0 0).park.done = x.2 := by decide +kernel

/-! ### Blocks, reaches, flags, partitions and RUN -/


/-- The read of line 2 for the loader of block 0. -/
def loaderReq (s : State) : Req :=
  { id := s.nextId, src := .block 0, line := 2, op := .read allWords, label := 0x70, part := 0, ingress := false, wins := 0 }

set_option maxRecDepth 20000 in
theorem witness_BankLoads :
    (reaches onState false .block 0 ∧ thawed onState = true ∧ loadRefused onState 0 3 0 0 = true ∧ loadRefused onState 0 0 0 0 = true ∧ loadRefused onState 0 1 127 1 = true ∧
      loadRefused onState 0 1 127 0 = false ∧ loadRefused onState 0 2 31 0 = false) ∧
    (let l : SfLoad := { target := 1, src := 512, offset := 0, lines := 1, hold := true }; let s := setBlock onState 0 { load := some l }
     inReset s = false ∧ thawed s = true ∧ present s .block 0 = true ∧ (block s 0).load = some l ∧ l.hold = true ∧ usersOf s 0 l.target = 0) ∧
    (∀ t ∈ [1, 2], ∀ n ∈ [1, 2], let l : SfLoad := { target := t, src := 512, offset := 31, lines := n }; let s := setBlock lineState 0 { load := some l }
     (block s 0).load = some l ∧ l.hold = false ∧ l.out = none ∧ masterEntry s 0x70 false 512 true false = (s, .hbm) ∧
      (readLineNow { s with nextId := s.nextId + 1 } (loaderReq s)).any (fun x => x.2.ok && !x.2.dead && x.2.pois == 0 && x.1.blocks == s.blocks)) := by decide +kernel

/-- Block 0 leads a reach in a state. -/
def reachAt (n : Nat) (r : Run := {}) : State :=
  let s := setF (setF onState .block 0 f_BLOCK_REACH_CTRL_EN 1) .block 0 f_BLOCK_REACH_CTRL_LEAD 1
  setBlock (setF s .block 0 f_BLOCK_REACH_STATUS_STATE n) 0 { run := r }

theorem witness_ReachCommands :
    (reaches (reachAt 0) false .block 0 ∧ thawed (reachAt 0) = true ∧ armRefusal (reachAt 0) 0 = none ∧ armRefusal onState 0 = some 3) ∧
    (let s := setReg (setF (putFlag (reachAt 0) 0 9 { set := true }) .block 0 f_BLOCK_REACH_CTRL_FP_EN 1) .region 0 (o_REGION_FLAG_XLAT 0) 0x40000000
     let s := setF s .block 0 f_BLOCK_FP_MARKS_TAKE 9
     armRefusal s 0 = none ∧ localFlag (xlat s (0 / 6) (fld s .block 0 f_BLOCK_FP_MARKS_TAKE)) = some (0, 9) ∧ (flagAt s 0 9).set = true) ∧
    (∀ n ∈ [1, 2, 3, 4], reaches (reachAt n) false .block 0 ∧ thawed (reachAt n) = true ∧ isMember (reachAt n) 0 = false ∧ reachState (reachAt n) 0 = n) := by decide +kernel

/-- An ARMED reach of block 0 in phase RUN with flag 5 as its input, in each of two forms of CONSUME. -/
def armedState (consume : Bool) : State :=
  let s := setF (setF (reachAt 1) .block 0 f_BLOCK_REACH_SHAPE_GROUPS 16) .block 0 f_BLOCK_REACH_SHAPE_LANES 32
  let s := setPhase s 3
  setBlock (putFlag s 0 5 { set := true }) 0 { run := { blocks := [0], ins := [(0, 5, consume)] } }

theorem witness_ReachLaunch :
    ∀ consume ∈ [false, true], let s := armedState consume
      inReset s = false ∧ present s .block 0 = true ∧ startMet s 0 = true ∧ (block s 0).run.ins.Pairwise (fun x y => ¬(x.1 = y.1 ∧ x.2.1 = y.2.1)) ∧
      ((block s 0).run.blocks.flatMap (cellsIn s)).Nodup ∧ ((block s 0).run.blocks.flatMap (cellsIn s))[0]? = some 0 ∧
      15 < fld s .block 0 f_BLOCK_REACH_SHAPE_GROUPS ∧ periodPassed s 0 = true ∧ startMet (reachAt 0) 0 = false ∧
      periodPassed (setBlock (setF s .block 0 f_BLOCK_FP_PERIOD_PERIOD 1) 0 { run := { lastStart := some 0 } }) 0 = false := by decide +kernel

theorem witness_ReachSettles :
    (let s := reachAt 2 { blocks := [0] }; inReset s = false ∧ thawed s = true ∧ present s .block 0 = true ∧ reachState s 0 = 2 ∧ runGroups s 0 = []) ∧
    (let s := setF (reachAt 3 { blocks := [0], outs := [(0, .loc 0 7)] }) .pwr 0 (f_PWR_REG_REQ_POWER 0) 1
     reachState s 0 = 3 ∧ flag s .block 0 f_BLOCK_REACH_STATUS_DISARM_PEND = false ∧ allWanted s ∧ outcome s 0 = 1 ∧
      (∀ x ∈ (block s 0).run.outs, x.2 = .loc 0 7) ∧ takerOf s 0 7 = none ∧ flagSecure s 0 7 = false ∧ fld s .trace 0 f_TRACE_PERF_CTRL_FREEZE = 0) ∧
    (let s := setF (reachAt 3 { blocks := [0], aborted := true }) .pwr 0 (f_PWR_REG_REQ_POWER 0) 1
     reachState s 0 = 3 ∧ flag s .block 0 f_BLOCK_REACH_STATUS_DISARM_PEND = false ∧ allWanted s ∧ outcome s 0 ≠ 1) := by decide +kernel

theorem witness_HostFlagWrites :
    (reaches flagState false .region 0 ∧ thawed flagState = true ∧ flagSecure flagState 0 4095 = false ∧ takerOf flagState 0 4095 = none ∧ takerOf flagState 0 5 = none ∧
      flagSecure flagState 0 9 = false ∧ takerOf flagState 0 9 = some 1 ∧ (flagAt flagState 0 9).set = false) ∧
    (let s := setF flagState .region 0 f_REGION_FLAG_WORLD_SEG 0x8000
     reaches s false .region 0 ∧ thawed s = true ∧ flagSecure s 0 4095 = true ∧ hostSecure s false = false) := by decide +kernel

theorem witness_RunPhase :
    (reaches (setPhase onState 2) false .chip 0 ∧ phase (setPhase onState 2) = 2 ∧ phase onState ≠ 2 ∧ reaches onState false .chip 0) ∧
    (let s := setRunEnding (setPhase onState 3) true; phase s = 3 ∧ s.chores.runEnding = true ∧ ∀ p, p < 8 → partDrained s p = true) := by decide +kernel

theorem witness_PartitionCommands :
    (∀ n ∈ [2, 3], let s := setPhase onState n; reaches s false .chip 0 ∧ phase s = n ∧ s.chores.parts = [] ∧ s.chores.unit = none) ∧
    (let s := setF { onState with chores := { onState.chores with parts := [0] } } .pwr 0 (f_PWR_REG_REQ_POWER 0) 1
     inReset s = false ∧ 0 ∈ s.chores.parts ∧ partIdle s 0 = true ∧ 0 ∈ regionsOfPart s 0 ∧ allWanted s) ∧
    (let s := setF onState .chip 0 (f_CHIP_PART_STATUS_DEFERRED 0) 1
     flag s .chip 0 (f_CHIP_PART_STATUS_DEFERRED 0) = true ∧ partDrained s 0 = true ∧ partOfRegion s 0 = some 0 ∧ regionOn s 0 = true ∧
      flag s .pwr 0 (f_PWR_REG_STATUS_LEND 0) = false) := by decide +kernel

/-! ### Shadow registers and switches -/

theorem witness_StrobeStages :
    reaches onState false .chip 0 ∧ names onState 1 .region 0 = true ∧ unitOn onState .region 0 = true ∧ (PageKind.region, 0) ∈ shadowPages onState.part ∧
    (1 : Nat) < 65536 ∧ (0x804 : Nat) < 4096 := by decide +kernel

theorem witness_SafePoint :
    (let s := setPage onState .region 0 { page onState .region 0 with waiting := [0] }
     inReset s = false ∧ present s .region 0 = true ∧ unitOn s .region 0 = true ∧ frozen s .region 0 = false ∧ reportHolds s .region = false ∧
      PageKind.region ∉ [PageKind.sec, .fab, .port, .pwr, .therm, .cal, .hbm, .block] ∧ 0 ∈ setsOf .region ∧ (page s .region 0).waiting = [0]) := by
  decide +kernel

/-- A frozen page of each kind that FrozenUnits names. -/
theorem witness_FrozenUnits :
    (∀ k ∈ [PageKind.cell, .block], cellFrozen (setF onState k 0 f_COMMON_PAGE_STATUS_FROZEN 1) 0 = true) ∧
    (let s := setF onState .block 0 f_COMMON_PAGE_STATUS_FROZEN 1; frozen s .block (blockOfCell s 0) = true ∧ reachFrozen (setBlock s 0 { run := { blocks := [0] } }) 0 = true) ∧
    (∀ k ∈ [(PageKind.slice, 127), (.band, 7)], sliceFrozen (setF onState k.1 k.2 f_COMMON_PAGE_STATUS_FROZEN 1) 127 = true) ∧
    (∀ k ∈ [(PageKind.port, 23), (.fab, 0)], portFrozen (setF onState k.1 k.2 f_COMMON_PAGE_STATUS_FROZEN 1) 23 = true) ∧
    (let s := setF onState .region 0 f_COMMON_PAGE_STATUS_FROZEN 1; reaches s false .region 0 ∧ frozen s .region 0 = true ∧ niFrozen s (.copy 44) = true) := by
  decide +kernel

/-- A lead whose reach runs; one that is OFF with 129 lane registers in use, and with 128. -/
theorem witness_ReachSafePoint :
    (let s := reachAt 2; let s := setPage s .block 0 { page s .block 0 with waiting := [1] }
     inReset s = false ∧ present s .block 0 = true ∧ unitOn s .block 0 = true ∧ frozen s .block 0 = false ∧ reportHolds s .block = false ∧
      (page s .block 0).waiting = [1] ∧ reachFree s 0 = false) ∧
    (∀ x ∈ [(9, 1), (8, 0)],
      let s := setStg (setStg onState .block 0 0x300 0xC0000000) .block 0 o_BLOCK_REACH_SHAPE (BitVec.ofNat 32 (x.1 * 65536 + 16 * 256 + 32))
      let s := setPage s .block 0 { page s .block 0 with waiting := [1] }
      (page s .block 0).waiting = [1] ∧ reachFree s 0 = true ∧ reachBad s 0 = x.2) := by decide +kernel

/-- The full/empty window switches to a size of 2 × 4,096 lines, which waits for nothing. -/
def feSwitch : State := { setStg onState .chip 0 o_CHIP_FE_CTRL 1 with cache := { feSw := true, feTo := (0, 1) } }

theorem witness_ReshadowAndSwitches :
    (reaches onState false .region 0 ∧ kindShadowed .region = true) ∧
    (let s := { setF onState .chip 0 (f_CHIP_SWIN_STAT_SWITCHING 31) 1 with cache := { winTo := [(31, 0, 0, 6144)] } }
     inReset s = false ∧ chipHeld s = false ∧ switching s 31 = true ∧ swinStaged s 31 = swinTo s 31 ∧ fetchBusy s (fun _ => true) (inEither (swin s 31) (swinTo s 31)) = false ∧
      (let s := setSlice { setReg s .chip 0 (o_CHIP_SWIN_CFG 31) 0x80000000 with cache := s.cache } 0 { miss := [⟨2, [], none, 0⟩] }
       fetchBusy s (fun _ => true) (inEither (swin s 31) (swinTo s 31)) = true)) ∧
    (let s := { onState with cache := { remapSw := [127] } }
     inReset s = false ∧ chipHeld s = false ∧ 127 ∈ s.cache.remapSw ∧ regStg s .chip 0 (o_CHIP_SLICE_REMAP 127) = remapNext s 127 ∧ fetchBusy s (fun _ => true) (lineOfSlice s 127) = false) ∧
    (inReset feSwitch = false ∧ chipHeld feSwitch = false ∧ feSwitch.cache.feSw = true ∧ feWaiting feSwitch = false ∧ feStaged feSwitch = (0, 1) ∧ feSwitch.cache.feTo = (0, 1) ∧
      (feActive feSwitch).2 = 0 ∧ feSwitch.slices = []) ∧
    (let s := { onState with cache := { feSw := true } }; feStaged s = (0, 0) ∧ s.cache.feTo = (0, 0) ∧ feActive s = (0, 0)) := by
  decide +kernel

/-! ### The cache die, the HBM, integrity and arbitration -/

/-- Line 2 with the granted request 7. -/
def req7 (op : ReqOp) (granted : Bool := true) : Req :=
  { id := 7, src := .group 0 0, line := 2, op := op, label := 0x80, part := 0, ingress := false, wins := 0, granted := granted }
def hitState (op : ReqOp) (b : Body := body0) : State := { lineState b with reqs := [req7 op] }

/-- A whole-line write, a write of the last byte to a sound line and to one that fails its check. -/
def partW : ReqOp := .write 5 (BitVec.ofNat 256 (2 ^ 255)) 0 false 0 none

set_option maxRecDepth 20000 in
theorem witness_SliceReadsWrites :
    (let s := hitState (.read allWords); hitsWay s 7 (req7 (.read allWords)) spot.slice (wayKey spot.set 0) ∧ (wayAt s spot.slice (wayKey spot.set 0)).body.av = false) ∧
    (let op := ReqOp.write 5 (BitVec.allOnes 256) 0 true 3 none; hitsWay (hitState op) 7 (req7 op) spot.slice (wayKey spot.set 0)) ∧
    (hitsWay (hitState partW) 7 (req7 partW) spot.slice (wayKey spot.set 0) ∧ checkOk 2 body0 = true) ∧
    (let b := { body0 with data := 1 }; hitsWay (hitState partW b) 7 (req7 partW) spot.slice (wayKey spot.set 0) ∧ checkOk 2 b = false) := by decide +kernel

/-- A wide line with anchor 4. -/
def wide0 : Body := { av := true, anchor := 4, chk := checkValue .wide 2 0 }

set_option maxRecDepth 20000 in
theorem witness_SliceCombines :
    (∀ op ∈ [ReqOp.atd true [(31, 0, 1)] 0, .atd false [(31, 0, 1)] (-1), .addF [(63, 0x3F800000, false)], .maxMin false [(63, 0x3F800000, false)],
        .maxMin true [(0, 0x3F800000, false)], .dead], hitsWay (hitState op) 7 (req7 op) spot.slice (wayKey spot.set 0)) ∧
    (wayAt (hitState .dead) spot.slice (wayKey spot.set 0)).body = body0 ∧ body0.pois = 0 ∧ body0.av = false ∧ checkOk 2 body0 = true := by decide +kernel

/-- A contribution to its last partial, with the anchor `a`. -/
def addOp (a : W16) : ReqOp := .addW a [⟨15, 1, 0, false, false⟩]

set_option maxRecDepth 20000 in
theorem witness_SliceCombines_same : hitsWay (hitState (addOp 4) wide0) 7 (req7 (addOp 4)) spot.slice (wayKey spot.set 0) := by decide +kernel

set_option maxRecDepth 20000 in
theorem witness_SliceCombines_other : hitsWay (hitState (addOp 5) wide0) 7 (req7 (addOp 5)) spot.slice (wayKey spot.set 0) := by decide +kernel

theorem witness_SliceCombines_wide :
    bitN wide0.ovf.toNat 15 = false ∧ specAt wide0.spec 15 = 0 ∧ wide0.av = true ∧ wide0.anchor = 4 ∧ wide0.anchor ≠ 5 ∧ wide0.pois = 0 := by decide +kernel

set_option maxRecDepth 20000 in
theorem witness_SliceCombines_check : checkOk 2 wide0 = true ∧ partialN wide0.data 15 = 0 := by decide +kernel

theorem witness_SliceCombines_range : wideMin ≤ 0 + 1 ∧ (0 : Int) + 1 ≤ wideMax := by unfold wideMin wideMax; decide +kernel

/-- A miss register of line 2 whose fetch its channel has granted, and one whose reduction waits for a way. -/
def missState (op : ReqOp) (held : Option (Body × Bool)) : State :=
  setHbmc (setSlice onState spot.slice { miss := [⟨2, [req7 op], held, 0⟩] }) (owner 2 / 16) { granted := [(spot.slice, 2, false), (spot.slice, 2, true)] }

set_option maxRecDepth 20000 in
theorem witness_MissesAndFills :
    (let s := { onState with reqs := [req7 (.read allWords)] }
     inReset s = false ∧ thawed s = true ∧ spot.slice < 128 ∧ nextReq s 7 = some (req7 (.read allWords)) ∧ lineHeld (takenOff s 7) 2 = false ∧ feLine s 2 = none ∧ spot = placeOf s 2 ∧
      lineKey s spot.slice spot.set 2 = none ∧ (slice s spot.slice).wbs.any (fun x => x.line == 2) = false ∧ missOf s spot.slice 2 = none ∧
      (slice s spot.slice).miss.length < 256) ∧
    (let q := req7 (.read allWords); let s := missState (.read allWords) none
     hbmGranted s spot.slice 2 false = true ∧ 2 ∉ s.cache.lost ∧ missOf s spot.slice 2 = some ⟨2, [q], none, 0⟩ ∧ spot = placeOf s 2 ∧ chooseWay s spot.slice spot.set q = .take 0 ∧
      (wayAt s spot.slice (wayKey spot.set 0)).valid = false ∧ s.hbm.syn = [] ∧ formOf 2 (memLine s.hbm.mem 2) (entryOf s 2) = some .plain ∧
      flag s .slice spot.slice f_SLICE_FLIP_CTRL_ARM = false ∧ hbmGranted s spot.slice 2 true = true) ∧
    (let op := ReqOp.addF [(63, 0x3F800000, false)]; let s := missState op (some (body0, false))
     missOf s spot.slice 2 = some ⟨2, [req7 op], some (body0, false), 0⟩ ∧ body0.syn = [] ∧ checkOk 2 body0 = true ∧ chooseWay s spot.slice spot.set (req7 op) = .take 0 ∧
      (wayAt s spot.slice (wayKey spot.set 0)).valid = false) ∧
    (∀ h ∈ [0, 1], ∀ t ∈ [(15999 : Nat), 16000], let s := setSlice onState spot.slice { ways := [(wayKey spot.set 0, { valid := true, tag := 2, body := body0, hold := true })] }
     let s := { setF s .slice spot.slice f_SLICE_RED_CTRL_HOLD h with time := BitVec.ofNat 64 t }
     (fld s .slice spot.slice f_SLICE_RED_CTRL_HOLD = 0 ↔ h = 0) ∧ keyOfLine s spot.slice 2 = some (wayKey spot.set 0) ∧ (wayAt s spot.slice (wayKey spot.set 0)).hold = true ∧
      (h = 1 → ((wayAt s spot.slice (wayKey spot.set 0)).heldAt + 2 ^ (h + 3) * 1000 ≤ s.time.toNat ↔ t = 16000))) := by decide +kernel

set_option maxRecDepth 20000 in
theorem witness_WritebackReadsBack :
    ∀ l ∈ [0, 2], backed l = true ∧ (let b : Body := { data := 9, chk := checkValue .plain l 9 }
      b.av = false ∧ b.pois = 0 ∧ b.syn = [] ∧ b.spec = 0 ∧ b.ovf = 0 ∧ b.anchor = 0 ∧ checkValue .plain l b.data = b.chk) ∧
      flag onState .hbm (owner l / 16) f_HBM_FLIP_CTRL_ARM = false := by decide +kernel

theorem witness_SliceMaintenance :
    (reaches onState false .slice 127 ∧ thawed onState = true ∧ flag onState .slice 127 f_SLICE_MAINT_STATUS_BUSY = false ∧ mapWf (fun _ => ({} : Way)) (slice onState 127).ways = true) ∧
    (flag (setF onState .slice 127 f_SLICE_MAINT_STATUS_BUSY 1) .slice 127 f_SLICE_MAINT_STATUS_BUSY = true) ∧
    (let s := setSlice onState 127 { retiring := true }; inReset s = false ∧ (slice s 127).retiring = true ∧ fetchBusy s (· == 127) (fun _ => true) = false) ∧
    (let s := setSlice onState 127 { miss := [⟨2, [], none, 0⟩] }; fetchBusy s (· == 127) (fun _ => true) = true) ∧
    (let s := setSlice onState 127 { leakAt := 10 }; let due := (slice s 127).leakAt + leakPeriod s .slice 127 o_SLICE_BUCKET_CFG
     s.time.toNat < due ∧ due ≤ { s with time := -1 }.time.toNat ∧ thawed s = true) := by decide +kernel

set_option maxRecDepth 20000 in
theorem witness_HbmAndScour :
    (inReset onState = false ∧ thawed onState = true ∧ fld onState .hbm 7 f_HBM_STATUS_THROTTLE = 0 ∧ flag onState .hbm 7 f_HBM_STATUS_REFRESH_X2 = false) ∧
    (owner 2 / 16 < 8 ∧ hbmGranted (missState .dead none) spot.slice 2 false = true ∧ hbmGranted (missState .dead none) spot.slice 2 true = true) ∧
    (let s := setF onState .hbm 7 f_HBM_CTRL_PDN_EN 1; flag s .hbm 7 f_HBM_CTRL_PDN_EN = true ∧ pseudoIdle s 7 31 = true) ∧
    (let s := setF (setPhase onState 1) .chip 0 f_CHIP_BRINGUP_STATUS_STEP 5; mayTrain s = true ∧ fld s .chip 0 f_CHIP_BRINGUP_STATUS_STEP = 5) ∧
    (let s := { setF (setPhase (hitState .dead) 2) .band (spot.slice / 16) f_BAND_SCOUR_CTRL_EN 1 with time := 0xFFFFFFFFFFFF }
     mayPatrolSlice s spot.slice = true ∧ passEnded s false (spot.slice / 16) = true ∧ thawed s = true ∧ flag s .band (spot.slice / 16) f_BAND_SCOUR_CTRL_EN = true ∧ (slice s spot.slice).scour < 8192 * 24 ∧ s.chores.lateBand = [] ∧
      bandDone s (spot.slice / 16) = false) ∧
    (let s := setSlice onState spot.slice { ways := [(0, { valid := true, tag := 2, body := body0 })] }
     let k := scourKey s spot.slice (slice s spot.slice).scour
     (wayAt s spot.slice k).tag = 2 ∧ (wayAt s spot.slice k).body.syn = [] ∧ checkOk (homeLine s (wayAt s spot.slice k).tag) (wayAt s spot.slice k).body = true) ∧
    (∀ i, i < 8 → flag onState .hbm i f_HBM_FLIP_CTRL_ARM = false) := by decide +kernel

/-- A job of the last engine over the bytes 500 to 511. -/
def job15 : ChkJob := { src := 500, len := 12, pos := 0, crc64 := true, reg := crcOnes true, ek600 := false, expect := 0, label := 0x70, secure := false }
/-- Line 1 in the slice that serves it. -/
def chkState : State :=
  let x := placeOf onState 1
  setSlice onState x.slice { ways := [(wayKey x.set 0, { valid := true, tag := 1, body := { chk := checkValue .plain 1 0 } })] }
def chkReq (s : State) : Req :=
  { id := s.nextId, src := .chk 15, line := 1, op := .read allWords, label := 0x70, part := labelPart 0x70, ingress := false, wins := 0 }

set_option maxRecDepth 20000 in
theorem witness_ChecksAndGrants :
    (let s := setReg onState .chk 15 o_CHK_LEN 12
     reaches s false .chk 15 ∧ thawed s = true ∧ fld s .chk 15 f_CHK_STATUS_STATE ≠ 1 ∧ (reg s .chk 15 o_CHK_LEN).toNat ≠ 0 ∧ fldW (0x42000000 : W32) 27 26 = 0) ∧
    (let s := setF onState .chk 15 f_CHK_STATUS_STATE 1; reaches s false .chk 15 ∧ fld s .chk 15 f_CHK_STATUS_STATE = 1) ∧
    (let s := setChk chkState 15 { job := some job15 }
     (chkOf s 15).job = some job15 ∧ job15.out = none ∧ job15.ek600 = false ∧ job15.pos < job15.len ∧ (chkNext job15).1 / 256 = 1 ∧ (chkNext job15).2 = job15.len - job15.pos ∧
      masterEntry s job15.label job15.secure (chkNext job15).1 true false = (s, .hbm) ∧
      (readWhole { s with nextId := s.nextId + 1 } (chkReq s)).any (fun x => !x.2.2.2 && x.2.2.1 == 0 && x.1.chk == s.chk)) ∧
    (let s := { onState with reqs := [req7 (.read allWords) false] }
     (sliceWaiting s spot.slice).findIdx? (fun q => q.id == 7) = some 0 ∧ mayGrant s (slice s spot.slice).grants (slice s spot.slice).wrr ((sliceWaiting s spot.slice).map (reqCand s)) 0 = true) ∧
    (let s := setSlice onState spot.slice { miss := [⟨2, [req7 .dead], none, 0⟩] }; let o := owner 2
     o < 128 ∧ (hbmQueue s o).findIdx? (fun e => e.slice == spot.slice && e.line == 2 && e.write == false) = some 0 ∧
      mayGrant s (mget [] (hbmc s (o / 16)).grants (o % 16)) (mget [] (hbmc s (o / 16)).wrr (o % 16)) ((hbmQueue s o).map (entCand s)) 0 = true) := by decide +kernel

/-! ### Power and temperature -/

/-- Region 31 in a power state, region 0 OFF. -/
def region31 (n : Nat) (k : Rail := {}) (s : State := State.reset) : State := setRail (setF s .pwr 0 (f_PWR_REG_STATUS_STATE 31) n) 31 k

set_option maxRecDepth 20000 in
theorem witness_RegionPowerUp :
    (let s := setPhase State.reset 2
     inReset s = false ∧ present s .region 0 = true ∧ phase s = 2 ∧ s.therm.stop = false ∧ s.pkg.noClock = false ∧
      (List.range (partRegions s.part)).find? (admissible s) = some 0 ∧ railHealthy (rail s 0) = true ∧ (rail s 0).lending = false ∧
      flag s .pwr 0 (f_PWR_REG_STATUS_BORROW 0) = false ∧ ((regionChannels s 0).take 2).any (chEnabled s) = true) ∧
    (∀ b ∈ [0, 1], let s := setF (region31 2 { ramp := 31, start := (3, 170) }) .pwr 0 (f_PWR_REG_STATUS_BORROW 31) b
     regionState s 31 = 2 ∧ (rail s 31).ramp < 32 ∧ (rail s 31).start.2 ≤ 170 ∧ flag s .pwr 0 (f_PWR_REG_STATUS_BORROW 31) = (b == 1)) ∧
    (let s := region31 2 { ramp := 32 }; regionState s 31 = 2 ∧ 32 ≤ (rail s 31).ramp) ∧
    (let s := region31 3 { start := (15, 170) } State.reset
     regionState s 31 = 3 ∧ wanted s 31 = true ∧ (rail s 31).start.1 < 16 ∧ (rail s 31).start.2 < 256 ∧ (rail s 31).lending = false ∧
      flag s .pwr 0 (f_PWR_REG_STATUS_BORROW 31) = false ∧ admits (permitted s 31) (5 * (rail s 31).start.2) = true) ∧
    regionState (region31 5) 31 = 5 := by decide +kernel

/-- Region 31 alone is ON and asks for level 15. -/
def on31 (k : Rail := {}) : State := setF (region31 4 k) .pwr 0 (f_PWR_REG_REQ_LEVEL 31) 15

set_option maxRecDepth 20000 in
theorem witness_PowerEvents :
    (inReset (on31) = false ∧ present (on31) .region 31 = true ∧
      (∀ q, q < 32 → flag (on31) .pwr 0 (f_PWR_REG_STATUS_BORROW q) = false ∧ flag (on31) .pwr 0 (f_PWR_REG_STATUS_LEND q) = false) ∧
      regionOn (on31) 31 = true ∧ (∀ q, q < 32 → q ≠ 31 → regionOn (on31) q = false ∧ physRegion (on31) q ≠ physRegion (on31) 31) ∧ physRegion (on31) 31 < 32 ∧
      permitted (on31) 31 = none ∧ (rail (on31) 31).moving = false ∧
      fld (on31) .pwr 0 (f_PWR_REG_STATUS_LEVEL 31) ≠ fld (on31) .pwr 0 (f_PWR_REG_REQ_LEVEL 31)) ∧
    (let s := on31 { moving := true, toVolt := 170, toLevel := 15 }
     regionOn s 31 = true ∧ (rail s 31).moving = true ∧ (rail s 31).toVolt < 256 ∧ (rail s 31).toLevel < 16) ∧
    ((List.replicate 32 2801).length = partRegions (on31).part) ∧
    (∀ n ∈ [13, 16], let s := on31 { core := n, sram := 3 }; 12 < (rail s 31).core ∧ (rail s 31).core ≤ 16 ∧ 3 ≤ (rail s 31).sram) ∧
    (let s := on31 { core := 12 }; (rail s 31).core = 12 ∧ (rail s 31).lending = false ∧ regionOn s 31 = true ∧ lenderOf s 31 = none) ∧
    (let s := setF (setF (on31 { core := 11, lending := true }) .pwr 0 (f_PWR_REG_STATUS_STATE 30) 4) .pwr 0 f_PWR_LEND_EN_PAIR 0xFFFF
     (rail s 31).lending = true ∧ lenderOf s 31 = some 30) ∧
    (0 < 255 ∧ fld (on31) .pwr 0 f_PWR_DROOP_CFG_STEP ≤ 255 ∧ reaches (on31) false .pwr 0) := by decide +kernel

/-- Every channel is enabled and channel 5 is in measurement. -/
def senseState : State :=
  let s := setF (setF State.reset .therm 0 f_THERM_CH_EN_LO_EN 0xFFFFFFFF) .therm 0 f_THERM_CH_EN_HI_EN 0x3FFF
  { s with therm := { s.therm with busy := some 5, demands := [⟨.host, [(5, false)]⟩] } }

set_option maxRecDepth 20000 in
theorem witness_ThermalEvents :
    (inReset senseState = false ∧ thawed senseState = true ∧ reaches senseState false .therm 0 ∧ (maskChannels ((3 : W64).toNat % 2 ^ 32)).filter (chEnabled senseState) ≠ []) ∧
    (let s := setF senseState .therm 0 f_THERM_PIN_MASK_LO_MASK 1; s.pkg.noClock = false ∧ (pinChannels s).filter (chEnabled s) ≠ []) ∧
    (senseState.therm.busy = some 5 ∧ regionsOn senseState = [] ∧ (∀ d ∈ senseState.therm.demands, d.who = .host) ∧ corrected senseState 5 320 < stopAt (dieOf 5) ∧
      320 < tripAt (dieOf 5) ∧ tripAt (dieOf 5) ≤ 1888) ∧
    ({ senseState with therm := { senseState.therm with stop := true } }).therm.stop = true ∧
    (chEnabled senseState 45 = true ∧ flag senseState .therm 0 (f_THERM_CH_STALE 45) = false ∧ tooOld senseState 45 = false ∧
      (mget 0 senseState.therm.times 45).toNat + staleLimit senseState * 1000000 < { senseState with time := -1 }.time.toNat) ∧
    (let s := setF (setF senseState .pwr 0 (f_PWR_REG_STATUS_STATE 0) 4) .therm 0 (f_THERM_REG_STEP 0) 1
     present s .region 0 = true ∧ watched s 0 = true ∧ s.therm.demands.any (fun d => d.who == .recheck 0) = false ∧
      (regionChannels s 0).any (chEnabled s) = true ∧ due s (.recheck 0) (recheckEvery s) = false ∧
      (let s := { s with time := -1 }; due s (.recheck 0) (recheckEvery s) = true)) ∧
    (due senseState (.hot 127) (hotWindow senseState) = false ∧ (let s := { senseState with time := -1 }; due s (.hot 127) (hotWindow s) = true)) ∧
    fld senseState .therm 0 f_THERM_SH_CFG_THRESH = 0 ∧ resumeReady senseState = false ∧
    (let s := setF (setF (setPhase { State.reset with therm := { began := 2 } } 6) .therm 0 f_THERM_STATUS_STOPPED 1) .therm 0 f_THERM_CH_EN_LO_EN 0
     let s := setF s .therm 0 f_THERM_CH_EN_HI_EN 0
     reaches s false .therm 0 ∧ resumeReady s = true ∧ s.therm.began ≠ 0) := by decide +kernel

/-! ### Host software -/

set_option maxRecDepth 20000 in
/-- A port register at both ends of its range, a write of a shadowed one, a request over two doublewords, an event counter. -/
theorem witness_RegisterAccess :
    (inReset onState = false ∧ onState.link.up = true ∧ onState.pkg.noClock = false ∧ barReady onState = true) ∧
    (∀ o ∈ [o_PORT_CTRL, o_PORT_RX_BYTES], let off := bar0Of .port 23 o
      off < 2 ^ 24 ∧ (bar0Place onState (hostSecure onState false) off 4).toOption = some (.port, 23) ∧ unitOn onState .port 23 = true ∧
        0x100 ≤ off % 4096) ∧
    counterAt .port o_PORT_CTRL = none ∧ bar0Of .port 23 o_PORT_CTRL % 4096 = o_PORT_CTRL ∧
    lockMask onState (hostSecure onState false) .port o_PORT_CTRL = 0 ∧ accMask (fieldsAt .port o_PORT_CTRL) .rwS % 2 ^ 32 ≠ 0 ∧
    (∀ x ∈ [(0, 1), (1, 4), (0xFFFFFE, 4096)], (bar0Place onState (hostSecure onState false) x.1 x.2).toOption = none ∧ 0 < x.2 ∧ x.2 ≤ 4096) ∧
    reaches onState false .cell 0 ∧ reaches onState false .slice 127 := by decide +kernel

/-- The device serves: bring-up has trained the stacks. -/
def servingState (b : Body := body0) : State :=
  let s := setPhase (lineState b) 2
  let s := setF (setF (setF (setF s .hbm 0 f_HBM_STATUS_TRAIN 1) .hbm 1 f_HBM_STATUS_TRAIN 1) .hbm 2 f_HBM_STATUS_TRAIN 1) .hbm 3 f_HBM_STATUS_TRAIN 1
  setF (setF (setF (setF s .hbm 4 f_HBM_STATUS_TRAIN 1) .hbm 5 f_HBM_STATUS_TRAIN 1) .hbm 6 f_HBM_STATUS_TRAIN 1) .hbm 7 f_HBM_STATUS_TRAIN 1

set_option maxRecDepth 20000 in
theorem witness_WindowAccess :
    (let s := servingState
     inReset s = false ∧ s.link.up = true ∧ s.pkg.noClock = false ∧ serving s = true ∧ s.link.reads = [] ∧ backed 2 = true ∧
      (∀ x ∈ [512, 767], lineOf (winAddr s x) = 2 ∧ x + 1 ≤ 2 ^ 28 ∧ winAddr s x % 256 + 1 ≤ 256 ∧
        mrdCheck s (winAddr s x) (hostSecure s false) false true (some (labelPart (barLabel s))) = none ∧
        mrdCheck s (winAddr s x) (hostSecure s false) true false (some (labelPart (barLabel s))) = none)) ∧
    (serving State.reset = false ∧ State.reset.link.up = true ∧ inReset State.reset = false ∧ State.reset.pkg.noClock = false) := by decide +kernel

set_option maxRecDepth 20000 in
theorem witness_WindowAccess_line :
    (let s := servingState; let key := wayKey spot.set 0
     sits s 2 spot.slice key ∧ (wayAt s spot.slice key).body.pois = 0 ∧ (wayAt s spot.slice key).body.av = false ∧
      checkOk 2 (wayAt s spot.slice key).body = true) := by decide +kernel

/-- A busy mailbox of the last port that names `sel`. -/
def asked (sel : W32) (s : State := onState) : State := setMbx s true .port 23 { sel := sel, busy := true }

set_option maxRecDepth 20000 in
theorem witness_Mailboxes :
    (inReset onState = false ∧ present onState .port 23 = true ∧ reaches onState false .port 23) ∧
    (let s := asked 0x8040
     (mbx s true .port 23).busy = true ∧ (mbx s true .port 23).on = true ∧ unitOn s .port 23 = true ∧ selShadowed .port 0x8040 = some o_PORT_CTRL ∧
      isFwin .port o_PORT_CTRL = false ∧ (page s .port 23).waiting = []) ∧
    (selShadowed .port 0x930A = none ∧ selCounter .port 0x930A = some o_PORT_RX_BYTES) ∧
    (let s := asked 5
     (mbx s true .port 23).busy = true ∧ selShadowed .port 5 = none ∧ selCounter .port 5 = none ∧ pageValue s false .port 23 5 = none) ∧
    (let s := setMbx State.reset true .cell 1439 { sel := 0xFFFFFFFF, busy := true }
     (mbx s true .cell 1439).busy = true ∧ unitOn s .cell 1439 = false ∧ (mbx s true .cell 1439).on = true ∧ present s .cell 1439 = true ∧ 1439 < 1440) ∧
    (let s := setMbx onState true .port 23 { valid := true, data := 1 }; (mbx s true .port 23).valid = true) := by decide +kernel

theorem witness_DeviceResets :
    inReset onState = false ∧ onState.link.up = true ∧ reaches onState false .chip 0 ∧ vecOpen { onState with link := { onState.link with cfg := [(4, 4)] } } 63 = false ∧
    (4092 < 4096 ∧ 4092 % 4 = 0 ∧ 4092 ≠ 0 ∧ 4092 ≠ 8) ∧ { onState with pkg := { perst := true } }.pkg.perst = true ∧ onState.pkg.perst = false := by decide +kernel

/-- Sources 9 and 127 are pending and unmasked in one controller, over the source 4 of level 4 on its stack. -/
def irqState (h : Bool) : State :=
  let k := ircPage h
  let s := setReg (setReg (setReg (setReg onState k 0 (o_IRC_PEND 0) 0x200) k 0 (o_IRC_PEND 3) 0x80000000) k 0 (o_IRC_MASK 0) 0) k 0 (o_IRC_MASK 3) 0
  let s := setF (setF s k 0 ⟨o_IRC_LEVEL 1, 7, 4⟩ 9) k 0 ⟨o_IRC_LEVEL 15, 31, 28⟩ 9
  if h then { s with stackH := [(4, 4)] } else { s with stackM := [(4, 4)] }

set_option maxRecDepth 20000 in
theorem witness_Interrupts :
    ∀ h, let s := irqState h
      inReset s = false ∧ thawed s = true ∧ reaches s false .ircH 0 ∧ flag s (ircPage h) 0 f_IRC_STATUS_FROZEN = false ∧ eligible s h 9 = true ∧ eligible s h 127 = true ∧
      levelOf s h 9 = levelOf s h 127 ∧ (∀ m, m < 128 → eligible s h m = true → levelOf s h m < levelOf s h 9 ∨ (levelOf s h m = levelOf s h 9 ∧ 9 ≤ m)) ∧
      stackOf s h = [] ++ [(4, 4)] := by decide +kernel

theorem witness_Interrupts_open :
    let s := { irqState true with link := { cfg := [(4, 4)] } }
    let v := fld s .ircH 0 ⟨o_IRC_VEC (9 / 4), 8 * (9 % 4) + 5, 8 * (9 % 4)⟩
    vecOpen (setReg s .ircH 0 (o_IRC_H_MSIX_TABLE (4 * v + 3)) 0) v = true := by decide +kernel

/-- An image of one word with the first key's hash in slot 2, in verification. -/
def imgState : State :=
  let img : List (Nat × W32) := [(0, 0x54534E46), (1, 1), (2, 4), (3, 0), (4, 3), (64, 7)]
  let s := { State.reset with boot := { img := img } }
  setF { s with pkg := { s.pkg with cold := false } } .boot 0 f_BOOT_STATUS_STATE 1

theorem witness_Boot :
    (∀ n ∈ [0, 3], let s := setF State.reset .boot 0 f_BOOT_STATUS_STATE n; reaches s false .boot 0 ∧ fld s .boot 0 f_BOOT_STATUS_STATE = n) ∧
    (∀ n ∈ [1, 2], let s := setF State.reset .boot 0 f_BOOT_STATUS_STATE n; reaches s false .boot 0 ∧ fld s .boot 0 f_BOOT_STATUS_STATE = n) ∧
    (fld imgState .boot 0 f_BOOT_STATUS_STATE = 1 ∧ phase imgState = 0 ∧ imgState.pkg.cold = false) ∧
    (let s := { imgState with boot := {} }; fld s .boot 0 f_BOOT_STATUS_STATE = 1 ∧ phase s = 0 ∧ imageReason s false = some 1) ∧
    (let s := setF State.reset .sec 0 f_SEC_IDE_BOUND 1; reaches s true .sec 0) := by decide +kernel

/-- With the hash of its own key in fuse slot 0. -/
def soundImage : State := { imgState with fuses := { oem := [(0, Config.sm3 (imgKey imgState))] } }

theorem soundImage_slot : slotHash soundImage (imgSlot soundImage) = Config.sm3 (imgKey soundImage) := by rfl

/-- The signature's value is the opaque `sm2Verify`'s. -/
theorem witness_Boot_sound (h : Config.sm2Verify (imgKey soundImage) (imgDigest soundImage) (imgSig soundImage) = true) :
    imageReason soundImage false = none ∧ soundImage.pkg.cold = false := by
  have h1 : 256 + imgLen soundImage ≤ 4194304 ∧ imgField soundImage 18 4 < imgLen soundImage := by decide +kernel
  have h2 : imgField soundImage 0 4 = 0x54534E46 ∧ imgField soundImage 4 2 = 1 ∧ imgField soundImage 15 1 = 0 ∧
    imgField soundImage 22 42 = 0 ∧ imgField soundImage 128 64 = 0 := by decide +kernel
  have h3 : bitN (imgField soundImage 16 2) 0 = true := by decide +kernel
  have h4 : slotSet soundImage (imgSlot soundImage) = true := by decide +kernel
  have h5 : slotRevoked soundImage (imgSlot soundImage) = false := by decide +kernel
  have h6 : ¬(imgSvn soundImage < soundImage.fuses.minSvn) := by decide +kernel
  have h7 : soundImage.part = .ek810 := rfl
  refine ⟨?_, by decide +kernel⟩
  unfold imageReason
  simp [h1, h2, h3, h4, h5, h6, h7, soundImage_slot, h]

/-- FinOST runs and the fuse conditions hold: the HBM channels read 50 °C. -/
def warmBoot : State :=
  let s := (List.range 8).foldl (fun s b => setF (setF s .therm 0 (f_THERM_CH_VALID (32 + b)) 1) .therm 0 (f_THERM_CH_T (32 + b)) 800)
    (setF State.reset .boot 0 f_BOOT_STATUS_STATE 2)
  setF s .boot 0 f_BOOT_RUN_SVN_SVN 63
/-- With a secure message of type `ty` and first word `w` in progress. -/
def asking (ty : Nat) (w : W32) (secure : Bool := true) : State := { warmBoot with mgmt := { busy := some ⟨ty, [w], secure, [], false⟩ } }

theorem witness_Messages_go :
    reaches warmBoot false .mgmt 0 ∧ fld warmBoot .mgmt 0 f_MGMT_MSG_STATUS_STATE ≠ 1 ∧ (∀ ty ∈ [0, 255], ty < 256 ∧ knownMsg ty = false) ∧
    finostRuns warmBoot = true ∧ (Instr.ideKm false, 0x20) ∈ [(Instr.attest false, 0x01), (.ideKm false, 0x20)] := by decide +kernel

theorem witness_Messages_done :
    (∀ ty ∈ [1, 0x10, 0x11, 0x12, 0x13, 0x20], finostRuns (asking ty 0) = true ∧ (asking ty 0).mgmt.busy = some ⟨ty, [0], true, [], false⟩) ∧
    fuseBar (asking 0x10 0 false) ⟨0x10, [0], false, [], false⟩ true = some 1 ∧
    (let m : Msg := ⟨0x10, [3], true, [], false⟩
     fuseBar (asking 0x10 3) m true = none ∧ m.stopHit = false ∧ msgWord m 0 < 4 ∧ slotSet (asking 0x10 3) 0 = true ∧ slotRevoked (asking 0x10 3) 0 = false) ∧
    (let m : Msg := ⟨0x11, [63], true, [], false⟩
     fuseBar (asking 0x11 63) m true = none ∧ msgWord m 0 ≤ fld (asking 0x11 63) .boot 0 f_BOOT_RUN_SVN_SVN ∧ msgWord m 0 ≤ 63) ∧
    (let m : Msg := ⟨0x12, [3], true, [], false⟩
     fuseBar (asking 0x12 3) m true = none ∧ msgWord m 0 < 4 ∧ slotSet (asking 0x12 3) (msgWord m 0) = false) ∧
    (let s := { asking 0x13 0 with fuses := { otp := List.replicate 127 0 } }
     fuseBar s ⟨0x13, [0], true, [], false⟩ true = none ∧ s.fuses.otp.length < 128) := by decide +kernel

/-! ### Bring-up, resets, self-tests, observation -/

/-- A phase and a step of bring-up, the topology's limit lifted. -/
def bringup (ph step : Nat) (degraded : Nat := 1) (s : State := State.reset) : State :=
  setF (setF (setPhase s ph) .chip 0 f_CHIP_BRINGUP_STATUS_STEP step) .fab 0 f_FAB_TOPO_CTRL_DEGRADED degraded
/-- No region is wanted. -/
def unwanted : State := (List.range 32).foldl (fun s r => setRail s r { rail s r with barred := true }) State.reset

theorem witness_BringupAndResets :
    (let s := bringup 1 7 1 unwanted
     phase s = 1 ∧ 7 ≤ fld s .chip 0 f_CHIP_BRINGUP_STATUS_STEP ∧ regionsSettled s = true ∧ agreed s = true ∧ s.pkg.noClock = false) ∧
    (let s := (List.range 8).foldl (fun s b => setF s .hbm b f_HBM_STATUS_TRAIN 1) (bringup 5 7 1 unwanted)
     phase s = 5 ∧ causesCleared s = true) ∧
    (let s := bringup 1 8 0 unwanted
     phase s = 1 ∧ 7 ≤ fld s .chip 0 f_CHIP_BRINGUP_STATUS_STEP ∧ regionsSettled s = true ∧ agreed s = false ∧
      (let limit := s.chores.stepAt + fld s .chip 0 f_CHIP_BRINGUP_LIMIT * 1000000000
       s.time.toNat < limit ∧ limit ≤ { s with time := -1 }.time.toNat)) ∧
    (∀ n ∈ [1, 5], let s := bringup n 6
     phase s = n ∧ fld s .chip 0 f_CHIP_BRINGUP_STATUS_STEP = 6 ∧ fld s .chip 0 f_CHIP_BRINGUP_STATUS_FAIL_STEP ≠ 7) ∧
    ((List.replicate 128 0).length ≤ 128 ∧ (∀ i, i < 128 → (List.replicate 128 0).getD i 0 ≤ 0)) ∧
    (∀ n ∈ [2, 3], let s := setPhase State.reset n
     reaches s false .chip 0 ∧ phase s = n ∧ s.chores.unit = none ∧ s.chores.parts = [] ∧ present s .cell 1439 = true ∧ present s .block 191 = true ∧
      present s .region 31 = true ∧ present s .cell 65535 = false) ∧
    (let s := { onState with chores := { unit := some (1, 0) } }; s.chores.unit = some (1, 0) ∧ (unitCells s 1 0).all (niIdle s) = true ∧
      (let drain := s.chores.drainAt + max 1 (fld s .chip 0 f_CHIP_RESET_CTRL_DRAIN_LIM) * 1000
       s.time.toNat < drain ∧ drain ≤ { s with time := -1 }.time.toNat)) ∧
    (let s := setF { onState with chores := { unit := some (2, 0) } } .pwr 0 (f_PWR_REG_REQ_POWER 0) 1
     s.chores.unit = some (2, 5 / 6) ∧ (unitCells s 2 0).all (niIdle s) = true ∧ allWanted s) := by decide +kernel

theorem witness_BringupAndResets_spare : 0 ≤ Config.spareRows 127 ∧ Config.spareRows 127 < Config.spareRows 127 + 1 := by omega

theorem witness_Selftests :
    (∀ item ∈ [0x10, 0x20], itemOk onState item 0 = true ∧ disruptive item = true ∧ onState.chores.tests.any (isItem item 0) = false ∧
      onState.chores.tests.length < 16 ∧ reaches onState false .chip 0) ∧
    (∀ item ∈ [0x01, 0x05], itemOk onState item 0 = true ∧ disruptive item = false) ∧
    (let s := setPhase { onState with chores := { tests := [⟨0x10, 0, true⟩, ⟨0x20, 0, true⟩] } } 2
     s.chores.tests.any (isItem 0x20 0) = true ∧ reaches s false .chip 0 ∧
      (∀ item ∈ [0x10, 0x20], s.chores.tests.find? (isItem item 0) = some ⟨item, 0, true⟩ ∧ itemDrained s item 0 = true ∧ s.chores.run.any (isItem item 0) = false)) ∧
    (let s := { onState with chores := { run := [⟨0x10, 0, false⟩] } }
     s.chores.run.find? (isItem 0x10 0) = some ⟨0x10, 0, false⟩ ∧ 0xFFFFFFFF < 2 ^ 32 ∧ [0, 44].all (present s .cell) = true) ∧
    (let s := setPhase onState 3
     present s .region 0 = true ∧ backgroundOn s = true ∧ bitN (fld s .chip 0 f_CHIP_BG_CTRL_DIS) 4 = false ∧ regionOn s 0 = true ∧
      (∀ i, i < 4 → bitN (fld s .chip 0 f_CHIP_BG_CTRL_DIS) i = false ∧ itemOk s (i + 1) 0 = true) ∧
      mget 0 s.repair.guard (physRegion s 0) < 40 ∧ mget 0 s.repair.risen (physRegion s 0) + 500 ≤ 65535) := by decide +kernel

/-- Tracing of all sources is on. -/
def tracing (t : Trace := {}) : State :=
  let s := { servingState with trace := t }
  setF (setF s .trace 0 f_TRACE_CTRL_EN 1) .trace 0 f_TRACE_CTRL_SRC 15

set_option maxRecDepth 20000 in
theorem witness_Observation :
    (reaches onState false .trace 0 ∧ thawed onState = true ∧ pageOf onState.part 4095 = none ∧ (pageOf onState.part 0).isSome = true ∧ pageOf onState.part (pageNo .cell 1439) = some (.cell, 1439)) ∧
    (let s := setF (setF (setCell (tracing) 0 { groups := [(15, runner)] }) .trace 0 f_TRACE_SAMPLE_CTRL_EN 1) .trace 0 f_TRACE_SAMPLE_REGIONS_REGIONS 1
     let s := { s with time := 0xFFFFFFFFFF }
     present s .cell 0 = true ∧ thawed s = true ∧ obsOk s 0 0 = true ∧ obsOk s 0 15 = true ∧ sampleDue s 0 = true ∧ nextSample s 0 = some 15 ∧ traceSrc s 3 = true ∧ traceOn s = true ∧ stagingFull s = false ∧ s.trace.dropped = 0) ∧
    (let s := setF onState .trace 0 f_TRACE_RD_PTR_INDEX 9; fld s .trace 0 f_TRACE_RD_PTR_INDEX / 8 ≠ 0 / 8 ∧ reaches s false .trace 0) ∧
    (let s := { setF (setPhase onState 2) .gauge 0 f_GAUGE_CTRL_EN 1 with time := 0xFFFFFFFFFF }
     (List.replicate 8 0).length = 8 ∧ thawed s = true ∧ frameDue s = true) := by decide +kernel

set_option maxRecDepth 20000 in
/-- The buffer's line 2 with eight staged records. -/
theorem witness_Observation_drain :
    (let s := setF (tracing { staged := List.replicate 8 1 }) .trace 0 f_TRACE_WR_PTR_INDEX 16
     let a := fld s .trace 0 f_TRACE_BUF_BASE_BASE * 2 ^ 20 + fld s .trace 0 f_TRACE_WR_PTR_INDEX / 8 * 256
     thawed s = true ∧ traceOn s = true ∧ traceRoom s = true ∧ traceRoom (setF s .trace 0 f_TRACE_CTRL_CAP 0) = false ∧ 8 ≤ s.trace.staged.length ∧ flag s .trace 0 f_TRACE_STATUS_FULL = false ∧ masterEntry s 0x10 false a false true = (s, .hbm) ∧ lineOf a = 2) ∧
    sits (setF (tracing { staged := List.replicate 8 1 }) .trace 0 f_TRACE_WR_PTR_INDEX 16) 2 spot.slice (wayKey spot.set 0) := by decide +kernel

/-! ### The fabric -/

/-- The device has the EID 9. -/
def withEid (s : State) : State := setF (setF s .fab 0 f_FAB_EID_EID 9) .fab 0 f_FAB_EID_VALID 1
def eidState : State := withEid onState

/-- Port 23 in a state. -/
def portAt (n : Nat) (q : Port := {}) (s : State := onState) : State := setPort (setF s .port 23 f_PORT_STATUS_STATE n) 23 q

/-- The last moment before a time has passed, and the first one after. -/
def early (s : State) (n : Nat) : State := { s with time := BitVec.ofNat 64 (n - 1) }
def late (s : State) (n : Nat) : State := { s with time := BitVec.ofNat 64 n }

theorem witness_PortStates :
    (∀ n ∈ [1, 2, 5, 6], portState (portAt n) 23 = n ∧ inReset (portAt n) = false ∧ thawed (portAt n) = true ∧ (port (portAt n) 23).back = false ∧ (port (portAt n) 23).tagFailed = false) ∧
    ((port (portAt 1) 23).stateAt + 100000000 ≤ (late (portAt 1) 100000000).time.toNat ∧ (early (portAt 1) 100000000).time.toNat < (port (portAt 1) 23).stateAt + 100000000) ∧
    (let s := portAt 6 { downAt := some 5 } (setF onState .fab 0 f_FAB_CTRL_HOLD 2); let due := ((port s 23).downAt.getD 0) + fld s .fab 0 f_FAB_CTRL_HOLD * 1000000
     (early s due).time.toNat < due ∧ due ≤ (late s due).time.toNat) ∧
    (let s := setF onState .fab 0 f_FAB_CTRL_SETTLE 2; let due := s.fab.settleFrom + fld s .fab 0 f_FAB_CTRL_SETTLE * 1000000
     topoMatches s = true ∧ flag s .fab 0 f_FAB_TOPO_STATUS_AGREE = false ∧ reaches s false .fab 0 ∧ (early s due).time.toNat < due ∧ due ≤ (late s due).time.toNat) := by
  decide +kernel

/-- A FLAG request's packet with and without a good LCRC under sequence number 2^24 - 1. -/
def fabBody : List Byte := toBytes 32 (headerBits { type := 5, opst := 1, len := 1 })
def goodFrame : List Byte := fabBody ++ toBytes 4 (linkCrc (2 ^ 24 - 1) (fabBody ++ [0, 0, 0, 0])) ++ [0, 0, 0, 0]

theorem witness_LinkFrames :
    (∀ n ∈ [3, 5], let s := portAt n { rxSeq := 2 ^ 24 - 1 }
      thawed s = true ∧ linkUp s 23 = true ∧ flag s .port 23 f_PORT_STATUS_ENC = false ∧ 16 ≤ goodFrame.length ∧ goodFrame.length ≤ 320) ∧
    (let x := splitPacket false goodFrame
     linkCrc (2 ^ 24 - 1) (x.1 ++ x.2.2.1 ++ x.2.2.2) = x.2.1 ∧ (decodePacket none x.1).any (fun k => knownType k.type) = true ∧
      linkCrc 0 (x.1 ++ x.2.2.1 ++ x.2.2.2) ≠ x.2.1) ∧
    (let w := BitVec.ofNat 256 (0xE <<< 60); let w := BitVec.ofNat 256 (0xE <<< 60 + lcpCrc w.toNat)
     bitsN w.toNat 63 60 = 0xE ∧ bitN w.toNat 59 = false ∧ lcpCrc w.toNat = w.toNat % 65536) ∧
    (let s := portAt 5 { changed := true, lcpAt := 7 }
     linkUp s 23 = true ∧ (port s 23).changed = true ∧ (early s 1007).time.toNat < (port s 23).lcpAt + 1000 ∧ (port s 23).lcpAt + 1000 ≤ (late s 1007).time.toNat) ∧
    (∀ n ∈ [7, 8], let s := portAt 5 { replay := [(0, { type := 5 })], resent := n, progAt := 7 }
     linkUp s 23 = true ∧ (port s 23).replay ≠ [] ∧ (port s 23).resent = n ∧ (early s 10007).time.toNat < (port s 23).progAt + 10000 ∧
      (port s 23).progAt + 10000 ≤ (late s 10007).time.toNat) ∧
    (∀ ty ∈ [5, 7], let k : Packet := { type := ty, opst := 1 }; let s := portAt 5 { queue := [{ pkt := k, part := 0, lead := none, resv := false }] } eidState
     (port s 23).queue = [{ pkt := k, part := 0, lead := none, resv := false }] ∧ sendable s 23 k = true) := by decide +kernel

theorem witness_PacketRoundTrip :
    let k : Packet := { off := 2 ^ 42 - 1, len := 256, opst := 255, type := 14, vc := 3, world := true, ord := true }
    let k : Packet := { k with ts := -1, check := -1, pmask := -1, label := -1, seid := 65535, deid := 65535, tag := 65535 }
    k.off < 2 ^ 42 ∧ 1 ≤ k.len ∧ k.len ≤ 256 ∧ k.opst < 256 ∧ k.type < 15 ∧ k.vc < 4 ∧ k.seid < 65536 ∧ k.deid < 65536 ∧ k.tag < 65536 ∧ k.zl = true ∧
    k.payload = [] ∧ (let j := { k with zl := false, len := 1, payload := [7] }; j.zl = false ∧ j.payload.length = j.len) := by decide +kernel

/-- A request of each type for the last word of line 2 at the head of port 23's receive buffers. -/
def request (ty opst len : Nat) (payload : List Byte := []) : Packet :=
  { type := ty, opst := opst, len := len, off := 768 - len, zl := payload.isEmpty, payload := payload, seid := 65535, tag := 7 }
def arrived (k : Packet) : State := portAt 5 { rxQ := [k] } (withEid servingState)

set_option maxRecDepth 20000 in
theorem witness_IngressRequests :
    (∀ x ∈ [(request 1 0 4, true, false), (request 1 0 256, true, false), (request 2 0 4 [1, 2, 3, 4], false, true),
        ({ request 2 0 256 (List.replicate 256 0) with check := checkValue .plain 2 0 }, false, true),
        (request 4 1 4 [0, 0, 0x80, 0x3F], false, true), (request 6 0 8 [1, 0, 0, 0, 0, 0, 0, 0], true, true)], let s := arrived x.1
      inReset s = false ∧ thawed s = true ∧ phase s ≠ 6 ∧ s.pkg.noClock = false ∧ (port s 23).rxQ = [x.1] ∧ ownEid s ≠ none ∧
      answerPort s 23 { vc := 1, deid := x.1.seid, world := x.1.world && secureOk s 23 } = some 23 ∧
      slotFor s 64 (((port s 23).queue.filter (fun e => e.pkt.vc == 1)).map (fun e => (e.part, e.resv))) (ingressPart s) ≠ none ∧
      x.1.pmask = 0 ∧ lineOf x.1.off = 2 ∧ (ingressCheck s 23 x.1 x.2.1 x.2.2).2 = none ∧
      (x.1.len = 256 → backed (lineOf x.1.off) = true ∧ (x.1.type = 2 → checkValue .plain (lineOf x.1.off) (BitVec.ofNat 2048 (ofBytes x.1.payload)) = x.1.check))) ∧
    ({ arrived (request 1 0 4) with pkg := { noClock := true } }).pkg.noClock = true ∧
    (let s := arrived (request 1 0 4); let key := wayKey spot.set 0
     sits s 2 spot.slice key ∧ (wayAt s spot.slice key).body.pois = 0 ∧ (wayAt s spot.slice key).body.av = false ∧
      checkOk 2 (wayAt s spot.slice key).body = true) := by decide +kernel

theorem witness_IngressRequests_flag :
    (let k : Packet := { type := 5, opst := 1 }; let s := setF (arrived k) .region 0 f_REGION_FLAG_INGRESS_SEG 1
     thawed s = true ∧ answerPort s 23 { vc := 1, deid := k.seid, world := k.world && secureOk s 23 } = some 23 ∧ k.zl = true ∧ k.world = false ∧ present s .region 0 = true ∧ (∃ n, n < 8 ∧ partOfRegion s 0 = some n ∧ flag s .chip 0 (f_CHIP_PART_STATUS_RESETTING n) = false) ∧
      bitN (fld s .region 0 f_REGION_FLAG_INGRESS_SEG) (0 / 256) = true ∧ flagSecure s 0 0 = false ∧ takerOf s 0 0 = none) ∧
    wellShaped (request 2 0 4) = false ∧ answerPort (arrived (request 2 0 4)) 23 { vc := 1, deid := 65535 } = some 23 := by decide +kernel

/-- A read that waits for its answer under tag 7. -/
def outReq : FabReq := { id := 3, src := .bar2, line := 0, pkt := { type := 1, len := 4 } }
theorem witness_FabricAnswers :
    (let k : Packet := { type := 8, tag := 7, len := 4, zl := false, payload := [1, 2, 3, 4] }
     let s := { portAt 5 { rxQ := [k] } with fab := { outst := [(7, outReq)] } }
     thawed s = true ∧ (port s 23).rxQ = k :: [] ∧ bitN k.tag 15 = false ∧ s.fab.flushes.find? (fun f => f.1 == k.tag) = none ∧
      s.fab.outst.find? (fun x => x.1 == k.tag) = some (7, outReq) ∧ (replyOf (stillMaps s outReq) outReq.pkt k).isSome = true ∧
      s.fab.wait.find? (fun x => x.id == 3) = none ∧ s.fab.outst.find? (fun x => x.2.id == 3) = some (7, outReq) ∧
      ctoPassed (early s (ctoNs s)) outReq.born = false ∧ ctoPassed (late s (ctoNs s)) outReq.born = true) ∧
    (let s := { onState with fab := { wait := [outReq] } }
     s.fab.wait.find? (fun x => x.id == 3) = some outReq ∧ isFlush outReq.pkt = false ∧ ctoPassed (late s (ctoNs s)) outReq.born = true) ∧
    (let k : Packet := { type := 9, tag := 32767 }; let s := portAt 5 { rxQ := [k] }
     (port s 23).rxQ = k :: [] ∧ bitN k.tag 15 = false ∧ s.fab.outst.find? (fun x => x.1 == k.tag) = none) ∧
    (let s := { onState with fab := { stale := [(32767, 4)] } }; let due := fun (s : State) => s.fab.stale.any (fun x => x.1 == 32767 && ctoPassed s x.2)
     due (early s (4 + ctoNs s)) = false ∧ due (late s (4 + ctoNs s)) = true) := by decide +kernel

/-- Zero bytes. -/
def zeros (n : Nat) : List Byte := List.replicate n 0

/-- What a switch of role 1 announces. -/
def hello1 : Hello := ⟨1, true, true, true, false, false, 255, 9, 0, [(16, 128), (16, 128), (16, 128), (16, 128)]⟩

theorem witness_SurveyMessages :
    (let s := portAt 3
     thawed s = true ∧ portState s 23 = 3 ∧ helloRefusal s 23 hello1 = none ∧ helloRefusal s 23 { hello1 with role := 2 } = some 1 ∧ hello1.credits.length = 4 ∧ hello1.port < 256) ∧
    (authenticating (portAt 4) 23 = true ∧ (port (portAt 4) 23).chal = none) ∧
    (∀ n ∈ [4, 6], let s := portAt n { chal := some 0, verified := some ⟨zeros 32, zeros 64, zeros 64⟩, back := true }
     authenticating s 23 = true ∧ (port s 23).chal = some 0 ∧ (port s 23).verified = some ⟨zeros 32, zeros 64, zeros 64⟩ ∧ (zeros 32).length = 32 ∧ (zeros 64).length = 64) ∧
    (portState (portAt 5) 23 = 5 ∧ rangesOk [(0, 0), (65534, 65535)] = true ∧ linkUp (portAt 5) 23 = true) ∧
    (let k : Packet := { type := 7, opst := 0x21 }; (port (portAt 5 { rxQ := [k] }) 23).rxQ = [k] ∧ k.type = 7 ∧ k.opst = 0x21) := by decide +kernel

/-- With no anchor in use no key is known; with an anchor register that holds the hash of the opaque `sm3`, the key is. -/
theorem witness_SurveyMessages_anchor (h : ofBytes (Config.sm3 (zeros 64)) = 0) :
    (anchors (portAt 4)).contains (ofBytes (Config.sm3 (zeros 64))) = false ∧
    (anchors (setF (portAt 4) .sec 0 f_SEC_FAB_ANCHOR_EN_EN 8)).contains (ofBytes (Config.sm3 (zeros 64))) = true := by
  rw [h]; decide +kernel

/-! ### The package and the whole machine -/

theorem witness_PackagePins :
    (inReset State.reset = false ∧ State.reset.pkg.noClock = false ∧ State.reset.pkg.sbAddr < 4 ∧ 15 + 1 ≤ 16 ∧ State.reset.pkg.sideband.length = 16) ∧
    (let s := setF senseState .therm 0 f_THERM_PIN_MASK_LO_MASK 1; (pinChannels s).filter (chEnabled s) ≠ []) ∧
    (tapHeld .extest = true ∧ TapInstr.extest ≠ .idcode ∧ 0x11 ≠ 0x10) := by decide +kernel

theorem witness_WellFormed :
    Instr.wf State.reset.part .tapReset = true ∧ Instr.wf State.reset.part (.cellReset false 65536) = false ∧
    State.reset.pending = [] ∧ queueOk { State.reset with pending := [.tapReset] } = true := by decide +kernel

theorem witness_MemoryStaysCanonical :
    memOk State.reset = true ∧ step State.reset = .next { State.reset with time := 10 } := ⟨rfl, rfl⟩

theorem witness_ResetHoldsEveryUnit :
    let s := { State.reset with pkg := { perst := true } }; inReset s = true ∧ Instr.wf s.part .bringupComplete = true := by decide +kernel

theorem witness_SecurePageRefuses :
    inReset State.reset = false ∧ State.reset.link.up = true ∧ State.reset.pkg.noClock = false ∧ barReady State.reset = true ∧
    hostSecure State.reset true = false ∧ flag State.reset .chip 0 f_CHIP_BUS_ERR_INFO_VALID = false ∧ (4092 < 4096 ∧ 4092 % 4 = 0) := by decide +kernel

end Sys2Proof.Tests
end

section
/-! The operand checks. Every command's meaning is an effect behind a check of its operands, and each check passes only well-formed
operands; what a command answers follows from this once, for all commands. -/
namespace Sys2Proof.Proofs

open Sys2Proof.Machine Sys2Proof.Laws

/-! ## Meanings behind a check -/

/-- A meaning in state `s` whose effect stands behind a check that passes only where `wf` holds. -/
def Guarded (s : State) (wf : Bool) (o : Host.Outcome State Fault Refusal) : Prop :=
  ∃ ok f, o = runAlways ok s f ∧ (ok = true → wf = true)

section
variable {s : State} {wf ok a b c : Bool} {f : State → State}

theorem guarded_runAlways (h : ok = true → wf = true) : Guarded s wf (runAlways ok s f) := ⟨ok, f, rfl, h⟩

theorem guarded_run (h : ok = true → wf = true) : Guarded s wf (run ok s f) := guarded_runAlways h

/-- A guarded meaning answers a next state, with the part and the queue it had. -/
theorem Guarded.next {o : Host.Outcome State Fault Refusal} (h : Guarded s wf o) :
    ∃ t, o = .next t ∧ t.part = s.part ∧ t.pending = s.pending := by
  obtain ⟨ok, f, rfl, _⟩ := h
  exact ⟨_, done_next, rfl, rfl⟩

/-- On ill-formed operands a guarded meaning changes nothing. -/
theorem Guarded.next_self {o : Host.Outcome State Fault Refusal} (h : Guarded s wf o) (hw : wf = false) : o = .next s := by
  obtain ⟨ok, f, rfl, hok⟩ := h
  have : ok = false := by
    rw [← Bool.not_eq_true]
    exact fun hk => by simp [hok hk] at hw
  subst this
  rfl

/-- A check that asks more than well-formed operands, before further conditions of theirs. -/
theorem and_mono_left (h : a = true → b = true) (k : (a && c) = true) : (b && c) = true :=
  Bool.and_intro (h (Bool.and_elim_left k)) (Bool.and_elim_right k)

end

/-! ## Checks that spell a condition in another way than the well-formedness of commands does -/

theorem instCount_eq_pageCount (p : Part) (k : PageKind) : instCount p k = pageCount p k := by
  cases k <;> rfl

/-- The check of a page's presence is that its number is below the part's count. -/
theorem present_eq (s : State) (k : PageKind) (i : Nat) : present s k i = decide (i < pageCount s.part k) := by
  rw [present, instCount_eq_pageCount]

/-- Bit 2 of MOD is bit 26 of the word. -/
theorem bitN_mMOD_two (w : W64) : bitN (mMOD w) 2 = (wordBits w 26 26 == 1) := by
  simp only [bitN, mMOD, ibits, wordBits, bitsN, Nat.shiftRight_eq_div_pow]
  congr 1
  omega

theorem not_bitN_mMOD_two (w : W64) : (!bitN (mMOD w) 2) = (wordBits w 26 26 == 0) := by
  have h : wordBits w 26 26 < 2 := Nat.mod_lt _ (by decide)
  rw [bitN_mMOD_two]
  interval_cases wordBits w 26 26 <;> rfl

/-- The operations that give a comparison's result are the comparisons. -/
theorem fpCompare_isNone (op : FpOp) (x y : W32) : (fpCompare op x y).isNone = !isFpCompare op := by
  cases op <;> rfl

theorem onesOf_eq_countP (n w : Nat) : onesOf n w = (List.range n).countP (fun i => bitN w i) := by
  simp only [onesOf, bitN, Nat.shiftRight_eq_div_pow]

theorem upsetOk_eq_wfUpset (u : Upset) : upsetOk u = wfUpset u := by
  cases u <;> simp only [upsetOk, wfUpset, onesOf_eq_countP]

/-- The grants of the three arbiters that are carried out name units of the device. -/
theorem guarded_execQosGrant (s : State) (a : Arb) : Guarded s (Instr.wf s.part (.qosGrant a)) (execQosGrant a s) := by
  cases a with
  | slice sl id => exact guarded_run fun h => Bool.and_elim_left (Bool.and_elim_left h)
  | hbm o sl l w => exact guarded_run fun h => Bool.and_elim_left (Bool.and_elim_left h)
  | port p i => exact guarded_run Bool.and_elim_left

/-- A background activity's unit is checked as the self-test item after it in R557's table. -/
theorem wfItem_of_itemOk {s : State} {i u : Nat} (h : (decide (i < 4) && itemOk s (i + 1) u) = true) : wfItem s.part i u = true := by
  have hi := Bool.and_elim_left h
  have hu := Bool.and_elim_right h
  match i, hu with
  | 0, _ => rfl
  | 1, hu => exact (present_eq s .region u).symm.trans hu
  | 2, hu => exact hu
  | 3, hu => exact hu
  | i + 4, _ => simp at hi

/-- The observations that a sample may report are named ones. -/
theorem obs_of_obsOk {s : State} {c obs : Nat} (h : obsOk s c obs = true) : (obs == 0 || obs == 2 || (7 ≤ obs && obs < 16)) = true := by
  revert h
  unfold obsOk
  cases fld s .pwr 0 (f_PWR_REG_STATUS_PAUSE (c / 45)) != 0 <;> cases obs == 0 <;> cases obs == 2 <;> simp

end Sys2Proof.Proofs
end

section
/-! What a command answers, and what a step leaves of the queue (O55, O56). -/
namespace Sys2Proof.Proofs

open Sys2Proof.Machine Sys2Proof.Laws

/-- Every command's meaning stands behind a check that passes only well-formed operands. -/
theorem guarded_exec (s : State) (i : Instr) : Guarded s (Instr.wf s.part i) (exec i s) := by
  unfold exec
  cases i
  -- The check also asks that the unit is not frozen, or that its state permits the command.
  case mxOpStart | mxHazardRelease | mxTileFillDone | mxDrainRow | mxOpComplete | copyLineDone | copyComplete | sfLoadResume | sfLoadLine
     | reachArm | reachDisarm | reachAbort | fpTake | reachLastGroupFree | reachSettle | swinSwitchDone | sliceFillLanded
     | sliceWritebackDone | bypassRetry | holdExpire | maintWb | maintWbi | maintInvRemote | maintDone | hbmPdnIdle | scourLine
     | scourPeriodEnd | bondWindowEnd | sliceRetireDone | chkGo | chkJobDone | gaugeFrame | portSignalDetect | portRetryTimer
     | portLockLoss | linkHoldExpire | lcpReceived | lcpTimer | replayTimeout | fabRdReceived | fabWrReceived | fabRedReceived
     | fabFlagReceived | fabAtomReceived | fabResponseReceived | authChal | authFin | reachSync | ping | pong | tagReleaseTimeout =>
    exact guarded_run Bool.and_elim_left
  case mxBeat | portTrainingDone | fabPacketReceived | authAbort | reachAdd | reachDel => exact guarded_run (and_mono_left Bool.and_elim_left)
  case sfLoadGo | hello => exact guarded_run (and_mono_left (and_mono_left (and_mono_left Bool.and_elim_left)))
  case authResp => exact guarded_run (and_mono_left (and_mono_left (and_mono_left (and_mono_left Bool.and_elim_left))))
  case feWindowSwitchDone | ircDeliver | traceDrainLine | fabCompletionTimeout | flowSwitchoverTimeout | topoSettleExpire =>
    exact guarded_run fun _ => rfl
  case bucketLeak hbm j c => cases hbm <;> exact guarded_run Bool.and_elim_left
  -- The check spells well-formed operands in another way.
  case vectorFpOp c g w op p imm => exact guarded_run fun h => by rwa [fpCompare_isNone] at h
  case atdFetchAdd c g w | redxMax c g w => exact guarded_run fun h => by rwa [not_bitN_mMOD_two] at h
  case atdCompareSwap c g w | redxMin c g w => exact guarded_run fun h => by rwa [bitN_mMOD_two] at h
  case stagedApply k i m | mbxCaptureDone k i => exact guarded_run fun h => by rwa [present_eq] at h
  case sliceRead id up | sliceWrite id up | sliceAtd id up | addWContribution id up | addF32Contribution id up | maxMinContribution id up =>
    exact guarded_run (upsetOk_eq_wfUpset up).symm.trans
  case qosGrant a => exact guarded_execQosGrant s a
  case backgroundItemRun j u => exact guarded_run wfItem_of_itemOk
  case pcSample c obs =>
    exact guarded_run fun h => Bool.and_intro (Bool.and_elim_left (Bool.and_elim_left h)) (obs_of_obsOk (Bool.and_elim_right h))
  -- The reset pins do not hold the command off.
  case perstAssert | perstRelease | supplyFault | sidebandRead | sidebandDemand | tapInstructionLoad | tapReset =>
    exact guarded_runAlways fun h => h
  -- The check is that of well-formed operands.
  all_goals exact guarded_run fun h => h

/-- Settles O55: every command's meaning stands behind its check (`guarded_exec`). -/
theorem wellFormedAnswersNext : Obligations.WellFormedAnswersNext :=
  fun c s => ⟨fun _ => (guarded_exec s c).next, (guarded_exec s c).next_self⟩

/-! ## The queue -/

/-- Idling passes time only. -/
theorem idle_part_pending (s : State) : (idle s).part = s.part ∧ (idle s).pending = s.pending := by
  unfold idle
  split <;> exact ⟨rfl, rfl⟩

/-- A step answers a next state, with the part it had and without the command that it took. -/
theorem step_next (s : State) : ∃ t, step s = .next t ∧ t.part = s.part ∧ t.pending = s.pending.tail := by
  unfold step
  cases hq : s.pending with
  | nil => exact ⟨idle s, rfl, (idle_part_pending s).1, (idle_part_pending s).2.trans hq⟩
  | cons i rest => exact (guarded_exec { s with pending := rest } i).next

/-- A queue without its front command is well formed where the queue was. -/
theorem queueOk_of_tail {s t : State} (hp : t.part = s.part) (hq : t.pending = s.pending.tail) (h : queueOk s = true) : queueOk t = true := by
  rw [queueOk, List.all_eq_true] at h ⊢
  rw [hp, hq]
  exact fun c hc => h c (List.mem_of_mem_tail hc)

/-- Settles O56: a step takes the front command and keeps the part and the rest of the queue. -/
theorem stepKeepsQueueWellFormed : Obligations.StepKeepsQueueWellFormed := by
  intro s h
  obtain ⟨t, ht, hp, hq⟩ := step_next s
  exact ⟨t, ht, queueOk_of_tail hp hq h, hp, hq⟩

end Sys2Proof.Proofs
end

section
/-! The state after reset: nothing is listed, so every register holds its reset value in each copy (O60). -/
namespace Sys2Proof.Proofs

open Sys2Proof.Machine Sys2Proof.Laws

theorem reg_reset (k : PageKind) (i off : Nat) : reg State.reset k i off = regReset .ek810 k i off := rfl

/-- SHADOW_STATE resets to 0 on every page. -/
theorem regReset_shadowState (p : Part) (k : PageKind) (i : Nat) : regReset p k i o_COMMON_SHADOW_STATE = 0 := by
  cases k <;> rfl

/-- No page's shadow differs from what has been strobed at reset. -/
theorem not_dirty_reset (k : PageKind) (i : Nat) : flag State.reset k i f_COMMON_SHADOW_STATE_DIRTY = false := by
  rw [flag, fld, reg_reset, regReset_shadowState]
  rfl

/-- Every region is OFF at reset (R433, R446). -/
theorem regionState_reset : ∀ r, r < 32 → regionState State.reset r = 0 := by
  decide +kernel

/-- A port's STATUS resets to 0. -/
theorem regReset_portStatus (p : Part) (i : Nat) : regReset p .port i f_PORT_STATUS_STATE.off = 0 := rfl

/-- Every port is DISABLED at reset (R320, R368). -/
theorem portState_reset (p : Nat) : portState State.reset p = 0 := by
  rw [portState, fld, reg_reset, regReset_portStatus]
  rfl

/-- Settles O60: what the reset state lists is empty, and each register holds its reset value in all three copies. -/
theorem resetState : Obligations.ResetState :=
  ⟨rfl, rfl, rfl, rfl, rfl, rfl, rfl, regionState_reset, fun p _ => portState_reset p, fun _ _ _ => ⟨rfl, rfl⟩,
    fun k i _ => not_dirty_reset k i⟩

end Sys2Proof.Proofs
end

section
/-! BAR0 (O39): the bits of the copies of a register, what a plain write and a bus error do to them, and what the requests of host
software answer. -/
namespace Sys2Proof.Proofs

open Sys2Proof.Machine Sys2Proof.Laws

/-! ## Bits of register words -/

theorem bitN_toNat {n : Nat} (x : BitVec n) (b : Nat) : bitN x.toNat b = x.getLsbD b := bitN_eq_testBit _ _

theorem getLsbD_ofNat_32 (x b : Nat) (h : b < 32) : (BitVec.ofNat 32 x).getLsbD b = bitN x b := by
  rw [BitVec.getLsbD_ofNat, decide_eq_true h, Bool.true_and, bitN_eq_testBit]

/-- A bit of a word with the bits of a mask taken from another. -/
theorem getLsbD_putMask (old v m : W32) (b : Nat) (h : b < 32) :
    (putMask old v m).getLsbD b = if m.getLsbD b = true then v.getLsbD b else old.getLsbD b := by
  rw [putMask, BitVec.getLsbD_or, BitVec.getLsbD_and, BitVec.getLsbD_and, BitVec.getLsbD_not, decide_eq_true h, Bool.true_and]
  cases m.getLsbD b <;> simp only [Bool.not_false, Bool.not_true, Bool.and_true, Bool.and_false, Bool.or_false, Bool.false_or,
    Bool.false_eq_true, if_true, if_false]

theorem and_not_zero (x : W32) : x &&& ~~~0 = x := by
  change x &&& ~~~0#32 = x
  rw [BitVec.not_zero, BitVec.and_allOnes]

theorem putMask_zero (old v : W32) : putMask old v 0 = old := by
  rw [putMask, and_not_zero]
  change old ||| v &&& 0#32 = old
  rw [BitVec.and_zero, BitVec.or_zero]

/-- A one-bit field is that bit. -/
theorem flag_eq_bitN (s : State) (k : PageKind) (i o b : Nat) : flag s k i ⟨o, b, b⟩ = bitN (reg s k i o).toNat b := by
  simp [flag, fld, fldW, bitsN, bitN]

/-- A field is below the power of its width. -/
theorem fld_lt (s : State) (k : PageKind) (i : Nat) (f : Fld) : fld s k i f < 2 ^ (f.hi + 1 - f.lo) :=
  Nat.mod_lt _ (Nat.two_pow_pos _)

/-- A location beyond the common block of R485 is none of the block's. -/
theorem ne_of_common {off : Nat} (h : 0x100 ≤ off) (o : Nat) (ho : o < 0x100) : off ≠ o := by omega

/-! ## Packed values -/

theorem packN_succ (w : Nat) (f : Nat → Nat) (n : Nat) : packN w f (n + 1) = 2 ^ (w * n) * (f n % 2 ^ w) + packN w f n := by
  rw [packN, Nat.shiftLeft_eq, Nat.mul_comm, Nat.add_comm]

theorem packN_lt (w : Nat) (f : Nat → Nat) (n : Nat) : packN w f n < 2 ^ (w * n) := by
  induction n with
  | zero => simp [packN]
  | succ n ih =>
    have hf : f n % 2 ^ w + 1 ≤ 2 ^ w := Nat.mod_lt _ (Nat.two_pow_pos w)
    calc packN w f (n + 1) < 2 ^ (w * n) * (f n % 2 ^ w) + 2 ^ (w * n) := by rw [packN_succ]; omega
      _ = 2 ^ (w * n) * (f n % 2 ^ w + 1) := by ring
      _ ≤ 2 ^ (w * n) * 2 ^ w := Nat.mul_le_mul_left _ hf
      _ = 2 ^ (w * (n + 1)) := by rw [← Nat.pow_add, Nat.mul_succ]

/-- The bits of one of the packed values. -/
theorem testBit_packN (w : Nat) (f : Nat → Nat) {n i j : Nat} (hi : i < n) (hj : j < w) :
    (packN w f n).testBit (w * i + j) = (f i).testBit j := by
  induction n with
  | zero => omega
  | succ n ih =>
    rw [packN_succ, Nat.testBit_two_pow_mul_add _ (packN_lt w f n)]
    by_cases h : i = n
    · subst h
      rw [if_neg (by omega), Nat.add_sub_cancel_left, Nat.testBit_mod_two_pow, decide_eq_true hj, Bool.true_and]
    · have hn : w * (i + 1) ≤ w * n := Nat.mul_le_mul_left _ (by omega)
      rw [if_pos (by rw [Nat.mul_succ] at hn; omega), ih (by omega)]

/-- A byte of four packed ones. -/
theorem byteOf_packN (f : Nat → Nat) {b : Nat} (h : b < 4) :
    byteOf (BitVec.ofNat 32 (packN 8 f 4)).toNat b = BitVec.ofNat 8 (f b) := by
  apply BitVec.eq_of_getLsbD_eq
  intro j hj
  have hlt : 8 * b + j < 32 := by omega
  simp only [byteOf, BitVec.getLsbD_ofNat, BitVec.toNat_ofNat, Nat.testBit_shiftRight, Nat.testBit_mod_two_pow, hlt, decide_true,
    Bool.true_and, testBit_packN 8 f h hj]

/-- A write of event counters subtracts byte by byte, down to 0 (R513). -/
theorem byteOf_subtractBytes (old v : W32) {b : Nat} (h : b < 4) :
    (byteOf (subtractBytes old v).toNat b).toNat = (byteOf old.toNat b).toNat - (byteOf v.toNat b).toNat := by
  rw [subtractBytes, byteOf_packN _ h, BitVec.toNat_ofNat, Nat.mod_eq_of_lt]
  exact lt_of_le_of_lt (Nat.sub_le _ _) (byteOf old.toNat b).isLt

/-! ## The copies of a register -/

section
variable (s : State) (k : PageKind) (i o x : Nat) (v : W32)

theorem reg_setShd : reg (setShd s k i o v) k i x = reg s k i x := by simp [reg, setShd]

theorem regShd_setShd_self : regShd (setShd s k i o v) k i o = v := by simp [regShd, setShd]

theorem regShd_setReg : regShd (setReg s k i o v) k i x = regShd s k i x := by simp [regShd, setReg]

theorem regShd_setF (f : Fld) (n : Nat) : regShd (setF s k i f n) k i x = regShd s k i x := regShd_setReg ..

/-- Another register than the one whose field is written. -/
theorem reg_setF_off {x : Nat} (f : Fld) (n : Nat) (h : x ≠ f.off) : reg (setF s k i f n) k i x = reg s k i x := by
  rw [setF, reg_setReg, if_neg h]

theorem pagesOnly_setShd : PagesOnly s (setShd s k i o v) := rfl

end

/-- What changes register pages only leaves the part, the queue, HBM, the cells and the links alone. -/
theorem pagesOnly_fields {s t : State} (h : PagesOnly s t) :
    t.part = s.part ∧ t.pending = s.pending ∧ t.hbm = s.hbm ∧ t.cells = s.cells ∧ t.out = s.out := by
  rw [h]
  exact ⟨rfl, rfl, rfl, rfl, rfl⟩

/-! ## Reading a stored register (R16) -/

/-- A bit of a stored register reads 0 where it is WO-P, from the shadow where it is RW-S, and from the register itself elsewhere. -/
theorem bitN_storedRead {s : State} {k : PageKind} {i off : Nat} (hf : isFwin k off = false) {b : Nat} (hb : b < 32) :
    bitN (storedRead s k i off) b = (!bitN (accMask (fieldsAt k off) .wo) b &&
      if bitN (accMask (fieldsAt k off) .rwS) b = true then bitN (regShd s k i off).toNat b else bitN (reg s k i off).toNat b) := by
  simp only [storedRead, shadowCopy, hf, rwMask, bitN_toNat, Bool.false_eq_true, if_false, BitVec.getLsbD_and, BitVec.getLsbD_or,
    BitVec.getLsbD_not, getLsbD_ofNat_32 _ _ hb, hb, decide_true, Bool.true_and]
  cases bitN (accMask (fieldsAt k off) .wo) b <;> cases bitN (accMask (fieldsAt k off) .rwS) b <;> simp

/-- Beyond the common block a location of a powered unit that is no counter and shows no activity of the unit reads as it is stored. -/
theorem readLoc_stored {s : State} {k : PageKind} {i off : Nat} (h : 0x100 ≤ off) (hc : counterAt k off = none) (hu : unitOn s k i = true)
    (hk : ∀ v, unitRead s k i off v = v) : readLoc s k i off = (s, storedRead s k i off) := by
  have hm : ¬off ≤ o_COMMON_MBX_DATA 3 := not_le_of_gt (lt_of_lt_of_le (by decide) h)
  have hn : commonRead s k i off = none := by
    simp only [commonRead, if_neg (ne_of_common h _ (show o_COMMON_PAGE_STATUS < 0x100 by decide)),
      if_neg (ne_of_common h _ (show o_COMMON_SHADOW_STATE < 0x100 by decide)), if_neg (ne_of_common h _ (show o_COMMON_MBX_SEL < 0x100 by decide)),
      if_neg (ne_of_common h _ (show o_COMMON_MBX_CTRL < 0x100 by decide)), if_neg (ne_of_common h _ (show o_COMMON_MBX_VALID < 0x100 by decide))]
  simp [readLoc, hm, hc, hn, hu, hk]

/-! ## A plain write (R14, R15, R485, R488) -/

section
variable {s : State} {k : PageKind} {i off : Nat} {v m : W32}

/-- A write of RW-S bits in a register of the page itself. -/
theorem writeShadow_eq (hf : isFwin k off = false) (hm : m ≠ 0) : writeShadow s k i off v m =
    setF (setShd s k i off (putMask (regShd s k i off) v m)) k i f_COMMON_SHADOW_STATE_DIRTY 1 := by
  simp only [writeShadow, hf, if_neg hm, Bool.false_eq_true, if_false]

theorem writeShadow_zero : writeShadow s k i off v 0 = s := if_pos rfl

theorem pagesOnly_writeShadow (hf : isFwin k off = false) : PagesOnly s (writeShadow s k i off v m) := by
  by_cases hm : m = 0
  · rw [hm, writeShadow_zero]; exact PagesOnly.refl s
  · rw [writeShadow_eq hf hm]; exact (pagesOnly_setShd ..).trans (pagesOnly_setF ..)

/-- A write of RW-S bits leaves the active copies alone. -/
theorem reg_writeShadow (hf : isFwin k off = false) {x : Nat} (hx : x ≠ o_COMMON_SHADOW_STATE) :
    reg (writeShadow s k i off v m) k i x = reg s k i x := by
  by_cases hm : m = 0
  · rw [hm, writeShadow_zero]
  · rw [writeShadow_eq hf hm, reg_setF_off _ _ _ _ _ hx, reg_setShd]

theorem regShd_writeShadow (hf : isFwin k off = false) :
    regShd (writeShadow s k i off v m) k i off = putMask (regShd s k i off) v m := by
  by_cases hm : m = 0
  · rw [hm, writeShadow_zero, putMask_zero]
  · rw [writeShadow_eq hf hm, regShd_setF, regShd_setShd_self]

/-- A write of an RW-S bit marks the page DIRTY. -/
theorem dirty_writeShadow (hf : isFwin k off = false) (hm : m ≠ 0) :
    flag (writeShadow s k i off v m) k i f_COMMON_SHADOW_STATE_DIRTY = true := by
  rw [writeShadow_eq hf hm, flag, fld_setF _ _ _ _ _ (by decide) (by decide)]
  rfl

/-- What the active copy of a register holds after a plain write: RW-I bits as written, W1C bits cleared where a 1 is written. -/
def plainValue (k : PageKind) (off : Nat) (old v : W32) : W32 :=
  putMask old v (BitVec.ofNat 32 (accMask (fieldsAt k off) .rwI)) &&& ~~~(v &&& BitVec.ofNat 32 (accMask (fieldsAt k off) .w1c))

/-- A plain write of a register without locked bits: the shadow, then the active copy. -/
theorem plainWrite_eq {secure : Bool} (hl : lockMask s secure k off = 0) : plainWrite secure k i off v s =
    let t := writeShadow s k i off v (BitVec.ofNat 32 (accMask (fieldsAt k off) .rwS))
    let x := plainValue k off (reg t k i off) v
    if x = reg t k i off then t else setReg t k i off x := by
  simp only [plainWrite, hl, and_not_zero]
  rfl

theorem pagesOnly_plainWrite {secure : Bool} (hl : lockMask s secure k off = 0) (hf : isFwin k off = false) :
    PagesOnly s (plainWrite secure k i off v s) := by
  rw [plainWrite_eq hl]
  dsimp only
  split
  · exact pagesOnly_writeShadow hf
  · exact (pagesOnly_writeShadow hf).trans (pagesOnly_setReg ..)

theorem reg_plainWrite {secure : Bool} (hl : lockMask s secure k off = 0) (hf : isFwin k off = false) (ho : off ≠ o_COMMON_SHADOW_STATE) :
    reg (plainWrite secure k i off v s) k i off = plainValue k off (reg s k i off) v := by
  rw [plainWrite_eq hl]
  dsimp only
  rw [reg_writeShadow hf ho]
  split
  case isTrue h => rw [reg_writeShadow hf ho, h]
  case isFalse => exact reg_setReg_self ..

theorem regShd_plainWrite {secure : Bool} (hl : lockMask s secure k off = 0) (hf : isFwin k off = false) :
    regShd (plainWrite secure k i off v s) k i off = putMask (regShd s k i off) v (BitVec.ofNat 32 (accMask (fieldsAt k off) .rwS)) := by
  rw [plainWrite_eq hl]
  dsimp only
  split
  · exact regShd_writeShadow hf
  · rw [regShd_setReg, regShd_writeShadow hf]

theorem dirty_plainWrite {secure : Bool} (hl : lockMask s secure k off = 0) (hf : isFwin k off = false) (ho : off ≠ o_COMMON_SHADOW_STATE)
    (hm : BitVec.ofNat 32 (accMask (fieldsAt k off) .rwS) ≠ 0) :
    flag (plainWrite secure k i off v s) k i f_COMMON_SHADOW_STATE_DIRTY = true := by
  rw [plainWrite_eq hl]
  dsimp only
  split
  · exact dirty_writeShadow hf hm
  · rw [flag, fld, reg_setReg, if_neg (Ne.symm ho)]
    exact dirty_writeShadow hf hm

/-- A bit of the active copy after a plain write. -/
theorem getLsbD_plainValue (old : W32) {b : Nat} (hb : b < 32) : (plainValue k off old v).getLsbD b =
    ((if bitN (accMask (fieldsAt k off) .rwI) b = true then v.getLsbD b else old.getLsbD b) &&
      !(v.getLsbD b && bitN (accMask (fieldsAt k off) .w1c) b)) := by
  rw [plainValue, BitVec.getLsbD_and, BitVec.getLsbD_not, BitVec.getLsbD_and, getLsbD_putMask _ _ _ _ hb, getLsbD_ofNat_32 _ _ hb,
    getLsbD_ofNat_32 _ _ hb, decide_eq_true hb, Bool.true_and]

end

/-! ## A page's interrupt, as the page itself shows it (R502) -/

section
variable (s : State) {k : PageKind} {i : Nat}

theorem reg_bumpByte_off {base sat per n x : Nat} (hb : x ≠ base + 4 * (n / 4)) (hs : x ≠ sat + 4 * (n / per)) :
    reg (bumpByte s k i base sat per n) k i x = reg s k i x := by
  unfold bumpByte
  dsimp only
  split
  · exact reg_setF_off _ _ _ _ _ hs
  · exact reg_setF_off _ _ _ _ _ hb

theorem reg_bumpByte_page {k' : PageKind} {i' : Nat} (base sat per n x : Nat) (h : pageNo k i ≠ pageNo k' i') :
    reg (bumpByte s k' i' base sat per n) k i x = reg s k i x := by
  unfold bumpByte
  dsimp only
  split <;> exact reg_setReg_page _ _ _ _ _ _ _ _ h

/-- An event of a controller shows in the controller's own page only. -/
theorem reg_ircEvent_page (hi : Bool) (src x : Nat) (hH : pageNo k i ≠ pageNo .ircH 0) (hM : pageNo k i ≠ pageNo .ircM 0) :
    reg (ircEvent s hi src) k i x = reg s k i x := by
  have h : pageNo k i ≠ pageNo (if hi then .ircH else .ircM) 0 := by cases hi <;> assumption
  unfold ircEvent
  dsimp only
  rw [setF, reg_setReg_page _ _ _ _ _ _ _ _ h, reg_bumpByte_page s _ _ _ _ _ h]

/-- A page that is no controller's sees of an interrupt its pending bit and its event counter. -/
theorem reg_raiseIrq_page (bit x : Nat) (hH : pageNo k i ≠ pageNo .ircH 0) (hM : pageNo k i ≠ pageNo .ircM 0) :
    reg (raiseIrq s k i bit) k i x = reg (bumpByte (setF s k i ⟨o_COMMON_IRQ_PENDING, bit, bit⟩ 1) k i
      (o_COMMON_EVT_CNT 0) o_COMMON_EVT_SAT 16 (evtOf bit)) k i x := by
  unfold raiseIrq
  dsimp only
  split
  · rfl
  · split <;> split <;> simp only [reg_ircEvent_page _ _ _ _ hH hM]

end

/-! ## Bus errors (R487, R500) -/

/-- Bit 0 of the CHIP page raised: the other registers beyond the common block stand. -/
theorem reg_raiseIrq_chip (s : State) {x : Nat} (h : 0x100 ≤ x) : reg (raiseIrq s .chip 0 0) .chip 0 x = reg s .chip 0 x := by
  rw [reg_raiseIrq_page s 0 x (by decide) (by decide), reg_bumpByte_off _ (ne_of_common h _ (by decide)) (ne_of_common h _ (by decide)),
    reg_setF_off _ _ _ _ _ (ne_of_common h _ (by decide))]

/-- Bit 0 of the CHIP page raised is pending there. -/
theorem pending_raiseIrq_chip (s : State) : bitN (reg (raiseIrq s .chip 0 0) .chip 0 o_COMMON_IRQ_PENDING).toNat 0 = true := by
  rw [reg_raiseIrq_page s 0 _ (by decide) (by decide), reg_bumpByte_off _ (by decide) (by decide), ← flag_eq_bitN, flag,
    fld_setF _ _ _ _ _ (by decide) (by decide)]
  rfl

theorem pending_busError (s : State) (off : Nat) (w sec : Bool) (c : Nat) :
    bitN (reg (busError s off w sec c) .chip 0 o_COMMON_IRQ_PENDING).toNat 0 = true := pending_raiseIrq_chip _

/-- The word of a captured bus error has VALID set. -/
theorem bitN_busErrWord (w sec : Bool) {c n : Nat} (hc : c < 32) (hn : n < 2 ^ 16) :
    bitN (BitVec.ofNat 32 (2 ^ 31 + b2n w <<< 30 + b2n sec <<< 29 + c <<< 24 + n)).toNat 31 = true := by
  have hw : ∀ b : Bool, b2n b ≤ 1 := by decide
  have := hw w
  have := hw sec
  simp only [bitN, BitVec.toNat_ofNat, Nat.shiftLeft_eq, Nat.shiftRight_eq_div_pow, beq_iff_eq]
  omega

/-- A bus error stands captured. -/
theorem valid_busError (s : State) (off : Nat) (w sec : Bool) {c : Nat} (hc : c < 32) :
    flag (busError s off w sec c) .chip 0 f_CHIP_BUS_ERR_INFO_VALID = true := by
  have hraise : ∀ t : State, flag t .chip 0 f_CHIP_BUS_ERR_INFO_VALID = true →
      flag (raiseIrq (bumpField t .chip 0 f_CHIP_BUS_ERR_INFO_COUNT 1) .chip 0 0) .chip 0 f_CHIP_BUS_ERR_INFO_VALID = true := by
    intro t ht
    rw [flag, fld, reg_raiseIrq_chip _ (by decide)]
    change (fld (setF t _ _ _ _) .chip 0 f_CHIP_BUS_ERR_INFO_VALID == 1) = true
    rwa [fld_setF_bits _ _ _ _ _ _ (by decide) (by decide) (by decide)]
  apply hraise
  split
  case isTrue h => exact h
  case isFalse =>
    rw [flag_eq_bitN, reg_setReg_self]
    exact bitN_busErrWord w sec hc (fld_lt _ .chip 0 f_CHIP_BUS_ERR_INFO_COUNT)

end Sys2Proof.Proofs
end

section
/-! BAR0 (O39): the requests of host software. -/
namespace Sys2Proof.Proofs

open Sys2Proof.Machine Sys2Proof.Laws

/-! ## The place of a request -/

/-- A page that a page number names is one of the part. -/
theorem lt_instCount_of_pageOf {p : Part} {n : Nat} {k : PageKind} {i : Nat} (h : pageOf p n = some (k, i)) : i < instCount p k := by
  unfold pageOf at h
  split at h
  case h_1 k' hk =>
    have := List.find?_some hk
    simp only [Bool.and_eq_true, decide_eq_true_eq] at this
    obtain ⟨rfl, rfl⟩ : k' = k ∧ n - kindBase k' = i := by simpa using h
    omega
  case h_2 => cases h

section
variable {s : State} {secure : Bool} {off n : Nat}

/-- A request that BAR0 accepts reaches a page of the part. -/
theorem lt_instCount_of_bar0Place {k : PageKind} {i : Nat} (h : bar0Place s secure off n = .ok (k, i)) : i < instCount s.part k := by
  unfold bar0Place at h
  split at h
  · cases h
  · split at h
    · cases h
    case h_2 k' i' hp =>
      split at h
      · cases h
      · split at h
        · cases h
        · cases h
          exact lt_instCount_of_pageOf hp

/-- The causes of a request that BAR0 does not accept. -/
theorem bar0Place_error {c : Nat} (h : bar0Place s secure off n = .error c) : c < 32 := by
  unfold bar0Place at h
  split at h
  · cases h; decide
  · split at h
    · cases h; decide
    · split at h
      · cases h; decide
      · split at h
        · cases h; decide
        · cases h

/-! ## Errors -/

/-- An entry of the secure log changes the log and register pages. -/
theorem pagesOnly_secLogAdd (s : State) (type src : Nat) (w : Bool) (id : Nat) (l : Byte) (m a : Nat) :
    PagesOnly { s with secLog := (secLogAdd s type src w id l m a).secLog } (secLogAdd s type src w id l m a) := by
  unfold secLogAdd
  split
  · rw [raiseIrq_secLog]
    exact (pagesOnly_bumpField ..).trans (pagesOnly_raiseIrq ..)
  · dsimp only
    rw [raiseIrq_secLog]
    exact (pagesOnly_setF ..).trans (pagesOnly_raiseIrq ..)

/-- What a request leaves that BAR0 does not accept: a captured error and the CHIP page's interrupt, with the part, the queue, HBM and
the links as they were. -/
structure Refused (s t : State) : Prop where
  valid : flag t .chip 0 f_CHIP_BUS_ERR_INFO_VALID = true
  raised : bitN (reg t .chip 0 o_COMMON_IRQ_PENDING).toNat 0 = true
  part : t.part = s.part
  pending : t.pending = s.pending
  hbm : t.hbm = s.hbm
  out : t.out = s.out

theorem refused_busError (s : State) (off : Nat) (w sec : Bool) {c : Nat} (hc : c < 32) : Refused s (busError s off w sec c) := by
  obtain ⟨hp, hq, hm, _, ho⟩ := pagesOnly_fields (pagesOnly_busError s off w sec c)
  exact ⟨valid_busError s off w sec hc, pending_busError .., hp, hq, hm, ho⟩

theorem refused_worldError (s : State) (off : Nat) (w : Bool) : Refused s (worldError s off w) := by
  obtain ⟨hv, hr, hp, hq, hm, ho⟩ := refused_busError (secLogAdd s 5 2 w 0 0 0 off) off w false (c := beWORLD) (by decide)
  obtain ⟨hp', hq', hm', _, ho'⟩ := pagesOnly_fields (pagesOnly_secLogAdd s 5 2 w 0 0 0 off)
  exact ⟨hv, hr, hp.trans hp', hq.trans hq', hm.trans hm', ho.trans ho'⟩

/-- The error that ends a request: that of the world where the page is secure only, otherwise a bus error of its cause. -/
theorem refused_error (s : State) (off : Nat) (w sec : Bool) {c : Nat} (hc : c < 32) :
    Refused s (if c = beWORLD then worldError s off w else busError s off w sec c) := by
  split
  · exact refused_worldError ..
  · exact refused_busError _ _ _ _ hc

/-! ## Reads and writes of a doubleword -/

section
variable (hup : s.link.up = true) (hck : s.pkg.noClock = false)
include hup hck

theorem bar0Read_error {c : Nat} (h : bar0Place s (hostSecure s secure) off n = .error c) :
    bar0Read secure off n s = readError s off (hostSecure s secure) c := by
  simp [bar0Read, hup, hck, h]

/-- A read of a location that only stores a value returns it. -/
theorem bar0Read_stored {k : PageKind} {i : Nat} (h : bar0Place s (hostSecure s secure) off 4 = .ok (k, i))
    (hr : readLoc s k i (off % 4096) = (s, storedRead s k i (off % 4096))) :
    bar0Read secure off 4 s = emit s (.bar0Data off (BitVec.ofNat 64 (storedRead s k i (off % 4096)))) := by
  simp [bar0Read, hup, hck, h, hr]

variable (hrd : barReady s = true)
include hrd

theorem regWrite_error {v : W64} {c : Nat} (h : bar0Place s (hostSecure s secure) off n = .error c) : regWrite secure off n v s =
    if c = beWORLD then worldError s off true else busError s off true (hostSecure s secure) c := by
  simp [regWrite, hup, hck, hrd, h]

theorem regWrite_unit {v : W64} {k : PageKind} {i : Nat} (h : bar0Place s (hostSecure s secure) off 4 = .ok (k, i)) (hu : unitOn s k i = true) :
    regWrite secure off 4 v s = writeUnit (hostSecure s secure) k i (off % 4096) (BitVec.ofNat 32 v.toNat) s := by
  simp [regWrite, writeLoc, hup, hck, hrd, h, hu]

end

/-- Beyond the common block the PORT, BAND, QOS, GAUGE and CAL pages hold no register that acts on a write. -/
theorem writeUnit_plain {k : PageKind} {i : Nat} {v : W32} (ho : 0x100 ≤ off) (hi : i < instCount s.part k)
    (hk : k = .port ∨ k = .band ∨ k = .qos ∨ k = .gauge ∨ k = .cal) :
    writeUnit secure k i off v s = plainWrite secure k i off v s := by
  unfold writeUnit
  rw [if_neg (by omega)]
  rcases hk with rfl | rfl | rfl | rfl | rfl
  · rfl
  · rfl
  all_goals
    obtain rfl : i = 0 := Nat.lt_one_iff.1 hi
    rfl

end

/-! ## What the commands answer -/

section
variable {s : State} {secure : Bool} {off n : Nat} (hr : inReset s = false) (ho : off < 2 ^ 24) (h0 : 0 < n) (hn : n ≤ 4096)
include hr ho h0 hn

theorem exec_bar0Read : exec (.bar0Read secure off n) s = done s (bar0Read secure off n s) := by
  change execBar0Read secure off n s = _
  exact run_eq (by rw [decide_eq_true ho, decide_eq_true h0, decide_eq_true hn]; rfl) hr

theorem exec_regWrite (v : W64) : exec (.regWrite secure off n v) s = done s (regWrite secure off n v s) := by
  change execRegWrite secure off n v s = _
  exact run_eq (by rw [decide_eq_true ho, decide_eq_true h0, decide_eq_true hn]; rfl) hr

end

/-- An event counter's write reaches the page's register (R513). -/
theorem exec_evtCntWrite {s : State} {secure : Bool} {k : PageKind} {i j : Nat} (w : W32) (h : reaches s secure k i) (hi : i < 1440)
    (hj : j < 4) : exec (.evtCntWrite secure k i j w) s =
      .next (setReg s k i (o_COMMON_EVT_CNT j) (subtractBytes (reg s k i (o_COMMON_EVT_CNT j)) w)) := by
  change execEvtCntWrite secure k i j w s = _
  rw [execEvtCntWrite, run_eq (by simp [hi, hj]) h.1, hostCmd_eq _ _ h]
  exact done_eq rfl rfl

/-! ## The statement -/

section
variable {s : State} {secure : Bool} {off n : Nat} (hr : inReset s = false) (hup : s.link.up = true) (hck : s.pkg.noClock = false)
  (ho : off < 2 ^ 24)
include hr hup hck ho

/-- A read in a page whose registers only hold what was written. -/
theorem read_stored {k : PageKind} {i : Nat} (h : bar0Place s (hostSecure s secure) off 4 = .ok (k, i)) (hu : unitOn s k i = true)
    (hc : counterAt k (off % 4096) = none) (h100 : 0x100 ≤ off % 4096)
    (hk : k = .port ∨ k = .chk ∨ k = .cal ∨ k = .sec ∨ k = .pwr ∨ k = .hbm ∨ k = .slice) :
    exec (.bar0Read secure off 4) s = .next (emit s (.bar0Data off (BitVec.ofNat 64 (storedRead s k i (off % 4096))))) ∧
      isFwin k (off % 4096) = false := by
  have hshow : ∀ v, unitRead s k i (off % 4096) v = v := by
    rcases hk with rfl | rfl | rfl | rfl | rfl | rfl | rfl <;> exact fun _ => rfl
  have hfwin : isFwin k (off % 4096) = false := by
    rcases hk with rfl | rfl | rfl | rfl | rfl | rfl | rfl <;> rfl
  rw [exec_bar0Read hr ho (by decide) (by decide), bar0Read_stored hup hck h (readLoc_stored h100 hc hu hshow)]
  exact ⟨done_eq rfl rfl, hfwin⟩

variable (hrd : barReady s = true)
include hrd

/-- A write in a page whose registers do not act. -/
theorem write_plain {k : PageKind} {i : Nat} (v : W64) (h : bar0Place s (hostSecure s secure) off 4 = .ok (k, i)) (hu : unitOn s k i = true)
    (h100 : 0x100 ≤ off % 4096) (hl : lockMask s (hostSecure s secure) k (off % 4096) = 0)
    (hk : k = .port ∨ k = .band ∨ k = .qos ∨ k = .gauge ∨ k = .cal) :
    exec (.regWrite secure off 4 v) s = .next (plainWrite (hostSecure s secure) k i (off % 4096) (BitVec.ofNat 32 v.toNat) s) ∧
      isFwin k (off % 4096) = false := by
  have hfwin : isFwin k (off % 4096) = false := by
    rcases hk with rfl | rfl | rfl | rfl | rfl <;> rfl
  obtain ⟨hp, hq, _⟩ := pagesOnly_fields (pagesOnly_plainWrite (i := i) (v := BitVec.ofNat 32 v.toNat) hl hfwin)
  rw [exec_regWrite hr ho (by decide) (by decide), regWrite_unit hup hck hrd h hu, writeUnit_plain h100 (lt_instCount_of_bar0Place h) hk]
  exact ⟨done_eq hp hq, hfwin⟩

end

/-- Settles O39, clause by clause: a stored read, a plain write, a request that BAR0 does not accept, an event counter. -/
theorem registerAccess : Obligations.RegisterAccess := by
  intro s secure off n v hr hup hck hrd ho h0 hn
  refine ⟨?_, ?_, ?_, ?_⟩
  · intro k i h h4 hu hc h100 hk
    subst h4
    obtain ⟨hx, hfwin⟩ := read_stored hr hup hck ho h hu hc h100 hk
    refine ⟨_, hx, BitVec.isLt _, fun b hb => ?_⟩
    dsimp only
    rw [bitN_storedRead hfwin hb]
    exact ⟨fun hw => by rw [hw]; rfl, fun hw hs => by rw [hw, hs]; rfl, fun hw hs => by rw [hw, hs]; rfl⟩
  · intro k i h h4 hu h100 hl hk
    subst h4
    obtain ⟨hx, hfwin⟩ := write_plain hr hup hck ho hrd v h hu h100 hl hk
    obtain ⟨_, _, hhbm, hcells, _⟩ := pagesOnly_fields (pagesOnly_plainWrite (i := i) (v := BitVec.ofNat 32 v.toNat) hl hfwin)
    have hoff := ne_of_common h100 o_COMMON_SHADOW_STATE (by decide)
    refine ⟨_, hx, hhbm, hcells, fun hm => dirty_plainWrite hl hfwin hoff ?_, fun b hb => ?_⟩
    · exact fun hz => hm (by simpa using congrArg BitVec.toNat hz)
    · dsimp only
      rw [regShd_plainWrite hl hfwin, reg_plainWrite hl hfwin hoff]
      simp only [bitN_toNat, getLsbD_putMask _ _ _ _ hb, getLsbD_plainValue _ hb, getLsbD_ofNat_32 _ _ hb]
      refine ⟨fun hs => by rw [if_pos hs], fun hi hw => ?_, fun hw hv => ?_, fun hi hw => ?_⟩
      · rw [if_pos hi, hw, Bool.and_false, Bool.not_false, Bool.and_true]
      · rw [hw, hv, Bool.and_self, Bool.not_true, Bool.and_false]
      · rw [if_neg (Bool.not_eq_true _ ▸ hi), hw, Bool.and_false, Bool.not_false, Bool.and_true]
  · intro c h
    constructor
    · obtain ⟨hv, hirq, hp, hq, hhbm, hout⟩ := refused_error s off true (hostSecure s secure) (bar0Place_error h)
      refine ⟨_, ?_, hv, hirq, hout, hhbm⟩
      rw [exec_regWrite hr ho h0 hn, regWrite_error hup hck hrd h, done_eq hp hq]
    · obtain ⟨hv, _, hp, hq, hhbm, hout⟩ := refused_error s off false (hostSecure s secure) (bar0Place_error h)
      refine ⟨readError s off (hostSecure s secure) c, ?_, hv, ?_, hhbm⟩
      · rw [exec_bar0Read hr ho h0 hn, bar0Read_error hup hck h]
        exact done_eq hp hq
      · rw [readError, emit_out, hout]
  · intro k i j w h hi hj
    refine ⟨_, exec_evtCntWrite w h hi hj, rfl, fun b hb => ?_⟩
    rw [reg_setReg_self, byteOf_subtractBytes _ _ hb]

end Sys2Proof.Proofs
end

section
/-! Interrupts and counters, as the pages show them: what a raised bit and a counted event leave of the registers (R502, R513, R565). -/
namespace Sys2Proof.Proofs

open Sys2Proof.Machine Sys2Proof.Laws

section
variable (s : State) {k k' : PageKind} {i i' x : Nat}

/-- A register elsewhere than the one that is written. -/
theorem reg_setReg_ne {o : Nat} (v : W32) (h : x ≠ o) : reg (setReg s k i o v) k' i' x = reg s k' i' x := by
  by_cases hp : pageNo k' i' = pageNo k i
  · have hpage : page s k' i' = page s k i := by unfold page; rw [hp]
    simp only [reg, setReg, page_setPage, if_pos hp, setPage_part, hpage]
    exact reg_setReg.mget_mset_other _ _ _ _ _ _ h
  · exact reg_setReg_page _ _ _ _ _ _ _ _ hp

theorem reg_setF_ne {f : Fld} (v : Nat) (h : x ≠ f.off) : reg (setF s k i f v) k' i' x = reg s k' i' x := reg_setReg_ne s _ h

/-- A field that holds its new value. -/
theorem fld_setF_self {f : Fld} {v : Nat} (h : f.lo ≤ f.hi) (h32 : f.hi < 32) (hv : v < 2 ^ (f.hi + 1 - f.lo)) :
    fld (setF s k i f v) k i f = v := by
  rw [fld_setF _ _ _ _ _ h h32, Nat.mod_eq_of_lt hv]

theorem flag_setF_self {f : Fld} (h : f.lo ≤ f.hi) (h32 : f.hi < 32) {v : Nat} (hv : v < 2) :
    flag (setF s k i f v) k i f = (v == 1) := by
  have hw : 2 ^ 1 ≤ 2 ^ (f.hi + 1 - f.lo) := Nat.pow_le_pow_right (by decide) (by omega)
  rw [flag, fld_setF_self s h h32 (by omega)]

theorem reg_setF_page {f : Fld} (v : Nat) (h : pageNo k' i' ≠ pageNo k i) : reg (setF s k i f v) k' i' x = reg s k' i' x :=
  reg_setReg_page _ _ _ _ _ _ _ _ h

/-- A page that is neither interrupt controller's. -/
abbrev NotIrc (k : PageKind) (i : Nat) : Prop := pageNo k i ≠ pageNo .ircH 0 ∧ pageNo k i ≠ pageNo .ircM 0

/-- A register that no event changes: beyond the common block, or before its interrupt registers. -/
abbrev Steady (x : Nat) : Prop := x < 0x20 ∨ 0x100 ≤ x

/-- Beyond its pending bit and its event counters, a raised interrupt shows in the controllers' pages only. -/
theorem reg_raiseIrq_steady {bit : Nat} (hb : bit ≤ 31) (hx : Steady x) (hn : NotIrc k' i') :
    reg (raiseIrq s k i bit) k' i' x = reg s k' i' x := by
  have hev : evtOf bit ≤ 31 := by unfold evtOf; split <;> omega
  have hlow : reg (bumpByte (setF s k i ⟨o_COMMON_IRQ_PENDING, bit, bit⟩ 1) k i (o_COMMON_EVT_CNT 0) o_COMMON_EVT_SAT 16 (evtOf bit))
      k' i' x = reg s k' i' x := by
    unfold bumpByte
    dsimp only
    split <;> rw [reg_setF_ne _ _ (by dsimp only [Steady, o_COMMON_EVT_CNT, o_COMMON_EVT_SAT] at hx ⊢; omega),
      reg_setF_ne _ _ (by dsimp only [Steady, o_COMMON_IRQ_PENDING] at hx ⊢; omega)]
  unfold raiseIrq
  dsimp only
  split
  · exact hlow
  · split <;> split <;> simp only [reg_ircEvent_page _ _ _ _ hn.1 hn.2, hlow]

theorem reg_raiseIrq_high {bit : Nat} (hb : bit ≤ 31) (hx : 0x100 ≤ x) (hn : NotIrc k' i') :
    reg (raiseIrq s k i bit) k' i' x = reg s k' i' x := reg_raiseIrq_steady s hb (.inr hx) hn

/-- Another page's registers. -/
theorem reg_raiseIrq_other (bit : Nat) (hp : pageNo k' i' ≠ pageNo k i) (hn : NotIrc k' i') :
    reg (raiseIrq s k i bit) k' i' x = reg s k' i' x := by
  unfold raiseIrq
  dsimp only
  split
  · rw [reg_bumpByte_page _ _ _ _ _ _ hp, reg_setF_page _ _ hp]
  · split <;> split <;> simp only [reg_ircEvent_page _ _ _ _ hn.1 hn.2, reg_bumpByte_page _ _ _ _ _ _ hp, reg_setF_page _ _ hp]

/-- A raised bit is pending in its page. -/
theorem pending_raiseIrq {bit : Nat} (hb : bit ≤ 31) (hn : NotIrc k i) :
    bitN (reg (raiseIrq s k i bit) k i o_COMMON_IRQ_PENDING).toNat bit = true := by
  have hev : evtOf bit ≤ 31 := by unfold evtOf; split <;> omega
  rw [reg_raiseIrq_page s bit _ hn.1 hn.2, reg_bumpByte_off _ (by dsimp only [o_COMMON_EVT_CNT, o_COMMON_IRQ_PENDING]; omega)
    (by dsimp only [o_COMMON_EVT_SAT, o_COMMON_IRQ_PENDING]; omega), ← flag_eq_bitN, flag,
    fld_setF _ _ _ _ _ (by dsimp only; omega) (by dsimp only; omega)]
  simp

/-- A counted event changes no steady register, except in the controllers' pages. -/
theorem reg_bump_steady {off n : Nat} (hx : Steady x) (hn : NotIrc k' i') : reg (bump s k i off n) k' i' x = reg s k' i' x := by
  have hctr : ∀ v, reg (setCtr s k i off v) k' i' x = reg s k' i' x := by
    intro v
    by_cases hp : pageNo k' i' = pageNo k i
    · have hpage : page s k' i' = page s k i := by unfold page; rw [hp]
      simp only [reg, setCtr, page_setPage, if_pos hp, setPage_part, hpage]
    · simp only [reg, setCtr, page_setPage, if_neg hp, setPage_part]
  unfold bump
  dsimp only
  split
  · split
    · rfl
    · split
      · exact hctr _
      · rw [reg_raiseIrq_steady _ (by decide) hx hn, hctr]
  · split <;> exact hctr _
  · rfl

end

theorem notIrc_chip : NotIrc .chip 0 := by decide

end Sys2Proof.Proofs
end

section
/-! Flags by host software and the phase RUN (O28). -/
namespace Sys2Proof.Proofs

open Sys2Proof.Machine Sys2Proof.Laws

/-! ## Flags (R224, R231, R236) -/

section
variable {s : State} (r i : Nat)

/-- A flag after a write of a flag. -/
theorem flagAt_putFlag (r' i' : Nat) (f : Flag) : flagAt (putFlag s r i f) r' i' = if r' = r ∧ i' = i then f else flagAt s r' i' := by
  simp only [flagAt, putFlag, region_setRegion]
  by_cases hr : r' = r
  · subst hr; simp [mget_mset]
  · simp [hr]

/-- An entry of the secure log leaves the regions' flags as they are. -/
theorem secLogAdd_regions (type src : Nat) (w : Bool) (id : Nat) (l : Byte) (m a : Nat) :
    (secLogAdd s type src w id l m a).regions = s.regions := by
  rw [pagesOnly_secLogAdd s type src w id l m a]

theorem flagWrite_open {sec : Bool} (set : Bool) (src id : Nat) (l : Byte) (h : flagSecure s r i = false ∨ sec = true) :
    flagWrite s r i set sec src id l = (if set then flagSet s r i else flagClr s r i, true) := by
  rcases h with h | h <;> simp [flagWrite, h]

theorem flagWrite_refused (set : Bool) (src id : Nat) (l : Byte) (h : flagSecure s r i = true) :
    flagWrite s r i set false src id l = (flagDrop (secLogAdd s 4 src true id l 0 i) r, false) := by
  simp [flagWrite, h]

theorem flagSet_free (h : takerOf s r i = none) :
    flagSet s r i = if (flagAt s r i).set then s else putFlag s r i { set := true } := by
  simp only [flagSet, h]

/-- The set of a clear take flag takes one off LEVEL in its place (R224). -/
theorem flagSet_taken {b : Nat} (h : takerOf s r i = some b) (hf : (flagAt s r i).set = false) : flagSet s r i = levelDown s b := by
  simp [flagSet, h, hf]

/-- Where nothing takes the flag, a set changes the regions alone. -/
theorem flagSet_frame (h : takerOf s r i = none) : flagSet s r i = { s with regions := (flagSet s r i).regions } := by
  rw [flagSet_free r i h]
  split <;> rfl

/-- A set changes neither the part nor the queue. -/
theorem flagSet_part_pending : (flagSet s r i).part = s.part ∧ (flagSet s r i).pending = s.pending := by
  unfold flagSet
  split
  · exact ⟨rfl, rfl⟩
  · split <;> exact ⟨rfl, rfl⟩

theorem flagAt_flagSet (h : takerOf s r i = none) (r' i' : Nat) : flagAt (flagSet s r i) r' i' =
    if r' = r ∧ i' = i then (if (flagAt s r i).set = true then flagAt s r i else { set := true }) else flagAt s r' i' := by
  rw [flagSet_free r i h]
  split
  · split
    · rename_i he; rw [he.1, he.2]
    · rfl
  · rw [flagAt_putFlag]

end

theorem fld_levelDown (s : State) (b : Nat) :
    fld (levelDown s b) .block b f_BLOCK_REACH_STATUS_LEVEL = fld s .block b f_BLOCK_REACH_STATUS_LEVEL - 1 := by
  have := fld_lt s .block b f_BLOCK_REACH_STATUS_LEVEL
  rw [levelDown, fld_setF _ _ _ _ _ (by decide) (by decide)]
  dsimp only [f_BLOCK_REACH_STATUS_LEVEL] at *
  omega

/-- A region's page is neither interrupt controller's. -/
theorem notIrc_region (r : Nat) : NotIrc .region r := by
  simp only [NotIrc, pageNo, kindBase, kindRow]
  omega

/-! ## Host software's writes of flags (R232) -/

section
variable {s : State} {secure : Bool} {r i : Nat} (h : reaches s secure .region r) (ht : thawed s = true) (hr : r < 32) (hi : i < 4096)
include h ht hr hi

/-- A write of a flag that reaches a region whose page is not frozen. -/
theorem run_hostFlag (set : Bool) : run (decide (r < 32) && decide (i < 4096)) s (hostFlag secure r i set) =
    done s (flagWrite s r i set (hostSecure s secure) 2 0 0).1 := by
  rw [run_eq (by rw [decide_eq_true hr, decide_eq_true hi]; rfl) h.1, hostFlag, hostCmd_eq _ _ h, flagByHost, frozen_of_thawed ht]
  rfl

theorem exec_flagSet : exec (.flagSet secure r i) s = done s (flagWrite s r i true (hostSecure s secure) 2 0 0).1 := by
  change execFlagSet secure r i s = _
  exact run_hostFlag h ht hr hi true

theorem exec_flagClr : exec (.flagClr secure r i) s = done s (flagWrite s r i false (hostSecure s secure) 2 0 0).1 := by
  change execFlagClr secure r i s = _
  exact run_hostFlag h ht hr hi false

theorem exec_flagSet_open (hw : flagSecure s r i = false ∨ hostSecure s secure = true) :
    exec (.flagSet secure r i) s = .next (flagSet s r i) := by
  rw [exec_flagSet h ht hr hi, flagWrite_open r i true 2 0 0 hw]
  exact done_eq (flagSet_part_pending r i).1 (flagSet_part_pending r i).2

theorem exec_flagClr_open (hw : flagSecure s r i = false ∨ hostSecure s secure = true) :
    exec (.flagClr secure r i) s = .next (flagClr s r i) := by
  rw [exec_flagClr h ht hr hi, flagWrite_open r i false 2 0 0 hw]
  exact done_eq rfl rfl

end

/-- A write that the segment's world refuses changes no flag and raises the region's bit 0 (R236). -/
theorem flagWrite_refused_next (s : State) {r i : Nat} (set : Bool) (hf : flagSecure s r i = true) :
    ∃ t, done s (flagWrite s r i set false 2 0 0).1 = .next t ∧ t.regions = s.regions ∧
      bitN (reg t .region r o_COMMON_IRQ_PENDING).toNat 0 = true := by
  rw [flagWrite_refused r i set 2 0 0 hf, flagDrop]
  obtain ⟨hp, hq, _⟩ := pagesOnly_fields (pagesOnly_secLogAdd s 4 2 true 0 0 0 i)
  have hg := secLogAdd_regions (s := s) 4 2 true 0 0 0 i
  generalize secLogAdd s 4 2 true 0 0 0 i = u at *
  exact ⟨raiseIrq u .region r 0, done_eq ((raiseIrq_part ..).trans hp) ((raiseIrq_pending ..).trans hq),
    (raiseIrq_regions ..).trans hg, pending_raiseIrq u (by decide) (notIrc_region r)⟩

/-- The first part of O28: a permitted set or clear, the set of a take flag, and a write that the segment's world refuses. -/
theorem hostFlagWrites : Claims.HostFlagWrites := by
  intro s secure r i h ht hr hi
  refine ⟨fun hw => ⟨fun hn => ?_, fun b hb hf => ?_, ?_⟩, fun hf hw c hc => ?_⟩
  · refine ⟨_, exec_flagSet_open h ht hr hi hw, ?_, fun r' i' hne => ?_, ?_, ?_⟩
    · rw [flagAt_flagSet r i hn, if_pos ⟨rfl, rfl⟩]
    · rw [flagAt_flagSet r i hn, if_neg hne]
    · rw [flagSet_frame r i hn]
    · rw [flagSet_frame r i hn]
  · refine ⟨_, exec_flagSet_open h ht hr hi hw, ?_⟩
    rw [flagSet_taken r i hb hf]
    exact ⟨rfl, fld_levelDown s b, rfl, rfl⟩
  · refine ⟨_, exec_flagClr_open h ht hr hi hw, ?_, fun r' i' hne => ?_, rfl, rfl⟩
    · rw [flagClr, flagAt_putFlag, if_pos ⟨rfl, rfl⟩]
    · rw [flagClr, flagAt_putFlag, if_neg hne]
  · rcases hc with rfl | rfl
    · rw [exec_flagSet h ht hr hi, hw]; exact flagWrite_refused_next s true hf
    · rw [exec_flagClr h ht hr hi, hw]; exact flagWrite_refused_next s false hf

/-! ## The phase RUN (R34, R35, R37) -/

section
variable (s : State)

theorem phase_setPhase {p : Nat} (h : p < 16) : phase (setPhase s p) = p := by
  exact fld_setF_self s (by decide) (by decide) h

theorem phase_setF_off {f : Fld} (v : Nat) (h : f_CHIP_STATE_PHASE.off ≠ f.off) : phase (setF s .chip 0 f v) = phase s :=
  fld_setF_off _ _ _ _ _ _ h

theorem run_setPhase (p : Nat) : fld (setPhase s p) .chip 0 f_CHIP_CTRL_RUN = fld s .chip 0 f_CHIP_CTRL_RUN :=
  fld_setF_off _ _ _ _ _ _ (by decide)

theorem fld_setRunEnding (v : Bool) (k : PageKind) (i : Nat) (f : Fld) : fld (setRunEnding s v) k i f = fld s k i f := rfl

/-- RUN = 1 in READY enters RUN. -/
theorem writeRun_ready (h : phase s = 2) : writeRun 1 s = setPhase (setRunEnding (setF s .chip 0 f_CHIP_CTRL_RUN 1) false) 3 := by
  simp only [writeRun, phase_setF_off s (f := f_CHIP_CTRL_RUN) 1 (by decide), h, if_true]

/-- RUN = 1 in any other phase is refused. -/
theorem writeRun_refused (h : phase s ≠ 2) : writeRun 1 s = setF (setF s .chip 0 f_CHIP_CTRL_RUN 1) .chip 0 f_CHIP_STATE_RUN_REFUSED 1 := by
  simp only [writeRun, phase_setF_off s (f := f_CHIP_CTRL_RUN) 1 (by decide), h, if_true, if_false]

/-- RUN = 0 waits for the drain where the phase is RUN. -/
theorem writeRun_zero : writeRun 0 s = if phase s = 3 then setRunEnding (setF s .chip 0 f_CHIP_CTRL_RUN 0) true else setF s .chip 0 f_CHIP_CTRL_RUN 0 := by
  simp only [writeRun, phase_setF_off s (f := f_CHIP_CTRL_RUN) 0 (by decide), Nat.zero_ne_one, if_false]

variable {s} {secure : Bool} (h : reaches s secure .chip 0)
include h

theorem exec_runEnter : exec (.runEnter secure) s = done s (writeRun 1 s) := by
  change execRunEnter secure s = _
  rw [execRunEnter, run_eq rfl h.1, hostCmd_eq _ _ h]

theorem exec_runLeave : exec (.runLeave secure) s = done s (writeRun 0 s) := by
  change execRunLeave secure s = _
  rw [execRunLeave, run_eq rfl h.1, hostCmd_eq _ _ h]

end

/-- The end of RUN at the drain of the last partition (R35). -/
theorem exec_runDrained {s : State} (hr : inReset s = false) (hp : phase s = 3) (he : s.chores.runEnding = true)
    (hd : ∀ p, p < 8 → partDrained s p = true) : exec .runDrained s = done s (setPhase (setRunEnding s false) 2) := by
  change execRunDrained s = _
  have hall : (List.range 8).all (partDrained s) = true := List.all_eq_true.2 fun p h => hd p (List.mem_range.1 h)
  rw [execRunDrained, run_eq rfl hr]
  simp only [hp, he, hall, Bool.and_self, if_true, decide_true]

/-- The second part of O28: RUN = 1 in READY and elsewhere, RUN = 0, and the drain. -/
theorem runPhase : Claims.RunPhase := by
  intro s secure h
  refine ⟨fun hp => ?_, fun hp => ?_, ?_, fun hp he hd => ?_⟩
  · rw [exec_runEnter h, writeRun_ready s hp]
    refine ⟨_, done_eq rfl rfl, phase_setPhase _ (by decide), ?_, rfl, rfl, rfl⟩
    rw [run_setPhase, fld_setRunEnding, fld_setF_self _ (by decide) (by decide) (by decide)]
  · rw [exec_runEnter h, writeRun_refused s hp]
    refine ⟨_, done_eq rfl rfl, ?_, ?_, rfl, ?_, rfl, rfl⟩
    · rw [phase, fld_setF_bits _ _ _ _ _ _ (by decide) (by decide) (by decide)]
      exact phase_setF_off s 1 (by decide)
    · rw [fld_setF_off _ _ _ _ _ _ (by decide), fld_setF_self _ (by decide) (by decide) (by decide)]
    · rw [fld_setF_self _ (by decide) (by decide) (by decide)]
  · rw [exec_runLeave h, writeRun_zero]
    have hp : phase (setF s .chip 0 f_CHIP_CTRL_RUN 0) = phase s := phase_setF_off s 0 (by decide)
    have hf : fld (setF s .chip 0 f_CHIP_CTRL_RUN 0) .chip 0 f_CHIP_CTRL_RUN = 0 := by rw [fld_setF_self _ (by decide) (by decide) (by decide)]
    split
    · exact ⟨_, done_eq rfl rfl, hp, hf, fun _ => rfl, rfl⟩
    · exact ⟨_, done_eq rfl rfl, hp, hf, fun h3 => absurd h3 ‹_›, rfl⟩
  · exact ⟨_, (exec_runDrained h.1 hp he hd).trans (done_eq rfl rfl), phase_setPhase _ (by decide), rfl, rfl⟩

end Sys2Proof.Proofs
end

section
/-! What resets and power-downs leave of the device (R221, R434, R435, R553, R555): absorbing a unit changes cells, blocks, flags, register pages of
units and the self-test queue. -/
namespace Sys2Proof.Proofs

open Sys2Proof.Machine Sys2Proof.Laws

/-! ## What is left alone -/

/-- What absorbing units leaves: everything but the named fields, the registers of the CHIP page beyond the common block (other than
SELFTEST_STATUS), the registers `P` of the PWR page, and the groups of every cell that has none but FREE ones. -/
structure Leaves (P : Nat → Prop) (s t : State) : Prop where
  rest : t = { s with
    pages := t.pages, cells := t.cells, blocks := t.blocks, regions := t.regions, reqs := t.reqs, power := t.power, secLog := t.secLog
    chores := { s.chores with tests := t.chores.tests, log := t.chores.log } }
  chip : ∀ x, 0x100 ≤ x → x ≠ f_CHIP_SELFTEST_STATUS_QUEUED.off → reg t .chip 0 x = reg s .chip 0 x
  pwr : ∀ x, P x → reg t .pwr 0 x = reg s .pwr 0 x
  groups : ∀ c, (∀ g, group s c g = {}) → ∀ g, group t c g = {}

/-- Beside that, no region's flags are entered that were not listed. -/
structure Drops (P : Nat → Prop) (s t : State) : Prop extends Leaves P s t where
  regions : ∀ e ∈ t.regions, ∃ f ∈ s.regions, f.1 = e.1

section
variable {P : Nat → Prop} {s t u : State}

theorem Leaves.trans (h : Leaves P s t) (k : Leaves P t u) : Leaves P s u where
  rest := by rw [k.rest, h.rest]
  chip x h1 h2 := (k.chip x h1 h2).trans (h.chip x h1 h2)
  pwr x hx := (k.pwr x hx).trans (h.pwr x hx)
  groups c hc := k.groups c (h.groups c hc)

theorem Drops.refl : Drops P s s where
  rest := rfl
  chip _ _ _ := rfl
  pwr _ _ := rfl
  groups _ h := h
  regions e he := ⟨e, he, rfl⟩

theorem Drops.trans (h : Drops P s t) (k : Drops P t u) : Drops P s u where
  toLeaves := h.toLeaves.trans k.toLeaves
  regions e he := by
    obtain ⟨f, hf, hfe⟩ := k.regions e he
    obtain ⟨g, hg, hgf⟩ := h.regions f hf
    exact ⟨g, hg, hgf.trans hfe⟩

/-- Steps that each leave the device alone do so together. -/
theorem drops_foldl {α : Type} (f : State → α → State) (l : List α) (h : ∀ s, ∀ x ∈ l, Drops P s (f s x)) : Drops P s (l.foldl f s) :=
  List.foldlRecOn l f Drops.refl fun t ht x hx => ht.trans (h t x hx)

/-- Steps that each leave the cells alone do so together. -/
theorem cells_foldl {α : Type} (f : State → α → State) (l : List α) (s : State) (h : ∀ s, ∀ x ∈ l, (f s x).cells = s.cells) :
    (l.foldl f s).cells = s.cells :=
  List.foldlRecOn (motive := fun t : State => t.cells = s.cells) l f rfl fun t ht x hx => (h t x hx).trans ht

theorem Leaves.part (h : Leaves P s t) : t.part = s.part := (congrArg State.part h.rest :)
theorem Leaves.pending (h : Leaves P s t) : t.pending = s.pending := (congrArg State.pending h.rest :)
theorem Leaves.hbm (h : Leaves P s t) : t.hbm = s.hbm := (congrArg State.hbm h.rest :)
theorem Leaves.repair (h : Leaves P s t) : t.repair = s.repair := (congrArg State.repair h.rest :)
theorem Leaves.unit (h : Leaves P s t) : t.chores.unit = s.chores.unit := (congrArg (fun s => s.chores.unit) h.rest :)
theorem Leaves.parts (h : Leaves P s t) : t.chores.parts = s.chores.parts := (congrArg (fun s => s.chores.parts) h.rest :)

/-- No entry of a region appears. -/
theorem Drops.noRegion (h : Drops P s t) {r : Nat} (hs : ∀ e ∈ s.regions, e.1 ≠ r) : ∀ e ∈ t.regions, e.1 ≠ r := by
  intro e he
  obtain ⟨f, hf, hfe⟩ := h.regions e he
  exact hfe ▸ hs f hf

end

/-! ## Updates of records -/

section
variable {P : Nat → Prop} (s : State)

/-- The entries after a write of a map. -/
theorem mem_mset {α : Type} [DecidableEq α] (d : α) (m : List (Nat × α)) (k : Nat) (v : α) :
    ∀ e ∈ mset d m k v, e.1 = k ∨ e ∈ m := by
  intro e he
  unfold mset at he
  split at he
  · exact .inr (mem_mdel k m e he)
  · rcases mem_mins k v _ e he with rfl | he
    · exact .inl rfl
    · exact .inr (mem_mdel k m e he)

/-- A page beyond those of the device's shared units. -/
abbrev UnitPage (k : PageKind) (i : Nat) : Prop := 0x100 ≤ pageNo k i

theorem unitPage_region (r : Nat) : UnitPage .region r := Nat.le_add_right _ _
theorem unitPage_block (b : Nat) : UnitPage .block b := le_trans (by decide) (Nat.le_add_right _ b)
theorem unitPage_cell (c : Nat) : UnitPage .cell c := le_trans (by decide) (Nat.le_add_right _ c)

theorem reg_setPage_page {k k' : PageKind} {i i' : Nat} (v : Page) (x : Nat) (h : pageNo k' i' ≠ pageNo k i) :
    reg (setPage s k i v) k' i' x = reg s k' i' x := by
  simp only [reg, page_setPage, if_neg h, setPage_part]

theorem drops_setPage {k : PageKind} {i : Nat} (v : Page) (h : UnitPage k i) : Drops P s (setPage s k i v) where
  rest := rfl
  chip _ _ _ := reg_setPage_page s v _ (Nat.ne_of_lt (lt_of_lt_of_le (by decide) h))
  pwr _ _ := reg_setPage_page s v _ (Nat.ne_of_lt (lt_of_lt_of_le (by decide) h))
  groups _ h := h
  regions e he := ⟨e, he, rfl⟩

theorem drops_setF {k : PageKind} {i : Nat} (f : Fld) (v : Nat) (h : UnitPage k i) : Drops P s (setF s k i f v) := drops_setPage s _ h

theorem drops_raiseIrq {k : PageKind} {i : Nat} (bit : Nat) (h : UnitPage k i) : Drops P s (raiseIrq s k i bit) where
  rest := by rw [pagesOnly_raiseIrq s k i bit]
  chip _ _ _ := reg_raiseIrq_other s bit (Nat.ne_of_lt (lt_of_lt_of_le (by decide) h)) ⟨by decide, by decide⟩
  pwr _ _ := reg_raiseIrq_other s bit (Nat.ne_of_lt (lt_of_lt_of_le (by decide) h)) ⟨by decide, by decide⟩
  groups c hc g := by rw [raiseIrq_group]; exact hc g
  regions e he := ⟨e, by rwa [raiseIrq_regions] at he, rfl⟩

theorem drops_setBlock (b : Nat) (v : Block) : Drops P s (setBlock s b v) where
  rest := rfl
  chip _ _ _ := rfl
  pwr _ _ := rfl
  groups _ h := h
  regions e he := ⟨e, he, rfl⟩

theorem drops_setRun (b : Nat) (v : Run) : Drops P s (setRun s b v) := drops_setBlock s b _

theorem drops_reqs (q : List Req) : Drops P s { s with reqs := q } where
  rest := rfl
  chip _ _ _ := rfl
  pwr _ _ := rfl
  groups _ h := h
  regions e he := ⟨e, he, rfl⟩

theorem drops_power (p : Power) : Drops P s { s with power := p } where
  rest := rfl
  chip _ _ _ := rfl
  pwr _ _ := rfl
  groups _ h := h
  regions e he := ⟨e, he, rfl⟩

/-- A write of a cell that brings no group. -/
theorem drops_setCell (c : Nat) (v : Cell) (h : (∀ g, group s c g = {}) → ∀ g, mget {} v.groups g = {}) : Drops P s (setCell s c v) where
  rest := rfl
  chip _ _ _ := rfl
  pwr _ _ := rfl
  groups d hd g := by
    rw [group, cell_setCell]
    split
    · rename_i he; subst he; exact h hd g
    · exact hd g
  regions e he := ⟨e, he, rfl⟩

theorem leaves_setRegion (r : Nat) (v : Region) : Leaves P s (setRegion s r v) where
  rest := rfl
  chip _ _ _ := rfl
  pwr _ _ := rfl
  groups _ h := h

theorem setRegion_empty_regions (r : Nat) : (setRegion s r {}).regions = mdel r s.regions := by
  rw [setRegion, mset, if_pos rfl]

/-- A region's record cleared. -/
theorem drops_setRegion_empty (r : Nat) : Drops P s (setRegion s r {}) where
  toLeaves := leaves_setRegion s r {}
  regions e he := ⟨e, mem_mdel r s.regions e (setRegion_empty_regions s r ▸ he), rfl⟩

end

/-! ## Groups and cells (R172, R553) -/

section
variable {P : Nat → Prop} (s : State)

/-- The locks of a group go from the regions that are listed. -/
def unlockAll (c g : Nat) (s : State) : State :=
  s.regions.foldl (fun t p => setRegion t p.1 { p.2 with flags := p.2.flags.filter (fun f => f.2.holder != some (c, g)) }) s

theorem drops_unlockAll (c g : Nat) : Drops P s (unlockAll c g s) := by
  refine List.foldlRecOn _ _ Drops.refl fun t ht p hp => ⟨ht.toLeaves.trans (leaves_setRegion t _ _), fun e he => ?_⟩
  rcases mem_mset _ _ _ _ e he with h | h
  · exact ⟨p, hp, h.symm⟩
  · exact ht.regions e h

theorem unlockAll_cells (c g : Nat) : (unlockAll c g s).cells = s.cells :=
  cells_foldl _ _ s fun _ _ _ => rfl

/-- How many locks a group holds, each of which is told of. -/
def lockCount (c g : Nat) : Nat := (s.regions.map (fun p => (locksIn p.2.flags c g).length)).sum

theorem releaseLocks_eq (c g : Nat) (tell : Bool) : releaseLocks s c g tell =
    if tell then (List.range (lockCount s c g)).foldl (fun s _ => raiseIrq s .cell c 1) (unlockAll c g s) else unlockAll c g s := rfl

theorem drops_releaseLocks (c g : Nat) (tell : Bool) : Drops P s (releaseLocks s c g tell) := by
  rw [releaseLocks_eq]
  split
  · exact (drops_unlockAll s c g).trans (drops_foldl _ _ fun t _ _ => drops_raiseIrq t 1 (unitPage_cell c))
  · exact drops_unlockAll s c g

theorem releaseLocks_cells (c g : Nat) (tell : Bool) : (releaseLocks s c g tell).cells = s.cells := by
  rw [releaseLocks_eq]
  split
  · exact (cells_foldl _ _ _ fun t _ _ => raiseIrq_cells t .cell c 1).trans (unlockAll_cells s c g)
  · exact unlockAll_cells s c g

/-- The groups of a cell that absorbs are noted as killed and lose their locks. -/
def endGroups (tell : Bool) (c : Nat) (s : State) : State :=
  (liveGroups s c).foldl (fun s g => releaseLocks (noteKilled s c g) c g tell) s

theorem drops_endGroups (tell : Bool) (c : Nat) : Drops P s (endGroups tell c s) :=
  drops_foldl _ _ fun t g _ => (drops_setRun t _ _).trans (drops_releaseLocks _ c g tell)

theorem endGroups_cells (tell : Bool) (c : Nat) : (endGroups tell c s).cells = s.cells :=
  cells_foldl _ _ s fun t g _ => releaseLocks_cells (noteKilled t c g) c g tell

/-- What a cell that has absorbed holds: its local memory and the counts that no reset takes (R553). -/
def absorbed (k : Cell) : Cell := { lm := k.lm, lmPois := k.lmPois, lmSyn := k.lmSyn, serial := k.serial, lastSample := k.lastSample }

/-- The requests that stand when a cell absorbs: its full/empty accesses are withdrawn. -/
def standing (c : Nat) (q : List Req) : List Req := q.filter (fun q => !(ofCell c q.src && (q.op matches .fe _ _ _ _ _)))

theorem absorbCell_eq (tell : Bool) (c : Nat) : absorbCell tell s c =
    setCell { endGroups tell c s with reqs := standing c (endGroups tell c s).reqs } c (absorbed (cell s c)) := by
  have hc : cell (endGroups tell c s) c = cell s c := by rw [cell, endGroups_cells, cell]
  rw [← hc]
  rfl

theorem drops_absorbCell (tell : Bool) (c : Nat) : Drops P s (absorbCell tell s c) := by
  rw [absorbCell_eq]
  exact ((drops_endGroups s tell c).trans (drops_reqs _ _)).trans (drops_setCell _ _ _ fun _ _ => rfl)

/-- A cell that has absorbed, and every other cell. -/
theorem cell_absorbCell (tell : Bool) (c d : Nat) : cell (absorbCell tell s c) d = if d = c then absorbed (cell s c) else cell s d := by
  have hc : cell { endGroups tell c s with reqs := standing c (endGroups tell c s).reqs } d = cell s d := by
    change cell (endGroups tell c s) d = _
    rw [cell, endGroups_cells, cell]
  rw [absorbCell_eq, cell_setCell, hc]

theorem group_absorbCell (tell : Bool) (c g : Nat) : group (absorbCell tell s c) c g = {} := by
  rw [group, cell_absorbCell, if_pos rfl]
  rfl

theorem lm_absorbCell (tell : Bool) (c d : Nat) : (cell (absorbCell tell s c) d).lm = (cell s d).lm := by
  rw [cell_absorbCell]
  split
  · rename_i h; rw [h]; rfl
  · rfl

/-- A killed group's run and its work in the cell's units (R122, R218). -/
def haltGroup (c g : Nat) (s : State) : State :=
  setCell (setRun s (group s c g).lead { (block s (group s c g).lead).run with killed := true }) c (killCopies (killOps (cell s c) g) g)

theorem drops_haltGroup (c g : Nat) : Drops P s (haltGroup c g s) :=
  (drops_setRun s _ _).trans (drops_setCell _ c _ fun h => h)

theorem killGroup_eq {c g : Nat} (h : (group s c g).st ≠ .free) : killGroup s c g =
    let t := releaseLocks (haltGroup c g s) c g true
    freeGroup { t with reqs := t.reqs.filter (fun q => !(q.src == .group c g && (q.op matches .fe _ _ _ _ _))) } c g := if_neg h

/-- Killing a group leaves no group where there was none. -/
theorem drops_killGroup (c g : Nat) : Drops P s (killGroup s c g) := by
  by_cases hf : (group s c g).st = .free
  · rw [killGroup, if_pos hf]
    exact Drops.refl
  · rw [killGroup_eq s hf]
    refine ((((drops_haltGroup s c g).trans (drops_releaseLocks _ c g true)).trans (drops_reqs _ _)).trans (drops_setCell _ c _ fun h g' => ?_))
    rw [mget_mset]
    split
    · rfl
    · exact h g'

end

/-! ## Reaches, blocks and regions (R218, R221, R555) -/

section
variable {P : Nat → Prop} (s : State)

theorem drops_killRun (b : Nat) : Drops P s (killRun s b) := drops_foldl _ _ fun t x _ => drops_killGroup t x.1 x.2

theorem drops_reachOff (b : Nat) : Drops P s (reachOff s b) :=
  ((drops_setF s _ _ (unitPage_block b)).trans (drops_setF _ _ _ (unitPage_block b))).trans (drops_setRun _ _ _)

theorem drops_resetReach (b : Nat) : Drops P s (resetReach s b) := by
  unfold resetReach
  dsimp only
  split
  · exact Drops.refl
  · split
    · exact ((drops_killRun s b).trans (drops_setF _ _ _ (unitPage_block b))).trans (drops_reachOff _ b)
    · exact drops_reachOff s b

theorem drops_failRuns (b : Nat) : Drops P s (failRuns s b) := by
  refine drops_foldl _ _ fun t x _ => ?_
  split
  · exact drops_setRun t _ _
  · exact Drops.refl

theorem drops_absorbBlock (b : Nat) : Drops P s (absorbBlock s b) :=
  ((drops_failRuns s b).trans (drops_foldl _ _ fun t c _ => drops_absorbCell t true c)).trans (drops_resetReach _ b)

theorem drops_absorbRegion (r : Nat) : Drops P s (absorbRegion s r) := drops_foldl _ _ fun t b _ => drops_absorbBlock t b

/-- Steps that leave the device alone and of which one empties a cell leave it empty. -/
theorem group_foldl {α : Type} (f : State → α → State) (l : List α) (c : Nat) (hd : ∀ s, ∀ x ∈ l, Drops (fun _ => False) s (f s x))
    (he : ∃ x ∈ l, ∀ s g, group (f s x) c g = {}) (g : Nat) : group (l.foldl f s) c g = {} := by
  obtain ⟨x, hx, hf⟩ := he
  obtain ⟨l₁, l₂, rfl⟩ := List.append_of_mem hx
  rw [List.foldl_append, List.foldl_cons]
  exact (drops_foldl f l₂ fun s y hy => hd s y (by simp [hy])).groups c (hf _) g

/-- The cells of a block are found where its region's cells stand: by the repair state alone. -/
theorem cellsIn_congr {s t : State} (h : t.repair = s.repair) (b : Nat) : cellsIn t b = cellsIn s b := by
  unfold cellsIn firstRank cellsOfBlock sevenMask
  rw [h]

theorem group_absorbBlock {b c : Nat} (hc : c ∈ cellsIn s b) (g : Nat) : group (absorbBlock s b) c g = {} := by
  refine (drops_resetReach (P := fun _ => False) _ b).groups c (fun g => ?_) g
  exact group_foldl _ _ _ c (fun t d _ => drops_absorbCell t true d) ⟨c, hc, fun t g => group_absorbCell t true c g⟩ g

/-- A region's cells, by its blocks. -/
theorem group_absorbRegion {r b c : Nat} (hb : b ∈ blocksOfRegion r) (hc : c ∈ cellsIn s b) (g : Nat) : group (absorbRegion s r) c g = {} := by
  obtain ⟨l₁, l₂, hl⟩ := List.append_of_mem hb
  have h1 : Drops (fun _ => False) s (l₁.foldl absorbBlock s) := drops_foldl _ _ fun t b _ => drops_absorbBlock t b
  have h2 : ∀ u, Drops (fun _ => False) u (l₂.foldl absorbBlock u) := fun u => drops_foldl _ _ fun t b _ => drops_absorbBlock t b
  rw [absorbRegion, hl, List.foldl_append, List.foldl_cons]
  exact (h2 _).groups c (group_absorbBlock _ (by rwa [cellsIn_congr h1.repair])) g

end

/-! ## Regions that leave ON (R434, R435) -/

section
variable {P : Nat → Prop} (s : State)

theorem drops_wipePage {k : PageKind} {i : Nat} (h : UnitPage k i) : Drops P s (wipePage s k i) := drops_setPage s _ h

theorem drops_wipeBlocks (l : List Nat) : Drops P s (l.foldl (fun s b => setBlock (wipePage s .block b) b {}) s) :=
  drops_foldl _ _ fun t b _ => (drops_wipePage t (unitPage_block b)).trans (drops_setBlock _ b {})

theorem drops_wipeCells (l : List Nat) : Drops P s (l.foldl (fun s c => setCell (wipePage s .cell c) c {}) s) :=
  drops_foldl _ _ fun t c _ => (drops_wipePage t (unitPage_cell c)).trans (drops_setCell _ c {} fun _ _ => rfl)

theorem drops_wipeRegion (r : Nat) : Drops P s (wipeRegion s r) :=
  (((drops_wipeBlocks s _).trans (drops_wipeCells _ _)).trans (drops_wipePage _ (unitPage_region r))).trans (drops_setRegion_empty _ r)

/-- A register of the PWR page that holds a region's state (R432) or its demands (R427). -/
abbrev pwrOf (r x : Nat) : Prop := x = o_PWR_REG_STATUS r ∨ x = o_PWR_REG_SRC r

theorem drops_pwr {r : Nat} (hP : ∀ x, P x → ¬ pwrOf r x) (f : Fld) (v : Nat) (hf : pwrOf r f.off) : Drops P s (setF s .pwr 0 f v) where
  rest := rfl
  chip _ _ _ := reg_setF_page s v (by decide)
  pwr x hx := reg_setF_ne s v fun h => hP x hx (h ▸ hf)
  groups _ h := h
  regions e he := ⟨e, he, rfl⟩

theorem drops_setPause {r : Nat} (hP : ∀ x, P x → ¬ pwrOf r x) : Drops P s (setPause s r) :=
  (drops_pwr s hP _ _ (.inl rfl)).trans (drops_pwr _ hP _ _ (.inr rfl))

theorem drops_setRail (r : Nat) (v : Rail) : Drops P s (setRail s r v) := drops_power s _

/-- A region that has lost its power, in state `st`, before its rail and its demands are noted. -/
def poweredDown (r st : Nat) (s : State) : State := setRegionState (wipeRegion (absorbRegion s r) r) r st

/-- Its rail no longer moves, and no pair of neighbours that it belongs to stands apart (R425). -/
def railFreed (r : Nat) (s : State) : State :=
  let s := setRail s r { rail s r with moving := false, nbs := [], asked := none, lending := false }
  { s with power := { s.power with apart := s.power.apart.filter (fun x => x.1 != r && x.2 != r) } }

theorem leaveOn_eq (r st : Nat) : leaveOn s r st =
    setPause (setF (railFreed r (poweredDown r st s)) .pwr 0 (f_PWR_REG_STATUS_DEFERRED r) 0) r := rfl

/-- A region leaves ON: its own registers of the PWR page show it. -/
theorem drops_leaveOn {r : Nat} (st : Nat) (hP : ∀ x, P x → ¬ pwrOf r x) : Drops P s (leaveOn s r st) := by
  have h1 : Drops P s (poweredDown r st s) :=
    ((drops_absorbRegion s r).trans (drops_wipeRegion _ r)).trans (drops_pwr _ hP _ _ (.inl rfl))
  have h2 : Drops P (poweredDown r st s) (railFreed r (poweredDown r st s)) := (drops_setRail _ r _).trans (drops_power _ _)
  rw [leaveOn_eq]
  exact ((h1.trans h2).trans (drops_pwr _ hP _ _ (.inl rfl))).trans (drops_setPause _ hP)

/-- A region that lends its rail shows it as the reason why it does not stop (R442). -/
def lenderTold (r : Nat) (s : State) : State := if lends s r then setF s .pwr 0 (f_PWR_REG_STATUS_REFUSE r) 2 else s

theorem stopRegion_eq (busy : Bool) (r : Nat) : stopRegion busy s r =
    if busy || lends (lenderTold r s) r then setF (lenderTold r s) .pwr 0 (f_PWR_REG_STATUS_DEFERRED r) 1
    else leaveOn (lenderTold r s) r 5 := rfl

theorem drops_lenderTold {r : Nat} (hP : ∀ x, P x → ¬ pwrOf r x) : Drops P s (lenderTold r s) := by
  unfold lenderTold
  split
  · exact drops_pwr s hP _ _ (.inl rfl)
  · exact Drops.refl

theorem drops_stopRegion {r : Nat} (busy : Bool) (hP : ∀ x, P x → ¬ pwrOf r x) : Drops P s (stopRegion busy s r) := by
  rw [stopRegion_eq]
  split
  · exact (drops_lenderTold s hP).trans (drops_pwr _ hP _ _ (.inl rfl))
  · exact (drops_lenderTold s hP).trans (drops_leaveOn _ _ hP)

/-- What the regions that host software no longer wants do (R433, R434). -/
theorem stopUnwanted_of_unwanted {r : Nat} (h : flag s .pwr 0 (f_PWR_REG_REQ_POWER r) = false) :
    stopUnwanted s r = if regionOn s r then stopRegion (regionBusy s r) s r else s := by
  have hw : wanted s r = false := by rw [wanted, h]; rfl
  cases ho : regionOn s r <;> simp [stopUnwanted, ho, hw, h]

theorem drops_stopIdle : Drops (fun _ => False) s (stopIdle s) := by
  refine drops_foldl _ _ fun t r _ => ?_
  split
  · exact Drops.refl
  · rw [stopUnwanted_of_unwanted t (Bool.not_eq_true _ ▸ ‹_›)]
    split
    · exact drops_stopRegion t _ fun _ h => h.elim
    · exact Drops.refl

/-- Where host software wants every region that is ON, none stops. -/
theorem stopIdle_of_wanted (h : ∀ r, r < partRegions s.part → regionOn s r = true → flag s .pwr 0 (f_PWR_REG_REQ_POWER r) = true) :
    stopIdle s = s := by
  refine List.foldlRecOn (motive := fun t => t = s) _ _ rfl fun t ht r hr => ?_
  subst ht
  split
  · rfl
  · rename_i hf
    rw [stopUnwanted_of_unwanted t (Bool.not_eq_true _ ▸ hf), if_neg fun ho => hf (h r (List.mem_range.1 hr) ho)]

end

/-! ## Self-tests of units that are reset, thawed pages (R495, R561) -/

section
variable {P : Nat → Prop} (s : State)

/-- A write of SELFTEST_STATUS. -/
theorem drops_selftestStatus (f : Fld) (v : Nat) (hf : f.off = f_CHIP_SELFTEST_STATUS_QUEUED.off) : Drops P s (setF s .chip 0 f v) where
  rest := rfl
  chip x _ hx := reg_setF_ne s v (hf ▸ hx)
  pwr _ _ := reg_setF_page s v (by decide)
  groups _ h := h
  regions e he := ⟨e, he, rfl⟩

theorem drops_raiseIrq_chip {bit : Nat} (hb : bit ≤ 31) : Drops P s (raiseIrq s .chip 0 bit) where
  rest := by rw [pagesOnly_raiseIrq s .chip 0 bit]
  chip _ h _ := reg_raiseIrq_high s hb h notIrc_chip
  pwr _ _ := reg_raiseIrq_other s bit (by decide) ⟨by decide, by decide⟩
  groups c hc g := by rw [raiseIrq_group]; exact hc g
  regions e he := ⟨e, by rwa [raiseIrq_regions] at he, rfl⟩

theorem drops_chores (tests : List TestItem) (log : List W128) : Drops P s { s with chores := { s.chores with tests := tests, log := log } } where
  rest := rfl
  chip _ _ _ := rfl
  pwr _ _ := rfl
  groups _ h := h
  regions e he := ⟨e, he, rfl⟩

theorem drops_testRecord (x : TestItem) (out detail : Nat) : Drops P s (testRecord s x out detail) :=
  (drops_chores s s.chores.tests _).trans (drops_raiseIrq_chip _ (by decide))

theorem drops_testStatus : Drops P s (testStatus s) :=
  (drops_selftestStatus s _ _ rfl).trans (drops_selftestStatus _ _ _ rfl)

theorem drops_abandonTests (p : TestItem → Bool) : Drops P s (abandonTests s p) :=
  ((drops_chores s _ s.chores.log).trans (drops_foldl _ _ fun t x _ => drops_testRecord t x 3 0)).trans (drops_testStatus _)

theorem drops_abandonUnit (sc u : Nat) : Drops P s (abandonUnit s sc u) := drops_abandonTests s _

theorem drops_thaw {k : PageKind} {i : Nat} (h : UnitPage k i) : Drops P s (thaw s k i) := by
  unfold thaw
  split
  · exact drops_setF s _ _ h
  · exact Drops.refl

theorem drops_thawCells (l : List Nat) : Drops P s (l.foldl (fun s c => thaw s .cell c) s) :=
  drops_foldl _ _ fun t c _ => drops_thaw t (unitPage_cell c)

theorem drops_thawUnit (sc u : Nat) : Drops P s (thawUnit s sc u) := by
  unfold thawUnit
  split
  · exact drops_thaw s (unitPage_cell u)
  · exact (drops_thaw s (unitPage_block u)).trans (drops_thawCells _ _)
  · exact ((drops_thaw s (unitPage_region u)).trans (drops_foldl _ _ fun t b _ => drops_thaw t (unitPage_block b))).trans (drops_thawCells _ _)

end

end Sys2Proof.Proofs
end

section
/-! Partition commands (O28): the reset of a partition and a deferred power-down (R247, R248, R434). -/
namespace Sys2Proof.Proofs

open Sys2Proof.Machine Sys2Proof.Laws

/-! ## The course of a reset (R552, R554) -/

section
variable (s : State)

/-- A unit's cells stop issuing, and nothing else changes. -/
theorem stopCells_frame (cs : List Nat) : stopCells s cs = { s with cells := (stopCells s cs).cells } :=
  List.foldlRecOn (motive := fun t : State => t = { s with cells := t.cells }) _ _ rfl fun t ht c _ => by
    rw [ht]; rfl

theorem cell_stopCells (cs : List Nat) (c : Nat) :
    cell (stopCells s cs) c = if c ∈ cs then { cell s c with resetting := true } else cell s c := by
  induction cs generalizing s with
  | nil => rfl
  | cons d cs ih =>
    have hstep : stopCells s (d :: cs) = stopCells (setCell s d { cell s d with resetting := true }) cs := rfl
    rw [hstep, ih, cell_setCell]
    by_cases hd : c = d
    · subst hd; simp
    · simp [hd]

theorem pagesOnly_resetEnded : PagesOnly s (resetEnded s) := by
  unfold resetEnded
  dsimp only
  split
  · exact ((pagesOnly_setF ..).trans (pagesOnly_setF ..)).trans (pagesOnly_raiseIrq ..)
  · exact (pagesOnly_setF ..).trans (pagesOnly_raiseIrq ..)

/-- The record of a reset that ends reads DONE, unless it has told of a failure. -/
def resultTold (s : State) : State :=
  if fld s .chip 0 f_CHIP_RESET_STATUS_RESULT = 0 then setF s .chip 0 f_CHIP_RESET_STATUS_RESULT 1 else s

theorem resetEnded_eq : resetEnded s = raiseIrq (setF (resultTold s) .chip 0 f_CHIP_RESET_STATUS_BUSY 0) .chip 0 4 := rfl

theorem reg_resetEnded {x : Nat} (hx : 0x100 ≤ x) (h : x ≠ f_CHIP_RESET_STATUS_BUSY.off) :
    reg (resetEnded s) .chip 0 x = reg s .chip 0 x := by
  rw [resetEnded_eq, reg_raiseIrq_high _ (by decide) hx notIrc_chip, reg_setF_ne _ _ h]
  unfold resultTold
  split
  · exact reg_setF_ne _ _ h
  · rfl

theorem busy_resetEnded : flag (resetEnded s) .chip 0 f_CHIP_RESET_STATUS_BUSY = false := by
  rw [resetEnded_eq, flag, fld, reg_raiseIrq_high _ (by decide) (by decide) notIrc_chip]
  exact flag_setF_self _ (by decide) (by decide) (by decide)

theorem result_resetEnded (h : fld s .chip 0 f_CHIP_RESET_STATUS_RESULT = 0) : fld (resetEnded s) .chip 0 f_CHIP_RESET_STATUS_RESULT = 1 := by
  rw [resetEnded_eq, fld, reg_raiseIrq_high _ (by decide) (by decide) notIrc_chip, resultTold, if_pos h]
  change fld (setF _ _ _ _ _) _ _ _ = 1
  rw [fld_setF_bits _ _ _ _ _ _ (by decide) (by decide) (by decide)]
  exact fld_setF_self _ (by decide) (by decide) (by decide)

theorem pending_resetEnded : bitN (reg (resetEnded s) .chip 0 o_COMMON_IRQ_PENDING).toNat 4 = true :=
  pending_raiseIrq _ (by decide) notIrc_chip

end

/-! ## What a partition reset clears (R193, R248) -/

section
variable {P : Nat → Prop} (s : State)

theorem drops_clearReg {k : PageKind} {i : Nat} (off : Nat) (h : UnitPage k i) : Drops P s (clearReg s k i off) :=
  ((drops_setPage s _ h).trans (drops_setPage _ _ h)).trans (drops_setPage _ _ h)

theorem drops_setF3 {k : PageKind} {i : Nat} (f : Fld) (v : Nat) (h : UnitPage k i) : Drops P s (setF3 s k i f v) :=
  ((drops_setPage s _ h).trans (drops_setPage _ _ h)).trans (drops_setPage _ _ h)

theorem PagesOnly.cells {s t : State} (h : PagesOnly s t) : t.cells = s.cells := (pagesOnly_fields h).2.2.2.1

/-- A block after a partition reset: its reach is OFF and its special-function stores are clear. -/
def clearBlock (s : State) (b : Nat) : State := clearSf (if reachState s b = rOff then s else reachOff s b) b

theorem drops_clearBlock (b : Nat) : Drops P s (clearBlock s b) := by
  have h1 : Drops P s (if reachState s b = rOff then s else reachOff s b) := by
    split
    · exact Drops.refl
    · exact drops_reachOff s b
  exact h1.trans ((drops_setBlock _ b _).trans (drops_setF3 _ _ _ (unitPage_block b)))

theorem clearBlock_cells (b : Nat) : (clearBlock s b).cells = s.cells := by
  have h1 : (if reachState s b = rOff then s else reachOff s b).cells = s.cells := by
    split <;> rfl
  exact (PagesOnly.cells (pagesOnly_setF3 _ _ _ _ _)).trans h1

/-- The cells and blocks of a region after a partition reset. -/
def clearUnits (r : Nat) (s : State) : State :=
  (blocksOfRegion r).foldl clearBlock ((cellsOfRegion r).foldl (absorbCell false) (abandonUnit s 2 r))

/-- The registers of a region after a partition reset. -/
def clearRegs (r : Nat) (s : State) : State :=
  thawUnit ([o_REGION_FLAG_INGRESS, o_REGION_FLAG_WORLD, o_REGION_FE_CTRL].foldl (fun s o => clearReg s .region r o)
    ((List.range 256).foldl (fun s e => clearReg s .region r (o_REGION_FLAG_XLAT e)) s)) 2 r

theorem clearRegion_eq (r : Nat) : clearRegion s r = clearRegs r (setRegion (clearUnits r s) r {}) := rfl

theorem drops_clearUnits (r : Nat) : Drops P s (clearUnits r s) :=
  ((drops_abandonUnit s 2 r).trans (drops_foldl _ _ fun t c _ => drops_absorbCell t false c)).trans
    (drops_foldl _ _ fun t b _ => drops_clearBlock t b)

theorem drops_clearRegs (r : Nat) : Drops P s (clearRegs r s) :=
  ((drops_foldl _ _ fun t _ _ => drops_clearReg t _ (unitPage_region r)).trans
    (drops_foldl _ _ fun t _ _ => drops_clearReg t _ (unitPage_region r))).trans (drops_thawUnit _ 2 r)

theorem drops_clearRegion (r : Nat) : Drops P s (clearRegion s r) :=
  ((drops_clearUnits s r).trans (drops_setRegion_empty _ r)).trans (drops_clearRegs _ r)

/-- No flag of a region is left. -/
theorem noRegion_clearRegion (r : Nat) : ∀ e ∈ (clearRegion s r).regions, e.1 ≠ r := by
  rw [clearRegion_eq]
  have hset : ∀ e ∈ (setRegion (clearUnits r s) r {}).regions, e.1 ≠ r := by
    rw [setRegion_empty_regions]
    exact not_mem_mdel r _
  exact (drops_clearRegs (P := fun _ => False) (setRegion (clearUnits r s) r {}) r).noRegion hset

/-- No group of a region is left. -/
theorem group_clearRegion {r c : Nat} (hc : c ∈ cellsOfRegion r) (g : Nat) : group (clearRegion s r) c g = {} := by
  have hcells : ∀ g, group ((cellsOfRegion r).foldl (absorbCell false) (abandonUnit s 2 r)) c g = {} :=
    group_foldl _ _ _ c (fun t d _ => drops_absorbCell t false d) ⟨c, hc, fun t g => group_absorbCell t false c g⟩
  have hunits : Drops (fun _ => False) _ (clearUnits r s) := drops_foldl clearBlock _ fun t b _ => drops_clearBlock t b
  rw [clearRegion_eq]
  exact ((drops_setRegion_empty (P := fun _ => False) _ r).trans (drops_clearRegs _ r)).groups c (hunits.groups c hcells) g

theorem abandonUnit_cells (sc u : Nat) : (abandonUnit s sc u).cells = s.cells := by
  have hlog : ∀ (l : List TestItem) t, (l.foldl (fun s x => testRecord s x 3 0) t).cells = t.cells := fun l t =>
    cells_foldl _ l t fun u x _ => raiseIrq_cells _ .chip 0 6
  rw [abandonUnit, abandonTests, testStatus, setF_cells, setF_cells, hlog]

theorem pagesOnly_thaw (k : PageKind) (i : Nat) : PagesOnly s (thaw s k i) := by
  unfold thaw
  split
  · exact pagesOnly_setF ..
  · exact PagesOnly.refl s

/-- Steps that each touch pages only do so together. -/
theorem pagesOnly_foldl {α : Type} (f : State → α → State) (l : List α) (h : ∀ s, ∀ x ∈ l, PagesOnly s (f s x)) : PagesOnly s (l.foldl f s) :=
  List.foldlRecOn l f (PagesOnly.refl s) fun t ht x hx => ht.trans (h t x hx)

theorem pagesOnly_thawUnit (sc u : Nat) : PagesOnly s (thawUnit s sc u) := by
  have hcells : ∀ t (l : List Nat), PagesOnly t (l.foldl (fun s c => thaw s .cell c) t) := fun t l => pagesOnly_foldl t _ _ fun t c _ => pagesOnly_thaw t _ c
  unfold thawUnit
  split
  · exact pagesOnly_thaw s _ u
  · exact (pagesOnly_thaw s _ u).trans (hcells _ _)
  · exact ((pagesOnly_thaw s _ u).trans (pagesOnly_foldl _ _ _ fun t b _ => pagesOnly_thaw t _ b)).trans (hcells _ _)

theorem clearRegs_cells (r : Nat) : (clearRegs r s).cells = s.cells := by
  have hregs : ∀ (l : List Nat) (o : Nat → Nat) (t : State), (l.foldl (fun t e => clearReg t .region r (o e)) t).cells = t.cells :=
    fun l o t => cells_foldl _ l t fun _ _ _ => rfl
  rw [clearRegs, PagesOnly.cells (pagesOnly_thawUnit _ 2 r), hregs _ fun o => o, hregs]

/-- A partition reset keeps the local memory (R248). -/
theorem lm_clearRegion (r c : Nat) : (cell (clearRegion s r) c).lm = (cell s c).lm := by
  have hunits : (clearRegion s r).cells = (clearUnits r s).cells := by
    rw [clearRegion_eq, clearRegs_cells, setRegion_cells]
  have habsorb : ∀ (l : List Nat) (t : State), (cell (l.foldl (absorbCell false) t) c).lm = (cell t c).lm := fun l t =>
    List.foldlRecOn (motive := fun u : State => (cell u c).lm = (cell t c).lm) l _ rfl fun u hu d _ => (lm_absorbCell u false d c).trans hu
  rw [cell, hunits, clearUnits, cells_foldl clearBlock _ _ fun t b _ => clearBlock_cells t b, ← cell, habsorb, cell, abandonUnit_cells, cell]

end

end Sys2Proof.Proofs
end

section
/-! The partition commands of O28: a partition reset from its request to its end, and the power-down of a CACHE partition (R247, R248, R434). -/
namespace Sys2Proof.Proofs

open Sys2Proof.Machine Sys2Proof.Laws

/-! ## Partition resets (R248, R552, R554) -/

section
variable (s : State) (p : Nat)

theorem regionsOfPart_congr {t : State} (hp : t.part = s.part) (h : ∀ x, 0x600 ≤ x → x < 0x640 → reg t .chip 0 x = reg s .chip 0 x) :
    regionsOfPart t p = regionsOfPart s p := by
  have hmap : ∀ r, partOfRegion t r = partOfRegion s r := fun r => by
    refine List.find?_congr fun q hq => ?_
    have hq8 := List.mem_range.1 hq
    rw [h (o_CHIP_PART_MAP q) (by dsimp only [o_CHIP_PART_MAP]; omega) (by dsimp only [o_CHIP_PART_MAP]; omega)]
  simp only [regionsOfPart, hp, hmap]

/-- The chores and the chip's marks of a partition reset that begins. -/
def partBusy : State :=
  setF (setF { s with chores := { s.chores with unit := none, parts := [p], drainAt := s.time.toNat } } .chip 0
    (f_CHIP_PART_STATUS_RESETTING p) 1) .chip 0 f_CHIP_RESET_STATUS_BUSY 1

/-- The record of the request reads no result yet. -/
def partMarked : State := setF (partBusy s p) .chip 0 f_CHIP_RESET_STATUS_RESULT 0

theorem reg_partBusy {x : Nat} (h : x < 0x640) : reg (partBusy s p) .chip 0 x = reg s .chip 0 x := by
  rw [partBusy, reg_setF_ne _ _ (by dsimp only; omega), reg_setF_ne _ _ (by dsimp only; omega)]
  rfl

/-- A partition reset that nothing hinders marks the partition and stops its cells. -/
theorem partReset_free (hph : phase s = 2 ∨ phase s = 3) (hparts : s.chores.parts = []) (hunit : s.chores.unit = none) :
    partReset p s = stopCells (partMarked s p) ((regionsOfPart s p).flatMap cellsOfRegion) := by
  have hph' : ¬ (decide (phase s ≠ phReady) && decide (phase s ≠ phRun)) = true := by rcases hph with h | h <;> simp [h]
  have hreg : regionsOfPart (partBusy s p) p = regionsOfPart s p := regionsOfPart_congr _ p rfl fun _ _ hx => reg_partBusy s p hx
  rw [← hreg]
  unfold partReset
  rw [if_neg hph', hparts, hunit]
  rfl

theorem partMarked_flags (hp : p < 8) : flag (partMarked s p) .chip 0 (f_CHIP_PART_STATUS_RESETTING p) = true ∧
    flag (partMarked s p) .chip 0 f_CHIP_RESET_STATUS_BUSY = true := by
  constructor
  · rw [flag, partMarked, fld_setF_off _ _ _ _ _ _ (by dsimp only; omega), partBusy, fld_setF_off _ _ _ _ _ _ (by dsimp only; omega)]
    exact flag_setF_self _ (by dsimp only; omega) (by dsimp only; omega) (by decide)
  · rw [flag, partMarked, fld_setF_bits _ _ _ _ _ _ (by decide) (by decide) (by decide)]
    exact flag_setF_self _ (by decide) (by decide) (by decide)

/-- What stopping cells leaves: all but the cells. -/
theorem stopCells_other (cs : List Nat) : (stopCells s cs).chores = s.chores ∧ (stopCells s cs).hbm = s.hbm ∧ (stopCells s cs).part = s.part ∧
    (stopCells s cs).pending = s.pending ∧ ∀ k i f, flag (stopCells s cs) k i f = flag s k i f := by
  rw [stopCells_frame]
  exact ⟨rfl, rfl, rfl, rfl, fun _ _ _ => rfl⟩

end

theorem partReset_starts {s : State} {secure : Bool} {p : Nat} (hp : p < 8) (hr : reaches s secure .chip 0) (hph : phase s = 2 ∨ phase s = 3)
    (hparts : s.chores.parts = []) (hunit : s.chores.unit = none) :
    ∃ t, exec (.partReset secure p) s = .next t ∧ t.chores.parts = [p] ∧ flag t .chip 0 (f_CHIP_PART_STATUS_RESETTING p) = true ∧
      flag t .chip 0 f_CHIP_RESET_STATUS_BUSY = true ∧
      (∀ r c, r ∈ regionsOfPart s p → c ∈ cellsOfRegion r → (cell t c).resetting = true ∧ (cell t c).groups = (cell s c).groups) ∧ t.hbm = s.hbm := by
  have hexec : exec (.partReset secure p) s = done s (partReset p s) := by
    change execPartReset secure p s = _
    rw [execPartReset, run_eq (decide_eq_true hp) hr.1, hostCmd_eq _ _ hr]
  obtain ⟨hres, hbusy⟩ := partMarked_flags s p hp
  rw [hexec, partReset_free s p hph hparts hunit]
  obtain ⟨hchores, hhbm, hpart, hpend, hflag⟩ := stopCells_other (partMarked s p) ((regionsOfPart s p).flatMap cellsOfRegion)
  refine ⟨_, done_eq hpart hpend, ?_, ?_, ?_, fun r c hr hc => ?_, hhbm⟩
  · rw [hchores]; rfl
  · rw [hflag, hres]
  · rw [hflag, hbusy]
  · rw [cell_stopCells, if_pos (List.mem_flatMap.2 ⟨r, hr, hc⟩)]
    exact ⟨rfl, rfl⟩

section
variable (s : State) (p : Nat)

/-- The regions of a partition whose reset ends, cleared. -/
def partCleared : State := (regionsOfPart s p).foldl clearRegion s

theorem drops_partCleared {P : Nat → Prop} : Drops P s (partCleared s p) := drops_foldl _ _ fun t r _ => drops_clearRegion t r

/-- A fold that clears a region has cleared it at its end. -/
theorem noRegion_partCleared {r : Nat} (hr : r ∈ regionsOfPart s p) : ∀ e ∈ (partCleared s p).regions, e.1 ≠ r := by
  obtain ⟨l₁, l₂, hl⟩ := List.append_of_mem hr
  rw [partCleared, hl, List.foldl_append, List.foldl_cons]
  exact (drops_foldl (P := fun _ => False) clearRegion l₂ fun t r _ => drops_clearRegion t r).noRegion (noRegion_clearRegion _ r)

theorem group_partCleared {r c : Nat} (hr : r ∈ regionsOfPart s p) (hc : c ∈ cellsOfRegion r) (g : Nat) : group (partCleared s p) c g = {} :=
  group_foldl s clearRegion _ c (fun t r _ => drops_clearRegion t r) ⟨r, hr, fun t g => group_clearRegion t hc g⟩ g

theorem lm_partCleared (c : Nat) : (cell (partCleared s p) c).lm = (cell s c).lm :=
  List.foldlRecOn (motive := fun t : State => (cell t c).lm = (cell s c).lm) _ _ rfl fun t ht r _ => (lm_clearRegion t r c).trans ht

/-- The chores' list of partitions without one. -/
def partsWithout : State := { s with chores := { s.chores with parts := s.chores.parts.filter (· != p) } }

theorem partDone_eq : partDone s p = resetEnded (setF (partsWithout (stopIdle (partCleared s p)) p) .chip 0 (f_CHIP_PART_STATUS_RESETTING p) 0) := rfl

/-- The pages aside, a partition reset that ends leaves what its regions' clearing and stopping leave, less the chore. -/
theorem partDone_frame : ∃ g, partDone s p = { partsWithout (stopIdle (partCleared s p)) p with pages := g } := by
  rw [partDone_eq]
  exact ⟨_, (pagesOnly_setF _ _ _ _ _).trans (pagesOnly_resetEnded _)⟩

theorem allWanted_congr {t : State} (h : ∀ x, reg t .pwr 0 x = reg s .pwr 0 x) (hw : allWanted s) : allWanted t := by
  intro r hr ho
  have hon : regionOn t r = regionOn s r := by simp only [regionOn, regionState, fld, h]
  have hreq : flag t .pwr 0 (f_PWR_REG_REQ_POWER r) = flag s .pwr 0 (f_PWR_REG_REQ_POWER r) := by simp only [flag, fld, h]
  rw [hreq]
  exact hw r hr (hon ▸ ho)

theorem partRegions_le (q : Part) : partRegions q ≤ 32 := by cases q <;> decide

/-- Where host software wants what is ON, no region stops. -/
theorem stopIdle_of_allWanted (hw : allWanted s) : stopIdle s = s :=
  stopIdle_of_wanted s fun r hr ho => hw r (lt_of_lt_of_le hr (partRegions_le _)) ho

/-- A look-up finds the default or an entry of its key. -/
theorem mget_entry {α : Type} (d : α) (m : List (Nat × α)) (k : Nat) : mget d m k = d ∨ ∃ e ∈ m, e.1 = k ∧ mget d m k = e.2 := by
  induction m with
  | nil => exact .inl rfl
  | cons e m ih =>
    obtain ⟨k', v⟩ := e
    by_cases hk : k' = k
    · exact .inr ⟨(k', v), List.mem_cons_self .., hk, if_pos hk⟩
    · have hstep : mget d ((k', v) :: m) k = mget d m k := if_neg hk
      rw [hstep]
      exact ih.imp_right fun ⟨e, he, h⟩ => ⟨e, List.mem_cons_of_mem _ he, h⟩

theorem flagAt_of_noRegion {r : Nat} (h : ∀ e ∈ s.regions, e.1 ≠ r) (i : Nat) : flagAt s r i = {} := by
  have hr : region s r = {} := by
    rcases mget_entry ({} : Region) s.regions r with hd | ⟨e, he, hk, -⟩
    · exact hd
    · exact absurd hk (h e he)
  rw [flagAt, hr]
  rfl

end

theorem partReset_ends {s : State} {p : Nat} (hp : p < 8) (hr : inReset s = false) (hin : p ∈ s.chores.parts) (hidle : partIdle s p = true) :
    ∃ t, exec (.partResetDone p) s = .next t ∧
      p ∉ t.chores.parts ∧ flag t .chip 0 (f_CHIP_PART_STATUS_RESETTING p) = false ∧ t.hbm = s.hbm ∧
      (∀ r, r ∈ regionsOfPart s p → (∀ i, flagAt t r i = {}) ∧
        (∀ c, c ∈ cellsOfRegion r → (∀ g, group t c g = {}) ∧ (allWanted s → (cell t c).lm = (cell s c).lm))) := by
  have hexec : exec (.partResetDone p) s = done s (partDone s p) := by
    change execPartResetDone p s = _
    rw [execPartResetDone, run_eq (decide_eq_true hp) hr, if_pos (by simp [hin, hidle])]
  have hclear : Drops (fun _ => True) s (partCleared s p) := drops_partCleared s p
  have hstop := drops_stopIdle (partCleared s p)
  have hall : Drops (fun _ => False) s (stopIdle (partCleared s p)) := (drops_partCleared s p).trans hstop
  have hflag : flag (partDone s p) .chip 0 (f_CHIP_PART_STATUS_RESETTING p) = false := by
    rw [partDone_eq, flag, fld, reg_resetEnded _ (by dsimp only; omega) (by dsimp only; omega)]
    exact flag_setF_self _ (by dsimp only; omega) (by dsimp only; omega) (by decide)
  obtain ⟨g, hg⟩ := partDone_frame s p
  rw [hexec]
  rw [hg] at hflag ⊢
  refine ⟨_, done_eq hall.part hall.pending, ?_, hflag, hall.hbm, fun r hm => ⟨fun i => ?_, fun c hc => ⟨fun i => ?_, fun hw => ?_⟩⟩⟩
  · change p ∉ List.filter (· != p) _
    simp
  · exact flagAt_of_noRegion _ (hstop.noRegion (noRegion_partCleared s p hm)) i
  · exact hstop.groups c (group_partCleared s p hm hc) i
  · change (cell (stopIdle (partCleared s p)) c).lm = _
    rw [stopIdle_of_allWanted _ (allWanted_congr s (fun x => hclear.pwr x trivial) hw)]
    exact lm_partCleared s p c

/-! ## The power-down of a CACHE partition (R434, R442) -/

section
variable (s : State) {r : Nat}

/-- A register of the PWR page with a region's state is none of another region's. -/
theorem not_pwrOf_other {a : Nat} (hr : r < 32) (ha : a ≠ r) (x : Nat) (hx : x = 0xD00 + 4 * r) : ¬ pwrOf a x := by
  rintro (h | h)
  · have h' : x = 0xD00 + 4 * a := h
    omega
  · have h' : x = 0xD80 + 4 * a := h
    omega

theorem reg_stopRegion_other {a : Nat} (hr : r < 32) (ha : a ≠ r) :
    reg (stopRegion false s a) .pwr 0 (o_PWR_REG_STATUS r) = reg s .pwr 0 (o_PWR_REG_STATUS r) :=
  (drops_stopRegion (P := fun x => x = o_PWR_REG_STATUS r) s false (not_pwrOf_other hr ha)).pwr _ rfl

theorem regionState_setPause : regionState (setPause s r) r = regionState s r := by
  rw [regionState, setPause, fld_setF_off _ _ _ _ _ _ (by dsimp only; omega)]
  exact fld_setF_bits _ _ _ _ _ _ (by dsimp only; omega) (by dsimp only; omega) (by dsimp only; omega)

theorem fld_railFreed (k : PageKind) (i : Nat) (f : Fld) : fld (railFreed r s) k i f = fld s k i f := rfl

/-- A region that leaves ON is in the state that it leaves it for. -/
theorem regionState_leaveOn {st : Nat} (hst : st < 8) : regionState (leaveOn s r st) r = st := by
  rw [leaveOn_eq, regionState_setPause, regionState, fld_setF_bits _ _ _ _ _ _ (by dsimp only; omega) (by dsimp only; omega) (by dsimp only; omega),
    fld_railFreed, poweredDown, setRegionState]
  exact fld_setF_self _ (by dsimp only; omega) (by dsimp only; omega) hst

/-- A region that lends no rail stops. -/
theorem stopRegion_of_noLoan (h : flag s .pwr 0 (f_PWR_REG_STATUS_LEND r) = false) : stopRegion false s r = leaveOn s r 5 := by
  have hl : lends s r = false := by rw [lends, h]; rfl
  simp [stopRegion_eq, lenderTold, hl]

/-- The regions of a list stop, each once. -/
theorem regionState_stopped (hr : r < 32) {l : List Nat} (hl : l.Nodup) (hin : r ∈ l) (h : flag s .pwr 0 (f_PWR_REG_STATUS_LEND r) = false) :
    regionState (l.foldl (stopRegion false) s) r = 5 := by
  obtain ⟨l₁, l₂, rfl⟩ := List.append_of_mem hin
  obtain ⟨-, hcons, hdisj⟩ := List.nodup_append.1 hl
  have hother : ∀ (l : List Nat) (t : State), r ∉ l →
      reg (l.foldl (stopRegion false) t) .pwr 0 (o_PWR_REG_STATUS r) = reg t .pwr 0 (o_PWR_REG_STATUS r) := fun l t hn =>
    List.foldlRecOn (motive := fun u : State => reg u .pwr 0 (o_PWR_REG_STATUS r) = reg t .pwr 0 (o_PWR_REG_STATUS r)) _ _ rfl
      fun u hu a ha => (reg_stopRegion_other u hr fun he => hn (he ▸ ha)).trans hu
  have h1 : r ∉ l₁ := fun hm => hdisj r hm r (List.mem_cons_self ..) rfl
  have h2 : r ∉ l₂ := (List.nodup_cons.1 hcons).1
  have hlend : flag (l₁.foldl (stopRegion false) s) .pwr 0 (f_PWR_REG_STATUS_LEND r) = false := by
    rw [flag, fld, hother l₁ s h1]
    exact h
  rw [List.foldl_append, List.foldl_cons, regionState, fld, hother l₂ _ h2, stopRegion_of_noLoan _ hlend]
  exact regionState_leaveOn _ (by decide)

end

theorem cachePowersDown {s : State} {p : Nat} (hp : p < 8) (hr : inReset s = false) (hdef : flag s .chip 0 (f_CHIP_PART_STATUS_DEFERRED p) = true)
    (hdrain : partDrained s p = true) :
    ∃ t, exec (.cachePowerDown p) s = .next t ∧ flag t .chip 0 (f_CHIP_PART_STATUS_DEFERRED p) = false ∧ t.hbm = s.hbm ∧
      (∀ r, r < 32 → partOfRegion s r = some p → regionOn s r = true → flag s .pwr 0 (f_PWR_REG_STATUS_LEND r) = false → regionState t r = 5) := by
  have hexec : exec (.cachePowerDown p) s =
      done s (setF ((partOn s p).foldl (stopRegion false) s) .chip 0 (f_CHIP_PART_STATUS_DEFERRED p) 0) := by
    change execCachePowerDown p s = _
    rw [execCachePowerDown, run_eq (decide_eq_true hp) hr, cacheDown, if_pos (by simp [hdef, hdrain])]
  have hdrop : Drops (fun _ => False) s ((partOn s p).foldl (stopRegion false) s) :=
    drops_foldl _ _ fun t r _ => drops_stopRegion t false fun _ h => h.elim
  refine ⟨_, hexec.trans (done_eq hdrop.part hdrop.pending), ?_, hdrop.hbm, fun r h32 hpart hon hlend => ?_⟩
  · exact flag_setF_self _ (by dsimp only; omega) (by dsimp only; omega) (by decide)
  · rw [regionState, fld, reg_setF_page _ _ (by decide)]
    refine regionState_stopped s h32 (List.nodup_range.filter _) ?_ hlend
    simp [partOn, h32, hpart, hon]

/-- The third part of O28: the start and the end of a partition reset, and a CACHE power-down. -/
theorem partitionCommands : Claims.PartitionCommands := fun _ _ _ hp =>
  ⟨fun hr hph hparts hunit => partReset_starts hp hr hph hparts hunit, fun hr hin hidle => partReset_ends hp hr hin hidle,
    fun hr hdef hdrain => cachePowersDown hp hr hdef hdrain⟩

/-- Settles O28, by the three claims: flag writes come down to the set and the clear of one flag, RUN to the writes of CTRL and the drain,
and a partition's reset to what clearing its regions leaves of the device. -/
theorem hostFlagsAndPartitions : Obligations.HostFlagsAndPartitions := ⟨hostFlagWrites, runPhase, partitionCommands⟩

end Sys2Proof.Proofs
end

section
/-! The end of bring-up and of recovery, the agreement's limit and the quick self-test (O45: R35, R541 to R543, R551). -/
namespace Sys2Proof.Proofs

open Sys2Proof.Machine Sys2Proof.Laws

/-! ## The map of partition 0 (R541) -/

section
variable (s : State)

theorem reg_setStg (k : PageKind) (i o : Nat) (v : W32) (x : Nat) : reg (setStg s k i o v) k i x = reg s k i x := by simp [reg, setStg]

/-- Writing the three copies of a field shows in the active registers as writing that one does. -/
theorem reg_setF3 (k : PageKind) (i : Nat) (f : Fld) (v x : Nat) : reg (setF3 s k i f v) k i x = reg (setF s k i f v) k i x := by
  rw [setF3, setF, setF, reg_setReg, reg_setReg, reg_setStg, reg_setShd, reg_setStg, reg_setShd]

/-- A bit of a register after a bit of it is cleared in the three copies. -/
theorem bit_clear3 (k : PageKind) (i o b r : Nat) (hb : b < 32) (hr : r < 32) :
    bitN (reg (setF3 s k i ⟨o, b, b⟩ 0) k i o).toNat r = (bitN (reg s k i o).toNat r && r != b) := by
  rw [reg_setF3, ← flag_eq_bitN, ← flag_eq_bitN]
  by_cases h : r = b
  · subst h
    rw [flag_setF_self _ (Nat.le_refl r) hr (by decide)]
    simp
  · have hd : b < r ∨ r < b := by omega
    rw [flag, fld_setF_bits _ _ _ _ _ _ (Nat.le_refl b) hr hd, ← flag]
    simp [h]

/-- The map of partition 0 without a list of regions. -/
def mapWithout (l : List Nat) (s : State) : State := l.foldl (fun s r => setF3 s .chip 0 ⟨o_CHIP_PART_MAP 0, r, r⟩ 0) s

theorem darkOut_eq : darkOut s = mapWithout ((List.range (partRegions s.part)).filter (fun r => regionState s r == 6)) s := rfl

theorem pagesOnly_mapWithout (l : List Nat) : PagesOnly s (mapWithout l s) := pagesOnly_foldl s _ _ fun _ _ _ => pagesOnly_setF3 _ _ _ _ _

theorem bit_mapWithout {l : List Nat} (hl : ∀ b ∈ l, b < 32) {r : Nat} (hr : r < 32) :
    bitN (reg (mapWithout l s) .chip 0 (o_CHIP_PART_MAP 0)).toNat r = (bitN (reg s .chip 0 (o_CHIP_PART_MAP 0)).toNat r && !l.contains r) := by
  induction l generalizing s with
  | nil => simp [mapWithout]
  | cons b l ih =>
    have hstep : mapWithout (b :: l) s = mapWithout l (setF3 s .chip 0 ⟨o_CHIP_PART_MAP 0, b, b⟩ 0) := rfl
    rw [hstep, ih _ fun c hc => hl c (List.mem_cons_of_mem _ hc), bit_clear3 _ _ _ _ _ _ (hl b (List.mem_cons_self ..)) hr]
    simp [Bool.and_assoc, bne, beq_eq_decide]

/-- The map as the end of step 8 leaves it, where that has not passed. -/
def mapClosed : State := if fld s .chip 0 f_CHIP_BRINGUP_STATUS_STEP < 8 then darkOut s else s

theorem pagesOnly_mapClosed : PagesOnly s (mapClosed s) := by
  unfold mapClosed
  split
  · exact pagesOnly_mapWithout s _
  · exact PagesOnly.refl s

/-- The DARK regions have left the map. -/
theorem bit_mapClosed {r : Nat} (hr : r < partRegions s.part) : bitN (reg (mapClosed s) .chip 0 (o_CHIP_PART_MAP 0)).toNat r =
    (bitN (reg s .chip 0 (o_CHIP_PART_MAP 0)).toNat r && !(fld s .chip 0 f_CHIP_BRINGUP_STATUS_STEP < 8 && regionState s r == 6)) := by
  have h32 : ∀ b, b < partRegions s.part → b < 32 := fun b h => lt_of_lt_of_le h (partRegions_le _)
  unfold mapClosed
  split
  · rename_i hstep
    rw [darkOut_eq, bit_mapWithout _ (fun b hb => h32 b (List.mem_range.1 (List.mem_filter.1 hb).1)) (h32 r hr)]
    simp [hstep, hr, beq_eq_decide]
  · rename_i hstep
    simp [hstep]

end

/-! ## READY and the loss of agreement (R35, R541, R542) -/

section
variable (s : State)

/-- The passes of the patrols start. -/
def patrolsStarted (s : State) : State := (List.range 8).foldl (fun s b => startTimer (startTimer s (.passBand b)) (.passStack b)) s

/-- Starting intervals changes the chores alone. -/
theorem patrolsStarted_frame : patrolsStarted s = { s with chores := (patrolsStarted s).chores } :=
  List.foldlRecOn (motive := fun t : State => t = { s with chores := t.chores }) _ _ rfl fun t ht b _ => by
    rw [ht]; rfl

theorem reg_chores (c : Chores) (k : PageKind) (i x : Nat) : reg { s with chores := c } k i x = reg s k i x := rfl

theorem reg_patrolsStarted (k : PageKind) (i x : Nat) : reg (patrolsStarted s) k i x = reg s k i x := by
  rw [patrolsStarted_frame, reg_chores]

theorem enterReady_eq : enterReady s = setPhase (stepDone (patrolsStarted (mapClosed s)) 11) 2 := rfl

theorem reg_stepDone (n : Nat) {k : PageKind} {i x : Nat} (h : x ≠ f_CHIP_BRINGUP_STATUS_STEP.off) : reg (stepDone s n) k i x = reg s k i x := reg_setF_ne _ _ h

theorem step_stepDone {n : Nat} (hn : n < 16) : fld (stepDone s n) .chip 0 f_CHIP_BRINGUP_STATUS_STEP = n := fld_setF_self _ (by decide) (by decide) hn

theorem reg_setPhase (p : Nat) {k : PageKind} {i x : Nat} (h : x ≠ f_CHIP_STATE_PHASE.off) : reg (setPhase s p) k i x = reg s k i x := reg_setF_ne s p h

theorem readied_frame : (setPhase (stepDone s 11) 2).part = s.part ∧ (setPhase (stepDone s 11) 2).pending = s.pending ∧
    (setPhase (stepDone s 11) 2).hbm = s.hbm ∧ (setPhase (stepDone s 11) 2).cells = s.cells := ⟨rfl, rfl, rfl, rfl⟩

/-- What READY leaves beside the registers and the chores. -/
theorem enterReady_frame : (enterReady s).part = s.part ∧ (enterReady s).pending = s.pending ∧ (enterReady s).hbm = s.hbm ∧ (enterReady s).cells = s.cells := by
  obtain ⟨hp, hq, hm, hc, _⟩ := pagesOnly_fields (pagesOnly_mapClosed s)
  have hpat := patrolsStarted_frame (mapClosed s)
  obtain ⟨hp', hq', hm', hc'⟩ := readied_frame (patrolsStarted (mapClosed s))
  rw [enterReady_eq]
  exact ⟨hp'.trans ((congrArg State.part hpat :).trans hp), hq'.trans ((congrArg State.pending hpat :).trans hq),
    hm'.trans ((congrArg State.hbm hpat :).trans hm), hc'.trans ((congrArg State.cells hpat :).trans hc)⟩

theorem enterReady_regs : phase (enterReady s) = 2 ∧ fld (enterReady s) .chip 0 f_CHIP_BRINGUP_STATUS_STEP = 11 ∧
    reg (enterReady s) .chip 0 (o_CHIP_PART_MAP 0) = reg (mapClosed s) .chip 0 (o_CHIP_PART_MAP 0) := by
  refine ⟨phase_setPhase _ (by decide), ?_, ?_⟩
  · rw [enterReady_eq, fld, reg_setPhase _ _ (by decide)]
    exact step_stepDone _ (by decide)
  · rw [enterReady_eq, reg_setPhase _ _ (by decide), reg_stepDone _ _ (by decide), reg_patrolsStarted]

/-- A step's failure is recorded, raised and, of the steps that hold the device, followed by RECOVERY. -/
theorem stepFailed_eq {n : Nat} (hn : n = 6 ∨ n = 7 ∨ n = 9 ∨ n = 10) :
    stepFailed s n = setPhase (raiseIrq (setF s .chip 0 f_CHIP_BRINGUP_STATUS_FAIL_STEP n) .chip 0 5) 5 := by
  unfold stepFailed
  exact if_pos (by rcases hn with rfl | rfl | rfl | rfl <;> rfl)

theorem stepFailed_regs {n : Nat} (hn : n = 6 ∨ n = 7 ∨ n = 9 ∨ n = 10) : phase (stepFailed s n) = 5 ∧
    fld (stepFailed s n) .chip 0 f_CHIP_BRINGUP_STATUS_FAIL_STEP = n ∧
    fld (stepFailed s n) .chip 0 f_CHIP_BRINGUP_STATUS_STEP = fld s .chip 0 f_CHIP_BRINGUP_STATUS_STEP ∧
    bitN (reg (stepFailed s n) .chip 0 o_COMMON_IRQ_PENDING).toNat 5 = true := by
  have hn16 : n < 16 := by omega
  have hreg : ∀ x, 0x100 ≤ x → x ≠ f_CHIP_STATE_PHASE.off →
      reg (stepFailed s n) .chip 0 x = reg (setF s .chip 0 f_CHIP_BRINGUP_STATUS_FAIL_STEP n) .chip 0 x := fun x h1 h2 => by
    rw [stepFailed_eq s hn, reg_setPhase _ _ h2, reg_raiseIrq_high _ (by decide) h1 notIrc_chip]
  refine ⟨?_, ?_, ?_, ?_⟩
  · rw [stepFailed_eq s hn]
    exact phase_setPhase _ (by decide)
  · rw [fld, hreg _ (by decide) (by decide)]
    exact fld_setF_self _ (by decide) (by decide) hn16
  · rw [fld, hreg _ (by decide) (by decide)]
    exact fld_setF_bits _ _ _ _ _ _ (by decide) (by decide) (by decide)
  · rw [stepFailed_eq s hn, reg_setPhase _ _ (by decide)]
    exact pending_raiseIrq _ (by decide) notIrc_chip

theorem pagesOnly_stepFailed (n : Nat) : PagesOnly s (stepFailed s n) := by
  unfold stepFailed
  dsimp only
  split
  · exact ((pagesOnly_setF ..).trans (pagesOnly_raiseIrq ..)).trans (pagesOnly_setF ..)
  · exact (pagesOnly_setF ..).trans (pagesOnly_raiseIrq ..)

theorem pagesOnly_thawPages : PagesOnly s (thawPages s) :=
  pagesOnly_foldl s _ _ fun _ k _ => pagesOnly_foldl _ _ _ fun u i _ => pagesOnly_thaw u k i

/-- A thaw shows in PAGE_STATUS alone. -/
theorem reg_thaw (k : PageKind) (i : Nat) {k' : PageKind} {i' x : Nat} (h : x ≠ f_COMMON_PAGE_STATUS_FROZEN.off) :
    reg (thaw s k i) k' i' x = reg s k' i' x := by
  unfold thaw
  split
  · exact reg_setF_ne s _ h
  · rfl

theorem reg_thawPages {k : PageKind} {i x : Nat} (h : x ≠ f_COMMON_PAGE_STATUS_FROZEN.off) : reg (thawPages s) k i x = reg s k i x :=
  List.foldlRecOn (motive := fun t : State => reg t k i x = reg s k i x) _ _ rfl fun _ ht k' _ =>
    List.foldlRecOn (motive := fun u : State => reg u k i x = reg s k i x) _ _ ht fun u hu i' _ => (reg_thaw u k' i' h).trans hu

end

/-- The map of partition 0 after READY, as the statement gives it. -/
abbrev MapAfter (s t : State) : Prop := ∀ r, r < partRegions s.part → bitN (reg t .chip 0 (o_CHIP_PART_MAP 0)).toNat r =
  (bitN (reg s .chip 0 (o_CHIP_PART_MAP 0)).toNat r && !(fld s .chip 0 f_CHIP_BRINGUP_STATUS_STEP < 8 && regionState s r == 6))

section
variable {s : State} (hr : inReset s = false)
include hr

theorem bringup_ends (hph : phase s = 1) (hstep : 7 ≤ fld s .chip 0 f_CHIP_BRINGUP_STATUS_STEP) (hset : regionsSettled s = true) (hag : agreed s = true)
    (hck : s.pkg.noClock = false) : ∃ t, exec .bringupComplete s = .next t ∧ phase t = 2 ∧ fld t .chip 0 f_CHIP_BRINGUP_STATUS_STEP = 11 ∧ MapAfter s t ∧
      t.hbm = s.hbm ∧ t.cells = s.cells := by
  have hexec : exec .bringupComplete s = done s (enterReady s) := by
    change execBringupComplete s = _
    rw [execBringupComplete, run_eq rfl hr, bringupComplete, if_pos (by simp [hph, hstep, hset, hag, hck])]
  obtain ⟨hp, hq, hm, hc⟩ := enterReady_frame s
  obtain ⟨hphase, hdone, hmap⟩ := enterReady_regs s
  exact ⟨_, hexec.trans (done_eq hp hq), hphase, hdone, fun r h => by rw [hmap, bit_mapClosed s h], hm, hc⟩

theorem recovery_ends (hph : phase s = 5) (hcl : causesCleared s = true) : ∃ t, exec .recoveryDone s = .next t ∧ phase t = 2 ∧
    fld t .chip 0 f_CHIP_BRINGUP_STATUS_STEP = 11 ∧ MapAfter s t ∧ t.hbm = s.hbm ∧ t.cells = s.cells := by
  have hexec : exec .recoveryDone s = done s (enterReady (thawPages s)) := by
    change execRecoveryDone s = _
    rw [execRecoveryDone, run_eq rfl hr, recoveryDone, if_pos (by simp [hph, hcl])]
  obtain ⟨hp, hq, hm, hc⟩ := enterReady_frame (thawPages s)
  obtain ⟨hp', hq', hm', hc', _⟩ := pagesOnly_fields (pagesOnly_thawPages s)
  obtain ⟨hphase, hdone, hmap⟩ := enterReady_regs (thawPages s)
  have hfld : ∀ (k : PageKind) (i : Nat) (f : Fld), f.off ≠ f_COMMON_PAGE_STATUS_FROZEN.off → fld (thawPages s) k i f = fld s k i f := fun k i f h => by
    rw [fld, reg_thawPages s h, fld]
  refine ⟨_, hexec.trans (done_eq (hp.trans hp') (hq.trans hq')), hphase, hdone, fun r h => ?_, hm.trans hm', hc.trans hc'⟩
  have hstate : regionState (thawPages s) r = regionState s r := hfld _ _ _ (by dsimp only; omega)
  rw [hmap, bit_mapClosed _ (hp'.symm ▸ h), reg_thawPages s (by decide), hfld _ _ _ (by decide), hstate]

theorem limit_early {n : Nat} (hn : n = 9 ∨ n = 10) (h : s.time.toNat < s.chores.stepAt + fld s .chip 0 f_CHIP_BRINGUP_LIMIT * 1000000000) :
    exec (.bringupLimitExpire n) s = .next s := by
  change execBringupLimitExpire n s = _
  rw [execBringupLimitExpire, run_eq (by rcases hn with rfl | rfl <;> rfl) hr, limitExpire, if_neg (by simp; omega)]
  exact done_eq rfl rfl

theorem limit_passed {n : Nat} (hn : n = 9 ∨ n = 10) (h : s.chores.stepAt + fld s .chip 0 f_CHIP_BRINGUP_LIMIT * 1000000000 ≤ s.time.toNat)
    (hph : phase s = 1) (hstep : 7 ≤ fld s .chip 0 f_CHIP_BRINGUP_STATUS_STEP) (hset : regionsSettled s = true) (hag : agreed s = false) :
    ∃ t, exec (.bringupLimitExpire n) s = .next t ∧ phase t = 5 ∧ fld t .chip 0 f_CHIP_BRINGUP_STATUS_FAIL_STEP = n ∧
      fld t .chip 0 f_CHIP_BRINGUP_STATUS_STEP = n - 1 ∧ bitN (reg t .chip 0 o_COMMON_IRQ_PENDING).toNat 5 = true ∧ t.hbm = s.hbm := by
  have hexec : exec (.bringupLimitExpire n) s = done s (stepFailed (stepDone (mapClosed s) (n - 1)) n) := by
    change execBringupLimitExpire n s = _
    rw [execBringupLimitExpire, run_eq (by rcases hn with rfl | rfl <;> rfl) hr, limitExpire, if_pos (by simp [hph, hstep, hset, hag]; exact h)]
    rfl
  obtain ⟨hp, hq, hm, -⟩ := pagesOnly_fields (pagesOnly_mapClosed s)
  obtain ⟨hp', hq', hm', -⟩ := pagesOnly_fields (pagesOnly_stepFailed (stepDone (mapClosed s) (n - 1)) n)
  obtain ⟨hphase, hfail, hdone, hirq⟩ := stepFailed_regs (stepDone (mapClosed s) (n - 1)) (n := n) (by omega)
  exact ⟨_, hexec.trans (done_eq (hp'.trans hp) (hq'.trans hq)), hphase, hfail, hdone.trans (step_stepDone _ (by omega)), hirq, hm'.trans hm⟩

end

/-! ## The quick self-test (R542, R543) -/

section
variable (faults : List Nat) (s : State)

/-- One slice's test writes that slice and its page, and raises its page's bit. -/
theorem testSlice_frame (i : Nat) : testSlice faults s i = { s with slices := (testSlice faults s i).slices, pages := (testSlice faults s i).pages } := by
  unfold testSlice
  dsimp only
  split
  · rw [pagesOnly_raiseIrq]
    rfl
  · rfl

theorem slice_testSlice (i j : Nat) : slice (testSlice faults s i) j =
    if j = i then { slice s i with ways := [], feFull := [], rowFaults := faults.getD i 0 } else slice s j := by
  have hset : slice (testSlice faults s i) j = slice (setSlice s i { slice s i with ways := [], feFull := [], rowFaults := faults.getD i 0 }) j := by
    unfold testSlice
    dsimp only
    split
    · rw [raiseIrq_slice]
      rfl
    · rfl
  rw [hset, slice_setSlice]

/-- A slice's page is neither interrupt controller's. -/
theorem notIrc_slice (i : Nat) : NotIrc .slice i := by
  simp only [NotIrc, pageNo, kindBase, kindRow]
  omega

/-- The registers of another page, beyond the common block. -/
theorem reg_testSlice_other (i : Nat) {k : PageKind} {j x : Nat} (hp : pageNo k j ≠ pageNo .slice i) (hn : NotIrc k j) :
    reg (testSlice faults s i) k j x = reg s k j x := by
  unfold testSlice
  dsimp only
  split
  · rw [reg_raiseIrq_other _ _ hp hn, reg_setF_page _ _ hp]
    rfl
  · rfl

/-- Too many faulty rows retire a slice. -/
theorem retired_testSlice (i : Nat) (h : Config.spareRows i < faults.getD i 0) : flag (testSlice faults s i) .slice i f_SLICE_BOND_STATUS_RETIRED = true := by
  unfold testSlice
  dsimp only
  rw [if_pos h, flag, fld, reg_raiseIrq_high _ (by decide) (by decide) (notIrc_slice i)]
  exact flag_setF_self _ (by decide) (by decide) (by decide)

/-- Every slice's test. -/
def slicesTested (l : List Nat) (s : State) : State := l.foldl (testSlice faults) s

theorem slicesTested_frame (l : List Nat) : slicesTested faults l s =
    { s with slices := (slicesTested faults l s).slices, pages := (slicesTested faults l s).pages } :=
  List.foldlRecOn (motive := fun t : State => t = { s with slices := t.slices, pages := t.pages }) l _ rfl fun t ht i _ => by
    rw [testSlice_frame, ht]

theorem reg_slicesTested_chip (l : List Nat) (x : Nat) : reg (slicesTested faults l s) .chip 0 x = reg s .chip 0 x :=
  List.foldlRecOn (motive := fun t : State => reg t .chip 0 x = reg s .chip 0 x) l _ rfl fun t ht i _ => by
    rw [reg_testSlice_other _ _ _ (by simp only [pageNo, kindBase, kindRow]; omega) notIrc_chip, ht]

theorem slice_slicesTested_other {l : List Nat} {i : Nat} (h : i ∉ l) : slice (slicesTested faults l s) i = slice s i ∧
    flag (slicesTested faults l s) .slice i f_SLICE_BOND_STATUS_RETIRED = flag s .slice i f_SLICE_BOND_STATUS_RETIRED := by
  refine List.foldlRecOn (motive := fun t : State => slice t i = slice s i ∧
    flag t .slice i f_SLICE_BOND_STATUS_RETIRED = flag s .slice i f_SLICE_BOND_STATUS_RETIRED) l _ ⟨rfl, rfl⟩ fun t ht j hj => ?_
  have hij : i ≠ j := fun he => h (he ▸ hj)
  rw [slice_testSlice, if_neg hij, flag, fld, reg_testSlice_other _ _ _ (by simp only [pageNo, kindBase, kindRow]; omega) (notIrc_slice i)]
  exact ht

theorem slice_slicesTested {l : List Nat} {i : Nat} (hl : l.Nodup) (hi : i ∈ l) : (slice (slicesTested faults l s) i).ways = [] ∧
    (slice (slicesTested faults l s) i).rowFaults = faults.getD i 0 ∧
    (Config.spareRows i < faults.getD i 0 → flag (slicesTested faults l s) .slice i f_SLICE_BOND_STATUS_RETIRED = true) := by
  obtain ⟨l₁, l₂, rfl⟩ := List.append_of_mem hi
  have h2 : i ∉ l₂ := (List.nodup_cons.1 (List.nodup_append.1 hl).2.1).1
  have hsplit : slicesTested faults (l₁ ++ i :: l₂) s = slicesTested faults l₂ (testSlice faults (slicesTested faults l₁ s) i) := by
    rw [slicesTested, List.foldl_append, List.foldl_cons]
    rfl
  obtain ⟨hsl, hfl⟩ := slice_slicesTested_other faults (testSlice faults (slicesTested faults l₁ s) i) h2
  rw [hsplit, hsl, hfl, slice_testSlice, if_pos rfl]
  exact ⟨rfl, rfl, retired_testSlice faults _ i⟩

end

theorem quickTest_ends {s : State} {faults : List Nat} (hr : inReset s = false) (hlen : faults.length ≤ 128) (hph : phase s = 1 ∨ phase s = 5)
    (hstep : fld s .chip 0 f_CHIP_BRINGUP_STATUS_STEP = 6) (hfail : fld s .chip 0 f_CHIP_BRINGUP_STATUS_FAIL_STEP ≠ 7) :
    ∃ t, exec (.quickSelfTestDone faults) s = .next t ∧ (∀ i, i < 128 → (slice t i).ways = [] ∧ (slice t i).rowFaults = faults.getD i 0 ∧
        (Config.spareRows i < faults.getD i 0 → flag t .slice i f_SLICE_BOND_STATUS_RETIRED = true)) ∧ t.hbm = s.hbm ∧
      ((∀ i, i < 128 → faults.getD i 0 ≤ Config.spareRows i) → phase t = phase s ∧ fld t .chip 0 f_CHIP_BRINGUP_STATUS_STEP = 7) ∧
      ((∃ i, i < 128 ∧ Config.spareRows i < faults.getD i 0) → phase t = 5 ∧ fld t .chip 0 f_CHIP_BRINGUP_STATUS_FAIL_STEP = 7) := by
  have hexec : exec (.quickSelfTestDone faults) s = done s (if (List.range 128).any (fun i => decide (faults.getD i 0 > Config.spareRows i)) = true then
      stepFailed (slicesTested faults (List.range 128) s) 7 else stepDone (slicesTested faults (List.range 128) s) 7) := by
    change execQuickSelfTestDone faults s = _
    rw [execQuickSelfTestDone, run_eq (decide_eq_true hlen) hr, quickTestDone, if_neg (by rcases hph with h | h <;> simp [h, hstep, hfail])]
    rfl
  have hslice : ∀ i, i < 128 → _ := fun i hi => slice_slicesTested faults s (i := i) List.nodup_range (List.mem_range.2 hi)
  have hframe := slicesTested_frame faults s (List.range 128)
  have hchip := reg_slicesTested_chip faults s (List.range 128)
  rw [hexec]
  generalize slicesTested faults (List.range 128) s = u at *
  have hp : u.part = s.part := (congrArg State.part hframe :)
  have hq : u.pending = s.pending := (congrArg State.pending hframe :)
  have hm : u.hbm = s.hbm := (congrArg State.hbm hframe :)
  by_cases hbad : (List.range 128).any (fun i => decide (faults.getD i 0 > Config.spareRows i)) = true
  · rw [if_pos hbad]
    obtain ⟨hphase, hfs, -⟩ := stepFailed_regs u (n := 7) (by decide)
    obtain ⟨hp', hq', hm', -⟩ := pagesOnly_fields (pagesOnly_stepFailed u 7)
    have hsl : ∀ i, slice (stepFailed u 7) i = slice u i := fun i => by rw [slice, pagesOnly_stepFailed u 7, slice]
    have hret : ∀ i, flag (stepFailed u 7) .slice i f_SLICE_BOND_STATUS_RETIRED = flag u .slice i f_SLICE_BOND_STATUS_RETIRED := fun i => by
      have hpg : pageNo .slice i ≠ pageNo .chip 0 := by simp only [pageNo, kindBase, kindRow]; omega
      rw [stepFailed_eq u (by decide), flag, fld, reg_setPhase _ _ (by decide), reg_raiseIrq_other _ _ hpg (notIrc_slice i), reg_setF_page _ _ hpg, flag, fld]
    refine ⟨_, done_eq (hp'.trans hp) (hq'.trans hq), fun i hi => ?_, hm'.trans hm, fun hok => ?_, fun _ => ⟨hphase, hfs⟩⟩
    · rw [hsl, hret]
      exact hslice i hi
    · obtain ⟨i, hi, hgt⟩ := List.any_eq_true.1 hbad
      exact absurd (hok i (List.mem_range.1 hi)) (by simpa using hgt)
  · rw [if_neg hbad]
    refine ⟨stepDone u 7, done_eq hp hq, fun i hi => ?_, hm, fun _ => ⟨?_, step_stepDone u (by decide)⟩, fun ⟨i, hi, hgt⟩ => ?_⟩
    · have hret : flag (stepDone u 7) .slice i f_SLICE_BOND_STATUS_RETIRED = flag u .slice i f_SLICE_BOND_STATUS_RETIRED := by
        rw [flag, fld, reg_stepDone _ _ (by decide), flag, fld]
      rw [hret]
      exact hslice i hi
    · rw [phase, fld, reg_stepDone _ _ (by decide), hchip, phase, fld]
    · exact absurd (List.any_eq_true.2 ⟨i, List.mem_range.2 hi, decide_eq_true hgt⟩) hbad

end Sys2Proof.Proofs
end

section
/-! Resets of cells, blocks and regions (O45: R552 to R556). -/
namespace Sys2Proof.Proofs

open Sys2Proof.Machine Sys2Proof.Laws

/-! ## The flag writes that waited (R495) -/

section
variable (s : State)

/-- An entry of the secure log shows in the page SEC and in no other. -/
theorem leaves_secLogAdd (type src : Nat) (w : Bool) (id : Nat) (l : Byte) (m a : Nat) :
    Leaves (fun _ => False) s (secLogAdd s type src w id l m a) where
  rest := by rw [pagesOnly_secLogAdd s type src w id l m a]
  chip x _ _ := by
    unfold secLogAdd
    dsimp only
    split
    · rw [reg_raiseIrq_other _ _ (by decide) notIrc_chip, bumpField, reg_setF_page _ _ (by decide)]
    · rw [reg_raiseIrq_other _ _ (by decide) notIrc_chip, reg_setF_page _ _ (by decide)]
      rfl
  pwr _ h := h.elim
  groups c hc g := by rw [group, cell, pagesOnly_secLogAdd s type src w id l m a]; exact hc g

theorem leaves_putFlag (r i : Nat) (f : Flag) : Leaves (fun _ => False) s (putFlag s r i f) := leaves_setRegion s r _

theorem leaves_flagClr (r i : Nat) : Leaves (fun _ => False) s (flagClr s r i) := leaves_putFlag s r i {}

theorem leaves_flagSet (r i : Nat) : Leaves (fun _ => False) s (flagSet s r i) := by
  unfold flagSet
  split
  · exact Drops.refl.toLeaves
  · split
    · exact (drops_setF s _ _ (unitPage_block _)).toLeaves
    · exact leaves_putFlag s r i _

theorem leaves_flagWrite (r i : Nat) (set sec : Bool) (src id : Nat) (l : Byte) :
    Leaves (fun _ => False) s (flagWrite s r i set sec src id l).1 := by
  cases hf : flagSecure s r i && !sec with
  | true =>
    obtain ⟨h, rfl⟩ : flagSecure s r i = true ∧ sec = false := by simpa using hf
    rw [flagWrite_refused r i set src id l h, flagDrop]
    have hlog := leaves_secLogAdd s 4 src true id l 0 i
    exact hlog.trans (drops_raiseIrq _ 0 (unitPage_region r)).toLeaves
  | false =>
    rw [flagWrite_open r i set src id l (by cases h : flagSecure s r i <;> simp_all)]
    cases set with
    | true =>
      rw [if_pos rfl]
      exact leaves_flagSet s r i
    | false =>
      rw [if_neg Bool.false_ne_true]
      exact leaves_flagClr s r i

theorem leaves_heldFlags (r : Nat) : Leaves (fun _ => False) s (heldFlags s r) :=
  List.foldlRecOn (motive := Leaves (fun _ => False) s) _ _ (leaves_setRegion s r _) fun t ht x _ => ht.trans (leaves_flagWrite t r x.1 x.2.1 x.2.2 2 0 0)

end

/-! ## A unit absorbs (R553, R555) -/

section
variable (s : State)

/-- A cell, a block and a region that absorb, before the regions that nothing wants stop. -/
def unitCleared (sc u : Nat) (s : State) : State :=
  match sc with
  | 0 => thawUnit (absorbCell true s u) 0 u
  | 1 => thawUnit (absorbBlock s u) 1 u
  | _ => heldFlags (thawUnit (absorbRegion s u) 2 u) u

theorem unitCleared_cell (u : Nat) : unitCleared 0 u s = thawUnit (absorbCell true s u) 0 u := rfl
theorem unitCleared_block (u : Nat) : unitCleared 1 u s = thawUnit (absorbBlock s u) 1 u := rfl
theorem unitCleared_region (u : Nat) : unitCleared 2 u s = heldFlags (thawUnit (absorbRegion s u) 2 u) u := rfl

theorem absorbUnit_eq (sc u : Nat) : absorbUnit s sc u = stopIdle (unitCleared sc u (abandonUnit s sc u)) := rfl

theorem leaves_unitCleared (sc u : Nat) : Leaves (fun _ => False) s (unitCleared sc u s) := by
  unfold unitCleared
  split
  · exact ((drops_absorbCell s true u).trans (drops_thawUnit _ 0 u)).toLeaves
  · exact ((drops_absorbBlock s u).trans (drops_thawUnit _ 1 u)).toLeaves
  · exact ((drops_absorbRegion s u).trans (drops_thawUnit _ 2 u)).toLeaves.trans (leaves_heldFlags _ u)

theorem leaves_absorbUnit (sc u : Nat) : Leaves (fun _ => False) s (absorbUnit s sc u) := by
  rw [absorbUnit_eq]
  exact ((drops_abandonUnit s sc u).toLeaves.trans (leaves_unitCleared _ sc u)).trans (drops_stopIdle _).toLeaves

/-- The cells that a unit empties stay empty. -/
theorem group_absorbUnit {sc u c : Nat} (h : ∀ g, group (unitCleared sc u (abandonUnit s sc u)) c g = {}) (g : Nat) : group (absorbUnit s sc u) c g = {} := by
  rw [absorbUnit_eq]
  exact (drops_stopIdle _).groups c h g

theorem group_absorbUnit_cell (u g : Nat) : group (absorbUnit s 0 u) u g = {} := by
  refine group_absorbUnit s (sc := 0) (u := u) (fun g => ?_) g
  rw [unitCleared_cell]
  exact (drops_thawUnit (P := fun _ => False) (absorbCell true (abandonUnit s 0 u) u) 0 u).groups u (group_absorbCell _ true u) g

/-- A block's own reset, and that of its region, empty its cells. -/
theorem group_absorbUnit_of_block {v : Nat × Nat} {b c : Nat} (hv : v = (1, b) ∨ v = (2, b / 6)) (hc : c ∈ cellsIn s b) (g : Nat) :
    group (absorbUnit s v.1 v.2) c g = {} := by
  have hcells : ∀ sc u, c ∈ cellsIn (abandonUnit s sc u) b := fun sc u => by
    rwa [cellsIn_congr (drops_abandonUnit (P := fun _ => False) s sc u).repair]
  rcases hv with rfl | rfl
  · refine group_absorbUnit s (sc := 1) (u := b) (fun g => ?_) g
    rw [unitCleared_block]
    exact (drops_thawUnit (P := fun _ => False) (absorbBlock (abandonUnit s 1 b) b) 1 b).groups c (group_absorbBlock _ (hcells 1 b)) g
  · have hb : b ∈ blocksOfRegion (b / 6) := List.mem_map.2 ⟨b % 6, List.mem_range.2 (Nat.mod_lt _ (by decide)), Nat.div_add_mod b 6⟩
    have hthaw := (drops_thawUnit (P := fun _ => False) (absorbRegion (abandonUnit s 2 (b / 6)) (b / 6)) 2 (b / 6)).groups c
      (group_absorbRegion _ hb (hcells 2 (b / 6)))
    refine group_absorbUnit s (sc := 2) (u := b / 6) (fun g => ?_) g
    rw [unitCleared_region]
    exact (leaves_heldFlags _ (b / 6)).groups c hthaw g

/-- Where no region stops, a cell's reset leaves the other cells and its own local memory. -/
theorem cell_absorbUnit (hw : allWanted s) (u d : Nat) : cell (absorbUnit s 0 u) d = if d = u then absorbed (cell s u) else cell s d := by
  have hdrop : Drops (fun _ => True) s (unitCleared 0 u (abandonUnit s 0 u)) :=
    by
    rw [unitCleared_cell]
    exact ((drops_abandonUnit s 0 u).trans (drops_absorbCell _ true u)).trans (drops_thawUnit _ 0 u)
  have hcells : (unitCleared 0 u (abandonUnit s 0 u)).cells = (absorbCell true (abandonUnit s 0 u) u).cells := by
    rw [unitCleared_cell, PagesOnly.cells (pagesOnly_thawUnit _ 0 u)]
  have hab : ∀ c, cell (abandonUnit s 0 u) c = cell s c := fun c => by rw [cell, abandonUnit_cells, cell]
  rw [absorbUnit_eq, stopIdle_of_allWanted _ (allWanted_congr s (fun x => hdrop.pwr x trivial) hw), cell, hcells, ← cell, cell_absorbCell, hab, hab]

end

/-! ## RESET_CMD (R552 to R556) -/

section
variable (s : State)

theorem resetStatus_result (sc u : Nat) {res : Nat} (h : res < 16) : fld (resetStatus s sc u res) .chip 0 f_CHIP_RESET_STATUS_RESULT = res :=
  fld_setF_self _ (by decide) (by decide) h

/-- A request taken: its record has no result, and BUSY reads 1. -/
def resetTaken (sc u : Nat) (s : State) : State := setF (resetStatus s sc u 0) .chip 0 f_CHIP_RESET_STATUS_BUSY 1

theorem resetTaken_busy (sc u : Nat) : flag (resetTaken sc u s) .chip 0 f_CHIP_RESET_STATUS_BUSY = true :=
  flag_setF_self _ (by decide) (by decide) (by decide)

theorem resetTaken_result (sc u : Nat) : fld (resetTaken sc u s) .chip 0 f_CHIP_RESET_STATUS_RESULT = 0 := by
  rw [resetTaken, fld_setF_bits _ _ _ _ _ _ (by decide) (by decide) (by decide), resetStatus_result _ _ _ (by decide)]

theorem pagesOnly_resetTaken (sc u : Nat) : PagesOnly s (resetTaken sc u s) :=
  (((pagesOnly_setF s ..).trans (pagesOnly_setF ..)).trans (pagesOnly_setF ..)).trans (pagesOnly_setF ..)

theorem resetTaken_repair (sc u : Nat) : (resetTaken sc u s).repair = s.repair := (congrArg State.repair (pagesOnly_resetTaken s sc u) :)

theorem resetTaken_pwr (sc u x : Nat) : reg (resetTaken sc u s) .pwr 0 x = reg s .pwr 0 x := by
  rw [resetTaken, reg_setF_page _ _ (by decide), resetStatus, reg_setF_page _ _ (by decide), reg_setF_page _ _ (by decide), reg_setF_page _ _ (by decide)]

/-- The drain of a block or a region begins. -/
def drainStarted (v : Nat × Nat) (s : State) : State := { s with chores := { s.chores with unit := some v, drainAt := s.time.toNat } }

theorem drainStarted_fields (v : Nat × Nat) : (drainStarted v s).part = s.part ∧ (drainStarted v s).pending = s.pending ∧ (drainStarted v s).hbm = s.hbm ∧
    (drainStarted v s).chores.unit = some v := ⟨rfl, rfl, rfl, rfl⟩

theorem flag_drainStarted (v : Nat × Nat) (k : PageKind) (i : Nat) (f : Fld) : flag (drainStarted v s) k i f = flag s k i f := rfl

/-- The page of a unit that is reset. -/
abbrev unitKind (sc : Nat) : PageKind := if sc = 0 then .cell else if sc = 1 then .block else .region

theorem unitReset_absent {sc u : Nat} (h : present s (unitKind sc) u = false) : unitReset sc u s = resetStatus s sc u 3 := by
  unfold unitReset
  exact if_pos (by rw [h]; rfl)

/-- A request that nothing hinders. -/
theorem unitReset_free {sc u : Nat} (h : present s (unitKind sc) u = true) (hph : phase s = 2 ∨ phase s = 3) (hunit : s.chores.unit = none)
    (hparts : s.chores.parts = []) : unitReset sc u s = if sc = 0 then resetEnded (absorbUnit (resetTaken sc u s) sc u)
      else stopCells (drainStarted (sc, u) (resetTaken sc u s)) (unitCells (resetTaken sc u s) sc u) := by
  have hpres : ¬ (!present s (unitKind sc) u) = true := by rw [h]; decide
  have hph' : ¬ (decide (phase s ≠ phReady) && decide (phase s ≠ phRun)) = true := by rcases hph with h | h <;> simp [h]
  unfold unitReset
  extract_lets k inside isOver
  have hin : ¬ inside = true := by simp [inside, hunit, hparts]
  have hover : ¬ ((s.chores.unit.isSome && !isOver) || !s.chores.parts.isEmpty) = true := by simp [hunit, hparts]
  rw [if_neg hpres, if_neg hph', if_neg hin, if_neg hover]
  rfl

end

section
variable {s : State} (secure : Bool) {u : Nat}

/-- What the end of a reset leaves beside the registers. -/
theorem resetEnded_fields : (resetEnded s).part = s.part ∧ (resetEnded s).pending = s.pending ∧ (resetEnded s).hbm = s.hbm ∧ (resetEnded s).cells = s.cells ∧
    (resetEnded s).chores = s.chores := by
  rw [pagesOnly_resetEnded s]
  exact ⟨rfl, rfl, rfl, rfl, rfl⟩

theorem resetCmd_eq (h : reaches s secure .chip 0) (sc u : Nat) : resetCmd secure sc u s = unitReset sc u s := hostCmd_eq _ _ h

variable (h : reaches s secure .chip 0) (hu : u < 65536)
include h hu

theorem cellReset_ends (hph : phase s = 2 ∨ phase s = 3) (hunit : s.chores.unit = none) (hparts : s.chores.parts = []) (hp : present s .cell u = true) :
    ∃ t, exec (.cellReset secure u) s = .next t ∧ (∀ g, (group t u g).st = .free) ∧
      (allWanted s → (cell t u).lm = (cell s u).lm ∧ ∀ d, d ≠ u → cell t d = cell s d) ∧ fld t .chip 0 f_CHIP_RESET_STATUS_RESULT = 1 ∧
      flag t .chip 0 f_CHIP_RESET_STATUS_BUSY = false ∧ bitN (reg t .chip 0 o_COMMON_IRQ_PENDING).toNat 4 = true ∧ t.hbm = s.hbm := by
  have hexec : exec (.cellReset secure u) s = done s (resetEnded (absorbUnit (resetTaken 0 u s) 0 u)) := by
    change execCellReset secure u s = _
    rw [execCellReset, run_eq (decide_eq_true hu) h.1, resetCmd_eq secure h, unitReset_free s (sc := 0) hp hph hunit hparts, if_pos rfl]
  have hleaves := leaves_absorbUnit (resetTaken 0 u s) 0 u
  obtain ⟨hpt, hqt, hmt, hct, -⟩ := pagesOnly_fields (pagesOnly_resetTaken s 0 u)
  have hres : fld (absorbUnit (resetTaken 0 u s) 0 u) .chip 0 f_CHIP_RESET_STATUS_RESULT = 0 := by
    rw [fld, hleaves.chip _ (by decide) (by decide)]
    exact resetTaken_result s 0 u
  have hcell : ∀ d, cell (resetTaken 0 u s) d = cell s d := fun d => by rw [cell, hct, cell]
  have hgroup := group_absorbUnit_cell (resetTaken 0 u s) u
  have hcells := fun hw => cell_absorbUnit (resetTaken 0 u s) hw u
  rw [hexec]
  generalize absorbUnit (resetTaken 0 u s) 0 u = t at *
  obtain ⟨hpe, hqe, hme, hce, -⟩ := resetEnded_fields (s := t)
  have hend : ∀ d, cell (resetEnded t) d = cell t d := fun d => by rw [cell, hce, cell]
  refine ⟨_, done_eq (hpe.trans (hleaves.part.trans hpt)) (hqe.trans (hleaves.pending.trans hqt)), fun g => ?_, fun hw => ?_,
    result_resetEnded t hres, busy_resetEnded t, pending_resetEnded t, hme.trans (hleaves.hbm.trans hmt)⟩
  · rw [group, hend, ← group, hgroup g]
  · have hw' : allWanted (resetTaken 0 u s) := allWanted_congr s (resetTaken_pwr s 0 u) hw
    refine ⟨?_, fun d hd => ?_⟩
    · rw [hend, hcells hw', if_pos rfl, hcell]
      rfl
    · rw [hend, hcells hw', if_neg hd, hcell]

theorem cellReset_absent (hp : present s .cell u = false) : ∃ t, exec (.cellReset secure u) s = .next t ∧
    fld t .chip 0 f_CHIP_RESET_STATUS_RESULT = 3 ∧ t.cells = s.cells ∧ t.hbm = s.hbm := by
  have hexec : exec (.cellReset secure u) s = done s (resetStatus s 0 u 3) := by
    change execCellReset secure u s = _
    rw [execCellReset, run_eq (decide_eq_true hu) h.1, resetCmd_eq secure h, unitReset_absent s (sc := 0) hp]
  exact ⟨_, hexec.trans (done_eq rfl rfl), resetStatus_result s 0 u (by decide), rfl, rfl⟩

omit h hu in
/-- The cells of a unit whose drain begins stop issuing. -/
theorem drain_begins (sc u : Nat) : ∃ t, done s (stopCells (drainStarted (sc, u) (resetTaken sc u s))
      (unitCells (resetTaken sc u s) sc u)) = .next t ∧ t.chores.unit = some (sc, u) ∧
    (∀ c ∈ unitCells (resetTaken sc u s) sc u, (cell t c).resetting = true) ∧ flag t .chip 0 f_CHIP_RESET_STATUS_BUSY = true ∧
    t.hbm = s.hbm := by
  obtain ⟨hchores, hhbm, hpart, hpend, hflag⟩ := stopCells_other (drainStarted (sc, u) (resetTaken sc u s))
    (unitCells (resetTaken sc u s) sc u)
  obtain ⟨hp, hq, hm, hunit⟩ := drainStarted_fields (resetTaken sc u s) (sc, u)
  obtain ⟨hp', hq', hm', -⟩ := pagesOnly_fields (pagesOnly_resetTaken s sc u)
  refine ⟨_, done_eq (hpart.trans (hp.trans hp')) (hpend.trans (hq.trans hq')), ?_, fun c hc => ?_, ?_, hhbm.trans (hm.trans hm')⟩
  · rw [hchores, hunit]
  · rw [cell_stopCells, if_pos hc]
  · rw [hflag, flag_drainStarted, resetTaken_busy]

theorem blockReset_drains (hph : phase s = 2 ∨ phase s = 3) (hunit : s.chores.unit = none) (hparts : s.chores.parts = []) (hp : present s .block u = true) :
    ∃ t, exec (.blockReset secure u) s = .next t ∧ t.chores.unit = some (1, u) ∧ (∀ c ∈ cellsIn s u, (cell t c).resetting = true) ∧
      flag t .chip 0 f_CHIP_RESET_STATUS_BUSY = true ∧ t.hbm = s.hbm := by
  have hexec : exec (.blockReset secure u) s = done s (stopCells (drainStarted (1, u) (resetTaken 1 u s))
      (unitCells (resetTaken 1 u s) 1 u)) := by
    change execBlockReset secure u s = _
    rw [execBlockReset, run_eq (decide_eq_true hu) h.1, resetCmd_eq secure h, unitReset_free s (sc := 1) hp hph hunit hparts, if_neg (by decide)]
  have hcells : cellsIn (resetTaken 1 u s) u = cellsIn s u := cellsIn_congr (resetTaken_repair s 1 u) u
  rw [hexec, ← hcells]
  exact drain_begins 1 u

theorem regionReset_drains (hph : phase s = 2 ∨ phase s = 3) (hunit : s.chores.unit = none) (hparts : s.chores.parts = [])
    (hp : present s .region u = true) : ∃ t, exec (.regionReset secure u) s = .next t ∧ t.chores.unit = some (2, u) ∧
      (∀ c ∈ cellsOfRegion u, (cell t c).resetting = true) ∧ flag t .chip 0 f_CHIP_RESET_STATUS_BUSY = true ∧ t.hbm = s.hbm := by
  have hexec : exec (.regionReset secure u) s = done s (stopCells (drainStarted (2, u) (resetTaken 2 u s))
      (unitCells (resetTaken 2 u s) 2 u)) := by
    change execRegionReset secure u s = _
    rw [execRegionReset, run_eq (decide_eq_true hu) h.1, resetCmd_eq secure h, unitReset_free s (sc := 2) hp hph hunit hparts, if_neg (by decide)]
  rw [hexec]
  exact drain_begins 2 u

end

/-! ## The end of a drain (R554) -/

/-- The time at which a drain's limit has passed. -/
abbrev drainLimit (s : State) : Nat := s.chores.drainAt + max 1 (fld s .chip 0 f_CHIP_RESET_CTRL_DRAIN_LIM) * 1000

section
variable {s : State} (hr : inReset s = false)
include hr

theorem drain_early (h : s.time.toNat < drainLimit s) : exec .drainLimitExpire s = .next s := by
  change execDrainLimitExpire s = _
  rw [execDrainLimitExpire, run_eq rfl hr, drainExpire, if_pos h]
  exact done_eq rfl rfl

/-- The requests of the unit have returned, or the limit has passed. -/
theorem exec_drainEnd {v : Nat × Nat} {c : Instr} (hunit : s.chores.unit = some v)
    (hc : (c = Instr.resetDrainDone ∧ (unitCells s v.1 v.2).all (niIdle s) = true) ∨ (c = Instr.drainLimitExpire ∧ drainLimit s ≤ s.time.toNat)) :
    exec c s = done s (unitDone s v) := by
  rcases hc with ⟨rfl, hidle⟩ | ⟨rfl, hlim⟩
  · change execResetDrainDone s = _
    simp only [execResetDrainDone, run_eq rfl hr, drainDone, hunit, hidle, if_true]
  · change execDrainLimitExpire s = _
    simp only [execDrainLimitExpire, run_eq rfl hr, drainExpire, if_neg (Nat.not_lt.2 hlim), hunit]

theorem drain_ends {b : Nat} {v : Nat × Nat} {c : Instr} (hunit : s.chores.unit = some v) (hv : v = (1, b) ∨ v = (2, b / 6))
    (hc : (c = Instr.resetDrainDone ∧ (unitCells s v.1 v.2).all (niIdle s) = true) ∨ (c = Instr.drainLimitExpire ∧ drainLimit s ≤ s.time.toNat)) :
    ∃ t, exec c s = .next t ∧ t.chores.unit = none ∧ (∀ d ∈ cellsIn s b, ∀ g, (group t d g).st = .free) ∧
      flag t .chip 0 f_CHIP_RESET_STATUS_BUSY = false ∧ bitN (reg t .chip 0 o_COMMON_IRQ_PENDING).toNat 4 = true ∧ t.hbm = s.hbm := by
  have hleaves := leaves_absorbUnit { s with chores := { s.chores with unit := none } } v.1 v.2
  have hgroup := fun d (hd : d ∈ cellsIn s b) => group_absorbUnit_of_block { s with chores := { s.chores with unit := none } } hv hd
  rw [exec_drainEnd hr hunit hc, unitDone]
  generalize absorbUnit { s with chores := { s.chores with unit := none } } v.1 v.2 = t at *
  obtain ⟨hpe, hqe, hme, hce, hche⟩ := resetEnded_fields (s := t)
  refine ⟨_, done_eq (hpe.trans hleaves.part) (hqe.trans hleaves.pending), ?_, fun d hd g => ?_, busy_resetEnded t, pending_resetEnded t, hme.trans hleaves.hbm⟩
  · rw [hche, hleaves.unit]
  · rw [group, cell, hce, ← cell, ← group, hgroup d hd g]

end

/-- Settles O45: READY and RECOVERY by what closing the map leaves of the registers, the quick self-test slice by slice, and the resets by
what absorbing a unit leaves of the device. -/
theorem bringupAndResets : Obligations.BringupAndResets := by
  intro s hr
  refine ⟨fun h1 h2 h3 h4 h5 => bringup_ends hr h1 h2 h3 h4 h5, fun h1 h2 => recovery_ends hr h1 h2, fun h n hn => limit_early hr hn h,
    fun n hn h1 h2 h3 h4 h5 => limit_passed hr hn h1 h2 h3 h4 h5, fun faults hl h1 h2 h3 => quickTest_ends hr hl h1 h2 h3,
    fun secure u h hph hunit hparts => ⟨fun hp hu => ?_, fun hp hu => ?_, fun hp hu => ?_, fun hp hu => ?_⟩, fun h => drain_early hr h,
    fun b v c hunit hv hc => drain_ends hr hunit hv hc⟩
  · exact cellReset_ends secure h hu hph hunit hparts hp
  · exact blockReset_drains secure h hu hph hunit hparts hp
  · exact regionReset_drains secure h hu hph hunit hparts hp
  · exact cellReset_absent secure h hu hp

end Sys2Proof.Proofs
end

section
/-! What sending waiting requests leaves of the device (R346 to R350): the buffers of received packets, what stands in the egress queues, the
tags that timed out, and the moving flows (O51). -/
namespace Sys2Proof.Proofs

open Sys2Proof.Machine Sys2Proof.Laws

/-- What sending leaves: all but the NIs' lists, the ports' queues, the search of tags and the request numbers. A queue only grows, and a
flow that moves is one that moved, with its time. -/
structure Sends (s t : State) : Prop where
  rest : t = { s with fab := t.fab, ports := t.ports, fresh := t.fresh, nextId := t.nextId }
  rxQ : ∀ p, (port t p).rxQ = (port s p).rxQ
  queue : ∀ p, ∀ e ∈ (port s p).queue, e ∈ (port t p).queue
  stale : t.fab.stale = s.fab.stale
  moves : ∀ m ∈ t.fab.moves, ∃ n ∈ s.fab.moves, n.key = m.key ∧ n.moveAt = m.moveAt

section
variable {s t u : State}

theorem Sends.refl : Sends s s := ⟨rfl, fun _ => rfl, fun _ _ h => h, rfl, fun m h => ⟨m, h, rfl, rfl⟩⟩

theorem Sends.trans (h : Sends s t) (k : Sends t u) : Sends s u where
  rest := by rw [k.rest, h.rest]
  rxQ p := (k.rxQ p).trans (h.rxQ p)
  queue p e he := k.queue p e (h.queue p e he)
  stale := k.stale.trans h.stale
  moves m hm := by
    obtain ⟨n, hn, hk, ha⟩ := k.moves m hm
    obtain ⟨o, ho, hk', ha'⟩ := h.moves n hn
    exact ⟨o, ho, hk'.trans hk, ha'.trans ha⟩

theorem Sends.part (h : Sends s t) : t.part = s.part := (congrArg State.part h.rest :)
theorem Sends.pending (h : Sends s t) : t.pending = s.pending := (congrArg State.pending h.rest :)
theorem Sends.hbm (h : Sends s t) : t.hbm = s.hbm := (congrArg State.hbm h.rest :)
theorem Sends.cells (h : Sends s t) : t.cells = s.cells := (congrArg State.cells h.rest :)
theorem Sends.slices (h : Sends s t) : t.slices = s.slices := (congrArg State.slices h.rest :)
theorem Sends.pages (h : Sends s t) : t.pages = s.pages := (congrArg State.pages h.rest :)
theorem Sends.resps (h : Sends s t) : t.resps = s.resps := (congrArg State.resps h.rest :)

theorem Sends.reg (h : Sends s t) (k : PageKind) (i x : Nat) : reg t k i x = reg s k i x := by
  simp only [Machine.reg, page, h.pages, h.part]

end

section
variable (s : State)

/-- A change of the NIs' lists that keeps the tags that timed out and the flows that move. -/
theorem sends_fab (f : Fabric) (hs : f.stale = s.fab.stale) (hm : f.moves = s.fab.moves) : Sends s { s with fab := f } where
  rest := rfl
  rxQ _ := rfl
  queue _ _ h := h
  stale := hs
  moves m h := ⟨m, hm ▸ h, rfl, rfl⟩

theorem sends_nextFresh : Sends s (nextFresh s) := ⟨rfl, fun _ => rfl, fun _ _ h => h, rfl, fun m h => ⟨m, h, rfl, rfl⟩⟩

/-- A packet enters a queue behind those that stand there. -/
theorem enqueue_eq {t : State} {p : Nat} {k : Packet} {part : Nat} {lead : Option Nat} (h : enqueue s p k part lead = some t) :
    ∃ e, e.pkt = k ∧ t = setPort s p { port s p with queue := (port s p).queue ++ [e] } := by
  unfold enqueue at h
  dsimp only at h
  split at h
  · cases h
  · exact ⟨_, rfl, (Option.some.inj h).symm⟩

theorem sends_setPort (p : Nat) (e : EgressEnt) : Sends s (setPort s p { port s p with queue := (port s p).queue ++ [e] }) where
  rest := rfl
  rxQ q := by
    rw [port_setPort]
    split
    · rename_i h; rw [h]
    · rfl
  queue q x hx := by
    rw [port_setPort]
    split
    · rename_i h
      exact List.mem_append_left _ (h ▸ hx)
    · exact hx
  stale := rfl
  moves m h := ⟨m, h, rfl, rfl⟩

theorem sends_enqueue {t : State} {p : Nat} {k : Packet} {part : Nat} {lead : Option Nat} (h : enqueue s p k part lead = some t) : Sends s t := by
  obtain ⟨e, -, rfl⟩ := enqueue_eq s h
  exact sends_setPort s p e

/-- A flush that is noted keeps the key and the time of every flow that moves. -/
theorem sends_noteFlush (r : FabReq) (p t : Nat) : Sends s (noteFlush s r p t) where
  rest := rfl
  rxQ _ := rfl
  queue _ _ h := h
  stale := rfl
  moves m h := by
    obtain ⟨n, hn, rfl⟩ := List.mem_map.1 h
    refine ⟨n, hn, ?_⟩
    split <;> exact ⟨rfl, rfl⟩

theorem sends_noteFlow (k : Packet) : Sends s (noteFlow s k) := by
  unfold noteFlow
  split
  · split
    · exact sends_fab s _ rfl rfl
    · exact Sends.refl
  · exact Sends.refl

theorem sends_sendFlush {t : State} {r : FabReq} {me p : Nat} (h : sendFlush s r me p = some t) : Sends s t := by
  unfold sendFlush at h
  split at h
  · cases h
  · split at h
    · obtain ⟨u, hu, rfl⟩ := Option.map_eq_some_iff.1 h
      exact ((sends_nextFresh s).trans (sends_enqueue _ hu)).trans (sends_noteFlush u r p _)
    · split at h
      · cases h
      · cases h
        exact (sends_nextFresh s).trans (sends_noteFlush _ r p _)

theorem sends_trySend {t : State} {r : FabReq} (h : trySend s r = some t) : Sends s t := by
  unfold trySend at h
  split at h
  · cases h
  · split at h
    · exact sends_sendFlush s h
    · split at h
      · cases h
      · split at h
        · cases h
        · dsimp only at h
          split at h
          · split at h
            · cases h
            · split at h
              · cases h
              · rename_i u hu
                cases h
                exact ((sends_nextFresh s).trans (sends_enqueue _ hu)).trans (sends_fab u _ rfl rfl)
          · split at h
            · cases h
            · rename_i u hu
              cases h
              exact (sends_enqueue s hu).trans (sends_fab u _ rfl rfl)

theorem sends_pumpList (l : List FabReq) : Sends s (pumpList s l) := by
  induction l generalizing s with
  | nil => exact Sends.refl
  | cons r l ih =>
    unfold pumpList
    split
    · rename_i u hu
      have hsend : trySend s r = some u := by
        split at hu
        · cases hu
        · exact hu
      exact ((sends_trySend s hsend).trans (sends_noteFlow u r.pkt)).trans (ih _)
    · exact (sends_fab s { s.fab with wait := s.fab.wait ++ [r] } rfl rfl).trans (ih _)

theorem sends_addFlushes (l : List Wrp) : Sends s (addFlushes s l) := by
  induction l generalizing s with
  | nil => exact Sends.refl
  | cons x l ih =>
    unfold addFlushes
    dsimp only
    split
    · exact ih s
    · refine Sends.trans ?_ (ih _)
      exact ⟨rfl, fun _ => rfl, fun _ _ h => h, rfl, fun m h => ⟨m, h, rfl, rfl⟩⟩

/-- Sending what can go leaves the rest of the device. -/
theorem sends_pump : Sends s (pump s) := by
  have hwait : ∀ u : State, Sends u (pumpList { u with fab := { u.fab with wait := [] } } u.fab.wait) := fun u =>
    (sends_fab u { u.fab with wait := [] } rfl rfl).trans (sends_pumpList _ _)
  exact ((hwait s).trans (sends_addFlushes _ _)).trans (hwait _)

end

end Sys2Proof.Proofs
end

section
/-! What work in the slices leaves of the device (R268 to R275, R369 to R390): a line that a completion brings enters the cache die (O51). -/
namespace Sys2Proof.Proofs

open Sys2Proof.Machine Sys2Proof.Laws

/-- Two states that differ in what the slices and the HBM channels hold, their records, and the register pages only. -/
def InSlices (s t : State) : Prop :=
  t = { s with pages := t.pages, slices := t.slices, hbm := t.hbm, hbmCtl := t.hbmCtl, cache := t.cache, nextId := t.nextId }

section
variable {s t u : State}

theorem InSlices.refl : InSlices s s := rfl

theorem InSlices.trans (h : InSlices s t) (k : InSlices t u) : InSlices s u := by
  unfold InSlices at *
  rw [k, h]

theorem PagesOnly.inSlices (h : PagesOnly s t) : InSlices s t := by
  rw [h]
  rfl

theorem InSlices.part (h : InSlices s t) : t.part = s.part := (congrArg State.part h :)
theorem InSlices.pending (h : InSlices s t) : t.pending = s.pending := (congrArg State.pending h :)
theorem InSlices.cells (h : InSlices s t) : t.cells = s.cells := (congrArg State.cells h :)
theorem InSlices.resps (h : InSlices s t) : t.resps = s.resps := (congrArg State.resps h :)
theorem InSlices.ports (h : InSlices s t) : t.ports = s.ports := (congrArg State.ports h :)

end

section
variable (s : State)

theorem inSlices_setF (k : PageKind) (i : Nat) (f : Fld) (v : Nat) : InSlices s (setF s k i f v) := PagesOnly.inSlices (pagesOnly_setF s k i f v)
theorem inSlices_bump (k : PageKind) (i off n : Nat) : InSlices s (bump s k i off n) := PagesOnly.inSlices (pagesOnly_bump s k i off n)
theorem inSlices_raiseIrq (k : PageKind) (i bit : Nat) : InSlices s (raiseIrq s k i bit) := PagesOnly.inSlices (pagesOnly_raiseIrq s k i bit)
theorem inSlices_setSlice (i : Nat) (v : Slice) : InSlices s (setSlice s i v) := rfl
theorem inSlices_setWay (sl key : Nat) (w : Way) : InSlices s (setWay s sl key w) := rfl
theorem inSlices_bumpField (k : PageKind) (i : Nat) (f : Fld) (n : Nat) : InSlices s (bumpField s k i f n) := inSlices_setF s ..

theorem inSlices_bucketAdd (k : PageKind) (i off cfg irq : Nat) : InSlices s (bucketAdd s k i off cfg irq) := by
  unfold bucketAdd
  dsimp only
  split
  · exact ((inSlices_setF s ..).trans (inSlices_setF ..)).trans (inSlices_raiseIrq ..)
  · exact inSlices_setF s ..

/-! ## Logs (R297, R385) -/

theorem inSlices_sliceLog (sl type : Nat) (lbl : Byte) (src : Src) (a r : W16) (l : Nat) : InSlices s (sliceLog s sl type lbl src a r l) := by
  unfold sliceLog
  dsimp only
  split
  · exact InSlices.refl
  · split
    · exact (inSlices_bumpField s ..).trans (inSlices_raiseIrq ..)
    · exact (inSlices_setSlice s ..).trans (inSlices_setF ..)

theorem inSlices_sliceErr (sl type src word : Nat) (syn lbl : Byte) (l : Nat) : InSlices s (sliceErr s sl type src word syn lbl l) := by
  unfold sliceErr
  dsimp only
  split
  · exact ((inSlices_setSlice s ..).trans (inSlices_setF ..)).trans (inSlices_bumpField ..)
  · exact (inSlices_setSlice s ..).trans (inSlices_setF ..)

theorem inSlices_sliceCE (sl src word : Nat) (syn lbl : Byte) (l : Nat) : InSlices s (sliceCE s sl src word syn lbl l) :=
  ((inSlices_bump s ..).trans (inSlices_bucketAdd ..)).trans (inSlices_sliceErr ..)

theorem inSlices_sliceUE (sl src word : Nat) (syn lbl : Byte) (l : Nat) : InSlices s (sliceUE s sl src word syn lbl l) :=
  ((inSlices_bump s ..).trans (inSlices_raiseIrq ..)).trans (inSlices_sliceErr ..)

/-! ## Ways (R268 to R270, R372, R390) -/

theorem inSlices_putBody (sl key : Nat) (b : Body) (w : BitVec 32) : InSlices s (putBody s sl key b w) := by
  unfold putBody
  dsimp only
  split
  · exact (inSlices_setF s ..).trans (inSlices_setWay ..)
  · exact inSlices_setWay s ..

theorem inSlices_decodeWords (sl key src : Nat) (lbl : Byte) (mask : BitVec 32) (fix : Bool) (l : List (Nat × Byte)) :
    InSlices s (decodeWords s sl key src lbl mask fix l).1 := by
  induction l with
  | nil => exact InSlices.refl
  | cons x l ih =>
    obtain ⟨i, syn⟩ := x
    unfold decodeWords
    dsimp only
    split
    · exact ih
    · split
      · exact (ih.trans (inSlices_sliceCE ..)).trans (inSlices_putBody ..)
      · exact ih
      · dsimp only
        split
        · exact (ih.trans (inSlices_sliceUE ..)).trans (inSlices_putBody ..)
        · exact ih.trans (inSlices_sliceUE ..)

theorem inSlices_decodeWay (sl key src : Nat) (lbl : Byte) (mask : BitVec 32) (fix : Bool) : InSlices s (decodeWay s sl key src lbl mask fix).1 :=
  inSlices_decodeWords s sl key src lbl mask fix _

theorem inSlices_mapRanks (sl set : Nat) (f : Way → Nat) (l : List Nat) : InSlices s (mapRanks s sl set f l) := by
  induction l with
  | nil => exact InSlices.refl
  | cons w l ih =>
    unfold mapRanks
    dsimp only
    split
    · exact ih.trans (inSlices_setWay ..)
    · exact ih

theorem inSlices_dropWay (sl set way : Nat) : InSlices s (dropWay s sl set way) := (inSlices_setWay s ..).trans (inSlices_mapRanks ..)

/-! ## Writebacks (R275, R307 to R310, R373) -/

theorem inSlices_hbmEncode (sl w : Nat) (p : Bool) : InSlices s (hbmEncode s sl w p).1 := by
  unfold hbmEncode
  dsimp only
  split
  · exact (inSlices_setF s ..).trans rfl
  · rfl

theorem inSlices_hbmEncodeLine (l : Nat) (p : BitVec 32) (n : Nat) : InSlices s (hbmEncodeLine s l p n).1 := by
  induction n with
  | zero => exact InSlices.refl
  | succ n ih => exact ih.trans (inSlices_hbmEncode ..)

theorem inSlices_hbm (m : Hbm) : InSlices s { s with hbm := m } := rfl

theorem inSlices_hbmPutData (l : Nat) (d : Line) (p : BitVec 32) : InSlices s (hbmPutData s l d p) := by
  unfold hbmPutData
  have h := inSlices_hbmEncodeLine s l p 32
  generalize hbmEncodeLine s l p 32 = e at *
  exact h.trans (inSlices_hbm _ _)

theorem inSlices_setEntryRaw (l : Nat) (e : W32) : InSlices s (setEntryRaw s l e) := rfl

theorem inSlices_putEntry (l : Nat) (e : W32) : InSlices s (putEntry s l e) := by
  unfold putEntry
  dsimp only
  have h := (inSlices_setEntryRaw s l e).trans (inSlices_hbmEncode (setEntryRaw s l e) (owner l) (entryPos l) false)
  split
  · exact h
  · exact (h.trans (inSlices_setEntryRaw ..)).trans (inSlices_setEntryRaw ..)

theorem inSlices_unmark (l : Nat) : InSlices s (unmark s l) := rfl

theorem inSlices_hbmWriteBody (l : Nat) (b : Body) : InSlices s (hbmWriteBody s l b) := by
  unfold hbmWriteBody
  dsimp only
  split
  · exact ((inSlices_unmark s l).trans (inSlices_hbmPutData ..)).trans (inSlices_putEntry ..)
  · exact ((inSlices_unmark s l).trans (inSlices_hbmPutData ..)).trans (inSlices_putEntry ..)

theorem inSlices_writeOut (sl key : Nat) : InSlices s (writeOut s sl key) := by
  unfold writeOut
  dsimp only
  split
  · exact InSlices.refl
  · split
    · exact (inSlices_unmark s _).trans (inSlices_putEntry ..)
    · split
      · split
        · exact (((((inSlices_decodeWay s ..).trans (inSlices_hbmWriteBody ..)).trans (inSlices_bump ..)).trans (inSlices_bump ..)).trans
            (inSlices_raiseIrq ..)).trans (inSlices_sliceLog ..)
        · exact ((inSlices_decodeWay s ..).trans (inSlices_hbmWriteBody ..)).trans (inSlices_bump ..)
      · exact InSlices.refl

theorem inSlices_addWb (sl : Nat) (w : Wb) : InSlices s (addWb s sl w) := rfl

theorem inSlices_evict (sl set way : Nat) : InSlices s (evict s sl set way) := by
  unfold evict
  dsimp only
  split
  · exact InSlices.refl
  · refine InSlices.trans ?_ (inSlices_dropWay ..)
    unfold noteWb
    split
    · exact (inSlices_writeOut s ..).trans (inSlices_addWb ..)
    · exact inSlices_writeOut s ..

/-! ## Fills (R257, R269 to R271) -/

theorem inSlices_install (sl set way : Nat) (q : Req) (remote dirty dead : Bool) (b : Body) : InSlices s (install s sl set way q remote dirty dead b) := by
  unfold install
  dsimp only
  have hrank : ∀ p : Prop, ∀ _ : Decidable p, InSlices s (if p then s else mapRanks s sl set (fun x => x.lru + 1) (List.range 24)) := fun p _ => by
    split
    · exact InSlices.refl
    · exact inSlices_mapRanks s ..
  generalize (if remote = true then (2, none) else fillClass s q) = c
  split
  · exact (((hrank _ _).trans (inSlices_setWay ..)).trans (inSlices_putBody ..)).trans (inSlices_bump ..)
  · exact ((hrank _ _).trans (inSlices_setWay ..)).trans (inSlices_putBody ..)

theorem inSlices_noteBypass (sl set : Nat) (q : Req) (r : W16) : InSlices s (noteBypass s sl set q r) := by
  unfold noteBypass
  dsimp only
  split
  · exact (inSlices_bump s ..).trans (inSlices_sliceLog ..)
  · exact inSlices_bump s ..

theorem inSlices_remoteFill (q : Req) (b : Body) : InSlices s (remoteFill s q b) := by
  unfold remoteFill
  dsimp only
  split
  · exact (inSlices_evict s ..).trans (inSlices_install ..)
  · exact (inSlices_evict s ..).trans (inSlices_install ..)
  · exact inSlices_noteBypass s ..

/-- A completion that is kept, or is not, changes the slices alone. -/
theorem inSlices_keepLine (r : FabReq) (k : Packet) : InSlices s (keepLine s r k) := by
  unfold keepLine
  split
  · exact inSlices_remoteFill s ..
  · exact InSlices.refl

/-- Only a read's completion is kept. -/
theorem keepLine_of_noRead {r : FabReq} (k : Packet) (h : r.pkt.type ≠ 1) : keepLine s r k = s := by
  have hk : keepsLine s r k = false := by simp [keepsLine, h]
  rw [keepLine, hk]
  rfl

end

end Sys2Proof.Proofs
end

section
/-! Answers of the fabric: responses, completion timeouts, released tags and moved flows (O51: R342, R343, R346, R347, R350). -/
namespace Sys2Proof.Proofs

open Sys2Proof.Machine Sys2Proof.Laws

/-! ## A received packet leaves its buffer (R330) -/

section
variable (s : State) (p : Nat) (k : Packet)

/-- The state when packet `k` has left port `p`, where `rest` stands behind it. -/
def popped (rest : List Packet) : State := freeCredit (setPort s p { port s p with rxQ := rest }) p k

theorem popRx_head {rest : List Packet} {want : Packet → Bool} (h : (port s p).rxQ = k :: rest) (hk : want k = true) :
    popRx s p want = some (k, popped s p k rest) := by
  unfold popRx
  dsimp only
  rw [h, List.find?_cons_of_pos hk, List.eraseP_cons_of_pos hk]
  rfl

theorem fab_popped (rest : List Packet) : (popped s p k rest).fab = s.fab := rfl

theorem popped_fields (rest : List Packet) : (popped s p k rest).part = s.part ∧ (popped s p k rest).pending = s.pending ∧
    (popped s p k rest).hbm = s.hbm ∧ (popped s p k rest).cells = s.cells ∧ (popped s p k rest).resps = s.resps := ⟨rfl, rfl, rfl, rfl, rfl⟩

theorem stillMaps_popped (rest : List Packet) (r : FabReq) : stillMaps (popped s p k rest) r = stillMaps s r := rfl

theorem rxQ_popped (rest : List Packet) : (port (popped s p k rest) p).rxQ = rest := by
  rw [popped, freeCredit, port_setPort, if_pos rfl, port_setPort, if_pos rfl]

theorem queue_popped (rest : List Packet) (q : Nat) : (port (popped s p k rest) q).queue = (port s q).queue := by
  rw [popped, freeCredit, port_setPort, port_setPort, port_setPort, if_pos rfl]
  by_cases h : q = p
  · rw [if_pos h, h]
  · rw [if_neg h, if_neg h]

theorem reg_popped (rest : List Packet) (k' : PageKind) (i x : Nat) : reg (popped s p k rest) k' i x = reg s k' i x := rfl

end

/-! ## Moves and timeouts (R347, R350) -/

section
variable (s : State)

/-- The end of moves keeps the moves that do not end, and finds new ports for the flows of the others. -/
theorem endMoves_frame (isOver : FlowMove → Bool) : ∃ fl, endMoves s isOver =
    { s with fab := { s.fab with moves := s.fab.moves.filter (fun m => !isOver m), flows := fl } } := by
  have hfold : ∀ (l : List Nat) (u : State), ∃ fl, l.foldl (fun s k =>
      let rest := mdel k s.fab.flows
      { s with fab := { s.fab with flows := match flowPort s k with | some p => mins k p rest | none => rest } }) u =
      { u with fab := { u.fab with flows := fl } } := by
    intro l
    induction l with
    | nil => exact fun u => ⟨u.fab.flows, rfl⟩
    | cons k l ih =>
      intro u
      obtain ⟨fl, h⟩ := ih { u with fab := { u.fab with flows := match flowPort u k with | some p => mins k p (mdel k u.fab.flows) | none => mdel k u.fab.flows } }
      exact ⟨fl, h⟩
  exact hfold _ _

theorem pagesOnly_countTimeout : PagesOnly s (countTimeout s) := (pagesOnly_bump ..).trans (pagesOnly_raiseIrq ..)

theorem pending_countTimeout : bitN (reg (countTimeout s) .fab 0 o_COMMON_IRQ_PENDING).toNat 2 = true :=
  pending_raiseIrq _ (by decide) (by decide)

end

/-! ## Responses (R343, R346) -/

section
variable (s : State)

/-- A request's tag is free once more. -/
def tagFreed (t : Nat) : State := { s with fab := { s.fab with outst := s.fab.outst.filter (fun x => x.1 != t) } }

/-- A response to an outstanding tag: its tag is free, its line may be kept, and its answer is on its way. -/
theorem responseIn_outstanding {k : Packet} {t : Nat} {r : FabReq} {y : Reply} (hb : bitN k.tag 15 = false)
    (hf : s.fab.flushes.find? (fun f => f.1 == k.tag) = none) (ho : s.fab.outst.find? (fun x => x.1 == k.tag) = some (t, r))
    (hy : replyOf (stillMaps s r) r.pkt k = some y) : responseIn s k = fabRespond (keepLine (tagFreed s t) r k) r.id r.src r.line y := by
  unfold responseIn
  rw [hb, hf, ho]
  dsimp only
  rw [hy]
  rfl

theorem responseIn_stray {k : Packet} (hb : bitN k.tag 15 = false) (hf : s.fab.flushes.find? (fun f => f.1 == k.tag) = none)
    (ho : s.fab.outst.find? (fun x => x.1 == k.tag) = none) : responseIn s k = stray s := by
  unfold responseIn
  rw [hb, hf, ho]
  rfl

/-- An answer that travels to its source, when what can go has been sent. -/
theorem sent_answer (id : Nat) (src : Src) (line : Nat) (y : Reply) : (pump (fabRespond s id src line y)).resps = s.resps ++ [⟨id, src, line, y⟩] ∧
    (∀ p, (port (pump (fabRespond s id src line y)) p).rxQ = (port s p).rxQ) ∧ (pump (fabRespond s id src line y)).hbm = s.hbm ∧
    (pump (fabRespond s id src line y)).cells = s.cells ∧ (pump (fabRespond s id src line y)).part = s.part ∧
    (pump (fabRespond s id src line y)).pending = s.pending := by
  have h := sends_pump (fabRespond s id src line y)
  exact ⟨h.resps, h.rxQ, h.hbm, h.cells, h.part, h.pending⟩

end

section
variable {s : State} (hr : inReset s = false) (ht : thawed s = true)
include hr ht

theorem run_fab (f : State → State) : run (!frozen s .fab 0) s f = done s (f s) := run_eq (by rw [frozen_of_thawed ht]; rfl) hr

theorem run_port {p : Nat} (hp : p < 24) (f : State → State) : run (p < 24 && !portFrozen s p) s f = done s (f s) := by
  refine run_eq ?_ hr
  rw [decide_eq_true hp, portFrozen, frozen_of_thawed ht, frozen_of_thawed ht]
  rfl

theorem exec_response {p : Nat} {k : Packet} {rest : List Packet} (hp : p < 24) (hq : (port s p).rxQ = k :: rest) (hk : k.type = 8 ∨ k.type = 9) :
    exec (.fabResponseReceived p) s = done s (pump (responseIn (popped s p k rest) k)) := by
  change execFabResponseReceived p s = _
  have hwant : (k.type == 8 || k.type == 9) = true := by rcases hk with h | h <;> simp [h]
  rw [execFabResponseReceived, run_port hr ht hp, popRx_head s p k hq hwant]

theorem response_outstanding {p : Nat} {k : Packet} {rest : List Packet} {t : Nat} {r : FabReq} {y : Reply} (hp : p < 24)
    (hq : (port s p).rxQ = k :: rest) (hk : k.type = 8 ∨ k.type = 9) (hb : bitN k.tag 15 = false)
    (hf : s.fab.flushes.find? (fun f => f.1 == k.tag) = none) (ho : s.fab.outst.find? (fun x => x.1 == k.tag) = some (t, r))
    (hy : replyOf (stillMaps s r) r.pkt k = some y) :
    ∃ u, exec (.fabResponseReceived p) s = .next u ∧ u.resps = s.resps ++ [⟨r.id, r.src, r.line, y⟩] ∧ (port u p).rxQ = rest ∧
      (r.pkt.type ≠ 1 → u.hbm = s.hbm) ∧ u.cells = s.cells := by
  have hpop := rxQ_popped s p k rest
  have hin := responseIn_outstanding (popped s p k rest) hb (fab_popped s p k rest ▸ hf) (fab_popped s p k rest ▸ ho)
    (stillMaps_popped s p k rest r ▸ hy)
  obtain ⟨hp0, hq0, hm0, hc0, hs0⟩ := popped_fields s p k rest
  rw [exec_response hr ht hp hq hk, hin]
  generalize popped s p k rest = v at *
  have hkeep : InSlices (tagFreed v t) (keepLine (tagFreed v t) r k) := inSlices_keepLine _ r k
  have hnone : r.pkt.type ≠ 1 → (keepLine (tagFreed v t) r k).hbm = v.hbm := fun h => by rw [keepLine_of_noRead _ k h]; rfl
  have hport : (port (tagFreed v t) p).rxQ = (port v p).rxQ := rfl
  generalize keepLine (tagFreed v t) r k = w at *
  obtain ⟨h1, h2, h3, h4, h5, h6⟩ := sent_answer w r.id r.src r.line y
  refine ⟨_, done_eq (h5.trans (hkeep.part.trans hp0)) (h6.trans (hkeep.pending.trans hq0)), ?_, ?_, fun h => h3.trans ((hnone h).trans hm0),
    h4.trans (hkeep.cells.trans hc0)⟩
  · rw [h1, hkeep.resps]
    exact congrArg (· ++ _) hs0
  · rw [h2, port, hkeep.ports, ← port, hport, hpop]

theorem response_stray {p : Nat} {k : Packet} {rest : List Packet} (hp : p < 24) (hq : (port s p).rxQ = k :: rest) (hk : k.type = 8 ∨ k.type = 9)
    (hb : bitN k.tag 15 = false) (hf : s.fab.flushes.find? (fun f => f.1 == k.tag) = none) (ho : s.fab.outst.find? (fun x => x.1 == k.tag) = none) :
    ∃ u, exec (.fabResponseReceived p) s = .next u ∧ u.resps = s.resps ∧ (port u p).rxQ = rest ∧ u.hbm = s.hbm ∧ u.cells = s.cells := by
  have hpop := rxQ_popped s p k rest
  have hin := responseIn_stray (popped s p k rest) hb (fab_popped s p k rest ▸ hf) (fab_popped s p k rest ▸ ho)
  obtain ⟨hp0, hq0, hm0, hc0, hs0⟩ := popped_fields s p k rest
  rw [exec_response hr ht hp hq hk, hin]
  generalize popped s p k rest = v at *
  have hsent := sends_pump (stray v)
  obtain ⟨hp1, hq1, hm1, hc1, -⟩ := pagesOnly_fields (pagesOnly_bump v .fab 0 o_FAB_STRAY 1)
  refine ⟨_, done_eq (hsent.part.trans (hp1.trans hp0)) (hsent.pending.trans (hq1.trans hq0)), hsent.resps.trans ((bump_resps ..).trans hs0),
    ?_, hsent.hbm.trans (hm1.trans hm0), hsent.cells.trans (hc1.trans hc0)⟩
  rw [hsent.rxQ, stray, bump_port, hpop]

end

/-! ## Timeouts, tags and flows (R345 to R347, R350) -/

section
variable {s : State} (hr : inReset s = false) (ht : thawed s = true)

/-- Whether a flow's move is one of `key` whose time has come. -/
def moveDue (s : State) (key : Nat) (m : FlowMove) : Bool :=
  m.key == key && (match m.moveAt with | some t => decide (t ≤ s.time.toNat) | none => false)

theorem flowSwitchover_eq (key : Nat) (s : State) : flowSwitchover key s = pump (endMoves s (moveDue s key)) := rfl

/-- A request that timed out is counted and raised, and its source is told. -/
theorem timed_out (v : State) (id : Nat) (src : Src) (line : Nat) (hs : v = { s with fab := v.fab }) :
    ∃ u, done s (pump (fabRespond (countTimeout v) id src line .timeout)) = .next u ∧ u.resps = s.resps ++ [⟨id, src, line, .timeout⟩] ∧
      u.fab.stale = v.fab.stale ∧ bitN (reg u .fab 0 o_COMMON_IRQ_PENDING).toNat 2 = true ∧ u.hbm = s.hbm ∧ u.cells = s.cells := by
  have hpages := pagesOnly_countTimeout v
  have hirq := pending_countTimeout v
  have hsent := sends_pump (fabRespond (countTimeout v) id src line .timeout)
  obtain ⟨h1, -, h3, h4, h5, h6⟩ := sent_answer (countTimeout v) id src line .timeout
  generalize countTimeout v = w at *
  obtain ⟨hp1, hq1, hm1, hc1, -⟩ := pagesOnly_fields hpages
  refine ⟨_, done_eq (h5.trans (hp1.trans (congrArg State.part hs :))) (h6.trans (hq1.trans (congrArg State.pending hs :))), ?_,
    hsent.stale.trans (congrArg (fun t => t.fab.stale) hpages :), ?_, h3.trans (hm1.trans (congrArg State.hbm hs :)),
    h4.trans (hc1.trans (congrArg State.cells hs :))⟩
  · rw [h1, (congrArg State.resps hpages :), (congrArg State.resps hs :)]
  · rw [hsent.reg]
    exact hirq

include hr ht

theorem exec_fabTimeout (id : Nat) : exec (.fabCompletionTimeout id) s = done s (fabTimeout id s) := by
  change execFabCompletionTimeout id s = _
  exact run_fab hr ht _

theorem timeout_waiting {id : Nat} {r : FabReq} (hw : s.fab.wait.find? (fun x => x.id == id) = some r) (hf : isFlush r.pkt = false)
    (hc : ctoPassed s r.born = true) : ∃ u, exec (.fabCompletionTimeout id) s = .next u ∧ u.resps = s.resps ++ [⟨r.id, r.src, r.line, .timeout⟩] ∧
      bitN (reg u .fab 0 o_COMMON_IRQ_PENDING).toNat 2 = true ∧ u.hbm = s.hbm ∧ u.cells = s.cells := by
  have heq : fabTimeout id s =
      pump (fabRespond (countTimeout { s with fab := { s.fab with wait := s.fab.wait.filter (fun x => x.id != id) } }) r.id r.src r.line .timeout) := by
    unfold fabTimeout
    rw [hw]
    dsimp only
    rw [hc, hf]
    rfl
  rw [exec_fabTimeout hr ht, heq]
  obtain ⟨u, h1, h2, -, h3, h4, h5⟩ := timed_out (s := s) { s with fab := { s.fab with wait := s.fab.wait.filter (fun x => x.id != id) } } r.id r.src r.line rfl
  exact ⟨u, h1, h2, h3, h4, h5⟩

theorem timeout_outstanding {id t : Nat} {r : FabReq} (hw : s.fab.wait.find? (fun x => x.id == id) = none)
    (ho : s.fab.outst.find? (fun x => x.2.id == id) = some (t, r)) :
    (ctoPassed s r.born = false → exec (.fabCompletionTimeout id) s = .next s) ∧
    (ctoPassed s r.born = true → ∃ u, exec (.fabCompletionTimeout id) s = .next u ∧ u.resps = s.resps ++ [⟨r.id, r.src, r.line, .timeout⟩] ∧
      (t, s.time.toNat) ∈ u.fab.stale ∧ bitN (reg u .fab 0 o_COMMON_IRQ_PENDING).toNat 2 = true ∧ u.hbm = s.hbm ∧ u.cells = s.cells) := by
  have heq : fabTimeout id s = if !ctoPassed s r.born then s else pump (fabRespond (countTimeout { s with fab := { s.fab with
      outst := s.fab.outst.filter (fun x => x.1 != t), stale := s.fab.stale ++ [(t, s.time.toNat)] } }) r.id r.src r.line .timeout) := by
    unfold fabTimeout
    rw [hw, ho]
  rw [exec_fabTimeout hr ht, heq]
  refine ⟨fun h => ?_, fun h => ?_⟩
  · rw [h]
    exact done_eq rfl rfl
  · rw [h, if_neg (by decide)]
    obtain ⟨u, h1, h2, h3, h4, h5, h6⟩ := timed_out (s := s) { s with fab := { s.fab with
      outst := s.fab.outst.filter (fun x => x.1 != t), stale := s.fab.stale ++ [(t, s.time.toNat)] } } r.id r.src r.line rfl
    exact ⟨u, h1, h2, by rw [h3]; simp, h4, h5, h6⟩

theorem tag_releases {t : Nat} (h15 : t < 32768) :
    ((s.fab.stale.any (fun x => x.1 == t && ctoPassed s x.2)) = false → exec (.tagReleaseTimeout t) s = .next s) ∧
    ((s.fab.stale.any (fun x => x.1 == t && ctoPassed s x.2)) = true → ∃ u, exec (.tagReleaseTimeout t) s = .next u ∧
      u.fab.stale = s.fab.stale.filter (fun x => x.1 != t) ∧ u.resps = s.resps ∧ u.hbm = s.hbm ∧ u.cells = s.cells) := by
  have hexec : exec (.tagReleaseTimeout t) s = done s (tagRelease t s) := by
    change execTagReleaseTimeout t s = _
    refine run_eq ?_ hr
    rw [decide_eq_true h15, frozen_of_thawed ht]
    rfl
  rw [hexec, tagRelease]
  refine ⟨fun h => ?_, fun h => ?_⟩
  · rw [if_neg (by rw [h]; decide)]
    exact done_eq rfl rfl
  · rw [if_pos h]
    have hsent := sends_pump { s with fab := { s.fab with stale := s.fab.stale.filter (fun x => x.1 != t) } }
    exact ⟨_, done_eq hsent.part hsent.pending, hsent.stale, hsent.resps, hsent.hbm, hsent.cells⟩

/-- The moves of a flow whose time has come end. -/
theorem flow_moves (key : Nat) : ∃ u, exec (.flowSwitchoverTimeout key) s = .next u ∧
    (∀ m ∈ u.fab.moves, ∀ t, m.key = key → m.moveAt = some t → s.time.toNat < t) ∧ u.resps = s.resps ∧ u.hbm = s.hbm ∧ u.cells = s.cells := by
  have hexec : exec (.flowSwitchoverTimeout key) s = done s (flowSwitchover key s) := by
    change execFlowSwitchoverTimeout key s = _
    exact run_fab hr ht _
  obtain ⟨fl, hfl⟩ := endMoves_frame s (moveDue s key)
  rw [hexec, flowSwitchover_eq, hfl]
  have hsent := sends_pump { s with fab := { s.fab with moves := s.fab.moves.filter (fun m => !moveDue s key m), flows := fl } }
  refine ⟨_, done_eq hsent.part hsent.pending, fun m hm t hkey hat => ?_, hsent.resps, hsent.hbm, hsent.cells⟩
  obtain ⟨n, hn, hnk, hna⟩ := hsent.moves m hm
  have hover : (!moveDue s key n) = true := (List.mem_filter.1 hn).2
  have hdue : moveDue s key n = decide (t ≤ s.time.toNat) := by simp [moveDue, hnk, hkey, hna, hat]
  rw [hdue] at hover
  simpa using hover

end

/-- The second part of O51: a response, the timeouts of a request and of its tag, and the move of a flow. -/
theorem fabricAnswers : Claims.FabricAnswers := fun _ hr ht =>
  ⟨fun _ _ _ hp hq hk hb hf => ⟨fun _ _ _ ho hy => response_outstanding hr ht hp hq hk hb hf ho hy,
      fun ho => response_stray hr ht hp hq hk hb hf ho⟩,
    fun _ _ hw hf hc => timeout_waiting hr ht hw hf hc, fun _ _ _ hw ho => timeout_outstanding hr ht hw ho,
    fun _ h15 => tag_releases hr ht h15, fun key => flow_moves hr ht key⟩

end Sys2Proof.Proofs
end

section
/-! A request that is performed at a resident line while nothing else waits for its slice (R267, R273, R287, R410): what the grant, the hit and
the work on the line leave of the device (O51). -/
namespace Sys2Proof.Proofs

open Sys2Proof.Machine Sys2Proof.Laws

/-! ## Work that leaves every line in its way -/

/-- Two ways that hold the same line. -/
abbrev SameLine (v w : Way) : Prop := v.valid = w.valid ∧ v.tag = w.tag ∧ v.remote = w.remote

/-- Two states that differ in the ways' contents, the slices' arbiters and logs, the request numbers, registers that only count, and the
ports' buffers of received packets, none of which fills. -/
structure Quiet (s t : State) : Prop where
  rest : t = { s with pages := t.pages, slices := t.slices, nextId := t.nextId, ports := t.ports }
  queue : ∀ p, (port t p).queue = (port s p).queue
  rxQ : ∀ p, (port s p).rxQ = [] → (port t p).rxQ = []
  regs : ∀ k i x, Steady x → NotIrc k i → reg t k i x = reg s k i x
  held : ∀ j, (slice t j).retiring = (slice s j).retiring ∧ (slice t j).wbs = (slice s j).wbs ∧ (slice t j).miss = (slice s j).miss
  ways : ∀ j key, SameLine (wayAt t j key) (wayAt s j key)

/-- Beside that, every way has the contents it had. -/
structure Still (s t : State) : Prop extends Quiet s t where
  body : ∀ j key, (wayAt t j key).body = (wayAt s j key).body ∧ (wayAt t j key).dead = (wayAt s j key).dead

section
variable {s t u : State}

theorem Still.refl : Still s s := ⟨⟨rfl, fun _ => rfl, fun _ h => h, fun _ _ _ _ _ => rfl, fun _ => ⟨rfl, rfl, rfl⟩, fun _ _ => ⟨rfl, rfl, rfl⟩⟩, fun _ _ => ⟨rfl, rfl⟩⟩

theorem Quiet.trans (h : Quiet s t) (k : Quiet t u) : Quiet s u where
  rest := by rw [k.rest, h.rest]
  queue p := (k.queue p).trans (h.queue p)
  rxQ p hp := k.rxQ p (h.rxQ p hp)
  regs k' i x hx hn := (k.regs k' i x hx hn).trans (h.regs k' i x hx hn)
  held j := ⟨(k.held j).1.trans (h.held j).1, (k.held j).2.1.trans (h.held j).2.1, (k.held j).2.2.trans (h.held j).2.2⟩
  ways j key := ⟨(k.ways j key).1.trans (h.ways j key).1, (k.ways j key).2.1.trans (h.ways j key).2.1, (k.ways j key).2.2.trans (h.ways j key).2.2⟩

theorem Still.trans (h : Still s t) (k : Still t u) : Still s u where
  toQuiet := h.toQuiet.trans k.toQuiet
  body j key := ⟨(k.body j key).1.trans (h.body j key).1, (k.body j key).2.trans (h.body j key).2⟩

theorem Quiet.reqs (h : Quiet s t) : t.reqs = s.reqs := (congrArg State.reqs h.rest :)
theorem Quiet.cache (h : Quiet s t) : t.cache = s.cache := (congrArg State.cache h.rest :)
theorem Quiet.hbm (h : Quiet s t) : t.hbm = s.hbm := (congrArg State.hbm h.rest :)
theorem Quiet.cells (h : Quiet s t) : t.cells = s.cells := (congrArg State.cells h.rest :)
theorem Quiet.part (h : Quiet s t) : t.part = s.part := (congrArg State.part h.rest :)
theorem Quiet.pending (h : Quiet s t) : t.pending = s.pending := (congrArg State.pending h.rest :)
theorem Quiet.fab (h : Quiet s t) : t.fab = s.fab := (congrArg State.fab h.rest :)
theorem Quiet.regions (h : Quiet s t) : t.regions = s.regions := (congrArg State.regions h.rest :)
theorem Quiet.repair (h : Quiet s t) : t.repair = s.repair := (congrArg State.repair h.rest :)

end

section
variable (s : State)

theorem wayAt_setWay (sl key : Nat) (w : Way) (j k : Nat) : wayAt (setWay s sl key w) j k = if j = sl ∧ k = key then w else wayAt s j k := by
  simp only [wayAt, setWay, slice_setSlice]
  by_cases hj : j = sl
  · subst hj
    rw [if_pos rfl, mget_mset]
    simp only [true_and]
  · simp only [hj, false_and, if_false]

/-- A way that keeps its line. -/
theorem quiet_setWay (sl key : Nat) (w : Way) (h : SameLine w (wayAt s sl key)) : Quiet s (setWay s sl key w) where
  rest := rfl
  queue _ := rfl
  rxQ _ h := h
  regs _ _ _ _ _ := rfl
  held j := by
    rw [setWay, slice_setSlice]
    split
    · rename_i hj; rw [hj]; exact ⟨rfl, rfl, rfl⟩
    · exact ⟨rfl, rfl, rfl⟩
  ways j k := by
    rw [wayAt_setWay]
    split
    · rename_i hk; rw [hk.1, hk.2]; exact h
    · exact ⟨rfl, rfl, rfl⟩

theorem still_setWay (sl key : Nat) (w : Way) (h : SameLine w (wayAt s sl key)) (hb : w.body = (wayAt s sl key).body ∧ w.dead = (wayAt s sl key).dead) :
    Still s (setWay s sl key w) where
  toQuiet := quiet_setWay s sl key w h
  body j k := by
    rw [wayAt_setWay]
    split
    · rename_i hk; rw [hk.1, hk.2]; exact hb
    · exact ⟨rfl, rfl⟩

/-- A way of another rank. -/
theorem still_rank (sl key n : Nat) : Still s (setWay s sl key { wayAt s sl key with lru := n }) :=
  still_setWay s sl key _ ⟨rfl, rfl, rfl⟩ ⟨rfl, rfl⟩

/-- A counted event. -/
theorem still_bump (k : PageKind) (i off n : Nat) : Still s (bump s k i off n) where
  rest := by
    rw [pagesOnly_bump s k i off n]
  queue p := by rw [port, pagesOnly_bump s k i off n]; rfl
  rxQ p h := by rw [port, pagesOnly_bump s k i off n]; exact h
  regs k' i' x hx hn := reg_bump_steady s hx hn
  held j := by rw [slice, pagesOnly_bump s k i off n]; exact ⟨rfl, rfl, rfl⟩
  ways j key := by rw [wayAt, slice, pagesOnly_bump s k i off n]; exact ⟨rfl, rfl, rfl⟩
  body j key := by rw [wayAt, slice, pagesOnly_bump s k i off n]; exact ⟨rfl, rfl⟩

theorem still_nextId (n : Nat) : Still s { s with nextId := n } := by
  have hsl : ∀ j, slice { s with nextId := n } j = slice s j := fun _ => rfl
  have hway : ∀ j key, wayAt { s with nextId := n } j key = wayAt s j key := fun _ _ => rfl
  have hreg : ∀ k i x, reg { s with nextId := n } k i x = reg s k i x := fun _ _ _ => rfl
  exact ⟨⟨rfl, fun _ => rfl, fun _ h => h, fun k i x _ _ => hreg k i x, fun j => by rw [hsl]; exact ⟨rfl, rfl, rfl⟩, fun j key => by rw [hway]; exact ⟨rfl, rfl, rfl⟩⟩,
    fun j key => by rw [hway]; exact ⟨rfl, rfl⟩⟩

/-- The arbiter's state of a slice. -/
theorem still_arbiter (sl : Nat) (g : List Bool) (r : List (Nat × Nat)) : Still s (setSlice s sl { slice s sl with grants := g, wrr := r }) := by
  have hsl : ∀ j, slice (setSlice s sl { slice s sl with grants := g, wrr := r }) j = { slice s j with
      grants := (slice (setSlice s sl { slice s sl with grants := g, wrr := r }) j).grants
      wrr := (slice (setSlice s sl { slice s sl with grants := g, wrr := r }) j).wrr } := fun j => by
    rw [slice_setSlice]
    split
    · rename_i hj; rw [hj]
    · rfl
  exact ⟨⟨rfl, fun _ => rfl, fun _ h => h, fun _ _ _ _ _ => rfl, fun j => by rw [hsl j]; exact ⟨rfl, rfl, rfl⟩, fun j key => by rw [wayAt, hsl j]; exact ⟨rfl, rfl, rfl⟩⟩,
    fun j key => by rw [wayAt, hsl j]; exact ⟨rfl, rfl⟩⟩

theorem still_mapRanks (sl set : Nat) (f : Way → Nat) (l : List Nat) : Still s (mapRanks s sl set f l) := by
  induction l with
  | nil => exact Still.refl
  | cons w l ih =>
    unfold mapRanks
    dsimp only
    split
    · exact ih.trans (still_rank _ sl _ _)
    · exact ih

theorem still_touch (sl set way : Nat) : Still s (touch s sl set way) := by
  unfold touch
  dsimp only
  have h := still_mapRanks s sl set (fun x => if x.lru < (wayAt s sl (wayKey set way)).lru then x.lru + 1 else x.lru) (List.range 24)
  generalize mapRanks s sl set _ (List.range 24) = u at *
  exact h.trans (still_rank u sl _ 0)

end

/-! ## What such work leaves of the placement of lines (R256 to R259, R292) -/

section
variable {s t : State} (h : Quiet s t)
include h

theorem quiet_fld {k : PageKind} {i : Nat} (f : Fld) (hf : Steady f.off) (hn : NotIrc k i) : fld t k i f = fld s k i f := by
  rw [fld, h.regs k i f.off hf hn, fld]

theorem quiet_chip {x : Nat} (hx : 0x100 ≤ x) : reg t .chip 0 x = reg s .chip 0 x := h.regs .chip 0 x (.inr hx) notIrc_chip

theorem quiet_swin (n : Nat) : swin t n = swin s n := by
  rw [swin, quiet_chip h (by unfold o_CHIP_SWIN_BASE; omega), quiet_chip h (by unfold o_CHIP_SWIN_LIMIT; omega),
    quiet_chip h (by unfold o_CHIP_SWIN_CFG; omega), swin]

theorem quiet_windowOf (l : Nat) : windowOf t l = windowOf s l := by
  simp only [windowOf, quiet_swin h]

theorem quiet_feLine (l : Nat) : feLine t l = feLine s l := by
  have hf : ∀ f : Fld, 0x100 ≤ f.off → fld t .chip 0 f = fld s .chip 0 f := fun f hx => quiet_fld h f (.inr hx) notIrc_chip
  have hen : feEnabled t = feEnabled s := by rw [feEnabled, flag, hf _ (by decide), feEnabled, flag]
  have hlines : feLines t = feLines s := by rw [feLines, hf _ (by decide), feLines]
  have hbase : feBase t = feBase s := by rw [feBase, hlines, hf _ (by decide), feBase]
  rw [feLine, hen, hlines, hbase, feLine]

theorem quiet_remapped (i : Nat) : remapped t i = remapped s i := by
  rw [remapped, quiet_chip h (by unfold o_CHIP_SLICE_REMAP; omega), remapped]

theorem quiet_placed (l : Nat) : placeIn t ((windowOf t l).map (swin t)) l = placeIn s ((windowOf s l).map (swin s)) l := by
  have hphys : ∀ r, physRegion t r = physRegion s r := fun r => by rw [physRegion, h.repair, physRegion]
  have hplace : ∀ w, placeIn t w l = placeIn s w l := fun w => by simp only [placeIn, hphys]
  rw [quiet_windowOf h, funext (quiet_swin h), hplace]

theorem quiet_placeOf (l : Nat) : placeOf t l = placeOf s l := by
  simp only [placeOf, quiet_feLine h, quiet_placed h, quiet_remapped h]

theorem quiet_rawSlice (l : Nat) : rawSlice t l = rawSlice s l := by
  simp only [rawSlice, quiet_feLine h, quiet_placed h]

theorem quiet_lineKey (sl set l : Nat) : lineKey t sl set l = lineKey s sl set l := by
  have hway : ∀ w, ((wayAt t sl (wayKey set w)).valid && (wayAt t sl (wayKey set w)).tag == l && !(wayAt t sl (wayKey set w)).remote) =
      ((wayAt s sl (wayKey set w)).valid && (wayAt s sl (wayKey set w)).tag == l && !(wayAt s sl (wayKey set w)).remote) := fun w => by
    obtain ⟨h1, h2, h3⟩ := h.ways sl (wayKey set w)
    rw [h1, h2, h3]
  simp only [lineKey, hway]

theorem quiet_missOf (sl l : Nat) : missOf t sl l = missOf s sl l := by
  rw [missOf, (h.held sl).2.2, missOf]

theorem quiet_sliceFrozen (sl : Nat) : sliceFrozen t sl = sliceFrozen s sl := by
  have hband : NotIrc .band (sl / 16) := by
    simp only [NotIrc, pageNo, kindBase, kindRow]
    omega
  have hfrozen : ∀ k i, NotIrc k i → frozen t k i = frozen s k i := fun k i hn => by
    rw [frozen, flag, quiet_fld h _ (.inl (by decide)) hn, frozen, flag]
  rw [sliceFrozen, hfrozen _ _ (notIrc_slice sl), hfrozen _ _ hband, sliceFrozen]

theorem quiet_lineHeld (l : Nat) : lineHeld t l = lineHeld s l := by
  have hswitch : ∀ n, switching t n = switching s n := fun n => by
    rw [switching, quiet_fld h _ (.inr (by dsimp only; omega)) notIrc_chip, switching]
  have hto : ∀ n, swinTo t n = swinTo s n := fun n => by rw [swinTo, h.cache, swinTo]
  have hret : ∀ sl, flag t .slice sl f_SLICE_BOND_STATUS_RETIRED = flag s .slice sl f_SLICE_BOND_STATUS_RETIRED := fun sl => by
    rw [flag, quiet_fld h _ (.inr (by decide)) (notIrc_slice sl), flag]
  have hfe : feWaiting t = feWaiting s := by rw [feWaiting, h.reqs, feWaiting]
  simp only [lineHeld, quiet_placeOf h, quiet_rawSlice h, h.cache, quiet_swin h, hswitch, hto, quiet_sliceFrozen h, hret, hfe, (h.held _).1,
    quiet_chip h (x := o_CHIP_FE_BASE) (by decide), quiet_chip h (x := o_CHIP_FE_CTRL) (by decide)]

end

end Sys2Proof.Proofs
end

section
/-! A request that hits: its grant where nothing else waits, and its effect at the way (O51: R267, R276 to R284, R287, R379, R410). -/
namespace Sys2Proof.Proofs

open Sys2Proof.Machine Sys2Proof.Laws

/-! ## A sole candidate is granted (R410) -/

theorem turnOf_alone (spent : List (Nat × Nat)) (k : Nat × Nat) : turnOf spent [k] k = true := by
  by_cases hk : k.2 = 0
  · simp [turnOf, hk]
  · by_cases hlt : mget 0 spent k.1 < k.2
    · simp [turnOf, hk, hlt]
    · simp [turnOf, hk, Nat.not_lt.1 hlt]

theorem mayGrant_alone (s : State) (hist : List Bool) (spent : List (Nat × Nat)) (c : Cand) (hm : c.mgmt = false) :
    mayGrant s hist spent [c] 0 = true := by
  have hstep : stepOf s hist [c] = [c] := by cases hs : c.spate <;> simp [stepOf, hs]
  simp [mayGrant, hm, hstep, firstOfKind, turnOf_alone]

section
variable {s : State} {q : Req} {sl key : Nat}

/-- Where no request waits for the slice, a request is granted at once. -/
theorem grantNow_alone (hsl : sl = (placeOf s q.line).slice) (hreq : ∀ x ∈ s.reqs, (placeOf s x.line).slice ≠ sl) :
    ∃ t, grantNow s q = some t ∧ Still s t := by
  have hwait : sliceWaiting s (placeOf s q.line).slice = [] := by
    rw [sliceWaiting, List.filter_eq_nil_iff]
    intro x hx
    simp [hsl ▸ hreq x hx]
  have hgrant : grantNow s q = grantAt s (placeOf s q.line).slice [reqCand s q] 0 := by
    rw [grantNow, hwait]
    rfl
  rw [hgrant, grantAt]
  simp only [List.getElem?_cons_zero, mayGrant_alone s _ _ (reqCand s q) rfl, Bool.not_true, Bool.false_eq_true, if_false]
  refine ⟨_, rfl, ?_⟩
  unfold countGrant
  split
  · exact (still_arbiter s ..).trans (still_bump ..)
  · exact still_arbiter s ..

/-- A request that finds its line in a way. -/
theorem slicePerform_hit (hheld : lineHeld s q.line = false) (hfe : feLine s q.line = none) (hsl : sl = (placeOf s q.line).slice)
    (hkey : lineKey s sl (placeOf s q.line).set q.line = some key) {t : State} {r : Reply}
    (hp : performAt (touch (bump s .slice sl o_SLICE_HITS 1) sl (placeOf s q.line).set (key % 24)) sl key q = (t, r)) :
    slicePerform s q = some (t, some r) := by
  subst hsl
  unfold slicePerform
  dsimp only
  rw [if_neg (by rw [hheld]; decide), hfe]
  dsimp only
  rw [hkey]
  dsimp only
  rw [hp]

/-- A request whose line sits in its way is performed there at once, and nothing else happens on the line. -/
theorem syncAccess_hit (hs : sits s q.line sl key) :
    ∃ u, Still s u ∧ ∀ t r, performAt u sl key q = (t, r) → Quiet u t → syncAccess s q = some (t, some r) := by
  obtain ⟨hheld, hfe, hsl, hkey, -, -, -, hmiss, hwb, hreq⟩ := hs
  obtain ⟨s1, hgrant, h1⟩ := grantNow_alone hsl hreq
  have hlater : laterOf q s.reqs = false := by
    refine List.any_eq_false.2 fun x hx => ?_
    have hne : x.line ≠ q.line := fun he => hreq x hx (he ▸ hsl.symm)
    simp [hne]
  have hsettle : settleLine s1 sl q.line = some s1 := by
    have hwb1 : (slice s1 sl).wbs.any (·.line == q.line) = false := by rw [(h1.held sl).2.1]; exact hwb
    have hmiss1 : missOf s1 sl q.line = none := (quiet_missOf h1.toQuiet sl q.line).trans hmiss
    unfold settleLine
    rw [hwb1]
    simp only [Bool.false_eq_true, if_false, Option.bind_some, hmiss1]
  have hkey1 : lineKey s1 (placeOf s1 q.line).slice (placeOf s1 q.line).set q.line = some key := by
    rw [quiet_placeOf h1.toQuiet, quiet_lineKey h1.toQuiet, ← hsl, hkey]
  have hfetch : fetches s1 q = false := by
    unfold fetches
    simp only [(quiet_feLine h1.toQuiet q.line).trans hfe, hkey1, Option.isSome_some, Bool.true_or, Bool.not_true, Bool.false_and]
  refine ⟨touch (bump s1 .slice sl o_SLICE_HITS 1) sl (placeOf s q.line).set (key % 24),
    (h1.trans (still_bump s1 ..)).trans (still_touch _ ..), fun t r hp hq => ?_⟩
  have hu : Quiet s t := ((h1.trans (still_bump s1 .slice sl o_SLICE_HITS 1)).trans (still_touch _ sl (placeOf s q.line).set (key % 24))).toQuiet.trans hq
  have hperf : slicePerform s1 q = some (t, some r) := by
    have hplace := quiet_placeOf h1.toQuiet q.line
    refine slicePerform_hit (sl := sl) (key := key) ((quiet_lineHeld h1.toQuiet q.line).trans hheld)
      ((quiet_feLine h1.toQuiet q.line).trans hfe) (hplace ▸ hsl) ?_ ?_
    · rw [hplace, quiet_lineKey h1.toQuiet, hkey]
    · rw [hplace]
      exact hp
  have hland : fillLand t sl q.line = t := by
    rw [fillLand, (quiet_missOf hu sl q.line).trans hmiss]
  unfold syncAccess
  dsimp only
  rw [hheld, hlater, hgrant, ← hsl]
  simp only [Bool.or_self, Bool.false_eq_true, if_false, Option.bind_some, hsettle, hfetch, hperf, hland]

end

end Sys2Proof.Proofs
end

section
/-! Requests at a resident line whose words are sound: reads, writes, fetch-adds and FP32 contributions (O51: R145, R277 to R284, R376, R379). -/
namespace Sys2Proof.Proofs

open Sys2Proof.Machine Sys2Proof.Laws

/-- Way `key` of slice `sl` holds line `l` alive and PLAIN, with sound words that pass their check, and no flip mask is armed. -/
structure Sound (s : State) (l sl key : Nat) : Prop where
  dead : (wayAt s sl key).dead = false
  syn : (wayAt s sl key).body.syn = []
  arm : flag s .slice sl f_SLICE_FLIP_CTRL_ARM = false
  pois : (wayAt s sl key).body.pois = 0
  av : (wayAt s sl key).body.av = false
  check : checkOk l (wayAt s sl key).body = true

theorem Sound.alive {s : State} {l sl key : Nat} (h : Sound s l sl key) : ¬ (wayAt s sl key).dead = true := by rw [h.dead]; decide

theorem Sound.still {s t : State} {l sl key : Nat} (h : Sound s l sl key) (k : Still s t) : Sound t l sl key := by
  obtain ⟨hb, hd⟩ := k.body sl key
  refine ⟨hd.trans h.dead, ?_, ?_, ?_, ?_, ?_⟩
  · rw [hb, h.syn]
  · rw [flag, quiet_fld k.toQuiet _ (.inr (by decide)) (notIrc_slice sl), ← flag, h.arm]
  · rw [hb, h.pois]
  · rw [hb, h.av]
  · rw [hb, h.check]

section
variable {s : State} {l sl key : Nat}

/-- Words without a syndrome decode as they stand. -/
theorem decodeWay_clean (h : (wayAt s sl key).body.syn = []) (src : Nat) (lbl : Byte) (mask : BitVec 32) (fix : Bool) :
    decodeWay s sl key src lbl mask fix = (s, (wayAt s sl key).body) := by
  rw [decodeWay, h]
  rfl

theorem putBody_unarmed (h : flag s .slice sl f_SLICE_FLIP_CTRL_ARM = false) (b : Body) (hb : b.syn = []) (w : BitVec 32) :
    putBody s sl key b w = setWay s sl key { wayAt s sl key with body := b } := by
  unfold putBody
  dsimp only
  rw [h, hb]
  simp only [Bool.false_and, Bool.false_eq_true, if_false]
  congr 2
  obtain ⟨⟩ := b
  cases hb
  rfl

/-- A body that is stored keeps its line in its way. -/
theorem quiet_putBody (h : flag s .slice sl f_SLICE_FLIP_CTRL_ARM = false) (b : Body) (hb : b.syn = []) (w : BitVec 32) :
    Quiet s (putBody s sl key b w) ∧ (wayAt (putBody s sl key b w) sl key).body = b := by
  rw [putBody_unarmed h b hb, wayAt_setWay, if_pos ⟨rfl, rfl⟩]
  exact ⟨quiet_setWay s sl key _ ⟨rfl, rfl, rfl⟩, rfl⟩

theorem quiet_storeChanged (h : flag s .slice sl f_SLICE_FLIP_CTRL_ARM = false) (l : Nat) (b : Body) (hb : b.syn = []) (w : BitVec 32) :
    Quiet s (storeChanged s sl key l b w) ∧ (wayAt (storeChanged s sl key l b w) sl key).body.data = b.data := by
  have hdirty := quiet_setWay s sl key { wayAt s sl key with dirty := true } ⟨rfl, rfl, rfl⟩
  have harm : flag (setWay s sl key { wayAt s sl key with dirty := true }) .slice sl f_SLICE_FLIP_CTRL_ARM = false := h
  obtain ⟨hput, hbody⟩ := quiet_putBody (key := key) harm { b with chk := formValue l b } hb w
  exact ⟨hdirty.trans hput, (congrArg Body.data hbody :)⟩

variable (h : Sound s l sl key) {q : Req}
include h

/-- R379: a sound line may be changed. -/
theorem verifyForWrite_sound (hq : q.line = l) : verifyForWrite s sl key q = (s, true) := by
  unfold verifyForWrite
  rw [decodeWay_clean h.syn]
  dsimp only
  rw [hq, if_pos h.check]

theorem performAt_read {words : BitVec 32} (hop : q.op = .read words) :
    ∃ t, performAt s sl key q = (t, .data (wayAt s sl key).body.data 0 false false) ∧ Still s t := by
  have hhold := still_setWay s sl key { wayAt s sl key with hold := false } ⟨rfl, rfl, rfl⟩ ⟨rfl, rfl⟩
  obtain ⟨hb, -⟩ := hhold.body sl key
  refine ⟨setWay s sl key { wayAt s sl key with hold := false }, ?_, hhold⟩
  unfold performAt
  rw [hop]
  dsimp only
  unfold doRead
  dsimp only
  rw [if_neg h.alive, decodeWay_clean (by rw [hb, h.syn]), hb]
  simp only [readOut, h.av, h.pois, Bool.false_eq_true, if_false]

theorem performAt_write_whole {data : Line} {mask : BitVec 256} {chk : W32} {pois : BitVec 32} (hop : q.op = .write data mask pois true chk none) :
    ∃ t, performAt s sl key q = (t, .accepted) ∧ Quiet s t ∧ (wayAt t sl key).body.data = data := by
  have hset := quiet_setWay s sl key { wayAt s sl key with
    dirty := true, dead := false, hold := false, cls := if (wayAt s sl key).dead then 2 else (wayAt s sl key).cls } ⟨rfl, rfl, rfl⟩
  have harm : flag (setWay s sl key { wayAt s sl key with
    dirty := true, dead := false, hold := false, cls := if (wayAt s sl key).dead then 2 else (wayAt s sl key).cls })
      .slice sl f_SLICE_FLIP_CTRL_ARM = false := h.arm
  obtain ⟨hput, hbody⟩ := quiet_putBody (key := key) harm (wholeBody data pois chk none) rfl allWords
  refine ⟨_, ?_, hset.trans hput, (congrArg Body.data hbody :)⟩
  unfold performAt
  rw [hop]
  rfl

theorem performAt_write_part {data : Line} {mask : BitVec 256} {chk : W32} {pois : BitVec 32} (hq : q.line = l)
    (hop : q.op = .write data mask pois false chk none) :
    ∃ t, performAt s sl key q = (t, .accepted) ∧ Quiet s t ∧ (wayAt t sl key).body.data = mergeLine (wayAt s sl key).body.data data mask := by
  obtain ⟨hstore, hdata⟩ := quiet_storeChanged (key := key) h.arm q.line { (wayAt s sl key).body with
    data := mergeLine (wayAt s sl key).body.data data mask
    pois := (wayAt s sl key).body.pois ||| (pois &&& wordsTouched mask) } h.syn (wordsTouched mask)
  refine ⟨_, ?_, hstore, hdata⟩
  unfold performAt
  rw [hop]
  dsimp only
  unfold doWrite
  dsimp only
  rw [if_neg (by decide), if_neg h.alive, verifyForWrite_sound h hq]
  rfl

theorem performAt_fetchAdd {i : Nat} {x y : W64} (hq : q.line = l) (hop : q.op = .atd false [(i, x, y)] 0) :
    ∃ t, performAt s sl key q = (t, .olds [(lineWord (wayAt s sl key).body.data i, false)]) ∧ Quiet s t ∧
      (wayAt t sl key).body.data = setLineWord (wayAt s sl key).body.data i (lineWord (wayAt s sl key).body.data i + x) := by
  have hhold := still_setWay s sl key { wayAt s sl key with hold := false } ⟨rfl, rfl, rfl⟩ ⟨rfl, rfl⟩
  have harm : flag (setWay s sl key { wayAt s sl key with hold := false }) .slice sl f_SLICE_FLIP_CTRL_ARM = false := h.arm
  obtain ⟨hstore, hdata⟩ := quiet_storeChanged (key := key) harm q.line { (wayAt s sl key).body with
    data := setLineWord (wayAt s sl key).body.data i (lineWord (wayAt s sl key).body.data i + x)
    pois := (wayAt s sl key).body.pois ||| (0 &&& atdWords [(i, x, y)]) } h.syn (atdWords [(i, x, y)])
  have hp : bitN ((wayAt s sl key).body.pois).toNat i = false := by rw [h.pois]; simp [bitN]
  refine ⟨_, ?_, hhold.toQuiet.trans hstore, hdata⟩
  unfold performAt
  rw [hop]
  dsimp only
  unfold doAtd
  dsimp only
  rw [if_neg h.alive, verifyForWrite_sound h hq]
  dsimp only
  rw [Bool.not_true, if_neg (by decide), atdLanes, atdLanes]
  dsimp only
  rw [hp]
  rfl

theorem performAt_addF {i : Nat} {v : W32} (hq : q.line = l) (hop : q.op = .addF [(i, v, false)]) :
    ∃ t, performAt s sl key q = (t, .accepted) ∧ Quiet s t ∧
      (wayAt t sl key).body.data = setLineF (wayAt s sl key).body.data i (f32Add (lineF (wayAt s sl key).body.data i) v) := by
  obtain ⟨hstore, hdata⟩ := quiet_storeChanged (key := key) h.arm q.line { (wayAt s sl key).body with
    data := setLineF (wayAt s sl key).body.data i (f32Add (lineF (wayAt s sl key).body.data i) v) } h.syn (0 ||| BitVec.ofNat 32 (2 ^ (i / 2)))
  generalize hu : storeChanged s sl key q.line { (wayAt s sl key).body with
    data := setLineF (wayAt s sl key).body.data i (f32Add (lineF (wayAt s sl key).body.data i) v) } (0 ||| BitVec.ofNat 32 (2 ^ (i / 2))) = u at *
  have hhold := still_setWay u sl key { wayAt u sl key with hold := true, heldAt := u.time.toNat } ⟨rfl, rfl, rfl⟩ ⟨rfl, rfl⟩
  refine ⟨holdWay u sl key, ?_, hstore.trans hhold.toQuiet, (congrArg Body.data (hhold.body sl key).1).trans hdata⟩
  unfold performAt
  rw [hop]
  dsimp only
  unfold doRedF
  dsimp only
  rw [if_neg h.alive, decodeWay_clean h.syn]
  dsimp only
  rw [if_neg (by rw [h.pois]; decide), h.av, if_neg (by decide), verifyForWrite_sound h hq]
  dsimp only
  rw [Bool.not_true, if_neg (by decide), List.foldl_cons, List.foldl_nil, List.foldl_cons, List.foldl_nil, applyF, if_neg Bool.false_ne_true, ← hu]

end

end Sys2Proof.Proofs
end

section
/-! Bytes, words and FP32 elements of a line after a partial write, an atomic and a contribution (O51: R145, R278, R281). -/
namespace Sys2Proof.Proofs

open Sys2Proof.Machine Sys2Proof.Laws

/-! ## Bytes -/

/-- The bits of little-endian bytes. -/
theorem testBit_ofBytes (l : List Byte) (j b : Nat) (hb : b < 8) : (ofBytes l).testBit (8 * j + b) = (l.getD j 0).getLsbD b := by
  induction l generalizing j with
  | nil => simp [ofBytes]
  | cons x l ih =>
    have hx : x.toNat < 2 ^ 8 := x.isLt
    have hsum : ofBytes (x :: l) = 2 ^ 8 * ofBytes l + x.toNat := by rw [ofBytes]; omega
    rw [hsum, Nat.testBit_two_pow_mul_add _ hx]
    cases j with
    | zero => rw [if_pos (by omega), Nat.mul_zero, Nat.zero_add, List.getD_cons_zero, BitVec.testBit_toNat]
    | succ j => rw [if_neg (by omega), List.getD_cons_succ, ← ih j, show 8 * (j + 1) + b - 8 = 8 * j + b by omega]

/-- A bit of a byte of a line. -/
theorem getLsbD_lineByte (d : Line) (i b : Nat) (hb : b < 8) : (lineByte d i).getLsbD b = d.toNat.testBit (8 * i + b) := by
  rw [lineByte, BitVec.getLsbD_ofNat, decide_eq_true hb, Bool.true_and, Nat.testBit_shiftRight]

theorem lineByte_ext {d e : Line} {i j : Nat} (h : ∀ b, b < 8 → d.toNat.testBit (8 * i + b) = e.toNat.testBit (8 * j + b)) :
    lineByte d i = lineByte e j :=
  BitVec.eq_of_getLsbD_eq fun b hb => by rw [getLsbD_lineByte d i b hb, getLsbD_lineByte e j b hb, h b hb]

/-- The bytes of a payload that is laid into a line at byte `o`. -/
theorem lineByte_payload (l : List Byte) {o i : Nat} (ho : o ≤ i) (hi : i < 256) :
    lineByte (BitVec.ofNat 2048 (ofBytes l <<< (8 * o))) i = l.getD (i - o) 0 := by
  refine BitVec.eq_of_getLsbD_eq fun b hb => ?_
  have hlt : 8 * i + b < 2048 := by omega
  have hge : 8 * i + b ≥ 8 * o := by omega
  rw [getLsbD_lineByte _ _ _ hb, BitVec.testBit_toNat, BitVec.getLsbD_ofNat, decide_eq_true hlt, Bool.true_and, Nat.testBit_shiftLeft,
    decide_eq_true hge, Bool.true_and, ← testBit_ofBytes l _ _ hb, show 8 * (i - o) + b = 8 * i + b - 8 * o by omega]

/-- The bytes that a mask names. -/
theorem bitN_byteMask (o n : Nat) {i : Nat} (hi : i < 256) : bitN (byteMask o n).toNat i = (decide (o ≤ i) && decide (i < o + n)) := by
  rw [bitN_eq_testBit, byteMask, BitVec.toNat_ofNat, Nat.testBit_mod_two_pow, decide_eq_true hi, Bool.true_and, Nat.testBit_shiftLeft,
    Nat.testBit_two_pow_sub_one]
  by_cases ho : o ≤ i
  · simp only [ge_iff_le, ho, decide_true, Bool.true_and, decide_eq_decide]
    omega
  · simp only [ge_iff_le, ho, decide_false, Bool.false_and]

/-- A merge takes the bytes of the mask from the new line. -/
theorem lineByte_mergeLine (old new : Line) (m : BitVec 256) {i : Nat} (hi : i < 256) :
    lineByte (mergeLine old new m) i = if bitN m.toNat i = true then lineByte new i else lineByte old i := by
  have hmask : ∀ b, b < 8 → (BitVec.ofNat 2048 (maskBits m)).getLsbD (8 * i + b) = bitN m.toNat i := fun b hb => by
    have hlt : 8 * i + b < 2048 := by omega
    rw [BitVec.getLsbD_ofNat, decide_eq_true hlt, Bool.true_and, maskBits, testBit_packN 8 _ hi hb]
    split
    · rename_i h
      rw [h, show 255 = 2 ^ 8 - 1 by rfl, Nat.testBit_two_pow_sub_one, decide_eq_true hb]
    · rename_i h
      rw [Bool.not_eq_true] at h
      rw [h, Nat.zero_testBit]
  have hbit : ∀ b, b < 8 → (mergeLine old new m).toNat.testBit (8 * i + b) =
      if bitN m.toNat i = true then new.toNat.testBit (8 * i + b) else old.toNat.testBit (8 * i + b) := fun b hb => by
    have hlt : 8 * i + b < 2048 := by omega
    rw [BitVec.testBit_toNat, mergeLine, BitVec.getLsbD_or, BitVec.getLsbD_and, BitVec.getLsbD_and, BitVec.getLsbD_not, hmask b hb]
    cases bitN m.toNat i <;> simp [hlt, BitVec.getElem_eq_testBit_toNat]
  split
  · rename_i h
    exact lineByte_ext fun b hb => by rw [hbit b hb, if_pos h]
  · rename_i h
    exact lineByte_ext fun b hb => by rw [hbit b hb, if_neg h]

/-! ## Words and elements -/

theorem lineWord_eq (d : Line) (i : Nat) : lineWord d i = BitVec.ofNat 64 (bitsN d.toNat (64 * i + 63) (64 * i)) := by
  rw [lineWord, bitsN, show 64 * i + 63 + 1 - 64 * i = 64 by omega]
  exact BitVec.eq_of_toNat_eq (by simp)

theorem lineF_eq (d : Line) (i : Nat) : lineF d i = BitVec.ofNat 32 (bitsN d.toNat (32 * i + 31) (32 * i)) := by
  rw [lineF, bitsN, show 32 * i + 31 + 1 - 32 * i = 32 by omega]
  exact BitVec.eq_of_toNat_eq (by simp)

/-- Bits of a line below its width. -/
theorem bitsN_line (n hi lo : Nat) (h : hi < 2048) : bitsN (BitVec.ofNat 2048 n).toNat hi lo = bitsN n hi lo := by
  refine Nat.eq_of_testBit_eq fun j => ?_
  rw [testBit_bitsN, testBit_bitsN, BitVec.testBit_toNat, BitVec.getLsbD_ofNat]
  by_cases hj : lo + j ≤ hi
  · simp [show lo + j < 2048 by omega]
  · simp [show ¬ j < hi + 1 - lo by omega]

theorem lineWord_setLineWord (d : Line) (v : W64) {i j : Nat} (hi : i < 32) (hj : j < 32) :
    lineWord (setLineWord d i v) j = if j = i then v else lineWord d j := by
  rw [lineWord_eq, setLineWord, bitsN_line _ _ _ (by omega)]
  split
  · rename_i h
    subst h
    rw [bitsN_putBitsN _ _ _ _ (by omega), show 64 * j + 63 + 1 - 64 * j = 64 by omega]
    exact BitVec.eq_of_toNat_eq (by simp [Nat.mod_eq_of_lt v.isLt])
  · rename_i h
    rw [bitsN_putBitsN_disjoint _ _ _ _ _ _ (by omega) (by omega), lineWord_eq]

theorem lineF_setLineF (d : Line) (v : W32) {i j : Nat} (hi : i < 64) (hj : j < 64) :
    lineF (setLineF d i v) j = if j = i then v else lineF d j := by
  rw [lineF_eq, setLineF, bitsN_line _ _ _ (by omega)]
  split
  · rename_i h
    subst h
    rw [bitsN_putBitsN _ _ _ _ (by omega), show 32 * j + 31 + 1 - 32 * j = 32 by omega]
    exact BitVec.eq_of_toNat_eq (by simp [Nat.mod_eq_of_lt v.isLt])
  · rename_i h
    rw [bitsN_putBitsN_disjoint _ _ _ _ _ _ (by omega) (by omega), lineF_eq]

end Sys2Proof.Proofs
end

section
/-! The way of an answer: its port, its slot, and what stands at the port once it has been sent (O51: R342, R348, R354, R407, R409). -/
namespace Sys2Proof.Proofs

open Sys2Proof.Machine Sys2Proof.Laws

/-! ## What chooses the port and the slot of an answer -/

/-- Two states that send an answer by the same port into the same slot. -/
structure Faces (s t : State) : Prop where
  regs : ∀ k i x, Steady x → NotIrc k i → reg t k i x = reg s k i x
  fab : t.fab = s.fab
  queue : ∀ p, (port t p).queue = (port s p).queue

theorem Quiet.faces {s t : State} (h : Quiet s t) : Faces s t := ⟨h.regs, h.fab, h.queue⟩

/-- A port's page is neither interrupt controller's. -/
theorem notIrc_port (p : Nat) : NotIrc .port p := by
  simp only [NotIrc, pageNo, kindBase, kindRow]
  omega

section
variable {s t : State} (h : Faces s t)
include h

theorem faces_fld {k : PageKind} {i : Nat} (f : Fld) (hf : Steady f.off) (hn : NotIrc k i) : fld t k i f = fld s k i f := by
  rw [fld, h.regs k i f.off hf hn, fld]

theorem faces_ownEid : ownEid t = ownEid s := by
  have hf : ∀ f : Fld, 0x100 ≤ f.off → fld t .fab 0 f = fld s .fab 0 f := fun f hx => faces_fld h f (.inr hx) (by decide)
  rw [ownEid, flag, hf _ (by decide), hf _ (by decide), ownEid, flag]

theorem faces_portState (p : Nat) : portState t p = portState s p := faces_fld h _ (.inr (by decide)) (notIrc_port p)

theorem faces_secureOk (p : Nat) : secureOk t p = secureOk s p := by
  rw [secureOk, flag, faces_fld h _ (.inr (by decide)) (notIrc_port p), secureOk, flag]

theorem faces_answerPort (p : Nat) (k : Packet) : answerPort t p k = answerPort s p k := by
  have hmask : ∀ e, reachMask t e = reachMask s e := fun e => by rw [reachMask, h.fab, reachMask]
  have hroute : ∀ e w, routePorts t e w = routePorts s e w := fun e w => by
    simp only [routePorts, hmask, faces_portState h, faces_secureOk h]
  have hqueued : ∀ q v, queuedBytes t q v = queuedBytes s q v := fun q v => by rw [queuedBytes, h.queue, queuedBytes]
  simp only [answerPort, choosePort, hroute, hqueued, faces_portState h]

theorem faces_ingressPart : ingressPart t = ingressPart s := faces_fld h _ (.inr (by decide)) (by decide)

theorem faces_slotFor (q : Nat) (held : List (Nat × Bool)) (p : Nat) : slotFor t q held p = slotFor s q held p := by
  have hreg : ∀ x, 0x100 ≤ x → reg t .qos 0 x = reg s .qos 0 x := fun x hx => h.regs .qos 0 x (.inr hx) (by decide)
  have hshare : ∀ p, partShare t p = partShare s p := fun p => by
    rw [partShare, hreg _ (by split <;> decide), partShare]
  have hhas : ∀ p, hasShare t p = hasShare s p := fun p => by
    rw [hasShare, h.regs .chip 0 _ (.inr (by unfold o_CHIP_PART_MAP; omega)) notIrc_chip, faces_ingressPart h, hasShare]
  have hres : ∀ q p, reservedSlots t q p = reservedSlots s q p := fun q p => by
    simp only [reservedSlots, shareSum, hhas, hshare]
  simp only [slotFor, hres, funext (hres q)]

end

/-- The choice of an answer's port looks at its destination, its world and its VC only. -/
theorem answerPort_congr (s : State) (p : Nat) {k r : Packet} (hd : k.deid = r.deid) (hw : k.world = r.world) (hv : k.vc = r.vc)
    (hk : k.ord = false) (hr : r.ord = false) : answerPort s p k = answerPort s p r := by
  simp only [answerPort, choosePort, hd, hw, hv, hk, hr, Bool.false_eq_true, if_false]

/-! ## The answer at its port (R342) -/

/-- The response to a request, as it is sent. -/
def answerPacket (s : State) (p : Nat) (k r : Packet) : Packet :=
  { r with vc := 1, seid := k.deid, deid := k.seid, tag := k.tag, off := k.off, label := k.label, world := k.world && secureOk s p }

/-- Port `n` reaches the requester of a packet that came in by port `p`, and has a slot for the answer; the device has an EID. -/
structure Answerable (s : State) (p n : Nat) (k : Packet) : Prop where
  own : ownEid s ≠ none
  port : answerPort s p { vc := 1, deid := k.seid, world := k.world && secureOk s p } = some n
  slot : slotFor s 64 (((Machine.port s n).queue.filter (fun e => e.pkt.vc == 1)).map (fun e => (e.part, e.resv))) (ingressPart s) ≠ none
  noFlush : isFlush k = false

/-- The request has left the buffers of its port, and its answer waits at another. -/
def Answered (t : State) (p n : Nat) (k : Packet) (ty st : Nat) (data : List Byte) : Prop :=
  (port t p).rxQ = [] ∧ ∃ e ∈ (port t n).queue, e.pkt.type = ty ∧ e.pkt.opst = st ∧ e.pkt.tag = k.tag ∧ e.pkt.deid = k.seid ∧ e.pkt.seid = k.deid ∧
    e.pkt.vc = 1 ∧ e.pkt.payload = data

section
variable {s t : State} {p n : Nat} {k : Packet} (h : Faces s t) (ha : Answerable s p n k)
include h ha

theorem enqueue_answer {r : Packet} (hv : r.vc = 1) :
    ∃ e, enqueue t n r (ingressPart t) none = some (setPort t n { port t n with queue := (port t n).queue ++ [e] }) ∧ e.pkt = r := by
  have hslot : slotFor t 64 (((port t n).queue.filter (fun e => e.pkt.vc == r.vc)).map (fun e => (e.part, e.resv))) (ingressPart t) ≠ none := by
    rw [faces_slotFor h, h.queue, faces_ingressPart h, hv]
    exact ha.slot
  unfold enqueue
  dsimp only
  split
  · rename_i hn
    exact absurd hn hslot
  · exact ⟨_, rfl, rfl⟩

/-- A request is answered: its answer stands at the port that R348 gives, and nothing else changes. -/
theorem ingressAnswer_stands {r : Packet} (ho : r.ord = false) :
    ∃ u, ingressAnswer t p k r = some u ∧ Sends t u ∧ ∃ e ∈ (port u n).queue, e.pkt = answerPacket s p k r := by
  have hown : ¬ (ownEid t).isNone = true := by
    rw [faces_ownEid h, Option.isNone_iff_eq_none]
    exact ha.own
  have hport : answerPort t p (answerPacket t p k r) = some n := by
    rw [faces_answerPort h, ← ha.port]
    refine answerPort_congr s p rfl ?_ rfl ho rfl
    rw [answerPacket, faces_secureOk h]
  have hpkt : answerPacket t p k r = answerPacket s p k r := by rw [answerPacket, faces_secureOk h, answerPacket]
  obtain ⟨e, he, hep⟩ := enqueue_answer h ha (r := answerPacket t p k r) rfl
  refine ⟨_, ?_, sends_setPort t n e, e, ?_, hep.trans hpkt⟩
  · unfold ingressAnswer
    extract_lets r'
    have hr : r' = answerPacket t p k r := rfl
    rw [if_neg hown, hr, hport]
    dsimp only
    rw [he, Option.map_some, if_neg (by rw [ha.noFlush]; decide)]
  · rw [port_setPort, if_pos rfl]
    exact List.mem_append_right _ (List.mem_singleton.2 rfl)

end

/-- What has been sent stays answered. -/
theorem answered_of_sends {s t u : State} {p n : Nat} {k r : Packet} (h : Sends t u) (hrx : (port t p).rxQ = [])
    (he : ∃ e ∈ (port t n).queue, e.pkt = answerPacket s p k r) : Answered u p n k r.type r.opst r.payload := by
  obtain ⟨e, he, hep⟩ := he
  refine ⟨(h.rxQ p).trans hrx, e, h.queue n e he, ?_⟩
  rw [hep]
  exact ⟨rfl, rfl, rfl, rfl, rfl, rfl, rfl⟩

end Sys2Proof.Proofs
end

section
/-! Requests that arrive over the fabric for a resident line (O51: R30, R341, R342, R376, R377). -/
namespace Sys2Proof.Proofs

open Sys2Proof.Machine Sys2Proof.Laws

/-! ## A request is taken (R341) -/

section
variable {s : State} {p : Nat} {k : Packet}

theorem still_popped : Still s (popped s p k []) := by
  have hsl : ∀ j, slice (popped s p k []) j = slice s j := fun _ => rfl
  have hway : ∀ j key, wayAt (popped s p k []) j key = wayAt s j key := fun _ _ => rfl
  refine ⟨⟨rfl, queue_popped s p k [], fun q hq => ?_, fun k' i x _ _ => reg_popped s p k [] k' i x, fun j => by rw [hsl]; exact ⟨rfl, rfl, rfl⟩,
    fun j key => by rw [hway]; exact ⟨rfl, rfl, rfl⟩⟩, fun j key => by rw [hway]; exact ⟨rfl, rfl⟩⟩
  by_cases h : q = p
  · rw [h, rxQ_popped]
  · rw [popped, freeCredit, port_setPort, if_neg h, port_setPort, if_neg h, hq]

/-- While the core clock has stopped a request stays where it is (R30). -/
theorem ingress_noClock (want : Packet → Bool) (rd wr : Bool) (act : State → Packet → Option State) (hck : s.pkg.noClock = true) :
    ingress p want rd wr act s = s := by
  unfold ingress
  split
  · rfl
  · rw [if_pos hck]

theorem secureOk_popped (q : Nat) : secureOk (popped s p k []) q = secureOk s q := rfl

theorem mrdCheck_popped (a : Nat) (sec rd wr : Bool) : mrdCheck (popped s p k []) a sec rd wr none = mrdCheck s a sec rd wr none := by
  have hregs : mrdRegs (popped s p k []) = mrdRegs s := rfl
  unfold mrdCheck mrdOf
  rw [hregs]

/-- A check that finds nothing logs nothing, and does not look at the buffers. -/
theorem ingressCheck_popped {rd wr : Bool} (h : (ingressCheck s p k rd wr).2 = none) :
    ingressCheck (popped s p k []) p k rd wr = (popped s p k [], none) := by
  unfold ingressCheck at h ⊢
  rw [secureOk_popped, mrdCheck_popped]
  split at h
  · cases h
  · rename_i h1
    rw [if_neg h1]
    split at h
    · cases h
    · rename_i h2
      rw [if_neg h2]
      split at h
      · rename_i h3
        rw [if_pos h3]
      · rename_i h3
        rw [if_neg h3]
        split at h
        · cases h
        · rename_i h4
          rw [if_neg h4]
          split at h
          · cases h
          · rfl

theorem ingress_acts {want : Packet → Bool} {rd wr : Bool} (act : State → Packet → Option State) (hq : (port s p).rxQ = [k]) (hwant : want k = true)
    (hck : s.pkg.noClock = false) (hph : phase s ≠ 6) (hchk : (ingressCheck s p k rd wr).2 = none) :
    ingress p want rd wr act s = ((act (popped s p k []) k).map pump).getD s := by
  unfold ingress
  rw [popRx_head s p k hq hwant]
  dsimp only
  rw [if_neg (by rw [hck]; decide), if_neg hph, ingressCheck_popped hchk]

end

/-! ## Its slice performs it -/

/-- A line that sits in its way still sits there, and is as sound, after work that leaves the ways' contents. -/
theorem sits_of_still {s t : State} {l sl key : Nat} (h : Still s t) (hs : sits s l sl key) : sits t l sl key := by
  obtain ⟨hheld, hfe, hsl, hkey, hdead, hsyn, harm, hmiss, hwb, hreq⟩ := hs
  have hq := h.toQuiet
  obtain ⟨hb, hd⟩ := h.body sl key
  refine ⟨(quiet_lineHeld hq l).trans hheld, (quiet_feLine hq l).trans hfe, ?_, ?_, hd.trans hdead, ?_, ?_, (quiet_missOf hq sl l).trans hmiss, ?_, ?_⟩
  · rw [quiet_placeOf hq, ← hsl]
  · rw [quiet_placeOf hq, quiet_lineKey hq, hkey]
  · rw [hb, hsyn]
  · rw [flag, quiet_fld hq _ (.inr (by decide)) (notIrc_slice sl), ← flag, harm]
  · rw [(h.held sl).2.1, hwb]
  · intro x hx
    rw [quiet_placeOf hq]
    exact hreq x (hq.reqs ▸ hx)

section
variable {s : State} {p : Nat} {k : Packet} {sl key : Nat} (hs : sits s (lineOf k.off) sl key) (hsound : Sound s (lineOf k.off) sl key)
include hs hsound

/-- What a request's work on the way is, is what comes of the whole access (R287). -/
theorem syncAccess_performs {q : Req} {r : Reply} {P : State → Prop} (hq : q.line = lineOf k.off)
    (hop : ∀ u, Sound u (lineOf k.off) sl key → (wayAt u sl key).body = (wayAt s sl key).body → ∃ t, performAt u sl key q = (t, r) ∧ Quiet u t ∧ P t) :
    ∃ t, syncAccess s q = some (t, some r) ∧ Quiet s t ∧ P t := by
  obtain ⟨u, hu, hsync⟩ := syncAccess_hit (q := q) (hq ▸ hs)
  obtain ⟨t, hperf, ht, hP⟩ := hop u (hsound.still hu) (hu.body sl key).1
  exact ⟨t, hsync t r hperf ht, hu.toQuiet.trans ht, hP⟩

theorem ingressPerform_performs {op : ReqOp} {r : Reply} {a : Packet} {P : State → Prop} (hans : answerOf k r = some a)
    (hop : ∀ u q, Sound u (lineOf k.off) sl key → (wayAt u sl key).body = (wayAt s sl key).body → q.line = lineOf k.off → q.op = op →
      ∃ t, performAt u sl key q = (t, r) ∧ Quiet u t ∧ P t) :
    ∃ t, ingressPerform s p k op = ingressAnswer t p k a ∧ Quiet s t ∧ P t := by
  have hid := still_nextId s (s.nextId + 1)
  obtain ⟨t, hsync, ht, hP⟩ := syncAccess_performs (q := ingressReq { s with nextId := s.nextId + 1 } p k s.nextId op) (r := r) (P := P)
    (sits_of_still hid hs) (hsound.still hid) rfl fun u hu hb => hop u _ hu (hb.trans (hid.body sl key).1) rfl rfl
  refine ⟨t, ?_, hid.toQuiet.trans ht, hP⟩
  unfold ingressPerform
  rw [newId]
  dsimp only
  rw [hsync]
  dsimp only
  rw [ingressReply, hans]

end

/-! ## The answer leaves (R342) -/

section
variable {s : State} {p n : Nat} {k : Packet} (ha : Answerable s p n k)
include ha

/-- An access that was performed, and whose answer is then sent. -/
theorem done_answered {t : State} {a : Packet} (hq : Quiet s t) (hrx : (port t p).rxQ = []) (ho : a.ord = false) :
    ∃ u, done s (((ingressAnswer t p k a).map pump).getD s) = .next u ∧ Answered u p n k a.type a.opst a.payload ∧ u.hbm = s.hbm ∧ u.cells = s.cells ∧
      u.slices = t.slices := by
  obtain ⟨v, hv, hsend, he⟩ := ingressAnswer_stands hq.faces ha ho
  have hall := hsend.trans (sends_pump v)
  rw [hv, Option.map_some, Option.getD_some]
  exact ⟨_, done_eq (hall.part.trans hq.part) (hall.pending.trans hq.pending), answered_of_sends (sends_pump v) ((hsend.rxQ p).trans hrx) he,
    hall.hbm.trans hq.hbm, hall.cells.trans hq.cells, hall.slices⟩

end

theorem wayAt_of_slices {t u : State} (hs : u.slices = t.slices) (sl key : Nat) : wayAt u sl key = wayAt t sl key := by
  rw [wayAt, slice, hs, wayAt, slice]

/-- A request for a line that its slice holds sound is taken. -/
structure Taken (s : State) (p n : Nat) (k : Packet) (sl key : Nat) : Prop where
  run : inReset s = false
  thawed : thawed s = true
  port : p < 24
  head : (Machine.port s p).rxQ = [k]
  clock : s.pkg.noClock = false
  phase : Machine.phase s ≠ 6
  answer : Answerable s p n k
  sits : sits s (lineOf k.off) sl key
  sound : Sound s (lineOf k.off) sl key

section
variable {s : State} {p n sl key : Nat} {k : Packet} (h : Taken s p n k sl key)
include h

/-- A command whose act comes down to an answer of the line's slice. -/
theorem taken_done {want : Packet → Bool} {rd wr : Bool} {act : State → Packet → Option State} {a : Packet} {P : State → Prop}
    (hwant : want k = true) (hchk : (ingressCheck s p k rd wr).2 = none) (ho : a.ord = false)
    (hact : ∃ t, act (popped s p k []) k = ingressAnswer t p k a ∧ Quiet (popped s p k []) t ∧ P t) :
    ∃ u t, run (p < 24 && !portFrozen s p) s (ingress p want rd wr act) = .next u ∧ Answered u p n k a.type a.opst a.payload ∧ u.hbm = s.hbm ∧
      u.cells = s.cells ∧ u.slices = t.slices ∧ P t := by
  obtain ⟨t, hans, hq, hP⟩ := hact
  have hrx : (port t p).rxQ = [] := hq.rxQ p (rxQ_popped s p k [])
  rw [run_port h.run h.thawed h.port, ingress_acts act h.head hwant h.clock h.phase hchk, hans]
  obtain ⟨u, h1, h2, h3, h4, h5⟩ := done_answered h.answer (still_popped.toQuiet.trans hq) hrx ho
  exact ⟨u, t, h1, h2, h3, h4, h5, hP⟩

end

/-- A request that the checks pass has the shape of its type. -/
theorem wellShaped_of_check {s : State} {p : Nat} {k : Packet} {rd wr : Bool} (h : (ingressCheck s p k rd wr).2 = none) : wellShaped k = true := by
  unfold ingressCheck at h
  split at h
  · cases h
  · rename_i hw
    simpa using hw

end Sys2Proof.Proofs
end

section
/-! Reads, writes, contributions and fetch-adds that arrive over the fabric for a resident line (O51: R342, R344, R376, R377). -/
namespace Sys2Proof.Proofs

open Sys2Proof.Machine Sys2Proof.Laws

/-! ## Reads (R377, R378) -/

section
variable {s : State} {p : Nat} {k : Packet} {sl key : Nat} (hs : sits s (lineOf k.off) sl key) (hsound : Sound s (lineOf k.off) sl key)
include hs hsound

theorem readLineNow_sound (hb : backed (lineOf k.off) = true) {q : Req} (hq : q.line = lineOf k.off) (hop : q.op = .read allWords) :
    ∃ t, readLineNow s q = some (t, ⟨(wayAt s sl key).body.data, 0, false, false, true⟩) ∧ Quiet s t ∧
      (wayAt t sl key).body = (wayAt s sl key).body := by
  obtain ⟨t, hsync, ht, hbody⟩ := syncAccess_performs hs hsound hq (r := .data (wayAt s sl key).body.data 0 false false)
    (P := fun t : State => (wayAt t sl key).body = (wayAt s sl key).body) fun u hu hub => by
      obtain ⟨t, hperf, ht⟩ := performAt_read hu hop
      exact ⟨t, hub ▸ hperf, ht.toQuiet, (ht.body sl key).1.trans hub⟩
  refine ⟨t, ?_, ht, hbody⟩
  have hserved : servedKey t (lineOf k.off) = some (sl, key) := by
    obtain ⟨-, hfe, hsl, hkey, -⟩ := hs
    unfold servedKey
    dsimp only
    rw [hb, quiet_feLine ht, hfe, quiet_placeOf ht, ← hsl, quiet_lineKey ht, hkey]
    rfl
  have hcheck : checkValue .plain (lineOf k.off) (wayAt s sl key).body.data = (wayAt s sl key).body.chk := by
    have := hsound.check
    simpa [checkOk, formValue, hsound.pois, hsound.av] using this
  have hverify : verifyRead t (lineOf k.off) (wayAt s sl key).body.data 0 = true := by
    unfold verifyRead
    rw [hserved]
    simp [hbody, hsound.av, homeLine, hb, hcheck]
  unfold readLineNow
  rw [hsync, hq]
  simp only [hverify, Bool.or_true, if_true]

theorem ingressRead_performs (hb : k.len = 256 → backed (lineOf k.off) = true) :
    ∃ t, ingressRead p s k = ingressAnswer t p k (cplPacket k (wayAt s sl key).body.data 0 false true) ∧ Quiet s t ∧
      (wayAt t sl key).body = (wayAt s sl key).body := by
  by_cases hlen : k.len = 256
  · have hid := still_nextId s (s.nextId + 1)
    obtain ⟨t, hread, ht, hbody⟩ := readLineNow_sound (sits_of_still hid hs) (hsound.still hid) (hb hlen)
      (q := ingressReq { s with nextId := s.nextId + 1 } p k s.nextId (.read allWords)) rfl rfl
    refine ⟨t, ?_, hid.toQuiet.trans ht, hbody.trans (hid.body sl key).1⟩
    unfold ingressRead
    rw [if_pos hlen, newId]
    dsimp only
    rw [hread]
    rfl
  · obtain ⟨t, hperf, ht, hbody⟩ := ingressPerform_performs (p := p) (op := .read (wordsTouched (byteMask (k.off % 256) k.len))) hs hsound
      (r := .data (wayAt s sl key).body.data 0 false false) rfl (P := fun t : State => (wayAt t sl key).body = (wayAt s sl key).body)
      fun u q hu hub _ hop => by
        obtain ⟨t, hperf, ht⟩ := performAt_read hu hop
        exact ⟨t, hub ▸ hperf, ht.toQuiet, (ht.body sl key).1.trans hub⟩
    refine ⟨t, ?_, ht, hbody⟩
    unfold ingressRead
    rw [if_neg hlen, hperf]

/-! ## Writes (R376, R378) -/

/-- The bytes of a line after a write of a packet's payload. -/
def Written (k : Packet) (old new : Line) : Prop := ∀ i, i < 256 → lineByte new i =
  if k.off % 256 ≤ i ∧ i < k.off % 256 + k.len then k.payload.getD (i - k.off % 256) 0 else lineByte old i

/-- A packet's payload where it lies in its line. -/
def payloadLine (k : Packet) : Line := BitVec.ofNat 2048 (ofBytes k.payload <<< (8 * (k.off % 256)))

omit hs hsound in
theorem written_whole (hlen : k.len = 256) (hfit : k.off % 256 + k.len ≤ 256) (old : Line) : Written k old (payloadLine k) := fun i hi => by
  rw [if_pos ⟨by omega, by omega⟩]
  exact lineByte_payload k.payload (by omega) hi

omit hs hsound in
theorem written_merged (old : Line) : Written k old (mergeLine old (payloadLine k) (byteMask (k.off % 256) k.len)) := fun i hi => by
  rw [lineByte_mergeLine _ _ _ hi, bitN_byteMask _ _ hi]
  by_cases h : k.off % 256 ≤ i ∧ i < k.off % 256 + k.len
  · rw [if_pos (by simp [h]), if_pos h]
    exact lineByte_payload k.payload h.1 hi
  · rw [if_neg (by simpa using h), if_neg h]

theorem ingressWrite_performs (hty : k.type = 2) (hfit : fitsLine k = true) (hchk : k.len = 256 → k.pmask = 0 →
      checkValue .plain (lineOf k.off) (BitVec.ofNat 2048 (ofBytes k.payload)) = k.check) :
    ∃ t, ingressWrite p s k = ingressAnswer t p k (ackPacket 0) ∧ Quiet s t ∧ Written k (wayAt s sl key).body.data (wayAt t sl key).body.data := by
  obtain ⟨⟨hzl, hpl⟩, hoff⟩ : (k.zl = false ∧ k.payload.length = k.len) ∧ k.off % 256 + k.len ≤ 256 := by simpa [fitsLine] using hfit
  have hans : answerOf k .accepted = some (ackPacket 0) := by simp [answerOf, hty]
  by_cases hlen : k.len = 256
  · obtain ⟨t, hperf, ht, hw⟩ := ingressPerform_performs (p := p) (op := .write (payloadLine k) (byteMask (k.off % 256) k.len)
        (spreadPoison (k.off % 256) k.pmask k.len) true k.check none) hs hsound hans
      (P := fun t : State => Written k (wayAt s sl key).body.data (wayAt t sl key).body.data) fun u q hu hub _ hop => by
        obtain ⟨t, hperf, ht, hd⟩ := performAt_write_whole hu hop
        exact ⟨t, hperf, ht, hd ▸ written_whole hlen hoff _⟩
    refine ⟨t, ?_, ht, hw⟩
    have hplain : k.pmask = 0 → checkValue .plain (lineOf k.off) (payloadLine k) = k.check := fun h => by
      rw [payloadLine, show k.off % 256 = 0 by omega]
      exact hchk hlen h
    rw [← hperf]
    unfold ingressWrite
    rw [hzl, if_neg (by decide)]
    dsimp only
    rw [if_neg (by rw [← payloadLine]; simp; intro _ h; exact hplain h), hlen]
    rfl
  · obtain ⟨t, hperf, ht, hw⟩ := ingressPerform_performs (p := p) (op := .write (payloadLine k) (byteMask (k.off % 256) k.len)
        (spreadPoison (k.off % 256) k.pmask k.len) false 0 none) hs hsound hans
      (P := fun t : State => Written k (wayAt s sl key).body.data (wayAt t sl key).body.data) fun u q hu hub hq hop => by
        obtain ⟨t, hperf, ht, hd⟩ := performAt_write_part hu hq hop
        exact ⟨t, hperf, ht, by rw [hd, hub]; exact written_merged _⟩
    refine ⟨t, ?_, ht, hw⟩
    have hwhole : (k.len == 256) = false := by simpa using hlen
    rw [← hperf]
    unfold ingressWrite
    rw [hzl, if_neg (by decide)]
    dsimp only
    rw [hwhole]
    rfl

end

end Sys2Proof.Proofs
end

section
/-! Contributions, fetch-adds, FLAG writes and refusals that arrive over the fabric (O51: R235, R281, R341, R342). -/
namespace Sys2Proof.Proofs

open Sys2Proof.Machine Sys2Proof.Laws

/-! ## Contributions and fetch-adds -/

section
variable {s : State} {p : Nat} {k : Packet} {sl key : Nat} (hs : sits s (lineOf k.off) sl key) (hsound : Sound s (lineOf k.off) sl key)
include hs hsound

/-- The element that a contribution of four bytes targets takes the sum. -/
theorem ingressRed_performs (hty : k.type = 4) (hop : k.opst = 1) (hlen : k.len = 4) (hpm : k.pmask = 0) :
    ∃ t, ingressPerform s p k (redOp k) = ingressAnswer t p k (ackPacket 0) ∧ Quiet s t ∧
      (wayAt t sl key).body.data = setLineF (wayAt s sl key).body.data (k.off % 256 / 4)
        (f32Add (lineF (wayAt s sl key).body.data (k.off % 256 / 4)) (BitVec.ofNat 32 (ofBytes k.payload))) := by
  have hans : answerOf k .accepted = some (ackPacket 0) := by simp [answerOf, hty]
  have hred : redOp k = .addF [(k.off % 256 / 4, BitVec.ofNat 32 (ofBytes k.payload), false)] := by
    simp [redOp, hop, redFloats, hlen, hpm, bitN]
  rw [hred]
  refine ingressPerform_performs (p := p) hs hsound hans (P := fun t : State => (wayAt t sl key).body.data = _) fun u q hu hub hq hqop => ?_
  obtain ⟨t, hperf, ht, hd⟩ := performAt_addF hu hq hqop
  exact ⟨t, hperf, ht, by rw [hd, hub]⟩

/-- The word that a fetch-add targets takes the sum, and the answer carries what it was. -/
theorem ingressAtom_performs (x y : W64) :
    ∃ t, ingressPerform s p k (.atd false [(k.off % 256 / 8, x, y)] 0) = ingressAnswer t p k
        { type := 8, zl := false, len := 8, payload := toBytes 8 (lineWord (wayAt s sl key).body.data (k.off % 256 / 8)).toNat, pmask := 0 } ∧ Quiet s t ∧
      (wayAt t sl key).body.data = setLineWord (wayAt s sl key).body.data (k.off % 256 / 8) (lineWord (wayAt s sl key).body.data (k.off % 256 / 8) + x) := by
  refine ingressPerform_performs (p := p) (r := .olds [(lineWord (wayAt s sl key).body.data (k.off % 256 / 8), false)]) hs hsound rfl
    (P := fun t : State => (wayAt t sl key).body.data = _) fun u q hu hub hq hqop => ?_
  obtain ⟨t, hperf, ht, hd⟩ := performAt_fetchAdd hu hq hqop
  exact ⟨t, hub ▸ hperf, ht, by rw [hd, hub]⟩

end

/-! ## FLAG writes (R235) -/

section
variable {s : State} {p : Nat} {k : Packet} {r i : Nat}

/-- A FLAG write that nothing refuses sets its flag. -/
theorem ingressFlag_sets (hr : bitsN k.ts.toNat 16 12 = r) (hi : bitsN k.ts.toNat 11 0 = i) (hzl : k.zl = true) (hop : k.opst = 1)
    (hsec : k.world = true → secureOk s p = true) {m : Nat} (hp : present s .region r = true) (hm : partOfRegion s r = some m)
    (hreset : flag s .chip 0 (f_CHIP_PART_STATUS_RESETTING m) = false) (hin : bitN (fld s .region r f_REGION_FLAG_INGRESS_SEG) (i / 256) = true)
    (hw : flagSecure s r i = true → k.world = true) : ingressFlag s p k = (flagSet s r i, none) := by
  have hshape : ¬ (!k.zl || decide (k.opst > 1)) = true := by simp [hzl, hop]
  have hworld : ¬ (k.world && !secureOk s p) = true := by
    simp only [Bool.and_eq_true, Bool.not_eq_true', not_and]
    exact fun h => by rw [hsec h]; decide
  have hopen : flagSecure s r i = false ∨ k.world = true := by
    cases h : flagSecure s r i
    · exact .inl rfl
    · exact .inr (hw h)
  unfold ingressFlag
  dsimp only
  rw [hr, hi, if_neg hshape, if_neg hworld, if_neg (by rw [hp]; decide), hm]
  dsimp only
  rw [if_neg (by rw [hreset, hin]; decide), flagWrite_open r i _ _ _ _ hopen, hop]
  rfl

/-- Nothing that decides on a FLAG write is in the buffers. -/
theorem ingressFlag_sets_popped (hr : bitsN k.ts.toNat 16 12 = r) (hi : bitsN k.ts.toNat 11 0 = i) (hzl : k.zl = true) (hop : k.opst = 1)
    (hsec : k.world = true → secureOk s p = true) {m : Nat} (hp : present s .region r = true) (hm : partOfRegion s r = some m)
    (hreset : flag s .chip 0 (f_CHIP_PART_STATUS_RESETTING m) = false) (hin : bitN (fld s .region r f_REGION_FLAG_INGRESS_SEG) (i / 256) = true)
    (hw : flagSecure s r i = true → k.world = true) : ingressFlag (popped s p k []) p k = (flagSet (popped s p k []) r i, none) := by
  have hfld : ∀ q j f, fld (popped s p k []) q j f = fld s q j f := fun q j f => by rw [fld, reg_popped, fld]
  have hpres : present (popped s p k []) .region r = true := hp
  have hpor : partOfRegion (popped s p k []) r = some m := hm
  have hflagSec : flagSecure (popped s p k []) r i = flagSecure s r i := rfl
  have hres : flag (popped s p k []) .chip 0 (f_CHIP_PART_STATUS_RESETTING m) = false := by rw [flag, hfld, ← flag, hreset]
  have hingress : bitN (fld (popped s p k []) .region r f_REGION_FLAG_INGRESS_SEG) (i / 256) = true := by rw [hfld, hin]
  exact ingressFlag_sets hr hi hzl hop (fun h => (secureOk_popped p).trans (hsec h)) hpres hpor hres hingress fun h => hw (hflagSec.symm.trans h)

end

theorem flag_arrives {s : State} {p n : Nat} {k : Packet} {m : Nat} (hr : inReset s = false) (ht : thawed s = true) (hp : p < 24)
    (hq : (port s p).rxQ = [k]) (hck : s.pkg.noClock = false) (hph : phase s ≠ 6) (ha : Answerable s p n k) (hty : k.type = 5) (hop : k.opst = 1)
    (hzl : k.zl = true) (hsec : k.world = true → secureOk s p = true) (hpres : present s .region (bitsN k.ts.toNat 16 12) = true)
    (hm : partOfRegion s (bitsN k.ts.toNat 16 12) = some m) (hreset : flag s .chip 0 (f_CHIP_PART_STATUS_RESETTING m) = false)
    (hin : bitN (fld s .region (bitsN k.ts.toNat 16 12) f_REGION_FLAG_INGRESS_SEG) (bitsN k.ts.toNat 11 0 / 256) = true)
    (hw : flagSecure s (bitsN k.ts.toNat 16 12) (bitsN k.ts.toNat 11 0) = true → k.world = true)
    (htk : takerOf s (bitsN k.ts.toNat 16 12) (bitsN k.ts.toNat 11 0) = none) :
    ∃ t, exec (.fabFlagReceived p) s = .next t ∧ (flagAt t (bitsN k.ts.toNat 16 12) (bitsN k.ts.toNat 11 0)).set = true ∧ Answered t p n k 9 0 [] ∧
      t.hbm = s.hbm ∧ (∀ q j, (q, j) ≠ (bitsN k.ts.toNat 16 12, bitsN k.ts.toNat 11 0) → (flagAt t q j).set = (flagAt s q j).set) := by
  generalize hrr : bitsN k.ts.toNat 16 12 = r at *
  generalize hii : bitsN k.ts.toNat 11 0 = i at *
  have hset := ingressFlag_sets_popped hrr hii hzl hop hsec hpres hm hreset hin hw
  have htk' : takerOf (popped s p k []) r i = none := htk
  have hframe := flagSet_frame r i htk'
  have hat := flagAt_flagSet r i htk'
  have hpop : Still s (popped s p k []) := still_popped
  have hflag : ∀ q j, flagAt (popped s p k []) q j = flagAt s q j := fun _ _ => rfl
  have hrx := rxQ_popped s p k []
  have hexec : exec (.fabFlagReceived p) s = done s ((ingressAnswer (flagSet (popped s p k []) r i) p k (ackPacket 0)).getD s) := by
    change execFabFlagReceived p s = _
    rw [execFabFlagReceived, run_port hr ht hp, popRx_head s p k hq (by simp [hty])]
    dsimp only
    rw [frozen_of_thawed ht, hck, if_neg (by decide), if_neg hph, hset]
  rw [hexec]
  generalize popped s p k [] = v at *
  have hfaces : Faces s (flagSet v r i) := by
    rw [hframe]
    exact ⟨hpop.regs, hpop.toQuiet.fab, hpop.queue⟩
  obtain ⟨u, hu, hsend, he⟩ := ingressAnswer_stands hfaces ha (r := ackPacket 0) rfl
  have hrx' : (port (flagSet v r i) p).rxQ = [] := by rw [hframe]; exact hrx
  have hregs : u.regions = (flagSet v r i).regions := (congrArg State.regions hsend.rest :)
  have hregions : ∀ q j, flagAt u q j = flagAt (flagSet v r i) q j := fun q j => by simp only [flagAt, region, hregs]
  obtain ⟨hpart, hpend⟩ := flagSet_part_pending (s := v) r i
  have hhbm : (flagSet v r i).hbm = v.hbm := (congrArg State.hbm hframe :)
  rw [hu, Option.getD_some]
  refine ⟨u, done_eq (hsend.part.trans (hpart.trans hpop.toQuiet.part)) (hsend.pending.trans (hpend.trans hpop.toQuiet.pending)), ?_,
    answered_of_sends Sends.refl ((hsend.rxQ p).trans hrx') he, hsend.hbm.trans (hhbm.trans hpop.toQuiet.hbm), fun q j hne => ?_⟩
  · rw [hregions, hat, if_pos ⟨rfl, rfl⟩]
    split
    · assumption
    · rfl
  · rw [hregions, hat, if_neg fun h => hne (by rw [h.1, h.2]), hflag]

/-! ## Refusals (R341) -/

/-- A request of a wrong shape is refused, counted and raised. -/
theorem write_refused {s : State} {p n : Nat} {k : Packet} (hr : inReset s = false) (ht : thawed s = true) (hp : p < 24) (hq : (port s p).rxQ = [k])
    (hck : s.pkg.noClock = false) (hph : phase s ≠ 6) (ha : Answerable s p n k) (hty : k.type = 2) (hw : wellShaped k = false) :
    ∃ t, exec (.fabWrReceived p) s = .next t ∧ Answered t p n k 9 0x12 [] ∧ bitN (reg t .fab 0 o_COMMON_IRQ_PENDING).toNat 4 = true ∧
      t.hbm = s.hbm ∧ t.slices = s.slices := by
  have hpop : Still s (popped s p k []) := still_popped
  have hslices : (popped s p k []).slices = s.slices := rfl
  have hrx := rxQ_popped s p k []
  have hchk : ∀ v, ingressCheck v p k false true = (v, some 0x12) := fun v => by
    unfold ingressCheck
    rw [if_pos (by rw [hw]; rfl)]
  have hexec : exec (.fabWrReceived p) s = done s ((ingressRefuse (popped s p k []) p k 0x12).getD s) := by
    change execFabWrReceived p s = _
    rw [execFabWrReceived, run_port hr ht hp, ingress, popRx_head s p k hq (by simp [hty])]
    dsimp only
    rw [if_neg (by rw [hck]; decide), if_neg hph, hchk]
  have hcpl : (k.type == 1 || k.type == 6) = false := by simp [hty]
  rw [hexec]
  generalize popped s p k [] = v at *
  obtain ⟨u, hu, hsend, he⟩ := ingressAnswer_stands hpop.toQuiet.faces ha (r := ackPacket 0x12) rfl
  have hrefuse : ingressRefuse v p k 0x12 = some (raiseIrq (bump u .fab 0 o_FAB_INGRESS_REFUSED 1) .fab 0 4) := by
    unfold ingressRefuse
    dsimp only
    rw [hcpl, if_neg (by decide), hu, Option.map_some]
  have hpages : PagesOnly u (raiseIrq (bump u .fab 0 o_FAB_INGRESS_REFUSED 1) .fab 0 4) := (pagesOnly_bump ..).trans (pagesOnly_raiseIrq ..)
  have hirq := pending_raiseIrq (bump u .fab 0 o_FAB_INGRESS_REFUSED 1) (k := .fab) (i := 0) (bit := 4) (by decide) (by decide)
  rw [hrefuse, Option.getD_some]
  generalize raiseIrq (bump u .fab 0 o_FAB_INGRESS_REFUSED 1) .fab 0 4 = w at *
  obtain ⟨hp', hq', hm', -⟩ := pagesOnly_fields hpages
  have hports : w.ports = u.ports := (congrArg State.ports hpages :)
  have hans : Answered u p n k 9 0x12 [] := answered_of_sends Sends.refl ((hsend.rxQ p).trans hrx) he
  refine ⟨w, done_eq (hp'.trans (hsend.part.trans hpop.toQuiet.part)) (hq'.trans (hsend.pending.trans hpop.toQuiet.pending)), ?_, hirq,
    hm'.trans (hsend.hbm.trans hpop.toQuiet.hbm), ((congrArg State.slices hpages :).trans hsend.slices).trans hslices⟩
  have hport : ∀ q, port w q = port u q := fun q => by rw [port, hports, port]
  rw [Answered, hport, hport]
  exact hans

end Sys2Proof.Proofs
end

section
/-! The obligation on ingress requests and on the fabric's answers (O51). -/
namespace Sys2Proof.Proofs

open Sys2Proof.Machine Sys2Proof.Laws

/-! ## The commands of a taken request -/

theorem body_popped (s : State) (p : Nat) (k : Packet) (sl key : Nat) : (wayAt (popped s p k []) sl key).body = (wayAt s sl key).body :=
  (still_popped.body sl key).1

section
variable {s : State} {p n sl key : Nat} {k : Packet} (h : Taken s p n k sl key)
include h

theorem taken_sits : sits (popped s p k []) (lineOf k.off) sl key := sits_of_still still_popped h.sits

theorem taken_sound : Sound (popped s p k []) (lineOf k.off) sl key := h.sound.still still_popped

theorem read_arrives (hty : k.type = 1) (hchk : (ingressCheck s p k true false).2 = none) (hb : k.len = 256 → backed (lineOf k.off) = true) :
    ∃ t, exec (.fabRdReceived p) s = .next t ∧ Answered t p n k 8 0 (((lineBytes (wayAt s sl key).body.data).drop (k.off % 256)).take k.len) ∧
      (wayAt t sl key).body = (wayAt s sl key).body ∧ t.hbm = s.hbm ∧ t.cells = s.cells := by
  obtain ⟨u, t, hu, hans, hhbm, hcells, hslices, hbody⟩ := taken_done h (want := fun k => k.type == 1) (by simp [hty]) hchk rfl
    (ingressRead_performs (p := p) (taken_sits h) (taken_sound h) hb)
  rw [body_popped] at hans hbody
  exact ⟨u, hu, hans, by rw [wayAt_of_slices hslices, hbody], hhbm, hcells⟩

theorem write_arrives (hty : k.type = 2) (hchk : (ingressCheck s p k false true).2 = none) (hval : k.len = 256 → k.pmask = 0 →
      checkValue .plain (lineOf k.off) (BitVec.ofNat 2048 (ofBytes k.payload)) = k.check) :
    ∃ t, exec (.fabWrReceived p) s = .next t ∧ Answered t p n k 9 0 [] ∧ t.hbm = s.hbm ∧ t.cells = s.cells ∧
      Written k (wayAt s sl key).body.data (wayAt t sl key).body.data := by
  have hfit : fitsLine k = true := by simpa [wellShaped, hty] using wellShaped_of_check hchk
  obtain ⟨u, t, hu, hans, hhbm, hcells, hslices, hw⟩ := taken_done h (want := fun k => k.type == 2 || k.type == 3) (by simp [hty]) hchk rfl
    (ingressWrite_performs (p := p) (taken_sits h) (taken_sound h) hty hfit hval)
  rw [body_popped] at hw
  exact ⟨u, hu, hans, hhbm, hcells, by rw [wayAt_of_slices hslices]; exact hw⟩

theorem red_arrives (hty : k.type = 4) (hop : k.opst = 1) (hlen : k.len = 4) (hpm : k.pmask = 0) (hchk : (ingressCheck s p k false true).2 = none) :
    ∃ t, exec (.fabRedReceived p) s = .next t ∧ Answered t p n k 9 0 [] ∧ t.hbm = s.hbm ∧ t.cells = s.cells ∧
      (wayAt t sl key).body.data = setLineF (wayAt s sl key).body.data (k.off % 256 / 4)
        (f32Add (lineF (wayAt s sl key).body.data (k.off % 256 / 4)) (BitVec.ofNat 32 (ofBytes k.payload))) := by
  have hgood : redBad k = false := by simp [redBad, hop]
  obtain ⟨u, t, hu, hans, hhbm, hcells, hslices, hd⟩ := taken_done h (want := fun k => k.type == 4) (a := ackPacket 0) (act := fun s k =>
      let l := lineOf k.off
      let s := if redBad k then sliceCheckFail s (placeOf s l).slice 5 5 (ingressLabel s k) l else s
      ingressPerform s p k (redOp k)) (by simp [hty]) hchk rfl (by
    dsimp only
    rw [if_neg (by rw [hgood]; decide)]
    exact ingressRed_performs (taken_sits h) (taken_sound h) hty hop hlen hpm)
  rw [body_popped] at hd
  exact ⟨u, hu, hans, hhbm, hcells, by rw [wayAt_of_slices hslices]; exact hd⟩

theorem atom_arrives (hty : k.type = 6) (hop : k.opst = 0) (hchk : (ingressCheck s p k true true).2 = none) :
    ∃ t, exec (.fabAtomReceived p) s = .next t ∧ Answered t p n k 8 0 (toBytes 8 (lineWord (wayAt s sl key).body.data (k.off % 256 / 8)).toNat) ∧
      t.hbm = s.hbm ∧ t.cells = s.cells ∧
      (wayAt t sl key).body.data = setLineWord (wayAt s sl key).body.data (k.off % 256 / 8)
        (lineWord (wayAt s sl key).body.data (k.off % 256 / 8) + BitVec.ofNat 64 (ofBytes k.payload)) := by
  have hadd : (k.opst == 1) = false := by simp [hop]
  obtain ⟨u, t, hu, hans, hhbm, hcells, hslices, hd⟩ := taken_done h (want := fun k => k.type == 6) (act := fun s k =>
      let x : W64 := BitVec.ofNat 64 (ofBytes k.payload)
      let y : W64 := BitVec.ofNat 64 (ofBytes (k.payload.drop 8))
      ingressPerform s p k (.atd (k.opst == 1) [(k.off % 256 / 8, x, y)] 0)) (by simp [hty]) hchk rfl (by
    dsimp only
    rw [hadd]
    exact ingressAtom_performs (taken_sits h) (taken_sound h) _ _)
  rw [body_popped] at hans hd
  exact ⟨u, hu, hans, hhbm, hcells, by rw [wayAt_of_slices hslices]; exact hd⟩

end

/-! ## While the core clock has stopped (R30) -/

section
variable {s : State} {p : Nat} (hr : inReset s = false) (ht : thawed s = true) (hp : p < 24) (hck : s.pkg.noClock = true)
include hr ht hp hck

/-- A request of the line commands waits. -/
theorem ingress_waits (want : Packet → Bool) (rd wr : Bool) (act : State → Packet → Option State) :
    run (p < 24 && !portFrozen s p) s (ingress p want rd wr act) = .next s := by
  rw [run_port hr ht hp, ingress_noClock want rd wr act hck]
  exact done_eq rfl rfl

theorem flag_waits : exec (.fabFlagReceived p) s = .next s := by
  change execFabFlagReceived p s = _
  rw [execFabFlagReceived, run_port hr ht hp]
  split
  · exact done_eq rfl rfl
  · rw [if_pos (by simp [hck])]
    exact done_eq rfl rfl

end

/-! ## The obligation -/

theorem ingressRequests : Claims.IngressRequests := by
  intro s p k hr ht hp hq
  refine ⟨fun hck => ⟨ingress_waits hr ht hp hck .., ingress_waits hr ht hp hck .., ingress_waits hr ht hp hck .., ingress_waits hr ht hp hck ..,
    flag_waits hr ht hp hck⟩, fun n hck hph hown hport hslot => ?_⟩
  have answerable : k.type ≠ 3 → Answerable s p n k := fun h => ⟨hown, hport, hslot, by simp [isFlush, h]⟩
  refine ⟨fun sl key hs hpois hav hcheck hpm hwhole => ?_, fun hty hop hzl hsec m hpres hm hreset hin hw htk => ?_, fun hty hw => ?_⟩
  · have hsound : Sound s (lineOf k.off) sl key := by
      obtain ⟨-, -, -, -, hdead, hsyn, harm, -⟩ := hs
      exact ⟨hdead, hsyn, harm, hpois, hav, hcheck⟩
    have taken : k.type ≠ 3 → Taken s p n k sl key := fun h => ⟨hr, ht, hp, hq, hck, hph, answerable h, hs, hsound⟩
    refine ⟨fun hty hchk => ?_, fun hty hchk => ?_, fun hty hop hlen hchk => ?_, fun hty hop hchk => ?_⟩
    · exact read_arrives (taken (by omega)) hty hchk fun h => (hwhole h).1
    · exact write_arrives (taken (by omega)) hty hchk fun h _ => (hwhole h).2 hty
    · obtain ⟨t, he, hans, hhbm, hcells, hd⟩ := red_arrives (taken (by omega)) hty hop hlen hpm hchk
      have hi : k.off % 256 / 4 < 64 := by omega
      refine ⟨t, he, hans, hhbm, hcells, ?_, fun j hj hne => ?_⟩
      · rw [hd, lineF_setLineF _ _ hi hi, if_pos rfl]
      · rw [hd, lineF_setLineF _ _ hi hj, if_neg hne]
    · obtain ⟨t, he, hans, hhbm, hcells, hd⟩ := atom_arrives (taken (by omega)) hty hop hchk
      have hi : k.off % 256 / 8 < 32 := by omega
      refine ⟨t, he, hans, hhbm, hcells, ?_, fun j hj hne => ?_⟩
      · rw [hd, lineWord_setLineWord _ _ hi hi, if_pos rfl]
      · rw [hd, lineWord_setLineWord _ _ hi hj, if_neg hne]
  · exact flag_arrives hr ht hp hq hck hph (answerable (by omega)) hty hop hzl hsec hpres hm hreset hin hw htk
  · exact write_refused hr ht hp hq hck hph (answerable (by omega)) hty hw

/-- Settles O51: a request for a sound line is taken off the buffers, performed by the line's slice, and its answer enqueued; each answer of the
fabric looks only at the tag's entry. -/
theorem ingressAndFabricAnswers : Obligations.IngressAndFabricAnswers := ⟨ingressRequests, fabricAnswers⟩

end Sys2Proof.Proofs
end

section
/-! Instructions of a ready group that write registers and go to the next instruction: what they answer, and the lanes and status bits that
they collect (R79, R130, R133). -/
namespace Sys2Proof.Proofs

open Sys2Proof.Machine Sys2Proof.Laws

/-! ## Going to the next instruction -/

/-- A group's record once it goes to its next instruction. -/
def advanced (k : Group) : Group := { k with pc := (k.pc + 8) % 2 ^ 48, skipWatch := [] }

@[simp] theorem getV_advanced (k : Group) (r l : Nat) : getV (advanced k) r l = getV k r l := rfl
@[simp] theorem getU_advanced (k : Group) (r : Nat) : getU (advanced k) r = getU k r := rfl
@[simp] theorem getP_advanced (k : Group) (r : Nat) : getP (advanced k) r = getP k r := rfl

/-- An instruction that draws its open values and retires with the record `k` of its group. -/
theorem run_retire {s : State} {c g : Nat} {w : W64} {ok : Bool} {body : State → Option State} {k : Group} (hok : ok = true)
    (h : ready s c g w) (hb : body s = some (retire (drawn s) c g k)) :
    run ok s (fun s => issue s c g w body) = .next (pmc (setGroup (drawn s) c g (advanced k)) c 2 1) := by
  rw [retire_eq] at hb
  exact run_issue hok h hb rfl rfl

/-! ## Executing lanes -/

theorem lt_of_mem_lanesOf {m : W32} : ∀ l ∈ lanesOf m, l < 32 := fun l hl => ((mem_lanesOf m l).1 hl).1

/-- A lane register once the lanes of a mask have each written their value to register `r`. -/
theorem getV_mapLanes_mask (k : Group) (m : W32) {r : Nat} {f : Nat → W32} {step : Group → Nat → Group} (hs : ∀ k l, step k l = setV k r l (f l))
    (r' : Nat) {l : Nat} (hl : l < 32) :
    getV (mapLanes k (lanesOf m) step) r' l = if r' = r ∧ bitN m.toNat l = true then f l else getV k r' l := by
  rw [getV_mapLanes k r f step _ lt_of_mem_lanesOf (fun k' l _ => hs k' l) r' l hl]
  simp only [mem_lanesOf, hl, true_and]

/-- A predicate once the lanes of a mask have each written their bit of predicate `r`. -/
theorem getP_mapLanes_mask (k : Group) (m : W32) {r : Nat} {f : Nat → Bool} {step : Group → Nat → Group} (hs : ∀ k l, step k l = setPLane k r l (f l))
    (r' : Nat) {l : Nat} (hl : l < 32) :
    bitN (getP (mapLanes k (lanesOf m) step) r').toNat l =
      if r' ≠ 0 ∧ r' = r ∧ bitN m.toNat l = true then f l else bitN (getP k r').toNat l := by
  rw [getP_mapLanes k r f step _ lt_of_mem_lanesOf (fun k' l _ => hs k' l) r' l hl]
  refine if_congr ?_ rfl rfl
  rw [mem_lanesOf, and_iff_right hl]
  constructor
  · rintro ⟨rfl, h0, hm⟩
    exact ⟨h0, rfl, hm⟩
  · rintro ⟨h0, rfl, hm⟩
    exact ⟨rfl, h0, hm⟩

/-- A bit of the numbers that lanes contribute to a mask. -/
theorem bitN_foldl_or {α : Type} (f : α → Nat) (lanes : List α) (m i : Nat) :
    bitN (lanes.foldl (fun m l => m ||| f l) m) i = (bitN m i || lanes.any (fun l => bitN (f l) i)) := by
  induction lanes generalizing m with
  | nil => simp
  | cons a t ih => simp [ih, bitN_eq_testBit, Nat.testBit_or, Bool.or_assoc]

/-- What some executing lane satisfies. -/
theorem any_lanesOf (m : W32) (p : Nat → Bool) : (lanesOf m).any p = (List.range 32).any (fun l => bitN m.toNat l && p l) :=
  List.any_filter

/-- A bit of GSTAT once the executing lanes have reported their status (R79). -/
theorem bitN_gstat_collected (k : Group) (m : W32) (f : Nat → Nat) {i : Nat} (hi : i < 64) :
    bitN (orGstat k ((lanesOf m).foldl (fun m l => m ||| f l) 0)).gstat.toNat i =
      (bitN k.gstat.toNat i || (List.range 32).any (fun l => bitN m.toNat l && bitN (f l) i)) := by
  rw [← any_lanesOf, orGstat, BitVec.toNat_or, BitVec.toNat_ofNat, bitN_eq_testBit, Nat.testBit_or, Nat.testBit_mod_two_pow,
    decide_eq_true hi, Bool.true_and, ← bitN_eq_testBit, ← bitN_eq_testBit, bitN_foldl_or]
  simp [bitN_eq_testBit]

end Sys2Proof.Proofs
end

section
/-! Vector floating-point instructions (O2: R55, R126, R127, R131, R133). -/
namespace Sys2Proof.Proofs

open Sys2Proof.Machine Sys2Proof.Laws

/-- The second operand of a vector floating-point instruction in a lane. -/
def fpSecond (k : Group) (w : W64) (imm : Bool) (l : Nat) : W32 := if imm then BitVec.ofNat 32 (fIMM w) else getV k (fVB w) l

/-- The result that a vector floating-point instruction gives a lane. -/
def fpLaneResult (s : State) (k : Group) (w : W64) (op : FpOp) (p : Pack) (imm : Bool) (l : Nat) : W32 :=
  fpPacked (packFmt p) (packCount p) op (getV k (fVA w) l) (fpSecond k w imm l) (if imm then 0 else getV k (fVC w) l) (freeLane s l)

/-- Whether an operation compares does not depend on the values. -/
theorem fpCompare_eq_none (op : FpOp) (a b : W32) : fpCompare op a b = none ↔ fpCompare op 0 0 = none := by
  rw [← Option.isNone_iff_eq_none, ← Option.isNone_iff_eq_none, fpCompare_isNone, fpCompare_isNone]

theorem packFmt_eq_fp32 (p : Pack) : packFmt p = .fp32 ↔ p = .fp32 := by
  cases p <;> decide

section
variable {s : State} {w : W64} {op : FpOp} {p : Pack} {imm : Bool} {old k : Group}

/-- An operation that does not compare writes its result to VD. -/
theorem fpLane_result (h : fpCompare op 0 0 = none) (l : Nat) :
    fpLane s w op p imm old k l = setV k (fVD w) l (fpLaneResult s old w op p imm l) := by
  have := (fpCompare_eq_none op (getV old (fVA w) l) (fpSecond old w imm l)).2 h
  unfold fpSecond at this
  simp only [fpLane, this]
  rfl

/-- A compare writes its outcome to its predicate. -/
theorem fpLane_compare (h : fpCompare op 0 0 ≠ none) (l : Nat) :
    fpLane s w op p imm old k l = setPLane k (cmpPred w imm) l (fpCompare op (getV old (fVA w) l) (fpSecond old w imm l) == some true) := by
  obtain ⟨t, ht⟩ := Option.ne_none_iff_exists'.1 (mt (fpCompare_eq_none op (getV old (fVA w) l) (fpSecond old w imm l)).1 h)
  rw [ht]
  unfold fpSecond at ht
  simp only [fpLane, ht]
  cases t <;> rfl

/-- The record of a group after its executing lanes have run a floating-point instruction. -/
abbrev fpLanes (s : State) (k : Group) (w : W64) (op : FpOp) (p : Pack) (imm : Bool) : Group :=
  mapLanes k (lanesOf (guardLanes k w)) (fpLane s w op p imm k)

/-- A result goes to lane registers and nothing else of the group. -/
theorem fpLanes_frame_result (h : fpCompare op 0 0 = none) : fpLanes s k w op p imm = { k with v := (fpLanes s k w op p imm).v } :=
  mapLanes_setV_eq k _ _ _ _ fun _ l _ => fpLane_result h l

/-- A compare writes predicates and nothing else of the group. -/
theorem fpLanes_frame_compare (h : fpCompare op 0 0 ≠ none) : fpLanes s k w op p imm = { k with p := (fpLanes s k w op p imm).p } :=
  mapLanes_setPLane_eq k _ _ _ _ fun _ l _ => fpLane_compare h l

theorem fpLanes_frame : fpLanes s k w op p imm = { k with v := (fpLanes s k w op p imm).v, p := (fpLanes s k w op p imm).p } := by
  by_cases h : fpCompare op 0 0 = none
  · rw [fpLanes_frame_result h]
  · rw [fpLanes_frame_compare h]

theorem getV_fpLanes (r : Nat) {l : Nat} (hl : l < 32) : getV (fpLanes s k w op p imm) r l =
    if r = fVD w ∧ bitN (guardLanes k w).toNat l = true ∧ fpCompare op 0 0 = none then fpLaneResult s k w op p imm l else getV k r l := by
  by_cases h : fpCompare op 0 0 = none
  · rw [fpLanes, getV_mapLanes_mask k _ (fun _ => fpLane_result h) r hl]
    simp only [h, and_true]
  · rw [fpLanes_frame_compare h, if_neg fun hc => h hc.2.2]
    rfl

theorem getP_fpLanes (r : Nat) {l : Nat} (hl : l < 32) : bitN (getP (fpLanes s k w op p imm) r).toNat l =
    if r ≠ 0 ∧ r = cmpPred w imm ∧ bitN (guardLanes k w).toNat l = true ∧ fpCompare op 0 0 ≠ none then
      fpCompare op (getV k (fVA w) l) (fpSecond k w imm l) == some true
    else bitN (getP k r).toNat l := by
  by_cases h : fpCompare op 0 0 = none
  · rw [fpLanes_frame_result h, if_neg fun hc => hc.2.2.2 h]
    rfl
  · rw [fpLanes, getP_mapLanes_mask k _ (fun _ => fpLane_compare h) r hl]
    simp only [ne_eq, h, not_false_eq_true, and_true]

end

/-- Settles O2: every executing lane writes the same register, or for a compare the same predicate. -/
theorem vectorFpLanes : Obligations.VectorFpLanes := by
  intro s c g w op p imm hr hlo hhi hop hfma hpack hvd hva hvb hvc
  refine ⟨advanced (fpLanes s (group s c g) w op p imm), ?_, ?_, fun r l hl => ?_, fun r l hl => getP_fpLanes r hl⟩
  · have hform : (op = .fma && imm) = false := by simpa using hfma
    have hcmp : ((fpCompare op 0 0).isNone || decide (p = .fp32)) = true := by
      rw [Bool.or_eq_true, Option.isNone_iff_eq_none, decide_eq_true_eq]
      exact or_iff_not_imp_left.2 hpack
    have hregs : (imm || (inAlloc (group s c g) (fVB w) 1 && (op ≠ .fma || inAlloc (group s c g) (fVC w) 1))) = true := by
      cases imm
      · simpa [hvb, ← imp_iff_not_or] using hvc
      · rfl
    exact run_retire (by rw [hform, hcmp]; simp [hlo, hhi]) hr (by simp only [hop, hvd, hva, hregs]; rfl)
  · rw [fpLanes_frame]
    rfl
  · rw [getV_advanced, getV_fpLanes r hl]
    simp only [fpLaneResult, fpPacked, packFmt_eq_fp32]
    rfl

end Sys2Proof.Proofs
end

section
/-! CVT and uniform instructions (O3: R53, R64, R79, R127, R133, R134). -/
namespace Sys2Proof.Proofs

open Sys2Proof.Machine Sys2Proof.Laws

/-! ## CVT to an unscaled format -/

theorem fmtWidth_le (f : Fmt) : fmtWidth f ≤ 32 := by
  cases f <;> decide

/-- The low bits of a value whose other bits are open. -/
theorem openAbove_mod {n : Nat} (hn : n ≤ 32) (x free : Nat) : (openAbove n x free).toNat % 2 ^ n = x % 2 ^ n := by
  rw [openAbove, BitVec.toNat_ofNat, Nat.mod_mod_of_dvd _ (Nat.pow_dvd_pow 2 hn), Nat.shiftLeft_eq, Nat.add_mul_mod_self_right, Nat.mod_mod]

section
variable {s : State} {k : Group} {w : W64} {src dst : CvtFmt} {rnd : Rnd} {us : Nat}

/-- A conversion writes lane registers and GSTAT, and nothing else of the group. -/
theorem cvtScalar_frame : cvtScalar s k w src dst rnd us =
    { k with v := (cvtScalar s k w src dst rnd us).v, gstat := (cvtScalar s k w src dst rnd us).gstat } := by
  simp only [cvtScalar, orGstat]
  rw [mapLanes_setV_eq k (fVD w) _ _ _ fun _ _ _ => rfl]

/-- An executing lane gets its encoding in the low bits of VD; all else stays. -/
theorem getV_cvtScalar (r : Nat) {l : Nat} (hl : l < 32) : getV (cvtScalar s k w src dst rnd us) r l =
    if r = fVD w ∧ bitN (guardLanes k w).toNat l = true then
      openAbove (fmtWidth (cvtElem dst)) (encVal (cvtElem dst) rnd (cvtSource k src (fVA w) us l)).1 (freeLane s l).toNat
    else getV k r l :=
  getV_mapLanes_mask k (guardLanes k w) (fun _ _ => rfl) r hl

/-- GSTAT collects the status of the executing lanes (R79). -/
theorem gstat_cvtScalar {i : Nat} (hi : i < 64) : bitN (cvtScalar s k w src dst rnd us).gstat.toNat i =
    (bitN k.gstat.toNat i || (List.range 32).any fun l =>
      bitN (guardLanes k w).toNat l && bitN (encVal (cvtElem dst) rnd (cvtSource k src (fVA w) us l)).2 i) := by
  simp only [cvtScalar]
  rw [mapLanes_setV_eq k (fVD w) _ _ _ fun _ _ _ => rfl]
  exact bitN_gstat_collected _ _ _ hi

end

theorem cvtScalarLanes : Claims.CvtScalar := by
  intro s c g w src dst rnd us hr hlo hhi hrnd hus hwide hblock hvd hva hg
  refine ⟨advanced (cvtScalar s (group s c g) w src dst (rndOf rnd) us), ?_, ?_, fun r l hl => ⟨fun h => ?_, fun h => ?_⟩,
    fun i hi => gstat_cvtScalar hi⟩
  · exact run_retire (by simp [hlo, hhi, hrnd, hus]) hr (by simp only [hwide, hblock, hvd, hva, if_neg hg]; rfl)
  · rw [cvtScalar_frame]
    rfl
  · rw [executes] at h
    rw [getV_advanced, getV_cvtScalar r hl, if_pos h, openAbove_mod (fmtWidth_le _)]
  · rw [executes] at h
    rw [getV_advanced, getV_cvtScalar r hl, if_neg h]

/-! ## Uniform instructions -/

/-- Every operation moves to lanes, moves from a lane, or computes. -/
theorem uniOp_kinds (op : UniOp) : (∃ vd, op = .toLanes vd) ∨ (∃ va l, op = .fromLane va l) ∨
    ((∀ vd, op ≠ .toLanes vd) ∧ ∀ va l, op ≠ .fromLane va l) := by
  cases op <;> simp

/-- A group-wide instruction with a lane that executes runs once (R133). -/
theorem groupWide_eq {s : State} {c g : Nat} {w : W64} (f : State → Option State) (h : guardLanes (group s c g) w ≠ 0) :
    groupWide s c g w f = f s := if_neg h

/-- A write of a uniform register changes uniform registers only. -/
theorem setU_frame (k : Group) (r : Nat) (x : W64) : setU k r x = { k with u := (setU k r x).u } := by
  unfold setU
  split <;> rfl

theorem setU_v (k : Group) (r : Nat) (x : W64) : (setU k r x).v = k.v := by
  rw [setU_frame]

/-- A write leaves every other uniform register, and u0, alone (R127). -/
theorem getU_setU_other (k : Group) {r r' : Nat} (x : W64) (h : r' ≠ r ∨ r' = 0) : getU (setU k r x) r' = getU k r' := by
  rw [getU_setU, if_neg]
  rintro ⟨rfl, h0⟩
  exact h.elim (fun hne => hne rfl) h0

/-- A uniform register other than u0 reads as it was written. -/
theorem getU_setU_self (k : Group) {r : Nat} (x : W64) (h : r ≠ 0) : getU (setU k r x) r = x := by
  rw [getU_setU, if_pos ⟨rfl, h⟩]

/-- A 64-bit value whose upper half is open, cut to its lower half. -/
theorem setWidth_openHalf (x : W32) (free : Nat) : (BitVec.ofNat 64 (x.toNat + (free >>> 32) <<< 32)).setWidth 32 = x := by
  apply BitVec.eq_of_toNat_eq
  rw [BitVec.toNat_setWidth, BitVec.toNat_ofNat, Nat.mod_mod_of_dvd _ (Nat.pow_dvd_pow 2 (by decide)), Nat.shiftLeft_eq,
    Nat.add_mul_mod_self_right, Nat.mod_eq_of_lt x.isLt]

/-- A group whose executing lanes have received the value of a uniform register. -/
abbrev movedToLanes (k : Group) (w : W64) (vd : Nat) : Group :=
  mapLanes k (lanesOf (guardLanes k w)) (fun k' l => setV k' vd l ((getU k (fUA w)).setWidth 32))

/-- A move to lanes writes lane registers only. -/
theorem movedToLanes_frame (k : Group) (w : W64) (vd : Nat) : movedToLanes k w vd = { k with v := (movedToLanes k w vd).v } :=
  mapLanes_setV_eq k vd _ _ _ fun _ _ _ => rfl

theorem movedToLanes_u (k : Group) (w : W64) (vd : Nat) : (movedToLanes k w vd).u = k.u := by
  rw [movedToLanes_frame]

theorem getU_movedToLanes (k : Group) (w : W64) (vd r : Nat) : getU (movedToLanes k w vd) r = getU k r := by
  rw [getU, movedToLanes_u, getU]

section
variable {s : State} {c g : Nat} {w : W64} (b : Second) (hr : ready s c g w) (hlo : 0x80 ≤ opc w) (hhi : opc w ≤ 0x8F)
  (hg : guardLanes (group s c g) w ≠ 0)
include hr hlo hhi hg

theorem exec_toLanes {vd : Nat} (hv : vd < 128 ∧ inAlloc (group s c g) vd 1 = true) : exec (.uniformOp c g w (.toLanes vd) b) s =
    .next (pmc (setGroup (drawn s) c g (advanced (movedToLanes (group s c g) w vd))) c 2 1) :=
  run_retire (by simp [hlo, hhi, hv.1]) hr (by simp [uniLaneReg, hv.2, groupWide_eq _ hg])

theorem exec_fromLane {va l : Nat} (hv : va < 128 ∧ l < 32 ∧ inAlloc (group s c g) va 1 = true) :
    exec (.uniformOp c g w (.fromLane va l) b) s = .next (pmc (setGroup (drawn s) c g (advanced (setU (group s c g) (fUD w)
      (BitVec.ofNat 64 ((getV (group s c g) va l).toNat + (freeU s >>> 32) <<< 32))))) c 2 1) :=
  run_retire (by simp [hlo, hhi, hv.1, hv.2.1]) hr (by simp [uniLaneReg, hv.2.2, groupWide_eq _ hg])

theorem exec_uniResult {op : UniOp} (hop : op ≠ .unassigned) (hto : ∀ vd, op ≠ .toLanes vd) (hfrom : ∀ va l, op ≠ .fromLane va l) :
    exec (.uniformOp c g w op b) s = .next (pmc (setGroup (drawn s) c g (advanced (setU (group s c g) (fUD w)
      (uniResult op (getU (group s c g) (fUA w)) (uniSecond (group s c g) w b) (BitVec.ofNat 64 (freeU s)))))) c 2 1) := by
  cases op with
  | unassigned => exact absurd rfl hop
  | toLanes vd => exact absurd rfl (hto vd)
  | fromLane va l => exact absurd rfl (hfrom va l)
  | _ => exact run_retire (by simp [hlo, hhi]) hr (by simp [uniLaneReg, groupWide_eq _ hg])

end

theorem uniformResult : Claims.UniformResult := by
  intro s c g w op b hr hlo hhi hop hg hto hfrom
  rcases uniOp_kinds op with ⟨vd, rfl⟩ | ⟨va, l, rfl⟩ | ⟨hnt, hnf⟩
  · refine ⟨_, exec_toLanes b hr hlo hhi hg (hto vd rfl), ?_, fun r _ => getU_movedToLanes _ w vd r, ?_, by simp, by simp⟩
    · rw [movedToLanes_frame]
      rfl
    · rintro _ ⟨⟩
      exact ⟨movedToLanes_u _ w vd, fun r l hl => getV_mapLanes_mask _ _ (fun _ _ => rfl) r hl⟩
  · refine ⟨_, exec_fromLane b hr hlo hhi hg (hfrom va l rfl), ?_, fun r h => getU_setU_other _ _ h, by simp, ?_, by simp⟩
    · rw [setU_frame]
      rfl
    · rintro _ _ ⟨⟩ hud
      refine ⟨setU_v _ _ _, ?_⟩
      rw [getU_advanced, getU_setU_self _ _ hud, setWidth_openHalf]
  · refine ⟨_, exec_uniResult b hr hlo hhi hg hop hnt hnf, ?_, fun r h => getU_setU_other _ _ h, fun vd h => absurd h (hnt vd),
      fun va l h => absurd h (hnf va l), fun _ _ hud => ⟨setU_v _ _ _, getU_setU_self _ _ hud⟩⟩
    rw [setU_frame]
    rfl

/-- Settles O3: a conversion writes one register and GSTAT; a uniform operation moves to lanes, from a lane, or computes. -/
theorem uniformAndConvert : Obligations.UniformAndConvert := ⟨cvtScalarLanes, uniformResult⟩

end Sys2Proof.Proofs
end

section
/-! Device accesses of a ready group (R145, R153, R267): the checks at issue where every lane is admitted to HBM, and the requests that the group
sends. -/
namespace Sys2Proof.Proofs

open Sys2Proof.Machine Sys2Proof.Laws

/-! ## Issue -/

/-- A memory instruction whose fields and registers are in order, and that some lane executes, has its effect. -/
theorem memIssue_eq {s : State} {c g : Nat} {w : W64} {ok : Bool} {regs : List (Nat × Nat)} {eff : State → State} (h : ready s c g w) (hok : ok = true)
    (hregs : ∀ r ∈ regs, inAlloc (group s c g) r.1 r.2 = true) (hg : guardLanes (group s c g) w ≠ 0) :
    memIssue c g w ok regs eff s = pmc (eff s) c 2 1 := by
  have hany : (regs.any fun r => !inAlloc (group s c g) r.1 r.2) = false := by simpa using hregs
  exact issue_eq h (by simp only [hok, hany, if_neg hg]; rfl)

/-- The registers that a lane access names lie within the allocation when the data's and the address's do. -/
theorem inAlloc_addrRegs {k : Group} {w : W64} {r n : Nat} (hd : inAlloc k r n = true) (ha : bitN (mMOD w) 0 = false → inAlloc k (mVA w) 1 = true) :
    ∀ x ∈ (r, n) :: addrRegs w, inAlloc k x.1 x.2 = true := by
  rw [addrRegs]
  rcases hb : bitN (mMOD w) 0 <;> simp [hd, ha, hb]

theorem lanesOf_ne_nil {m : W32} (h : m ≠ 0) : lanesOf m ≠ [] := by
  obtain ⟨i, hi⟩ := Nat.exists_testBit_of_ne_zero fun h0 => h (BitVec.eq_of_toNat_eq h0)
  have hlt : i < 32 := by
    by_contra hn
    rw [Nat.testBit_eq_false_of_lt (lt_of_lt_of_le m.isLt (Nat.pow_le_pow_right (by decide) (by omega)))] at hi
    exact Bool.false_ne_true hi
  exact List.ne_nil_of_mem ((mem_lanesOf m i).2 ⟨hlt, by rw [bitN_eq_testBit, hi]⟩)

theorem laneAddrs_ne_nil {k : Group} {w : W64} (h : guardLanes k w ≠ 0) (local' : Bool) : laneAddrs k w local' ≠ [] := by
  simpa [laneAddrs] using lanesOf_ne_nil h

/-! ## Lines of lanes -/

/-- One more lane adds its line unless that is listed. -/
theorem laneLines_append (la : List (Nat × Nat)) (x : Nat × Nat) : laneLines (la ++ [x]) =
    if (laneLines la).any (fun e => e.1 == lineOf x.2) then laneLines la else laneLines la ++ [(lineOf x.2, x.2)] := by
  rw [laneLines, List.foldl_append]
  rfl

/-- Each line is listed with the address of a lane that touches it. -/
theorem mem_laneLines {la : List (Nat × Nat)} {e : Nat × Nat} (h : e ∈ laneLines la) : ∃ x ∈ la, e = (lineOf x.2, x.2) := by
  induction la using List.reverseRecOn with
  | nil => simp [laneLines] at h
  | append_singleton la y ih =>
    have hold : e ∈ laneLines la → ∃ x ∈ la ++ [y], e = (lineOf x.2, x.2) := fun he => by
      obtain ⟨x, hx, rfl⟩ := ih he
      exact ⟨x, List.mem_append_left _ hx, rfl⟩
    rw [laneLines_append] at h
    split at h
    · exact hold h
    · rcases List.mem_append.1 h with h | h
      · exact hold h
      · exact ⟨y, by simp, List.mem_singleton.1 h⟩

/-- Every lane's line is listed. -/
theorem lineOf_mem_laneLines {la : List (Nat × Nat)} {x : Nat × Nat} (h : x ∈ la) : lineOf x.2 ∈ (laneLines la).map (·.1) := by
  induction la using List.reverseRecOn with
  | nil => simp at h
  | append_singleton la y ih =>
    rw [laneLines_append]
    rcases List.mem_append.1 h with h | h
    · split
      · exact ih h
      · rw [List.map_append]
        exact List.mem_append_left _ (ih h)
    · obtain rfl := List.mem_singleton.1 h
      split
      · rename_i hany
        simpa using hany
      · simp

/-! ## Admission (R304, R520, R574) -/

/-- The entries of lanes whose lines all are admitted to HBM. -/
def hbmEntries (la : List (Nat × Nat)) : List (Nat × Entry) := (laneLines la).map (fun e => (e.1, .hbm))

theorem entryFor_hbmEntries {la : List (Nat × Nat)} {l : Nat} (h : l ∈ (laneLines la).map (·.1)) : entryFor (hbmEntries la) l = .hbm := by
  unfold entryFor
  split
  · rename_i e he
    obtain ⟨_, -, rfl⟩ := List.mem_map.1 (List.mem_of_find?_eq_some he)
    rfl
  · rename_i hnone
    obtain ⟨e, he, rfl⟩ := List.mem_map.1 h
    exact absurd (beq_self_eq_true e.1) (List.find?_eq_none.1 hnone (e.1, .hbm) (List.mem_map_of_mem he))

theorem entryFor_lane {la : List (Nat × Nat)} {x : Nat × Nat} (h : x ∈ la) : entryFor (hbmEntries la) (lineOf x.2) = .hbm :=
  entryFor_hbmEntries (lineOf_mem_laneLines h)

/-- Lines that are admitted without an event leave the state alone. -/
theorem checkEntries_hbm {s : State} {c : Nat} {label : Byte} {rd wr : Bool} {lines : List (Nat × Nat)}
    (h : ∀ e ∈ lines, cellEntry s c label e.2 rd wr = (s, .hbm)) : checkEntries s c label rd wr lines = (s, lines.map (fun e => (e.1, .hbm))) := by
  induction lines with
  | nil => rfl
  | cons e t ih =>
    rw [checkEntries, h e List.mem_cons_self]
    simp only [ih fun x hx => h x (List.mem_cons_of_mem _ hx)]
    rfl

theorem alignFaults_nil {la : List (Nat × Nat)} {n : Nat} (aspace : Nat → Nat) (h : ∀ x ∈ la, x.2 % n = 0) : alignFaults la n aspace = [] := by
  have : la.filter (fun x => x.2 % n != 0) = [] := List.filter_eq_nil_iff.2 fun x hx => by simp [h x hx]
  rw [alignFaults, this, List.map_nil]

section
variable {s : State} {c g : Nat} {w : W64} {n kinds : Nat} {rd wr : Bool}

/-- The lines of an admitted access are admitted. -/
theorem checkEntries_of_deviceOk (h : deviceOk s c g w n kinds rd wr) :
    checkEntries s c (cellLabel s (group s c g).label) rd wr (laneLines (laneAddrs (group s c g) w false)) =
      (s, hbmEntries (laneAddrs (group s c g) w false)) :=
  checkEntries_hbm fun e he => by
    obtain ⟨x, hx, rfl⟩ := mem_laneLines he
    exact (h.1 x hx).2

/-- An admitted posted write goes on with every lane. -/
theorem storeEntry_of_deviceOk (h : deviceOk s c g w n kinds false true) :
    storeEntry s c g kinds n (laneAddrs (group s c g) w false) =
      (s, some (laneAddrs (group s c g) w false, hbmEntries (laneAddrs (group s c g) w false))) := by
  have hcheck := checkEntries_of_deviceOk h
  obtain ⟨hlanes, hwatch⟩ := h
  simp only [storeEntry, alignFaults_nil _ fun x hx => (hlanes x hx).1, hwatch, hcheck]
  rw [List.filter_eq_self.2 fun x hx => by rw [entryFor_lane hx], if_pos rfl]

/-- An admitted load or atomic goes on. -/
theorem loadEntry_of_deviceOk (h : deviceOk s c g w n kinds rd wr) :
    loadEntry s c g kinds n (laneAddrs (group s c g) w false) rd wr = (s, some (hbmEntries (laneAddrs (group s c g) w false))) := by
  have hcheck := checkEntries_of_deviceOk h
  obtain ⟨hlanes, hwatch⟩ := h
  have hfaults : entryFaults s (laneAddrs (group s c g) w false) (hbmEntries (laneAddrs (group s c g) w false)) = [] :=
    List.filterMap_eq_nil_iff.2 fun x hx => by rw [entryFor_lane hx]
  have hall : (laneAddrs (group s c g) w false).filter (fun x => !([] : List LaneFault).any (fun f => f.lane == x.1)) =
      laneAddrs (group s c g) w false := List.filter_eq_self.2 fun _ _ => rfl
  simp only [loadEntry, alignFaults_nil _ fun x hx => (hlanes x hx).1, hall, hcheck, hfaults, List.append_nil, hwatch]

end

/-! ## Requests that a group sends (R145, R153, R267) -/

/-- From `s` to `t` the requests `new` join those that wait for their slices; the HBM, the slices, the part and the queue of commands stay. -/
structure Requests (s t : State) (new : List Req) : Prop where
  reqs : t.reqs = s.reqs ++ new
  hbm : t.hbm = s.hbm
  slices : t.slices = s.slices
  part : t.part = s.part
  pending : t.pending = s.pending

/-- Requests that are sent while every cell stays as it is. -/
structure Asks (s t : State) (new : List Req) : Prop extends Requests s t new where
  cells : t.cells = s.cells

/-- Requests of a group that are posted: it counts each as outstanding, and goes on. -/
structure Posts (s t : State) (c g : Nat) (new : List Req) : Prop extends Requests s t new where
  group : Machine.group t c g = { Machine.group s c g with outD := (Machine.group s c g).outD ++ new.map (·.id) }

section
variable {s t u : State} {c g : Nat} {a b : List Req}

theorem Requests.refl : Requests s s [] := ⟨by simp, rfl, rfl, rfl, rfl⟩

theorem Requests.trans (h : Requests s t a) (k : Requests t u b) : Requests s u (a ++ b) where
  reqs := by rw [k.reqs, h.reqs, List.append_assoc]
  hbm := k.hbm.trans h.hbm
  slices := k.slices.trans h.slices
  part := k.part.trans h.part
  pending := k.pending.trans h.pending

theorem Asks.refl : Asks s s [] := ⟨.refl, rfl⟩

theorem Asks.trans (h : Asks s t a) (k : Asks t u b) : Asks s u (a ++ b) := ⟨h.toRequests.trans k.toRequests, k.cells.trans h.cells⟩

theorem Posts.refl : Posts s s c g [] := ⟨.refl, by simp⟩

theorem Posts.trans (h : Posts s t c g a) (k : Posts t u c g b) : Posts s u c g (a ++ b) where
  toRequests := h.toRequests.trans k.toRequests
  group := by rw [k.group, h.group, List.map_append, List.append_assoc]

/-- Writing a group's record sends nothing. -/
theorem Requests.setGroup (h : Requests s t a) (c g : Nat) (v : Group) : Requests s (setGroup t c g v) a :=
  ⟨h.reqs, h.hbm, h.slices, h.part, h.pending⟩

/-- Counting an event sends nothing. -/
theorem Requests.pmc (h : Requests s t a) (c ev n : Nat) : Requests s (pmc t c ev n) a :=
  ⟨by rw [pmc_reqs, h.reqs], by rw [pmc_hbm, h.hbm], by rw [pmc_slices, h.slices], by rw [pmc_part, h.part], by rw [pmc_pending, h.pending]⟩

theorem nextPc_eq : nextPc s c g = setGroup s c g (advanced (group s c g)) := rfl

end

/-- The request that a group's network interface sends for a line of HBM. -/
def niRequest (s : State) (src : Src) (label : Byte) (wins : W32) (line : Nat) (op : ReqOp) : Req :=
  { id := s.nextId, src := src, line := line, op := op, label := label, part := labelPart label, ingress := false, wins := wins }

section
variable {s : State} {c g : Nat}

theorem asks_niSend (src : Src) (label : Byte) (wins : W32) (line : Nat) (op : ReqOp) :
    Asks s (niSend s c src label wins line op).1 [niRequest s src label wins line op] :=
  ⟨⟨by simp [niSend, sendReq, newId, niRequest], by simp [niSend, sendReq, newId], by simp [niSend, sendReq, newId],
    by simp [niSend, sendReq, newId], by simp [niSend, sendReq, newId]⟩, by simp [niSend, sendReq, newId]⟩

theorem group_of_cells {t : State} (h : t.cells = s.cells) (c g : Nat) : group t c g = group s c g := by
  rw [group, cell, h]
  rfl

theorem posts_sendOp (line : Nat) (op : ReqOp) : ∃ q, Posts s (sendOp s c g line op) c g [q] ∧ q.line = line ∧ q.op = op := by
  have hask := asks_niSend (s := s) (c := c) (.group c g) (cellLabel s (group s c g).label) (winsOf s (group s c g).lead) line op
  refine ⟨_, ⟨hask.toRequests.setGroup c g _, ?_⟩, rfl, rfl⟩
  simp only [sendOp, addOut, group_setGroup_self, group_of_cells hask.cells]
  rfl

/-- Posted requests for each element of a list, in its order. -/
theorem posts_foldl {α : Type} (line : α → Nat) (op : α → ReqOp) (l : List α) :
    ∃ new, Posts s (l.foldl (fun s x => sendOp s c g (line x) (op x)) s) c g new ∧
      new.map (fun q => (q.line, q.op)) = l.map (fun x => (line x, op x)) := by
  induction l generalizing s with
  | nil => exact ⟨[], .refl, rfl⟩
  | cons x t ih =>
    obtain ⟨q, hq, hline, hop⟩ := posts_sendOp (s := s) (c := c) (g := g) (line x) (op x)
    obtain ⟨new, hnew, hmap⟩ := ih (s := sendOp s c g (line x) (op x))
    exact ⟨q :: new, hq.trans hnew, by rw [List.map_cons, List.map_cons, hmap, hline, hop]⟩

end

end Sys2Proof.Proofs
end

section
/-! ATD, REDW, REDF and REDX to HBM (O13: R67, R79, R145). -/
namespace Sys2Proof.Proofs

open Sys2Proof.Machine Sys2Proof.Laws

/-! ## Atomics -/

/-- The atomic of a lane: a fetch-add of the value of VDS, or a compare-and-swap that stores the value of VDS + 2. -/
def atomicOp (k : Group) (w : W64) (cas : Bool) (x : Nat × Nat) : ReqOp :=
  .atd cas [(x.2 % 256 / 8, BitVec.ofNat 64 (laneValue k (mVDS w) 8 x.1), if cas then BitVec.ofNat 64 (laneValue k (mVDS w + 2) 8 x.1) else 0)] 0

/-- Every lane whose line is admitted to HBM sends its atomic, and its request is awaited. -/
theorem asks_sendAtoms {c g : Nat} {w : W64} {cas : Bool} {k : Group} {es : List (Nat × Entry)} {la : List (Nat × Nat)}
    (h : ∀ x ∈ la, entryFor es (lineOf x.2) = .hbm) (s : State) :
    ∃ new, Asks s (sendAtoms s c g w cas k es la).1 new ∧
      new.map (fun q => (q.line, q.op)) = la.map (fun x => (lineOf x.2, atomicOp k w cas x)) ∧
      (sendAtoms s c g w cas k es la).2.length = la.length := by
  induction la generalizing s with
  | nil => exact ⟨[], .refl, rfl, rfl⟩
  | cons x t ih =>
    have hask := asks_niSend (s := s) (c := c) (.group c g) (cellLabel s k.label) (winsOf s k.lead) (lineOf x.2) (atomicOp k w cas x)
    obtain ⟨new, hnew, hmap, hlen⟩ := ih (fun y hy => h y (List.mem_cons_of_mem _ hy))
      (niSend s c (.group c g) (cellLabel s k.label) (winsOf s k.lead) (lineOf x.2) (atomicOp k w cas x)).1
    simp only [sendAtoms, h x List.mem_cons_self]
    exact ⟨_ :: new, hask.trans hnew, congrArg (List.cons _) hmap, congrArg (· + 1) hlen⟩

/-- A running group that has requests out waits for them, and stays running until it needs their data. -/
theorem awaitMem_running {s : State} {c g : Nat} {a : AwaitMem} (h : a.ids ≠ []) (hst : (group s c g).st = .run) :
    awaitMem s c g a false = setGroup s c g { group s c g with await := .mem { a with born := s.time.toNat } } := by
  rw [awaitMem, if_neg (by simpa using h), if_neg Bool.false_ne_true, ← hst]

theorem st_of_ready {s : State} {c g : Nat} {w : W64} (h : ready s c g w) : (group s c g).st = .run := by
  have := h.2.1
  simp only [canIssue, Bool.and_eq_true, beq_iff_eq] at this
  exact this.1.1.1.2

section
variable {s : State} {c g : Nat} {w : W64} (hr : ready s c g w)
  (hva : bitN (mMOD w) 0 = false → inAlloc (group s c g) (mVA w) 1 = true) (hg : guardLanes (group s c g) w ≠ 0)
include hr hva hg

theorem atd_eq {cas : Bool} (hsize : mSIZE w = 3) (hmod : modOnly w 5 = true)
    (hvd : inAlloc (group s c g) (mVDS w) (if cas then 4 else 2) = true) (hd : deviceOk s c g w 8 6 true true) :
    let la := laneAddrs (group s c g) w false
    let sent := sendAtoms s c g w cas (group s c g) (hbmEntries la) la
    atd c g w cas s = pmc (awaitMem sent.1 c g ⟨3, mVDS w, 8, la, sent.2, [], 0⟩ false) c 2 1 := by
  rw [atd, memIssue_eq hr (by simp [hsize, hmod]) (inAlloc_addrRegs hvd hva) hg]
  simp only [loadEntry_of_deviceOk hd]

/-- ATD sends its atomics and waits. -/
theorem atd_asks {cas ok : Bool} (hok : ok = true) (hsize : mSIZE w = 3) (hmod : modOnly w 5 = true)
    (hvd : inAlloc (group s c g) (mVDS w) (if cas then 4 else 2) = true) (hd : deviceOk s c g w 8 6 true true) :
    ∃ t a new, run ok s (atd c g w cas) = .next t ∧ Requests s t new ∧
      new.map (fun q => (q.line, q.op)) = (laneAddrs (group s c g) w false).map (fun x => (lineOf x.2, atomicOp (group s c g) w cas x)) ∧
      group t c g = { group s c g with await := .mem a } ∧ a.kind = 3 ∧ a.vd = mVDS w ∧ a.lanes = laneAddrs (group s c g) w false := by
  obtain ⟨new, hask, hmap, hlen⟩ := asks_sendAtoms (c := c) (g := g) (w := w) (cas := cas) (k := group s c g)
    (fun x (hx : x ∈ laneAddrs (group s c g) w false) => entryFor_lane hx) s
  have hids := List.ne_nil_of_length_pos (hlen ▸ List.length_pos_iff.2 (laneAddrs_ne_nil hg false))
  have hreq (v : Group) := (hask.toRequests.setGroup c g v).pmc c 2 1
  have hst : (group (sendAtoms s c g w cas (group s c g) (hbmEntries _) _).1 c g).st = .run :=
    (congrArg Group.st (group_of_cells hask.cells c g)).trans (st_of_ready hr)
  rw [run_eq hok hr.1, atd_eq hr hva hg hsize hmod hvd hd, awaitMem_running hids hst, group_of_cells hask.cells c g,
    done_eq (hreq _).part (hreq _).pending]
  exact ⟨_, _, new, rfl, hreq _, hmap, (pmc_group ..).trans (group_setGroup_self ..), rfl, rfl, rfl⟩

end

/-! ## Contributions -/

theorem anchor_eq (u : W64) : BitVec.ofNat 16 (u.toNat % 65536) = u.setWidth 16 := by
  apply BitVec.eq_of_toNat_eq
  simp

/-- The contribution of the lanes that target line `l`: each lane's value, rounded once at the anchor of u[VA[4:0]] (R67). -/
def contribution (k : Group) (w : W64) (la : List (Nat × Nat)) (l : Nat) : ReqOp :=
  .addW ((getU k (mVA w % 32)).setWidth 16) ((la.filter (fun y => lineOf y.2 == l)).map (fun y =>
    (redwVal (signed 16 ((getU k (mVA w % 32)).toNat % 65536)) (getV k (mVDS w) y.1) (y.2 % 256 / 16)).1))

/-- The group with the numeric status of its lanes' values collected in GSTAT (R79). -/
def statusCollected (k : Group) (w : W64) : Group :=
  orGstat k ((laneAddrs k w false).foldl (fun m x =>
    m ||| (redwVal (signed 16 ((getU k (mVA w % 32)).toNat % 65536)) (getV k (mVDS w) x.1) 0).2) 0)

theorem gstat_statusCollected (k : Group) (w : W64) {j : Nat} (hj : j < 64) : bitN (statusCollected k w).gstat.toNat j =
    (bitN k.gstat.toNat j || (List.range 32).any fun l => bitN (guardLanes k w).toNat l &&
      bitN (redwVal (signed 16 ((getU k (mVA w % 32)).toNat % 65536)) (getV k (mVDS w) l) 0).2 j) := by
  rw [statusCollected, laneAddrs, List.foldl_map]
  exact bitN_gstat_collected k _ _ hj

section
variable {s : State} {c g : Nat} {w : W64} (hr : ready s c g w)
  (hva : bitN (mMOD w) 0 = false → inAlloc (group s c g) (mVA w) 1 = true) (hg : guardLanes (group s c g) w ≠ 0)
  (hvd : inAlloc (group s c g) (mVDS w) 1 = true)
include hr hva hg hvd

theorem redw_eq (hsize : mSIZE w = 4) (hmod : modOnly w 1 = true) (hd : deviceOk s c g w 16 1 false true) :
    let la := laneAddrs (group s c g) w false
    redw c g w s = pmc (nextPc ((laneLines la).foldl (fun t x => sendOp t c g x.1 (contribution (group s c g) w la x.1))
      (setGroup s c g (statusCollected (group s c g) w))) c g) c 2 1 := by
  rw [redw, memIssue_eq hr (by simp [hsize, hmod]) (inAlloc_addrRegs hvd hva) hg]
  simp only [storeEntry_of_deviceOk hd]
  rw [List.foldl_ext _ _ _ fun t x hx => by rw [entryFor_hbmEntries (List.mem_map_of_mem hx), anchor_eq]]
  rfl

theorem redLanes_eq {ok : Bool} {code : Nat} {mk : List (Nat × W32 × Bool) → ReqOp} (hok : ok = true) (hsize : mSIZE w = 2)
    (hd : deviceOk s c g w 4 1 false true) : redLanes c g w ok code mk s =
      pmc (nextPc ((laneAddrs (group s c g) w false).foldl (fun t x =>
        sendOp t c g (lineOf x.2) (mk [(x.2 % 256 / 4, getV (group s c g) (mVDS w) x.1, false)])) s) c g) c 2 1 := by
  rw [redLanes, memIssue_eq hr (by simp [hsize, hok]) (inAlloc_addrRegs hvd hva) hg]
  simp only [storeEntry_of_deviceOk hd]
  rw [List.foldl_ext _ _ _ fun t x hx => by rw [entryFor_lane hx]]

/-- REDW collects the status of its values, posts a contribution for each line and goes on. -/
theorem redw_posts {ok : Bool} (hok : ok = true) (hsize : mSIZE w = 4) (hmod : modOnly w 1 = true) (hd : deviceOk s c g w 16 1 false true) :
    ∃ t new, run ok s (redw c g w) = .next t ∧ Requests s t new ∧
      new.map (fun q => (q.line, q.op)) = (laneLines (laneAddrs (group s c g) w false)).map (fun x =>
        (x.1, contribution (group s c g) w (laneAddrs (group s c g) w false) x.1)) ∧
      group t c g = advanced { statusCollected (group s c g) w with outD := (group s c g).outD ++ new.map (·.id) } := by
  obtain ⟨new, hpost, hmap⟩ := posts_foldl (s := setGroup s c g (statusCollected (group s c g) w)) (c := c) (g := g) (fun x => x.1)
    (fun x => contribution (group s c g) w (laneAddrs (group s c g) w false) x.1) (laneLines (laneAddrs (group s c g) w false))
  have hreq (v : Group) := (((Requests.refl (s := s)).setGroup c g _).trans hpost.toRequests |>.setGroup c g v).pmc c 2 1
  rw [run_eq hok hr.1, redw_eq hr hva hg hvd hsize hmod hd, nextPc_eq, done_eq (hreq _).part (hreq _).pending]
  refine ⟨_, new, rfl, hreq _, hmap, ?_⟩
  rw [pmc_group, group_setGroup_self, hpost.group, group_setGroup_self]
  rfl

/-- REDF and REDX post the word of each lane and go on. -/
theorem redLanes_posts {sel ok : Bool} {code : Nat} {mk : List (Nat × W32 × Bool) → ReqOp} (hsel : sel = true) (hok : ok = true)
    (hsize : mSIZE w = 2) (hd : deviceOk s c g w 4 1 false true) :
    ∃ t new, run sel s (redLanes c g w ok code mk) = .next t ∧ Requests s t new ∧
      new.map (fun q => (q.line, q.op)) = (laneAddrs (group s c g) w false).map (fun x =>
        (lineOf x.2, mk [(x.2 % 256 / 4, getV (group s c g) (mVDS w) x.1, false)])) ∧
      group t c g = advanced { group s c g with outD := (group s c g).outD ++ new.map (·.id) } := by
  obtain ⟨new, hpost, hmap⟩ := posts_foldl (s := s) (c := c) (g := g) (fun x : Nat × Nat => lineOf x.2)
    (fun x => mk [(x.2 % 256 / 4, getV (group s c g) (mVDS w) x.1, false)]) (laneAddrs (group s c g) w false)
  have hreq (v : Group) := (hpost.toRequests.setGroup c g v).pmc c 2 1
  rw [run_eq hsel hr.1, redLanes_eq hr hva hg hvd hok hsize hd, nextPc_eq, done_eq (hreq _).part (hreq _).pending]
  refine ⟨_, new, rfl, hreq _, hmap, ?_⟩
  rw [pmc_group, group_setGroup_self, hpost.group]

end

/-! ## The obligation -/

theorem atomicsRequest : Claims.AtomicsRequest := by
  intro s c g w cas hr hop hsize hmod hcas hvd hva hg hd
  have hexec : exec (if cas then .atdCompareSwap c g w else .atdFetchAdd c g w) s = run true s (atd c g w cas) := by
    cases cas
    · exact congrArg (run · s (atd c g w false)) (by simp [hop, hcas])
    · exact congrArg (run · s (atd c g w true)) (by simp [hop, hcas])
  obtain ⟨t, a, new, ht, hreq, hmap, hgroup, hkind, hdest, hlanes⟩ := atd_asks (cas := cas) hr hva hg rfl hsize hmod hvd hd
  exact ⟨t, a, new, hexec.trans ht, hreq.reqs, hmap, hgroup, hkind, hdest, hlanes, hreq.hbm, hreq.slices⟩

theorem reductionsPost : Claims.ReductionsPost := by
  intro s c g w hr hvd hva hg
  refine ⟨fun hop hsize hmod hd => ?_, fun i mk hi hsize hd => ?_⟩
  · obtain ⟨t, new, ht, hreq, hmap, hgroup⟩ := redw_posts hr hva hg hvd (beq_iff_eq.2 hop) hsize hmod hd
    refine ⟨t, new, ht, hreq.reqs, ?_, fun q hq => ?_, (congrArg Group.outD hgroup :), (congrArg Group.pc hgroup :),
      (congrArg Group.v hgroup :), (congrArg Group.u hgroup :), fun j hj => ?_, hreq.hbm, hreq.slices⟩
    · simpa [Function.comp_def] using congrArg (List.map Prod.fst) hmap
    · obtain ⟨x, -, hx⟩ := List.mem_map.1 (hmap ▸ List.mem_map_of_mem hq)
      obtain ⟨hline, hop⟩ := Prod.mk.inj hx
      rw [← hop, ← hline]
      rfl
    · rw [hgroup]
      exact gstat_statusCollected _ w hj
  · have hrun : ∃ sel ok code, exec i s = run sel s (redLanes c g w ok code mk) ∧ sel = true ∧ ok = true := by
      rcases hi with ⟨rfl, rfl, hop, hmod⟩ | ⟨rfl, rfl, hop, hmod, hmin⟩ | ⟨rfl, rfl, hop, hmod, hmin⟩
      · exact ⟨_, _, _, rfl, by simp [hop], hmod⟩
      · exact ⟨_, _, _, rfl, by simp [hop, hmin], hmod⟩
      · exact ⟨_, _, _, rfl, by simp [hop, hmin], hmod⟩
    obtain ⟨sel, ok, code, hexec, hsel, hok⟩ := hrun
    obtain ⟨t, new, ht, hreq, hmap, hgroup⟩ := redLanes_posts hr hva hg hvd hsel hok hsize hd
    exact ⟨t, new, hexec.trans ht, hreq.reqs, hmap, hgroup, hreq.hbm, hreq.slices⟩

/-- Settles O13: each access is admitted, so that every lane, or every line of REDW, sends its request. -/
theorem atomicsAndReductions : Obligations.AtomicsAndReductions := ⟨atomicsRequest, reductionsPost⟩

end Sys2Proof.Proofs
end

section
/-! MXI, MXW, CPD and CPL (O15: R97, R105, R106, R142, R147). -/
namespace Sys2Proof.Proofs

open Sys2Proof.Machine Sys2Proof.Laws

/-! ## Instructions that queue an operation under a token -/

/-- A group's record with a token set. -/
def withToken (k : Group) (t : Nat) (v : Token) : Group := { k with tokens := mset {} k.tokens t v }

theorem token_withToken (k : Group) (t : Nat) (v : Token) (j : Nat) : token (withToken k t v) j = if j = t then v else token k j :=
  mget_mset ..

theorem token_advanced (k : Group) (j : Nat) : token (advanced k) j = token k j := rfl

theorem setToken_eq (s : State) (c g t : Nat) (v : Token) : setToken s c g t v = setGroup s c g (withToken (group s c g) t v) := rfl

/-- A cell with other groups. -/
def withGroups (k : Cell) (gs : List (Nat × Group)) : Cell := { k with groups := gs }

section
variable {s : State} {c g tk : Nat} {F : Cell → Cell} (hF : ∀ k gs, F (withGroups k gs) = withGroups (F k) gs)
include hF

/-- A change of a cell's units, which leaves its groups alone, after a write of a group that then goes to its next instruction. -/
theorem nextPc_setCell_setGroup (v : Group) : nextPc (setCell (setGroup s c g v) c (F (cell (setGroup s c g v) c))) c g =
    setCell s c (withGroups (F (cell s c)) (mset {} (cell s c).groups g (advanced v))) := by
  have hcell : F (cell (setGroup s c g v) c) = withGroups (F (cell s c)) (mset {} (cell s c).groups g v) := by
    rw [← hF]
    exact congrArg F (cell_setCell_self ..)
  rw [hcell, nextPc_eq]
  simp [setGroup, group, withGroups]

/-- An instruction that puts an operation into a queue of its cell, makes its token BUSY and goes on. -/
theorem run_queues {w : W64} {ok : Bool} {body : State → Option State} (hok : ok = true) (hr : ready s c g w)
    (hb : body s = some (nextPc (setCell (setToken s c g tk { st := 1 }) c (F (cell (setToken s c g tk { st := 1 }) c))) c g)) :
    ∃ t gs, run ok s (fun s => issue s c g w body) = .next t ∧ cell t c = withGroups (F (cell s c)) gs ∧
      group t c g = advanced (withToken (group s c g) tk { st := 1 }) ∧ t.hbm = s.hbm ∧ t.slices = s.slices := by
  rw [setToken_eq, nextPc_setCell_setGroup hF] at hb
  refine ⟨_, _, run_issue hok hr hb rfl rfl, (pmc_cell ..).trans (cell_setCell_self ..), ?_, pmc_hbm .., pmc_slices ..⟩
  rw [pmc_group, group, cell_setCell_self]
  exact mget_mset_self ..

end

/-- The tokens of a group that has gone on with one of them BUSY, and what stays of its record. -/
theorem group_of_queued {k v : Group} {tk : Nat} (h : v = advanced (withToken k tk { st := 1 })) :
    token v tk = { st := 1 } ∧ (∀ j, j ≠ tk → token v j = token k j) ∧
      v = { k with tokens := v.tokens, pc := (k.pc + 8) % 2 ^ 48, skipWatch := [] } := by
  subst h
  refine ⟨?_, fun j hj => ?_, rfl⟩
  · rw [token_advanced, token_withToken, if_pos rfl]
  · rw [token_advanced, token_withToken, if_neg hj]

/-! ## MXI -/

/-- A descriptor that the descriptor cache holds. -/
theorem readDesc_cached {s : State} {c a : Nat} {d : BitVec 512} (h : (cell s c).dcache.find? (fun e => e.1 == a / 64) = some (a / 64, d)) :
    readDesc s c a = (s, some d, 0) := by
  rw [readDesc, h]

/-- The operation that MXI queues. -/
def issuedOp (s : State) (c g : Nat) (d : BitVec 512) (serial : Nat) : MxOp :=
  { grp := g, token := dToken d, desc := d, label := (group s c g).label, lead := (group s c g).lead,
    bank := activeBank s (blockOfCell s c), compat := ssCompat s (blockOfCell s c), serial := serial }

theorem mxi_queues {s : State} {c g : Nat} {w : W64} {a : Nat} {d : BitVec 512} (hr : ready s c g w) (hg : guardLanes (group s c g) w ≠ 0)
    (hop : opc w = 0xC8) (h1 : ibits w 46 44 = 0) (h2 : ibits w 23 0 = 0) (hact : (group s c g).active = (group s c g).resident)
    (ha : a = ((getU (group s c g) (ibits w 51 47)).toNat + ibits w 43 24) % 2 ^ 20) (ha64 : a % 64 = 0) (hlm : a + 64 ≤ 0x80000)
    (hlen : (cell s c).ops.length < 4) (hc : (cell s c).dcache.find? (fun e => e.1 == a / 64) = some (a / 64, d))
    (hd : descFault d ((token (group s c g) (dToken d)).st != 0) (entryEmpty s (blockOfCell s c) (activeBank s (blockOfCell s c))) = none) :
    ∃ t gs, exec (.mxi c g w) s = .next t ∧ cell t c = withGroups { cell s c with
        ops := (cell s c).ops ++ [issuedOp s c g d (cell s c).serial], serial := (cell s c).serial + 1 } gs ∧
      group t c g = advanced (withToken (group s c g) (dToken d) { st := 1 }) ∧ t.hbm = s.hbm ∧ t.slices = s.slices := by
  subst ha
  refine run_queues (F := fun x => { x with ops := x.ops ++ [issuedOp s c g d x.serial], serial := x.serial + 1 }) (fun _ _ => rfl)
    (beq_iff_eq.2 hop) hr ?_
  have hfit : ¬((getU (group s c g) (ibits w 51 47)).toNat + ibits w 43 24) % 2 ^ 20 + 64 > lmSize := Nat.not_lt.2 hlm
  have hroom : ¬(cell s c).ops.length ≥ 4 := Nat.not_le.2 hlen
  simp only [h1, h2, groupWide_eq _ hg, ha64, hact, if_neg hfit, if_neg hroom, readDesc_cached hc, hd, ne_eq, not_true_eq_false,
    decide_false, Bool.or_false, Bool.false_eq_true, if_false]
  rfl

/-! ## MXW -/

/-- The record of a group once MXW has returned the word of a token that carries no fault (R106). -/
def returned (k : Group) (t ud : Nat) : Group :=
  advanced (withToken (setU { k with st := .run, await := .none } ud ((token k t).status.setWidth 64)) t {})

/-- An MXW that finds its token DONE without a fault returns its word. -/
theorem mxwFinish_done {s : State} {c g t ud : Nat} (hst : (token (group s c g) t).st = 2) (hf : fldW (token (group s c g) t).status 23 16 = 0) :
    mxwFinish s c g t ud = setGroup s c g (returned (group s c g) t ud) := by
  have htok : token { group s c g with st := .run, await := .none } t = token (group s c g) t := rfl
  simp only [mxwFinish, htok, hst, hf, retire_eq, setGroup_setGroup, ne_eq, not_true_eq_false, if_false, decide_true, Bool.true_or, if_true]
  rw [returned, withToken, setU_frame]
  rfl

section
variable {s : State} {c g : Nat} {w : W64} (hr : ready s c g w) (hg : guardLanes (group s c g) w ≠ 0)
  (hop : opc w = 0xC9) (h0 : ibits w 42 0 = 0) (hact : (group s c g).active = (group s c g).resident)
include hr hg hop h0 hact

/-- MXW on a BUSY token waits for it. -/
theorem mxw_busy (h : (token (group s c g) (ibits w 51 48)).st = 1) : exec (.mxw c g w) s =
    .next (pmc (setGroup s c g { group s c g with st := .wait, await := .mxw (ibits w 51 48) (ibits w 47 43) }) c 2 1) := by
  refine run_issue (beq_iff_eq.2 hop) hr ?_ rfl rfl
  simp [h0, groupWide_eq _ hg, hact, h]

/-- MXW on a DONE token without a fault goes on with its word. -/
theorem mxw_done (hst : (token (group s c g) (ibits w 51 48)).st = 2) (hf : fldW (token (group s c g) (ibits w 51 48)).status 23 16 = 0) :
    exec (.mxw c g w) s = .next (pmc (setGroup s c g (returned (group s c g) (ibits w 51 48) (ibits w 47 43))) c 2 1) := by
  refine run_issue (beq_iff_eq.2 hop) hr ?_ rfl rfl
  simp [h0, groupWide_eq _ hg, hact, hst, mxwFinish_done hst hf]

end

theorem returned_frame (k : Group) (t ud : Nat) : returned k t ud = { k with
    u := (returned k t ud).u, tokens := (returned k t ud).tokens, st := .run, await := .none, pc := (k.pc + 8) % 2 ^ 48, skipWatch := [] } := by
  rw [returned, setU_frame]
  rfl

theorem getU_returned (k : Group) (t ud j : Nat) :
    getU (returned k t ud) j = if j = ud ∧ ud ≠ 0 then (token k t).status.setWidth 64 else getU k j := getU_setU ..

theorem token_returned (k : Group) (t ud j : Nat) : token (returned k t ud) j = if j = t then {} else token k j := by
  rw [returned, token_advanced, token_withToken, setU_frame]
  rfl

/-! ## CPD and CPL -/

/-- The copy that CPD and CPL queue. -/
def issuedCopy (k : Group) (g : Nat) (w : W64) (cpd : Bool) : Copy :=
  { grp := g, token := ibits w 51 48, label := k.label, lead := k.lead, cpd := cpd, dev := (getU k (ibits w 47 43)).toNat % 2 ^ 48,
    loc := (getU k (ibits w 42 38)).toNat, lines := ibits w 37 27 + 1 }

theorem copy_queues {s : State} {c g : Nat} {w : W64} {cpd ok : Bool} (hok : ok = true) (hr : ready s c g w) (hg : guardLanes (group s c g) w ≠ 0)
    (h0 : ibits w 26 0 = 0) (htok : (token (group s c g) (ibits w 51 48)).st = 0)
    (hdev : (getU (group s c g) (ibits w 47 43)).toNat % 2 ^ 48 % 256 = 0) (hloc : (getU (group s c g) (ibits w 42 38)).toNat % 256 = 0)
    (hlm : (getU (group s c g) (ibits w 42 38)).toNat + 256 * (ibits w 37 27 + 1) ≤ 0x80000) (hlen : (cell s c).copies.length < 16) :
    ∃ t gs, run ok s (copyIssue c g w cpd) = .next t ∧
      cell t c = withGroups { cell s c with copies := (cell s c).copies ++ [issuedCopy (group s c g) g w cpd] } gs ∧
      group t c g = advanced (withToken (group s c g) (ibits w 51 48) { st := 1 }) ∧ t.hbm = s.hbm ∧ t.slices = s.slices := by
  refine run_queues (F := fun x => { x with copies := x.copies ++ [issuedCopy (group s c g) g w cpd] }) (fun _ _ => rfl) hok hr ?_
  have hfit : ¬(getU (group s c g) (ibits w 42 38)).toNat + 256 * (ibits w 37 27 + 1) > lmSize := Nat.not_lt.2 hlm
  have hroom : ¬(cell s c).copies.length ≥ 16 := Nat.not_le.2 hlen
  simp only [h0, groupWide_eq _ hg, htok, hdev, hloc, decide_eq_false hfit, if_neg hroom, ne_eq, not_true_eq_false,
    decide_false, Bool.or_false, Bool.false_eq_true, if_false]
  rfl

/-! ## The obligation -/

/-- Settles O15: MXI and the copies join a queue under a BUSY token; MXW takes the word of a DONE token, or waits for it. -/
theorem matrixAndCopyIssue : Obligations.MatrixAndCopyIssue := by
  intro s c g w hr hg
  refine ⟨fun a d hop h1 h2 hact ha ha64 hlm hlen hc hd => ?_, fun hop h0 hact => ⟨?_, mxw_busy hr hg hop h0 hact⟩,
    fun cpd hop h0 htok hdev hloc hlm hlen => ?_⟩
  · obtain ⟨t, gs, ht, hcell, hgroup, hhbm, hslices⟩ := mxi_queues hr hg hop h1 h2 hact ha ha64 hlm hlen hc hd
    obtain ⟨htok, hothers, hframe⟩ := group_of_queued hgroup
    exact ⟨t, _, ht, (congrArg Cell.ops hcell :), rfl, rfl, rfl, rfl, rfl, htok, hothers, hframe, (congrArg Cell.lm hcell :), hhbm, hslices⟩
  · rintro tk rfl hst hf
    refine ⟨_, mxw_done hr hg hop h0 hact hst hf, ?_, ?_, fun j hj => ?_, fun j hj => ?_, returned_frame ..⟩
    · rw [getU_returned]
      by_cases h : ibits w 47 43 = 0 <;> simp [h]
    · rw [token_returned, if_pos rfl]
    · rw [getU_returned, if_neg fun h => hj h.1]
    · rw [token_returned, if_neg hj]
  · have hexec : exec (if cpd then .cpd c g w else .cpl c g w) s = run true s (copyIssue c g w cpd) := by
      cases cpd
      · exact congrArg (run · s (copyIssue c g w false)) (by simp [hop])
      · exact congrArg (run · s (copyIssue c g w true)) (by simp [hop])
    obtain ⟨t, gs, ht, hcell, hgroup, hhbm, hslices⟩ := copy_queues (cpd := cpd) rfl hr hg h0 htok hdev hloc hlm hlen
    obtain ⟨htok', -, hframe⟩ := group_of_queued hgroup
    exact ⟨t, _, hexec.trans ht, (congrArg Cell.copies hcell :), rfl, rfl, rfl, rfl, rfl, rfl, rfl, rfl, htok', hframe,
      (congrArg Cell.lm hcell :), hhbm, hslices⟩

end Sys2Proof.Proofs
end

section
/-! Host software's commands to a cell (O24: R123, R154, R168, R172). -/
namespace Sys2Proof.Proofs

open Sys2Proof.Machine Sys2Proof.Laws

/-! ## A command that reaches its cell -/

theorem cell_of_cells {s t : State} (h : t.cells = s.cells) (c : Nat) : cell t c = cell s c := by rw [cell, h, cell]

theorem block_of_blocks {s t : State} (h : t.blocks = s.blocks) (b : Nat) : block t b = block s b := by rw [block, h, block]

/-- A command to a cell's page that reaches it has its effect. -/
theorem run_cellCmd {s : State} {secure ok : Bool} {c : Nat} (off : Nat) (f : State → State) (hok : ok = true) (h : reaches s secure .cell c) :
    run ok s (cellCmd secure c off f) = done s (f s) := by
  rw [run_eq hok h.1, cellCmd, hostCmd_eq _ _ h]

/-- CMD_STATUS after a command that is carried out (R172). -/
theorem cmdStatus_ok (s : State) (c g cmd : Nat) : cmdStatus s c g cmd 1 =
    setReg s .cell c o_CELL_CMD_STATUS (BitVec.ofNat 32 (g <<< 12 + cmd <<< 8 + 1)) := rfl

theorem reg_cmdStatus_ok (s : State) (c : Nat) {g cmd : Nat} (hg : g < 16) (hcmd : cmd < 16) :
    (reg (cmdStatus s c g cmd 1) .cell c o_CELL_CMD_STATUS).toNat = g * 4096 + (cmd * 256 + 1) := by
  rw [cmdStatus_ok, reg_setReg_self, BitVec.toNat_ofNat, Nat.shiftLeft_eq, Nat.shiftLeft_eq]
  omega

/-! ## REPLAY (R168, R172) -/

/-- The record of a parked group that runs again: a watchpoint that parked it does not fire at its next execution, a wait for a lock begins
anew, and where the record has DONE the group goes on after its instruction. -/
def replayed (k : Group) : Group :=
  let v := { k with st := .run, park := {}, skipWatch := if k.park.cause = cWATCH then k.park.detail :: k.skipWatch else k.skipWatch,
                    spin := if k.park.cause = cLOCK then 0 else k.spin }
  if k.park.done then advanced v else v

/-- A state whose cell `c` has lost its read-only caches where REPLAY asks for it. -/
def caught (inv : Bool) (s : State) (c : Nat) : State := if inv then invRo s c true true true else s

theorem replay_parked {s : State} {c g : Nat} (inv : Bool) (h : (group s c g).st = .parked) : replay c g inv s =
    cmdStatus (setGroup (caught inv s c) c g (replayed (group s c g))) c g 1 1 := by
  unfold replay replayed
  by_cases hd : (group s c g).park.done = true <;> by_cases hw : (group s c g).park.cause = cWATCH
  · simp [h, hd, hw, nextPc_eq, caught]
  · by_cases hl : (group s c g).park.cause = cLOCK <;> simp [h, hd, hw, hl, nextPc_eq, caught]
  · simp [h, hd, hw, caught]
  · by_cases hl : (group s c g).park.cause = cLOCK <;> simp [h, hd, hw, hl, caught]

/-- REPLAY of a parked group. -/
theorem exec_replay {s : State} {secure : Bool} {c g : Nat} (inv : Bool) (hr : reaches s secure .cell c) (hc : c < 1440) (hg : g < 16)
    (h : (group s c g).st = .parked) : exec (.replay secure c g inv) s =
      .next (cmdStatus (setGroup (caught inv s c) c g (replayed (group s c g))) c g 1 1) := by
  refine (run_cellCmd o_CELL_GROUP_CMD (replay c g inv) (by simp [hc, hg]) hr).trans ?_
  rw [replay_parked inv h]
  cases inv <;> exact done_eq rfl rfl

/-- The cell of a group that REPLAY runs again. -/
theorem cell_replay (s : State) (c g : Nat) (v : Group) :
    cell (cmdStatus (setGroup s c g v) c g 1 1) c = withGroups (cell s c) (mset {} (cell s c).groups g v) := cell_setCell_self ..

theorem cell_caught (s : State) (c : Nat) : cell (caught true s c) c = { cell s c with icache := [], ccache := [], dcache := [] } :=
  cell_setCell_self ..

/-- A group that parked for neither a lock nor a watchpoint. -/
theorem replayed_plain {k : Group} (hl : k.park.cause ≠ 5) (hw : k.park.cause ≠ 6) :
    replayed k = if k.park.done = true then { k with st := .run, park := {}, pc := (k.pc + 8) % 2 ^ 48, skipWatch := [] }
      else { k with st := .run, park := {} } := by
  rw [replayed, if_neg hl, if_neg hw]
  rfl

/-- A group that a watchpoint parked before its instruction. -/
theorem replayed_watch {k : Group} (hw : k.park.cause = 6) (hd : k.park.done = false) :
    replayed k = { k with st := .run, park := {}, skipWatch := k.park.detail :: k.skipWatch } := by
  simp [replayed, hw, hd]

/-! ## KILL (R122, R172) -/

/-- Steps that each leave the blocks alone do so together. -/
theorem blocks_foldl {α : Type} (f : State → α → State) (l : List α) (s : State) (h : ∀ s, ∀ x ∈ l, (f s x).blocks = s.blocks) :
    (l.foldl f s).blocks = s.blocks :=
  List.foldlRecOn (motive := fun t : State => t.blocks = s.blocks) l f rfl fun t ht x hx => (h t x hx).trans ht

theorem releaseLocks_blocks (s : State) (c g : Nat) (tell : Bool) : (releaseLocks s c g tell).blocks = s.blocks := by
  have hunlock : (unlockAll c g s).blocks = s.blocks := blocks_foldl _ _ s fun _ _ _ => rfl
  rw [releaseLocks_eq]
  split
  · exact (blocks_foldl _ _ _ fun t _ _ => raiseIrq_blocks t .cell c 1).trans hunlock
  · exact hunlock

/-- The cell of a killed group: its operations and copies are stopped, and its slot is FREE. -/
def killedCell (k : Cell) (g : Nat) : Cell := withGroups (killCopies (killOps k g) g) (mset {} k.groups g {})

section
variable {s : State} {c g : Nat} (h : (group s c g).st ≠ .free)
include h

theorem cell_killGroup : cell (killGroup s c g) c = killedCell (cell s c) g := by
  have hcell : cell (releaseLocks (haltGroup c g s) c g true) c = killCopies (killOps (cell s c) g) g :=
    (cell_of_cells (releaseLocks_cells ..) c).trans (cell_setCell_self ..)
  rw [killGroup_eq s h]
  exact (cell_setCell_self ..).trans (congrArg (fun x => withGroups x (mset {} x.groups g {})) hcell)

theorem group_killGroup (e : Nat) : group (killGroup s c g) c e = if e = g then {} else group s c e := by
  rw [group, cell_killGroup h]
  exact mget_mset {} (cell s c).groups g {} e

/-- Killing a group notes it in its run. -/
theorem killed_killGroup : (block (killGroup s c g) (group s c g).lead).run.killed = true := by
  rw [killGroup_eq s h]
  have hblock := (block_of_blocks (releaseLocks_blocks (haltGroup c g s) c g true) (group s c g).lead).trans (block_setBlock_self ..)
  exact congrArg (fun b : Block => b.run.killed) hblock

theorem exec_kill {secure : Bool} (hr : reaches s secure .cell c) (hc : c < 1440) (hg : g < 16) :
    exec (.kill secure c g) s = .next (cmdStatus (killGroup s c g) c g 2 1) := by
  have hdrops := drops_killGroup (P := fun _ => False) s c g
  refine (run_cellCmd o_CELL_GROUP_CMD (kill c g) (by simp [hc, hg]) hr).trans ?_
  rw [kill, if_neg h]
  exact done_eq hdrops.part hdrops.pending

end

/-! ## RO_INV and MX_CNT_CLR (R123, R154) -/

/-- The snapshot of a counter after a write of a counter of its page. -/
theorem ctr_setCtr (s : State) (k : PageKind) (i o x : Nat) (v : W64) : ctr (setCtr s k i o v) k i x = if x = o then v else ctr s k i x := by
  rw [ctr, setCtr, page_setPage_self]
  exact mget_mset ..

/-- Clearing counters of a cell changes its register page only, and each of them reads 0 while the others stay. -/
theorem clearCtrs (c : Nat) (l : List Nat) (s : State) :
    PagesOnly s (l.foldl (fun s o => clearCtr s .cell c o) s) ∧
      ∀ o, ctr (l.foldl (fun s o => clearCtr s .cell c o) s) .cell c o = if o ∈ l then 0 else ctr s .cell c o := by
  induction l generalizing s with
  | nil => exact ⟨PagesOnly.refl s, fun o => rfl⟩
  | cons x l ih =>
    obtain ⟨hpages, hctr⟩ := ih (clearCtr s .cell c x)
    refine ⟨(pagesOnly_setCtr s .cell c x 0).trans hpages, fun o => ?_⟩
    rw [List.foldl_cons, hctr, clearCtr, ctr_setCtr]
    by_cases hl : o ∈ l <;> by_cases hx : o = x <;> simp [hl, hx]

/-- Settles O24: REPLAY by the record of a group that runs again, KILL by the cell that it leaves, the counters one by one. -/
theorem cellCommands : Obligations.CellCommands := by
  intro s secure c g hr hc hg
  have hok : decide (c < 1440) = true := by simpa using hc
  refine ⟨fun hst hl hw => ?_, fun hst hw hd => ?_, fun hst => ?_, ?_, ?_, ?_, ?_⟩
  · refine ⟨_, exec_replay false hr hc hg hst, ?_, reg_cmdStatus_ok _ c hg (by decide), rfl, ?_⟩
    · exact (group_setGroup_self ..).trans (replayed_plain hl hw)
    · exact (congrArg Cell.icache (cell_replay s c g _) :)
  · have hcell := (cell_replay (caught true s c) c g (replayed (group s c g))).trans
      (congrArg (withGroups · _) (cell_caught s c))
    exact ⟨_, exec_replay true hr hc hg hst, (group_setGroup_self ..).trans (replayed_watch hw hd), (congrArg Cell.icache hcell :),
      (congrArg Cell.ccache hcell :), (congrArg Cell.dcache hcell :)⟩
  · refine ⟨_, exec_kill hst hr hc hg, (group_killGroup hst g).trans (if_pos rfl), reg_cmdStatus_ok _ c hg (by decide), killed_killGroup hst,
      fun e he => (group_killGroup hst e).trans (if_neg he), (congrArg Cell.lm (cell_killGroup hst) :), ?_⟩
    exact (drops_killGroup (P := fun _ => False) s c g).hbm
  · exact (run_cellCmd _ _ hok hr).trans (done_eq rfl rfl)
  · exact (run_cellCmd _ _ hok hr).trans (done_eq rfl rfl)
  · exact (run_cellCmd _ _ hok hr).trans (done_eq rfl rfl)
  · obtain ⟨hpages, hctr⟩ := clearCtrs c mxCounters s
    obtain ⟨hpart, hpending, hhbm, hcells, -⟩ := pagesOnly_fields hpages
    exact ⟨_, (run_cellCmd _ _ hok hr).trans (done_eq hpart hpending), fun o ho => (hctr o).trans (if_pos ho),
      fun o ho => (hctr o).trans (if_neg ho), hcells, hhbm⟩

end Sys2Proof.Proofs
end

section
/-! Work within a cell: what the matrix array reads and writes in local memory (O22: R59, R60, R71, R88, R116, R117, R119). -/
namespace Sys2Proof.Proofs

open Sys2Proof.Machine Sys2Proof.Laws

/-! ## Work that stays within cells -/

/-- A cell that differs in its local memory only. -/
def SameUnits (k k' : Cell) : Prop := k' = { k with lm := k'.lm, lmPois := k'.lmPois, lmSyn := k'.lmSyn }

/-- What work within cells leaves: all but register pages and cells. -/
def CellWork (s t : State) : Prop := t = { s with pages := t.pages, cells := t.cells }

/-- What work on the local memory of cell `c` leaves: all but register pages and, of the cell, that memory. -/
structure LmWork (c : Nat) (s t : State) : Prop where
  rest : CellWork s t
  units : SameUnits (cell s c) (cell t c)

theorem SameUnits.refl (k : Cell) : SameUnits k k := rfl

theorem SameUnits.trans {a b d : Cell} (h : SameUnits a b) (k : SameUnits b d) : SameUnits a d := by
  unfold SameUnits at *; rw [k, h]

theorem SameUnits.ops {k k' : Cell} (h : SameUnits k k') : k'.ops = k.ops := (congrArg Cell.ops h :)
theorem SameUnits.banks {k k' : Cell} (h : SameUnits k k') : k'.banks = k.banks := (congrArg Cell.banks h :)
theorem SameUnits.tile {k k' : Cell} (h : SameUnits k k') : k'.tile = k.tile := (congrArg Cell.tile h :)

section
variable {c : Nat} {s t u : State}

theorem CellWork.trans (h : CellWork s t) (k : CellWork t u) : CellWork s u := by unfold CellWork at *; rw [k, h]

theorem CellWork.part (h : CellWork s t) : t.part = s.part := (congrArg State.part h :)
theorem CellWork.pending (h : CellWork s t) : t.pending = s.pending := (congrArg State.pending h :)
theorem CellWork.hbm (h : CellWork s t) : t.hbm = s.hbm := (congrArg State.hbm h :)
theorem CellWork.reqs (h : CellWork s t) : t.reqs = s.reqs := (congrArg State.reqs h :)
theorem CellWork.fab (h : CellWork s t) : t.fab = s.fab := (congrArg State.fab h :)
theorem CellWork.slices (h : CellWork s t) : t.slices = s.slices := (congrArg State.slices h :)

theorem cellWork_of_pagesOnly (h : PagesOnly s t) : CellWork s t := by unfold PagesOnly at h; rw [h]; rfl

theorem cellWork_setCell (s : State) (c : Nat) (v : Cell) : CellWork s (setCell s c v) := rfl

theorem LmWork.refl : LmWork c s s := ⟨rfl, .refl _⟩
theorem LmWork.trans (h : LmWork c s t) (k : LmWork c t u) : LmWork c s u := ⟨h.rest.trans k.rest, h.units.trans k.units⟩

theorem lmWork_of_pagesOnly (h : PagesOnly s t) : LmWork c s t := by
  obtain ⟨-, -, -, hcells, -⟩ := pagesOnly_fields h
  refine ⟨cellWork_of_pagesOnly h, ?_⟩
  rw [cell_of_cells hcells]
  exact .refl _

end

/-! ## Reads and writes of local memory -/

section
variable (s : State) (c : Nat)

theorem lmWork_setLm (m : List (Nat × Byte)) (p : List (Nat × Bool)) (y : List (Nat × Byte)) :
    LmWork c s (setCell s c { cell s c with lm := m, lmPois := p, lmSyn := y }) :=
  ⟨rfl, by rw [cell_setCell_self]; rfl⟩

theorem lmWork_lmPut (w : Nat) (d : W64) (p : Bool) : LmWork c s (lmPut s c w d p) := by
  unfold lmPut
  dsimp only
  split
  · exact (lmWork_of_pagesOnly (pagesOnly_setF ..)).trans (lmWork_setLm _ c _ _ _)
  · exact lmWork_setLm s c _ _ _

theorem lmWork_lmGet (w : Nat) : LmWork c s (lmGet s c w).1 := by
  unfold lmGet
  dsimp only
  split
  · exact .refl
  · exact .refl
  · exact (lmWork_of_pagesOnly (pagesOnly_bump ..)).trans (lmWork_lmPut _ c _ _ _)
  · exact lmWork_of_pagesOnly ((pagesOnly_bump ..).trans (pagesOnly_raiseIrq ..))

theorem lmWork_lmRead (a n : Nat) : LmWork c s (lmRead s c a n).1 := by
  induction n with
  | zero => exact .refl
  | succ n ih =>
    unfold lmRead
    dsimp only
    split
    · exact ih.trans (lmWork_lmGet ..)
    · exact ih

theorem lmWork_lmStoreWord (w m : Nat) (d : W64) : LmWork c s (lmStoreWord s c w m d) := by
  unfold lmStoreWord
  split
  · exact lmWork_lmPut ..
  · exact (lmWork_lmGet ..).trans (lmWork_lmPut ..)

theorem lmWork_lmStore (a n v : Nat) : LmWork c s (lmStore s c a n v) := by
  unfold lmStore
  split
  · exact lmWork_lmStoreWord ..
  · exact (lmWork_lmStoreWord ..).trans (lmWork_lmStoreWord ..)

/-! ## Rows of operands -/

theorem lmWork_readBlock (m : MxFmt) (base b : Nat) : LmWork c s (readBlock s c m base b).1 := by
  unfold readBlock
  dsimp only
  split
  · exact ((lmWork_lmRead ..).trans (lmWork_lmRead ..)).trans (lmWork_lmRead ..)
  · exact (lmWork_lmRead ..).trans (lmWork_lmRead ..)

theorem lmWork_readBlocks (m : MxFmt) (base b n : Nat) : LmWork c s (readBlocks s c m base b n).1 := by
  induction n with
  | zero => exact .refl
  | succ n ih => exact ih.trans (lmWork_readBlock ..)

theorem lmWork_readRow (m : MxFmt) (base stride len row e0 n : Nat) : LmWork c s (readRow s c m base stride len row e0 n).1 := by
  unfold readRow
  split
  · exact lmWork_readBlocks ..
  · exact lmWork_lmRead ..

theorem lmWork_readScales (m : MxFmt) (base : Nat) (bs : List Nat) : LmWork c s (readScales s c m base bs).1 := by
  induction bs generalizing s with
  | nil => exact .refl
  | cons b bs ih => exact (lmWork_lmRead ..).trans (ih (lmRead s c (blockAt m base b).2 1).1)

theorem lmWork_scaleMax (m : MxFmt) (base rows len k : Nat) : LmWork c s (scaleMax s c m base rows len k).1 := by
  unfold scaleMax
  split
  · exact lmWork_readScales ..
  · exact .refl

theorem lmWork_scaleMaxes (m : MxFmt) (base rows len n : Nat) : LmWork c s (scaleMaxes s c m base rows len n).1 := by
  induction n with
  | zero => exact .refl
  | succ n ih => exact ih.trans (lmWork_scaleMax ..)

theorem lmWork_anchorOf (d : BitVec 512) : LmWork c s (anchorOf s c d).1 := by
  unfold anchorOf
  split
  · exact .refl
  · exact (lmWork_scaleMaxes ..).trans (lmWork_scaleMaxes ..)
  · exact .refl
  · exact .refl

theorem lmWork_fillCols (d : BitVec 512) (g : Tag) (n : Nat) : LmWork c s (fillCols s c d g n).1 := by
  induction n with
  | zero => exact .refl
  | succ n ih => exact ih.trans (lmWork_readRow ..)

theorem length_fillCols (d : BitVec 512) (g : Tag) (n : Nat) : (fillCols s c d g n).2.1.length = n := by
  induction n with
  | zero => rfl
  | succ n ih => exact (List.length_append ..).trans (congrArg (· + 1) ih)

theorem lmWork_preloadRow (o : MxOp) (ot rt r : Nat) : LmWork c s (preloadRow s c o ot rt r).1 := by
  unfold preloadRow
  dsimp only
  split
  · exact lmWork_lmRead ..
  · exact lmWork_readRow ..

theorem lmWork_preloadRows (o : MxOp) (ot rt n : Nat) : LmWork c s (preloadRows s c o ot rt n).1 := by
  induction n with
  | zero => exact .refl
  | succ n ih => exact ih.trans (lmWork_preloadRow ..)

theorem lmWork_putSmx (a : Nat) (p : Bool) (mu lam g : W32) : LmWork c s (putSmx s c a p mu lam g) := by
  unfold putSmx
  dsimp only
  split
  · exact (lmWork_lmPut ..).trans (lmWork_lmPut ..)
  · exact (lmWork_lmPut ..).trans (lmWork_lmStore ..)

theorem lmWork_functionRow (o : MxOp) (ot m : Nat) (p : Bool) (xs : List W32) : LmWork c s (functionRow s c o ot m p xs).1 := by
  unfold functionRow
  dsimp only
  split
  · exact .refl
  · split
    · exact lmWork_putSmx ..
    · exact (lmWork_lmRead ..).trans (lmWork_putSmx ..)

theorem lmWork_foldl {α : Type} (f : State → α → State) (l : List α) (h : ∀ s, ∀ x ∈ l, LmWork c s (f s x)) : LmWork c s (l.foldl f s) :=
  List.foldlRecOn l f .refl fun t ht x hx => ht.trans (h t x hx)

theorem lmWork_putLocal (p : Bool) (x : Nat × Nat × Nat) : LmWork c s (putLocal s c p x) := by
  unfold putLocal
  split
  · exact lmWork_lmStore ..
  · exact lmWork_foldl _ _ _ _ fun t i _ => lmWork_lmPut ..

end

end Sys2Proof.Proofs
end

section
/-! The matrix array's start, hold, fill, preload and beats (O22: R88, R90, R95, R105, R110, R111, R117). -/
namespace Sys2Proof.Proofs

open Sys2Proof.Machine Sys2Proof.Laws

/-! ## Commands of the array -/

section
variable {s : State} {c : Nat}

/-- An event of a cell that the part has, while nothing is frozen, has its effect. -/
theorem run_array {f : State → State} {u : State} (hr : inReset s = false) (ht : thawed s = true) (hp : present s .cell c = true) (h : f s = u) :
    run (present s .cell c && !cellFrozen s c) s f = done s u :=
  (run_eq (by simp [hp, cellFrozen_of_thawed ht]) hr).trans (congrArg (done s) h)

/-- An event that works within cells answers the state that it reaches. -/
theorem done_cellWork {u : State} (h : CellWork s u) : done s u = .next u := done_eq h.part h.pending

/-- Operations with one of them replaced, found by its serial number. -/
def replaceOp (l : List MxOp) (o : MxOp) : List MxOp := l.map fun x => if x.serial = o.serial then o else x

theorem cell_putOp (s : State) (c : Nat) (o : MxOp) : cell (putOp s c o) c = { cell s c with ops := replaceOp (cell s c).ops o } := by
  rw [putOp, cell_setCell_self]
  simp only [replaceOp, beq_iff_eq]

theorem ops_putOp (s : State) (c : Nat) (o : MxOp) : (cell (putOp s c o) c).ops = replaceOp (cell s c).ops o := congrArg Cell.ops (cell_putOp s c o)

theorem mem_replaceOp {l : List MxOp} {o o' : MxOp} (h : o ∈ l) (hs : o'.serial = o.serial) : o' ∈ replaceOp l o' :=
  List.mem_map.2 ⟨o, h, if_pos hs.symm⟩

/-! ## Start and hold (R95, R105, R110) -/

/-- The operation as it begins. -/
def begunOp (s : State) (c : Nat) (o : MxOp) : MxOp := { o with started := true, held := false, anchor := (anchorOf s c o.desc).2 }

theorem beginOp_eq (s : State) (c : Nat) (o : MxOp) : beginOp s c o = putOp (anchorOf s c o.desc).1 c (begunOp s c o) := rfl

theorem ops_beginOp (s : State) (c : Nat) (o : MxOp) : (cell (beginOp s c o) c).ops = replaceOp (cell s c).ops (begunOp s c o) := by
  rw [beginOp_eq, ops_putOp, (lmWork_anchorOf s c o.desc).units.ops]

theorem cellWork_beginOp (s : State) (c : Nat) (o : MxOp) : CellWork s (beginOp s c o) :=
  (lmWork_anchorOf s c o.desc).rest.trans (cellWork_setCell ..)

/-- After operations whose beats are done, the first that has not started is next. -/
theorem nextToStart_eq {k : Cell} {pre post : List MxOp} {o : MxOp} (hpre : ∀ x ∈ pre, x.started = true ∧ x.beatsDone = true)
    (ho : o.started = false) : nextToStart k (pre ++ o :: post) = some o := by
  induction pre with
  | nil => simp [nextToStart, ho]
  | cons x pre ih =>
    obtain ⟨hs, hd⟩ := hpre x List.mem_cons_self
    simpa [nextToStart, hs, hd] using ih fun y hy => hpre y (List.mem_cons_of_mem _ hy)

theorem mxStart_eq {o : MxOp} (ha : allHeld s (regionOfCell c) = false) (hn : nextToStart (cell s c) (cell s c).ops = some o) :
    mxStart c s = if hazard s c o then putOp s c { o with started := true, held := true } else beginOp s c o := by
  simp [mxStart, ha, hn]

theorem mxRelease_eq {o : MxOp} (hf : (cell s c).ops.find? (fun x => x.held && !x.beatsDone) = some o) (hz : hazard s c o = false) :
    mxRelease c s = beginOp s c o := by
  simp [mxRelease, hf, hz]

/-! ## Fill and preload (R88, R117) -/

/-- The tiles swap, or they stay. -/
theorem swapTiles_cases (k : Cell) : swapTiles k = k ∨ swapTiles k = { k with tile := k.shadowTile, shadowTile := none } := by
  unfold swapTiles
  split
  · split
    · exact .inr rfl
    · exact .inl rfl
  · exact .inl rfl

theorem swapTiles_frame (k : Cell) : swapTiles k = { k with tile := (swapTiles k).tile, shadowTile := (swapTiles k).shadowTile } := by
  rcases swapTiles_cases k with h | h <;> rw [h]

theorem swapTiles_ops (k : Cell) : (swapTiles k).ops = k.ops := (congrArg Cell.ops (swapTiles_frame k) :)
theorem swapTiles_banks (k : Cell) : (swapTiles k).banks = k.banks := (congrArg Cell.banks (swapTiles_frame k) :)

/-- A filled tile stands in the shadow, or in the array when no row for another is left. -/
theorem fillTile_spec (s : State) (c : Nat) (o : MxOp) (g : Tag) : CellWork s (fillTile s c o g) ∧
    ∃ x, x.serial = o.serial ∧ (x.kT, x.nT, x.lo) = g ∧ x.vals.length = 64 ∧
      ((cell (fillTile s c o g) c).shadowTile = some x ∧ (cell (fillTile s c o g) c).tile = (cell s c).tile ∨
        (cell (fillTile s c o g) c).tile = some x ∧ (cell (fillTile s c o g) c).shadowTile = none) := by
  have h := lmWork_fillCols s c o.desc g 64
  have hlen := length_fillCols s c o.desc g 64
  unfold fillTile
  generalize fillCols s c o.desc g 64 = r at *
  obtain ⟨t, cols, p⟩ := r
  refine ⟨h.rest.trans ((cellWork_setCell ..).trans (cellWork_setCell ..)), ⟨o.serial, g.1, g.2.1, g.2.2, cols, p.isSome⟩, rfl, rfl, hlen, ?_⟩
  simp only [cell_setCell_self, cell_putOp]
  have hswap := swapTiles_cases { cell t c with
    ops := replaceOp (cell t c).ops (opPoison o p), shadowTile := some ⟨o.serial, g.1, g.2.1, g.2.2, cols, p.isSome⟩ }
  rcases hswap with hk | hk <;> rw [hk]
  · exact .inl ⟨rfl, h.units.tile⟩
  · exact .inr ⟨rfl, rfl⟩

theorem preload_spec {o : MxOp} (ot rt : Nat) (hb : (cell s c).banks.length < 2) : CellWork s (preload s c o ot rt) ∧
    ∃ b, (cell (preload s c o ot rt) c).banks = (cell s c).banks ++ [b] ∧ b.serial = o.serial ∧ b.ot = ot ∧ b.rt = rt ∧
      b.preloaded = true ∧ b.full = false ∧ b.drained = 0 := by
  have h := lmWork_preloadRows s c o ot rt (rowsOfTile o.desc rt)
  unfold preload
  rw [if_neg (Nat.not_le.2 hb)]
  generalize preloadRows s c o ot rt (rowsOfTile o.desc rt) = r at *
  obtain ⟨t, cs, st, p⟩ := r
  refine ⟨h.rest.trans ((cellWork_setCell ..).trans (cellWork_setCell ..)), ⟨o.serial, ot, rt, cs, true, false, 0, p.isSome⟩, ?_,
    rfl, rfl, rfl, rfl, rfl, rfl⟩
  simp only [cell_setCell_self, cell_putOp]
  rw [h.units.banks]

theorem mxFill_held (pre : Bool) (ha : allHeld s (regionOfCell c) = true) : mxFill c pre s = setCell s c (swapTiles (cell s c)) := if_pos ha

theorem mxFill_fill {o : MxOp} {g : Tag} (ha : allHeld s (regionOfCell c) = false)
    (hp : preloadTarget (swapTiles (cell s c)) (swapTiles (cell s c)).ops = none)
    (hf : fillTarget (swapTiles (cell s c)) (swapTiles (cell s c)).ops = some (o, g)) :
    mxFill c false s = fillTile (setCell s c (swapTiles (cell s c))) c o g := by
  have ha' : allHeld (setCell s c (swapTiles (cell s c))) (regionOfCell c) = false := ha
  simp [mxFill, ha', hp, hf]

theorem mxFill_preload {o : MxOp} {ot rt : Nat} (ha : allHeld s (regionOfCell c) = false)
    (hp : preloadTarget (swapTiles (cell s c)) (swapTiles (cell s c)).ops = some (o, ot, rt)) :
    mxFill c true s = preload (setCell s c (swapTiles (cell s c))) c o ot rt := by
  have ha' : allHeld (setCell s c (swapTiles (cell s c))) (regionOfCell c) = false := ha
  simp [mxFill, ha', hp]

end

/-! ## Freezes (R111, R123) -/

section
variable {s : State} {c : Nat}

theorem notIrc_cell (c : Nat) : NotIrc .cell c := by
  simp only [NotIrc, pageNo, kindBase, kindRow]
  omega

theorem pagesOnly_mxBump (s : State) (c off n : Nat) : PagesOnly s (mxBump s c off n) := by
  unfold mxBump
  split
  · exact pagesOnly_bump ..
  · exact PagesOnly.refl s

/-- The freeze code that the array shows is not changed by what it counts. -/
theorem freeze_mxBump (s : State) (c off n : Nat) :
    fld (mxBump s c off n) .cell c f_CELL_MX_STATUS_FREEZE = fld s .cell c f_CELL_MX_STATUS_FREEZE := by
  unfold mxBump
  split
  · rw [fld, reg_bump_steady s (.inr (by decide)) (notIrc_cell c), fld]
  · rfl

theorem pagesOnly_freezeCycle (s : State) (c code : Nat) : PagesOnly s (freezeCycle s c code) :=
  ((pagesOnly_setF ..).trans (pagesOnly_mxBump ..)).trans (pagesOnly_mxBump ..)

theorem freeze_freezeCycle (s : State) (c : Nat) {code : Nat} (h : code < 8) :
    fld (freezeCycle s c code) .cell c f_CELL_MX_STATUS_FREEZE = code := by
  rw [freezeCycle, freeze_mxBump, freeze_mxBump, fld_setF_self s (by decide) (by decide) h]

/-- The freezes are those of R111. -/
theorem freezeOf_lt {k : Cell} {o : MxOp} {stall f : Nat} (h : freezeOf k o stall = some f) : f < 8 := by
  unfold freezeOf at h
  dsimp only at h
  split_ifs at h <;> cases h <;> decide

/-! ## The course of a beat (R87, R89, R90) -/

/-- An operation that differs in its status alone. -/
def SameCourse (o o' : MxOp) : Prop := o' = { o with num := o'.num, fault := o'.fault, faddr := o'.faddr, faspace := o'.faspace }

theorem sameCourse_opPoison (o : MxOp) (p : Option Nat) (n : Nat) : SameCourse o { opPoison o p with num := n } := by
  unfold opPoison
  split
  · unfold opFault
    split <;> rfl
  · rfl

/-- A bank that differs in its contents alone. -/
def SameBank (b b' : MxBank) : Prop := b' = { b with cells := b'.cells, pois := b'.pois }

theorem SameCourse.serial {o o' : MxOp} (h : SameCourse o o') : o'.serial = o.serial := (congrArg MxOp.serial h :)
theorem SameCourse.desc {o o' : MxOp} (h : SameCourse o o') : o'.desc = o.desc := (congrArg MxOp.desc h :)

theorem SameBank.serial {b b' : MxBank} (h : SameBank b b') : b'.serial = b.serial := (congrArg MxBank.serial h :)
theorem SameBank.ot {b b' : MxBank} (h : SameBank b b') : b'.ot = b.ot := (congrArg MxBank.ot h :)
theorem SameBank.rt {b b' : MxBank} (h : SameBank b b') : b'.rt = b.rt := (congrArg MxBank.rt h :)

theorem beatRow_frame (s : State) (c : Nat) (o : MxOp) (b : MxBank) :
    LmWork c s (beatRow s c o b).1 ∧ SameCourse o (beatRow s c o b).2.1 ∧ SameBank b (beatRow s c o b).2.2 := by
  unfold beatRow
  dsimp only
  split
  · exact ⟨(lmWork_readRow ..).trans (lmWork_readRow ..), sameCourse_opPoison .., rfl⟩
  · split
    · exact ⟨lmWork_readRow .., rfl, rfl⟩
    · exact ⟨lmWork_readRow .., sameCourse_opPoison .., rfl⟩

/-- The next beat does not depend on an operation's status. -/
theorem advanceBeat_sameCourse {o o' : MxOp} (h : SameCourse o o') :
    SameCourse (advanceBeat o).1 (advanceBeat o').1 ∧ (advanceBeat o').2 = (advanceBeat o).2 := by
  unfold SameCourse at h
  rw [h]
  unfold advanceBeat
  dsimp only [posOf]
  split
  · exact ⟨rfl, rfl⟩
  · split <;> exact ⟨rfl, rfl⟩

theorem advanceBeat_serial (o : MxOp) : (advanceBeat o).1.serial = o.serial := by
  unfold advanceBeat
  dsimp only
  split
  · rfl
  · split <;> rfl

/-- The bank that a beat of an operation enters: the one of its output tile, or a new one. -/
def beatBank (k : Cell) (o : MxOp) : MxBank := (bankOf k o.serial o.ot o.rt).getD { serial := o.serial, ot := o.ot, rt := o.rt }

/-- The cell that a beat finds: the tiles swap, and a new output tile claims a bank. -/
def beatCell (k : Cell) (o : MxOp) : Cell :=
  let x := swapTiles k
  if (bankOf x o.serial o.ot o.rt).isNone then { x with banks := x.banks ++ [{ serial := o.serial, ot := o.ot, rt := o.rt }] } else x

theorem ops_beatCell (k : Cell) (o : MxOp) : (beatCell k o).ops = k.ops := by
  unfold beatCell
  dsimp only
  split <;> exact swapTiles_ops k

theorem bankOf_some {k : Cell} {n ot rt : Nat} {b : MxBank} (h : bankOf k n ot rt = some b) :
    b ∈ k.banks ∧ b.serial = n ∧ b.ot = ot ∧ b.rt = rt := by
  have hkey := List.find?_some h
  simp only [Bool.and_eq_true, beq_iff_eq] at hkey
  obtain ⟨⟨hs, hot⟩, hrt⟩ := hkey
  exact ⟨List.mem_of_find?_eq_some h, hs, hot, hrt⟩

/-- The bank of a beat is among the banks, with the place of the operation's output tile. -/
theorem beatBank_mem (k : Cell) (o : MxOp) : beatBank (swapTiles k) o ∈ (beatCell k o).banks ∧ (beatBank (swapTiles k) o).serial = o.serial ∧
    (beatBank (swapTiles k) o).ot = o.ot ∧ (beatBank (swapTiles k) o).rt = o.rt := by
  unfold beatBank beatCell
  cases h : bankOf (swapTiles k) o.serial o.ot o.rt with
  | none => simp [h]
  | some b => simpa [h] using bankOf_some h

/-- A replaced bank stands among the banks. -/
theorem mem_putBank {k : Cell} {b b' : MxBank} (h : b ∈ k.banks) (hs : b'.serial = b.serial) (hot : b'.ot = b.ot) (hrt : b'.rt = b.rt) :
    b' ∈ (putBank k b').banks :=
  List.mem_map.2 ⟨b, h, by simp [hs, hot, hrt]⟩

/-- The state after a row has entered. -/
def beaten (s : State) (c : Nat) (o : MxOp) : State :=
  let row := beatRow (setCell s c (beatCell (cell s c) o)) c o (beatBank (swapTiles (cell s c)) o)
  let next := advanceBeat row.2.1
  let t := putOp row.1 c next.1
  setCell t c (swapTiles (putBank (cell t c) { row.2.2 with full := row.2.2.full || next.2 }))

section
variable {o : MxOp} (hb : beatOp (cell s c) = some o) (hk : (cell s c).resetting = false) {stall : Nat}
include hb hk

/-- Before the first fill of an operation no cycle counts (R111). -/
theorem mxBeat_unfilled (hh : o.held = false) (hg : begun (cell s c) o = false) : mxBeat c stall s = s := by
  simp [mxBeat, hb, hk, hh, hg]

theorem mxBeat_paused (ha : allHeld s (regionOfCell c) = true) (hg : o.held = true ∨ begun (cell s c) o = true) :
    mxBeat c stall s = freezeCycle s c fzPAUSE := by
  simp only [mxBeat, hb, hk, ha]
  rcases hg with hg | hg <;> simp [hg]

theorem mxBeat_hazard (ha : allHeld s (regionOfCell c) = false) (hh : o.held = true) : mxBeat c stall s = freezeCycle s c fzFEED := by
  simp [mxBeat, hb, hk, ha, hh]

section
variable (ha : allHeld s (regionOfCell c) = false) (hh : o.held = false) (hg : begun (cell s c) o = true)
include ha hh hg

theorem mxBeat_frozen {f : Nat} (hf : freezeOf (cell s c) o stall = some f) : mxBeat c stall s = freezeCycle s c f := by
  simp [mxBeat, hb, hk, ha, hh, hg, hf]

theorem mxBeat_goes (hf : freezeOf (cell s c) o stall = none) : ∃ n, mxBeat c stall s =
    mxBump (setF (beaten s c o) .cell c f_CELL_MX_STATUS_FREEZE 0) c o_CELL_MX_BUSY n := by
  simp only [mxBeat, hb, hk, ha, hh, hg, hf, Bool.not_true, Bool.and_false, Bool.false_and, Bool.or_false, Bool.false_eq_true, if_false]
  exact ⟨_, rfl⟩

end
end

/-- What a row that has entered leaves: the operation is one row on, its bank is full with the last row of its tile, and nothing is sent. -/
theorem beaten_spec {o : MxOp} (ho : o ∈ (cell s c).ops) :
    CellWork s (beaten s c o) ∧
    (∃ o' ∈ (cell (beaten s c o) c).ops, SameCourse (advanceBeat o).1 o') ∧
    ∃ b ∈ (cell (beaten s c o) c).banks, b.serial = o.serial ∧ b.ot = o.ot ∧ b.rt = o.rt ∧ ((advanceBeat o).2 = true → b.full = true) := by
  obtain ⟨hwork, hcourse, hbank⟩ := beatRow_frame (setCell s c (beatCell (cell s c) o)) c o (beatBank (swapTiles (cell s c)) o)
  unfold beaten
  generalize hrow : beatRow (setCell s c (beatCell (cell s c) o)) c o (beatBank (swapTiles (cell s c)) o) = row at *
  obtain ⟨u, o1, b1⟩ := row
  obtain ⟨hmem, hs, hot, hrt⟩ := beatBank_mem (cell s c) o
  obtain ⟨hadv, hlast⟩ := advanceBeat_sameCourse hcourse
  have hunits := hwork.units
  rw [cell_setCell_self] at hunits
  have hserial : (advanceBeat o1).1.serial = o.serial := (advanceBeat_serial o1).trans hcourse.serial
  dsimp only at *
  refine ⟨?_, ⟨(advanceBeat o1).1, ?_, hadv⟩,
    ⟨{ b1 with full := b1.full || (advanceBeat o1).2 }, ?_, hbank.serial.trans hs, hbank.ot.trans hot, hbank.rt.trans hrt, ?_⟩⟩
  · exact (((cellWork_setCell ..).trans hwork.rest).trans (cellWork_setCell ..)).trans (cellWork_setCell ..)
  · rw [cell_setCell_self, swapTiles_ops]
    change _ ∈ (cell (putOp u c _) c).ops
    rw [ops_putOp, hunits.ops, ops_beatCell]
    exact mem_replaceOp ho hserial
  · rw [cell_setCell_self, swapTiles_banks, cell_putOp]
    exact mem_putBank (hunits.banks ▸ hmem) hbank.serial hbank.ot hbank.rt
  · intro hl
    rw [hlast, hl, Bool.or_true]

end

/-! ## The events of a beat -/

section
variable {s : State} {c : Nat} {o : MxOp} {stall : Nat} (hr : inReset s = false) (ht : thawed s = true) (hp : present s .cell c = true)
  (hst : stall = 0 ∨ stall = 1 ∨ stall = 4)
include hr ht hp hst

theorem exec_mxBeat {u : State} (h : mxBeat c stall s = u) : exec (.mxBeat c stall) s = done s u :=
  (run_eq (by rcases hst with rfl | rfl | rfl <;> simp [hp, cellFrozen_of_thawed ht]) hr).trans (congrArg (done s) h)

/-- A cycle in which the array is frozen shows its cause and changes register pages only. -/
theorem beat_freezes {f : Nat} (hf : f < 8) (h : mxBeat c stall s = freezeCycle s c f) : ∃ t, exec (.mxBeat c stall) s = .next t ∧
    fld t .cell c f_CELL_MX_STATUS_FREEZE = f ∧ t.cells = s.cells ∧ t.hbm = s.hbm := by
  obtain ⟨hpart, hpending, hhbm, hcells, -⟩ := pagesOnly_fields (pagesOnly_freezeCycle s c f)
  exact ⟨_, (exec_mxBeat hr ht hp hst h).trans (done_eq hpart hpending), freeze_freezeCycle s c hf, hcells, hhbm⟩

/-- A row enters: the operation is one row on, and the last row of an output tile fills its bank. -/
theorem beat_enters {n : Nat} (ho : o ∈ (cell s c).ops)
    (h : mxBeat c stall s = mxBump (setF (beaten s c o) .cell c f_CELL_MX_STATUS_FREEZE 0) c o_CELL_MX_BUSY n) :
    ∃ t o', exec (.mxBeat c stall) s = .next t ∧ o' ∈ (cell t c).ops ∧ SameCourse (advanceBeat o).1 o' ∧
      (∃ b ∈ (cell t c).banks, b.serial = o.serial ∧ b.ot = o.ot ∧ b.rt = o.rt ∧ ((advanceBeat o).2 = true → b.full = true)) ∧
      fld t .cell c f_CELL_MX_STATUS_FREEZE = 0 ∧ t.hbm = s.hbm ∧ t.reqs = s.reqs := by
  obtain ⟨hrest, ⟨o', ho', hcourse⟩, hbank⟩ := beaten_spec ho
  have hpages := (pagesOnly_setF (beaten s c o) .cell c f_CELL_MX_STATUS_FREEZE 0).trans (pagesOnly_mxBump _ c o_CELL_MX_BUSY n)
  have hwork := hrest.trans (cellWork_of_pagesOnly hpages)
  have hcell : cell (mxBump (setF (beaten s c o) .cell c f_CELL_MX_STATUS_FREEZE 0) c o_CELL_MX_BUSY n) c = cell (beaten s c o) c :=
    cell_of_cells (congrArg State.cells hpages :) c
  refine ⟨_, o', (exec_mxBeat hr ht hp hst h).trans (done_cellWork hwork), hcell ▸ ho', hcourse, hcell ▸ hbank, ?_, hwork.hbm, hwork.reqs⟩
  rw [freeze_mxBump, fld_setF_self _ (by decide) (by decide) (by decide)]

end

theorem mem_of_beatOp {k : Cell} {o : MxOp} (h : beatOp k = some o) : o ∈ k.ops := by
  obtain ⟨x, hx, ho⟩ := Option.bind_eq_some_iff.1 h
  split at ho
  · cases ho
    exact List.mem_of_find?_eq_some hx
  · cases ho

/-- The first part of O22: starts, fills and preloads by what they do to the cell, and a beat by what keeps it from the array. -/
theorem matrixBeats : Claims.MatrixBeats := by
  intro s c o hr ht hp
  refine ⟨fun ha => ⟨?_, fun pre => ?_⟩, fun ha pre post hops hpre ho => ?_, fun hf hz => ?_, fun ha g hpre hf => ?_,
    fun ha ot rt hpre hb => ?_, fun stall hst hb hk => ⟨fun hh hg => ?_, fun ha hg => ?_, fun ha hh => ?_,
      fun ha hh hg => ⟨fun f hf => ?_, fun hf => ?_⟩⟩⟩
  · exact (run_array hr ht hp (if_pos ha : mxStart c s = s)).trans (done_eq rfl rfl)
  · exact (run_array hr ht hp (mxFill_held pre ha)).trans (done_eq rfl rfl)
  · have hstart := mxStart_eq ha (by rw [hops]; exact nextToStart_eq hpre ho)
    split at hstart
    · rename_i hz
      refine ⟨_, (run_array hr ht hp hstart).trans (done_cellWork (cellWork_setCell ..)), ?_, ?_⟩
      · rfl
      · exact (ops_putOp s c _).trans (if_pos hz).symm
    · rename_i hz
      have hwork := cellWork_beginOp s c o
      exact ⟨_, (run_array hr ht hp hstart).trans (done_cellWork hwork), hwork.hbm, (ops_beginOp s c o).trans (if_neg hz).symm⟩
  · have hwork := cellWork_beginOp s c o
    exact ⟨_, (run_array hr ht hp (mxRelease_eq hf hz)).trans (done_cellWork hwork), hwork.hbm, ops_beginOp s c o⟩
  · obtain ⟨hfill, x, hs, hx, hlen, htiles⟩ := fillTile_spec (setCell s c (swapTiles (cell s c))) c o g
    have hwork := (cellWork_setCell ..).trans hfill
    rw [cell_setCell_self] at htiles
    exact ⟨_, x, (run_array hr ht hp (mxFill_fill ha hpre hf)).trans (done_cellWork hwork), hs, hx, hlen, htiles, hwork.hbm⟩
  · have hroom : (cell (setCell s c (swapTiles (cell s c))) c).banks.length < 2 := by rwa [cell_setCell_self, swapTiles_banks]
    obtain ⟨hload, b, hbanks, hbank⟩ := preload_spec (o := o) ot rt hroom
    have hwork := (cellWork_setCell ..).trans hload
    rw [cell_setCell_self, swapTiles_banks] at hbanks
    obtain ⟨hs, hot, hrt, hpreloaded, hfull, hdrained⟩ := hbank
    exact ⟨_, b, (run_array hr ht hp (mxFill_preload ha hpre)).trans (done_cellWork hwork), hbanks, hs, hot, hrt, hpreloaded, hfull, hdrained, hwork.hbm⟩
  · exact (exec_mxBeat hr ht hp hst (mxBeat_unfilled hb hk hh hg)).trans (done_eq rfl rfl)
  · exact beat_freezes hr ht hp hst (by decide) (mxBeat_paused hb hk ha hg)
  · exact beat_freezes hr ht hp hst (by decide) (mxBeat_hazard hb hk ha hh)
  · exact beat_freezes hr ht hp hst (freezeOf_lt hf) (mxBeat_frozen hb hk ha hh hg hf)
  · obtain ⟨n, hn⟩ := mxBeat_goes hb hk ha hh hg hf
    exact beat_enters hr ht hp hst (mem_of_beatOp hb) hn

end Sys2Proof.Proofs
end

section
/-! The matrix array's drain and completion (O22: R92, R102, R106 to R108, R112, R116). -/
namespace Sys2Proof.Proofs

open Sys2Proof.Machine Sys2Proof.Laws

/-! ## What a drain sends (R102, R122) -/

section
variable (s : State)

theorem cells_secLogAdd (type src : Nat) (w : Bool) (id : Nat) (l : Byte) (m a : Nat) : (secLogAdd s type src w id l m a).cells = s.cells := by
  rw [pagesOnly_secLogAdd s type src w id l m a]

theorem cells_cellEntry (c : Nat) (l : Byte) (a : Nat) (rd wr : Bool) : (cellEntry s c l a rd wr).1.cells = s.cells := by
  unfold cellEntry
  dsimp only
  split
  · exact cells_secLogAdd ..
  · split
    · rfl
    · split
      · rfl
      · split
        · rfl
        · split
          · exact cells_secLogAdd ..
          · split <;> rfl

theorem cells_dropRecord : (dropRecord s).cells = s.cells := by
  have hbump := pagesOnly_bump (s := s) .trace 0 o_TRACE_DROPPED 1
  simp only [dropRecord, raiseIrq_cells]
  exact (congrArg State.cells hbump :)

theorem cells_stageRecord (r : BitVec 256) : (stageRecord s r).cells = s.cells := by
  unfold stageRecord
  dsimp only
  split
  · rfl
  · split
    · exact cells_dropRecord s
    · split
      · rfl
      · split
        · exact cells_dropRecord ..
        · rfl

theorem cells_watchUnit (c kinds a n : Nat) (l : Byte) : (watchUnit s c kinds a n l).cells = s.cells := by
  unfold watchUnit
  split
  · rfl
  · rename_i wp x _ _
    have hcount : (watchCount s c wp).cells = s.cells :=
      (congrArg State.cells (pagesOnly_bump (s := s) .region (regionOfCell c) (o_REGION_WP_HITS wp) 1) :)
    unfold watchRecord
    split
    · exact (cells_stageRecord ..).trans hcount
    · exact hcount

theorem cells_niFab (c : Nat) (src : Src) (nid : Option Nat) (l : Byte) (w a : Nat) (k : Packet) :
    (niFab s c src nid l w a k).1.cells = s.cells := by
  unfold niFab newId fabIssue
  dsimp only
  rw [(sends_pump _).rest]
  exact pmc_cells ..

end

/-- A drain's requests leave every cell, and what an operation is; it counts them, or notes a fault. -/
structure SendsDrain (x y : State × MxOp) : Prop where
  cells : y.1.cells = x.1.cells
  serial : y.2.serial = x.2.serial
  desc : y.2.desc = x.2.desc

theorem SendsDrain.refl (x : State × MxOp) : SendsDrain x x := ⟨rfl, rfl, rfl⟩

theorem SendsDrain.trans {x y z : State × MxOp} (h : SendsDrain x y) (k : SendsDrain y z) : SendsDrain x z :=
  ⟨k.cells.trans h.cells, k.serial.trans h.serial, k.desc.trans h.desc⟩

theorem sendsDrain_foldl {α : Type} {f : State × MxOp → α → State × MxOp} (l : List α) (x : State × MxOp)
    (h : ∀ y a, SendsDrain y (f y a)) : SendsDrain x (l.foldl f x) :=
  List.foldlRecOn l f (.refl x) fun y hy a _ => hy.trans (h y a)

section
variable (s : State) (c : Nat) (o : MxOp)

theorem sendsDrain_refused {t : State} (code a n : Nat) (h : t.cells = s.cells) : SendsDrain (s, o) (t, opFault o code a n) := by
  unfold opFault
  split <;> exact ⟨h, rfl, rfl⟩

theorem sendsDrain_sendDrain (kinds a n : Nat) (op : ReqOp) (f : Nat → Packet) : SendsDrain (s, o) (sendDrain s c o kinds a n op f) := by
  have hentry := cells_cellEntry s c (cellLabel s o.label) a false true
  unfold sendDrain
  dsimp only
  split
  · rename_i h
    rw [h] at hentry
    exact sendsDrain_refused s o _ _ _ hentry
  · rename_i h
    rw [h] at hentry
    have hwatch := (cells_watchUnit _ c kinds a n (cellLabel s o.label)).trans hentry
    split
    · exact ⟨(cells_niFab ..).trans hwatch, rfl, rfl⟩
    · exact ⟨(asks_niSend ..).cells.trans hwatch, rfl, rfl⟩

theorem sendsDrain_putDevice (p : Bool) (x : Nat × Nat × Nat) : SendsDrain (s, o) (putDevice s c o p x) :=
  sendsDrain_foldl _ _ fun _ _ => sendsDrain_sendDrain ..

theorem sendsDrain_putReduce (p : Bool) (a : Nat) (ws : List Wide) : SendsDrain (s, o) (putReduce s c o p a ws) :=
  sendsDrain_foldl _ _ fun _ _ => sendsDrain_sendDrain ..

end

/-! ## One row of a full bank (R116) -/

theorem sameUnits_of_cells {s t : State} (h : t.cells = s.cells) (c : Nat) : SameUnits (cell s c) (cell t c) := by
  rw [cell_of_cells h]
  exact .refl _

/-- A row of a bank that has drained: the bank is one row on, and no unit of the cell changes but its local memory. -/
structure DrainedRow (c : Nat) (s : State) (o : MxOp) (b : MxBank) (r : State × MxOp × MxBank) : Prop where
  units : SameUnits (cell s c) (cell r.1 c)
  serial : r.2.1.serial = o.serial
  desc : r.2.1.desc = o.desc
  bank : r.2.2 = { b with drained := b.drained + 1, pois := r.2.2.pois }
  inCell : dDst o.desc = 0 → CellWork s r.1

section
variable {s t : State} {c : Nat} {o o' : MxOp} {b b' : MxBank}

/-- Work that is done only where a condition asks for it. -/
theorem lmWork_ite {α : Type} {q : Prop} [Decidable q] {f : State × α} {y : α} (h : LmWork c s f.1) : LmWork c s (if q then f else (s, y)).1 := by
  split
  · exact h
  · exact .refl

theorem DrainedRow.of_local (h : LmWork c s t) (ho : SameCourse o o') (hb : b' = { b with drained := b.drained + 1, pois := b'.pois }) :
    DrainedRow c s o b (t, o', b') :=
  ⟨h.units, ho.serial, ho.desc, hb, fun _ => h.rest⟩

theorem DrainedRow.of_sends {x : State × MxOp} (hd : dDst o.desc ≠ 0) (h : LmWork c s t) (ho : SameCourse o o') (hx : SendsDrain (t, o') x)
    (hb : b' = { b with drained := b.drained + 1, pois := b'.pois }) : DrainedRow c s o b (x.1, x.2, b') :=
  ⟨h.units.trans (sameUnits_of_cells hx.cells c), hx.serial.trans ho.serial, hx.desc.trans ho.desc, hb, fun h0 => absurd h0 hd⟩

end

theorem drainedRow_drainRow (s : State) (c : Nat) (o : MxOp) (b : MxBank) : DrainedRow c s o b (drainRow s c o b) := by
  unfold drainRow
  dsimp only
  split
  · exact .of_local (((lmWork_ite (lmWork_readRow ..)).trans (lmWork_ite (lmWork_functionRow ..))).trans
      (lmWork_foldl _ _ _ _ fun _ _ _ => lmWork_putLocal ..)) (sameCourse_opPoison ..) rfl
  · rename_i hd
    exact .of_sends (by simp [hd]) ((lmWork_ite (lmWork_readRow ..)).trans (lmWork_ite (lmWork_functionRow ..))) (sameCourse_opPoison ..)
      (sendsDrain_foldl _ _ fun _ _ => sendsDrain_putDevice ..) rfl
  · rename_i hd _
    exact .of_sends hd ((lmWork_ite (lmWork_readRow ..)).trans (lmWork_ite (lmWork_functionRow ..))) (sameCourse_opPoison ..)
      (sendsDrain_putReduce ..) rfl

/-! ## MX_DRAIN_ROW (R92, R112, R116) -/

/-- Whether a bank holds the output tile of another. -/
def sameTile (b x : MxBank) : Bool := x.serial == b.serial && x.ot == b.ot && x.rt == b.rt

/-- The banks of a cell after a row of one of them: with its last row the bank is free. -/
def banksAfterRow (o : MxOp) (b : MxBank) (l : List MxBank) : List MxBank :=
  let l := l.map fun x => if sameTile b x then b else x
  if b.drained < rowsOfTile o.desc b.rt then l else l.filter fun x => !sameTile b x

theorem banksAfterRow_cons {o : MxOp} {b b' : MxBank} {rest : List MxBank} (hb : sameTile b' b = true)
    (hrest : ∀ x ∈ rest, sameTile b' x = false) :
    banksAfterRow o b' (b :: rest) = if b'.drained < rowsOfTile o.desc b'.rt then b' :: rest else rest := by
  have hself : sameTile b' b' = true := by simp [sameTile]
  have hothers : rest.map (fun x => if sameTile b' x then b' else x) = rest :=
    (List.map_congr_left fun x hx => by simp [hrest x hx]).trans (List.map_id _)
  have hkept : rest.filter (fun x => !sameTile b' x) = rest := List.filter_eq_self.2 fun x hx => by simp [hrest x hx]
  simp [banksAfterRow, hb, hothers, hself, hkept]

/-- The state after a row of a full bank. -/
def drainedState (s : State) (c : Nat) (o : MxOp) (b : MxBank) : State :=
  let r := drainRow s c o b
  let t := putOp r.1 c r.2.1
  setCell t c { cell t c with banks := banksAfterRow r.2.1 r.2.2 (cell t c).banks }

theorem mxDrain_eq {s : State} {c : Nat} {o : MxOp} {b : MxBank} {rest : List MxBank} (ha : allHeld s (regionOfCell c) = false)
    (hb : (cell s c).banks = b :: rest) (hf : b.full = true) (ho : (cell s c).ops.find? (fun x => x.serial == b.serial) = some o) :
    mxDrain c s = drainedState s c o b := by
  simp only [mxDrain, ha, hb, hf, ho, Bool.not_true, Bool.false_eq_true, if_false, drainedState, banksAfterRow]
  split <;> rfl

section
variable (s : State) (c : Nat) (o : MxOp) (b : MxBank)

theorem banks_drainedState {rest : List MxBank} (hb : (cell s c).banks = b :: rest)
    (hrest : ∀ x ∈ rest, ¬(x.serial = b.serial ∧ x.ot = b.ot ∧ x.rt = b.rt)) :
    ∃ b', b' = { b with drained := b.drained + 1, pois := b'.pois } ∧ (cell (drainedState s c o b) c).banks =
      if b.drained + 1 < rowsOfTile o.desc b.rt then b' :: rest else rest := by
  have hrow := drainedRow_drainRow s c o b
  unfold drainedState
  generalize drainRow s c o b = r at *
  obtain ⟨u, o', b'⟩ := r
  obtain ⟨hunits, -, hdesc, hbank, -⟩ := hrow
  dsimp only at *
  refine ⟨b', hbank, ?_⟩
  have hs : b'.serial = b.serial := (congrArg MxBank.serial hbank :)
  have hot : b'.ot = b.ot := (congrArg MxBank.ot hbank :)
  have hdrained : b'.drained = b.drained + 1 := (congrArg MxBank.drained hbank :)
  have hrt : b'.rt = b.rt := (congrArg MxBank.rt hbank :)
  have hbanks : (cell (putOp u c o') c).banks = b :: rest := by
    rw [cell_putOp]
    exact hunits.banks.trans hb
  rw [cell_setCell_self, hbanks]
  dsimp only
  rw [banksAfterRow_cons (by simp [sameTile, hs, hot, hrt]) fun x hx => by simpa [sameTile, hs, hot, hrt, and_assoc] using hrest x hx,
    hdesc, hrt, hdrained]

theorem cellWork_drainedState (h : dDst o.desc = 0) : CellWork s (drainedState s c o b) :=
  (((drainedRow_drainRow s c o b).inCell h).trans (cellWork_setCell ..)).trans (cellWork_setCell ..)

end

/-! ## MX_OP_COMPLETE (R106 to R108) -/

/-- The state of a cell whose operation has left: a finished operation is counted. -/
def opLeft (s : State) (c : Nat) (o : MxOp) : State :=
  mxBump (setCell s c { cell s c with ops := (cell s c).ops.filter (fun x => x.serial != o.serial) }) c o_CELL_MX_OPS 1

/-- The token of an operation that has ended. -/
def endToken (o : MxOp) : Token :=
  { st := 2, status := statusWord o.fault o.refused o.num, addr := o.faddr, aspace := o.faspace, src := 6 }

section
variable {s : State} {c : Nat} {o : MxOp}

theorem mxComplete_eq (hf : (cell s c).ops.find? (opFinished (cell s c)) = some o) (hs : o.stop = false) :
    mxComplete c s = tokenDone (opLeft s c o) c o.grp o.token o.lead (endToken o) := by
  simp [mxComplete, hf, hs, opLeft, endToken]

theorem cellWork_opLeft : CellWork s (opLeft s c o) := (cellWork_setCell ..).trans (cellWork_of_pagesOnly (pagesOnly_mxBump ..))

theorem cell_opLeft : cell (opLeft s c o) c = { cell s c with ops := (cell s c).ops.filter (fun x => x.serial != o.serial) } := by
  rw [opLeft, cell_of_cells (pagesOnly_fields (pagesOnly_mxBump ..)).2.2.2.1, cell_setCell_self]

theorem group_opLeft (g : Nat) : group (opLeft s c o) c g = group s c g := by
  rw [group, cell_opLeft]
  rfl

/-- The FAULT field of a status word holds the code. -/
theorem fault_statusWord (refused : Bool) (num : Nat) : fldW (statusWord 0 refused num) 23 16 = 0 := by
  have hb : b2n refused ≤ 1 := by cases refused <;> decide
  have hn : num % 16 < 16 := Nat.mod_lt _ (by decide)
  simp only [statusWord, fldW, bitsN, BitVec.toNat_ofNat, Nat.shiftLeft_eq, Nat.shiftRight_eq_div_pow]
  omega

end

/-- A word with a destination's fault marks its run as having lost a write (R218). -/
def lostRun (s : State) (lead : Nat) (v : Token) : State :=
  if 2 ≤ fldW v.status 23 16 then setRun s lead { (block s lead).run with lost := true } else s

theorem lostRun_frame (s : State) (lead : Nat) (v : Token) : lostRun s lead v = { s with blocks := (lostRun s lead v).blocks } := by
  unfold lostRun
  split <;> rfl

section
variable {s : State} {c g t lead ud : Nat} {v : Token}

theorem cells_lostRun (s : State) (lead : Nat) (v : Token) : (lostRun s lead v).cells = s.cells := by rw [lostRun_frame]

theorem group_setToken (s : State) (c g t : Nat) (v : Token) : group (setToken s c g t v) c g = withToken (group s c g) t v := by
  rw [setToken_eq, group_setGroup_self]

theorem ops_setToken (s : State) (c g t : Nat) (v : Token) : (cell (setToken s c g t v) c).ops = (cell s c).ops := by
  rw [setToken_eq, setGroup, cell_setCell_self]

/-- Nothing waits for the token. -/
theorem tokenDone_none (h : (group s c g).await = .none) : tokenDone s c g t lead v = lostRun (setToken s c g t v) lead v := by
  have hwait : (group (setToken s c g t v) c g).await = .none := by
    rw [group_setToken]
    exact h
  unfold tokenDone lostRun
  split
  · have hrun : ∀ r, (group (setRun (setToken s c g t v) lead r) c g).await = .none := fun _ => hwait
    simp [hrun, settleWait]
  · simp [hwait, settleWait]

/-- The MXW that waits for a token without a fault returns its word. -/
theorem tokenDone_mxw (h : (group s c g).await = .mxw t ud) (hst : v.st = 2) (hf : fldW v.status 23 16 = 0) :
    tokenDone s c g t lead v = setGroup s c g (returned (withToken (group s c g) t v) t ud) := by
  have htok : token (group (setToken s c g t v) c g) t = v := by rw [group_setToken, token_withToken, if_pos rfl]
  have hwait : (group (setToken s c g t v) c g).await = .mxw t ud := by
    rw [group_setToken]
    exact h
  simp only [tokenDone, hf, Nat.not_le.2 Nat.zero_lt_two, if_false, hwait, if_true]
  rw [mxwFinish_done (by rw [htok, hst]) (by rw [htok, hf]), group_setToken, setToken_eq, setGroup_setGroup]

end

/-! ## The obligation -/

section
variable {s : State} {c : Nat} {o : MxOp} (hr : inReset s = false) (ht : thawed s = true) (hp : present s .cell c = true)
include hr ht hp

theorem drain_goes {b : MxBank} {rest : List MxBank} (ha : allHeld s (regionOfCell c) = false) (hb : (cell s c).banks = b :: rest)
    (hf : b.full = true) (hrest : ∀ x ∈ rest, ¬(x.serial = b.serial ∧ x.ot = b.ot ∧ x.rt = b.rt))
    (ho : (cell s c).ops.find? (fun x => x.serial == b.serial) = some o) :
    ∃ t, exec (.mxDrainRow c) s = .next t ∧
      (b.drained + 1 < rowsOfTile o.desc b.rt → ∃ b', (cell t c).banks = b' :: rest ∧ b' = { b with drained := b.drained + 1, pois := b'.pois }) ∧
      (¬(b.drained + 1 < rowsOfTile o.desc b.rt) → (cell t c).banks = rest) ∧
      (dDst o.desc = 0 → t.reqs = s.reqs ∧ t.fab = s.fab ∧ t.hbm = s.hbm ∧ t.slices = s.slices) := by
  obtain ⟨b', hb', hbanks⟩ := banks_drainedState s c o b hb hrest
  refine ⟨_, (run_array hr ht hp (mxDrain_eq ha hb hf ho)).trans done_next, fun h => ⟨b', hbanks.trans (if_pos h), hb'⟩,
    fun h => hbanks.trans (if_neg h), fun h => ?_⟩
  have hwork := cellWork_drainedState s c o b h
  exact ⟨hwork.reqs, hwork.fab, hwork.hbm, hwork.slices⟩

section
variable (hf : (cell s c).ops.find? (opFinished (cell s c)) = some o) (hs : o.stop = false)
include hf hs

theorem complete_none (hw : (group s c o.grp).await = .none) : ∃ t, exec (.mxOpComplete c) s = .next t ∧
    (cell t c).ops = (cell s c).ops.filter (fun x => x.serial != o.serial) ∧
    group t c o.grp = withToken (group s c o.grp) o.token (endToken o) ∧ t.hbm = s.hbm := by
  have hleft : (group (opLeft s c o) c o.grp).await = .none := by rw [group_opLeft, hw]
  have hframe := lostRun_frame (setToken (opLeft s c o) c o.grp o.token (endToken o)) o.lead (endToken o)
  have hwork : CellWork s (setToken (opLeft s c o) c o.grp o.token (endToken o)) := cellWork_opLeft.trans (cellWork_setCell ..)
  refine ⟨_, (run_array hr ht hp ((mxComplete_eq hf hs).trans (tokenDone_none hleft))).trans
    (done_eq ((congrArg State.part hframe :).trans hwork.part) ((congrArg State.pending hframe :).trans hwork.pending)), ?_, ?_,
    (congrArg State.hbm hframe :).trans hwork.hbm⟩
  · rw [cell_of_cells (cells_lostRun ..), ops_setToken, cell_opLeft]
  · rw [group_of_cells (cells_lostRun ..), group_setToken, group_opLeft]

theorem complete_mxw {ud : Nat} (hw : (group s c o.grp).await = .mxw o.token ud) (h0 : o.fault = 0) :
    ∃ t, exec (.mxOpComplete c) s = .next t ∧
      group t c o.grp = returned (withToken (group s c o.grp) o.token (endToken o)) o.token ud := by
  have hleft : (group (opLeft s c o) c o.grp).await = .mxw o.token ud := by rw [group_opLeft, hw]
  have hfault : fldW (endToken o).status 23 16 = 0 := by
    rw [endToken, h0]
    exact fault_statusWord ..
  refine ⟨_, (run_array hr ht hp ((mxComplete_eq hf hs).trans (tokenDone_mxw hleft rfl hfault))).trans
    (done_cellWork (cellWork_opLeft.trans (cellWork_setCell ..))), ?_⟩
  rw [group_setGroup_self, group_opLeft]

end
end

/-- The second part of O22: a row drains, and an operation that is finished leaves under its token. -/
theorem matrixDrainAndDone : Claims.MatrixDrainAndDone := by
  intro s c o hr ht hp
  refine ⟨fun ha => (run_array hr ht hp (if_pos ha : mxDrain c s = s)).trans (done_eq rfl rfl),
    fun ha b rest hb hf hrest ho => drain_goes hr ht hp ha hb hf hrest ho, ?_⟩
  rintro w hf hs rfl
  refine ⟨fun hw => complete_none hr ht hp hf hs hw, fun ud hw h0 => ?_⟩
  obtain ⟨t, hexec, hgroup⟩ := complete_mxw hr ht hp hf hs hw h0
  refine ⟨t, hexec, ?_, ?_, ?_, ?_, fun hud => ?_⟩ <;> rw [hgroup]
  · rw [returned_frame]
  · rw [returned_frame]
  · rw [returned_frame]
    rfl
  · rw [token_returned, if_pos rfl]
  · rw [getU_returned, if_pos ⟨rfl, hud⟩, token_withToken, if_pos rfl, endToken]

/-- Settles O22: a unit's event by what it changes within its cell, and by what keeps it from having an effect. -/
theorem matrixEvents : Obligations.MatrixEvents := ⟨matrixBeats, matrixDrainAndDone⟩

end Sys2Proof.Proofs
end

section
/-! u0 and p0 (O5: R127). -/
namespace Sys2Proof.Proofs

open Sys2Proof.Machine Sys2Proof.Laws

/-- Every lane reads 1 in p0. -/
theorem bitN_getP_zero (k : Group) {l : Nat} (hl : l < 32) : bitN (getP k 0).toNat l = true := by
  rw [getP_zero, show (0xFFFFFFFF : W32) = BitVec.allOnes 32 from rfl, bitN_eq_testBit, BitVec.toNat_allOnes, Nat.testBit_two_pow_sub_one]
  exact decide_eq_true hl

/-- Settles O5: register 0 of either kind is a constant, and any other reads what was written. -/
theorem constantRegisters : Obligations.ConstantRegisters := fun k x y =>
  ⟨getU_zero k, fun _ hl => bitN_getP_zero k hl, if_pos rfl, if_pos rfl, fun r hr =>
    ⟨by rw [getU_setU, if_pos ⟨rfl, hr⟩], by rw [getP_setP, if_pos ⟨rfl, hr⟩]⟩⟩

end Sys2Proof.Proofs
end

section
/-! Vector integer instructions (O1: R126, R127, R133, R134). -/
namespace Sys2Proof.Proofs

open Sys2Proof.Machine Sys2Proof.Laws

/-- Whether an operation compares does not depend on the values. -/
theorem intCompare_eq_none (op : IntOp) (a b : W32) : intCompare op a b = none ↔ intCompare op 0 0 = none := by
  cases op <;> simp [intCompare]

/-- The second operand of a vector integer instruction in a lane. -/
def intSecond (k : Group) (w : W64) (b : Second) (l : Nat) : W32 := if b = .reg then getV k (fVB w) l else BitVec.ofNat 32 (fIMM w)

/-- The record of a group after its executing lanes have run an integer instruction. -/
abbrev intLanes (s : State) (k : Group) (w : W64) (op : IntOp) (b : Second) : Group :=
  mapLanes k (lanesOf (guardLanes k w)) (intLane s w op (b != .reg) k)

section
variable {s : State} {w : W64} {op : IntOp} {b : Second} {old k : Group}

theorem intLane_eq (l : Nat) : intLane s w op (b != .reg) old k l = match intCompare op (getV old (fVA w) l) (intSecond old w b l) with
    | some t => setPLane k (cmpPred w (b != .reg)) l t
    | none => setV k (fVD w) l (intResult op (getV old (fVA w) l) (intSecond old w b l) (freeLane s l)) := by
  cases b <;> rfl

/-- An operation that does not compare writes its result to VD. -/
theorem intLane_result (h : intCompare op 0 0 = none) (l : Nat) : intLane s w op (b != .reg) old k l =
    setV k (fVD w) l (intResult op (getV old (fVA w) l) (intSecond old w b l) (freeLane s l)) := by
  rw [intLane_eq, (intCompare_eq_none ..).2 h]

/-- A compare writes its outcome to its predicate. -/
theorem intLane_compare (h : intCompare op 0 0 ≠ none) (l : Nat) : intLane s w op (b != .reg) old k l =
    setPLane k (cmpPred w (b != .reg)) l (intCompare op (getV old (fVA w) l) (intSecond old w b l) == some true) := by
  obtain ⟨t, ht⟩ := Option.ne_none_iff_exists'.1 (mt (intCompare_eq_none op (getV old (fVA w) l) (intSecond old w b l)).1 h)
  rw [intLane_eq, ht]
  cases t <;> rfl

/-- A result goes to lane registers and nothing else of the group. -/
theorem intLanes_frame_result (h : intCompare op 0 0 = none) : intLanes s k w op b = { k with v := (intLanes s k w op b).v } :=
  mapLanes_setV_eq k _ _ _ _ fun _ l _ => intLane_result h l

/-- A compare writes predicates and nothing else of the group. -/
theorem intLanes_frame_compare (h : intCompare op 0 0 ≠ none) : intLanes s k w op b = { k with p := (intLanes s k w op b).p } :=
  mapLanes_setPLane_eq k _ _ _ _ fun _ l _ => intLane_compare h l

theorem intLanes_frame : intLanes s k w op b = { k with v := (intLanes s k w op b).v, p := (intLanes s k w op b).p } := by
  by_cases h : intCompare op 0 0 = none
  · rw [intLanes_frame_result h]
  · rw [intLanes_frame_compare h]

theorem getV_intLanes (r : Nat) {l : Nat} (hl : l < 32) : getV (intLanes s k w op b) r l =
    if r = fVD w ∧ bitN (guardLanes k w).toNat l = true ∧ intCompare op 0 0 = none then
      intResult op (getV k (fVA w) l) (intSecond k w b l) (freeLane s l)
    else getV k r l := by
  by_cases h : intCompare op 0 0 = none
  · rw [intLanes, getV_mapLanes_mask k _ (fun _ => intLane_result h) r hl]
    simp only [h, and_true]
  · rw [intLanes_frame_compare h, if_neg fun hc => h hc.2.2]
    rfl

theorem getP_intLanes (r : Nat) {l : Nat} (hl : l < 32) : bitN (getP (intLanes s k w op b) r).toNat l =
    if r ≠ 0 ∧ r = cmpPred w (b != .reg) ∧ bitN (guardLanes k w).toNat l = true ∧ intCompare op 0 0 ≠ none then
      intCompare op (getV k (fVA w) l) (intSecond k w b l) == some true
    else bitN (getP k r).toNat l := by
  by_cases h : intCompare op 0 0 = none
  · rw [intLanes_frame_result h, if_neg fun hc => hc.2.2.2 h]
    rfl
  · rw [intLanes, getP_mapLanes_mask k _ (fun _ => intLane_compare h) r hl]
    simp only [ne_eq, h, not_false_eq_true, and_true]

end

/-- Settles O1: every executing lane writes the same register, or for a compare the same predicate. -/
theorem vectorIntLanes : Obligations.VectorIntLanes := by
  intro s c g w op b hr hopc hop hvd hva hvb
  refine ⟨advanced (intLanes s (group s c g) w op b), ?_, ?_, fun r l hl => getV_intLanes r hl, fun r l hl => getP_intLanes r hl⟩
  · have hregs : (b != .reg || inAlloc (group s c g) (fVB w) 1) = true := by
      simpa [bne_iff_ne, ← imp_iff_not_or] using hvb
    have himm : decide (b ≠ .reg) = (b != .reg) := by cases b <;> rfl
    exact run_retire (by simp [hopc]) hr (by simp only [himm, hop, hvd, hva, hregs]; rfl)
  · rw [intLanes_frame]
    rfl

end Sys2Proof.Proofs
end

section
/-! Lane exchanges (O4: R126, R133, R134). -/
namespace Sys2Proof.Proofs

open Sys2Proof.Machine Sys2Proof.Laws

/-- The group's record after a lane exchange. -/
abbrev exchanged (s : State) (k : Group) (w : W64) (op : LaneOp) : Group :=
  mapLanes k (lanesOf (guardLanes k w)) (fun k' l => setV k' (fVD w) l (laneResult s k w op l))

section
variable {s : State} {k : Group} {w : W64} {op : LaneOp}

theorem exchanged_frame : exchanged s k w op = { k with v := (exchanged s k w op).v } :=
  mapLanes_setV_eq k _ _ _ _ fun _ _ _ => rfl

theorem getV_exchanged (r : Nat) {l : Nat} (hl : l < 32) : getV (exchanged s k w op) r l =
    if r = fVD w ∧ bitN (guardLanes k w).toNat l = true then laneResult s k w op l else getV k r l :=
  getV_mapLanes_mask k _ (fun _ _ => rfl) r hl

end

/-- A reduction by an operation with a neutral element, over at least one value. -/
theorem laneReduce_eq_foldl {op : LaneOp} {f e : W32} (he : ∀ x, laneCombine op e x f = x) {xs : List W32} (hx : xs ≠ []) :
    laneReduce op f xs = xs.foldl (fun x y => laneCombine op x y f) e := by
  cases xs with
  | nil => exact absurd rfl hx
  | cons a t => rw [List.foldl_cons, he]; rfl

/-- Settles O4: the executing lanes write VD; what each receives is the lane it names or the fold of all of them. -/
theorem laneExchangeLanes : Obligations.LaneExchangeLanes := by
  intro s c g w op hr hlo hhi hop hb hvd hva hvb
  refine ⟨advanced (exchanged s (group s c g) w op), ?_, ?_, fun r l hl hn => ?_, fun l hl he => ?_⟩
  · have hregs : (decide (op ≠ .shuffle) || inAlloc (group s c g) (fVB w) 1) = true := by
      simpa [← imp_iff_not_or] using hvb
    refine run_retire ?_ hr (by simp only [hop, hvd, hva, hregs]; rfl)
    cases op with
    | broadcast l => simp [hlo, hhi, hb l rfl]
    | _ => simp [hlo, hhi]
  · rw [exchanged_frame]
    rfl
  · rw [getV_advanced, getV_exchanged r hl]
    exact if_neg hn
  · have hv : getV (advanced (exchanged s (group s c g) w op)) (fVD w) l = laneResult s (group s c g) w op l := by
      rw [getV_advanced, getV_exchanged _ hl]
      exact if_pos ⟨rfl, he⟩
    have hne : (lanesOf (guardLanes (group s c g) w)).map (getV (group s c g) (fVA w)) ≠ [] :=
      List.ne_nil_of_mem (List.mem_map_of_mem ((mem_lanesOf _ l).2 ⟨hl, he⟩))
    rw [hv]
    refine ⟨?_, ?_, ?_, ?_⟩
    · rintro rfl hi
      exact if_pos hi
    · rintro n rfl
      rfl
    · rintro rfl
      exact laneReduce_eq_foldl BitVec.zero_add hne
    · rintro rfl
      exact laneReduce_eq_foldl (fun x => BitVec.zero_or) hne

end Sys2Proof.Proofs
end

section
/-! Instructions of a ready group that go on, park or wait: what each outcome answers (R130, R133, R134, R170). -/
namespace Sys2Proof.Proofs

open Sys2Proof.Machine Sys2Proof.Laws

/-- A group's record once it has parked (R170). -/
def parked (k : Group) (r : Park) : Group := { k with st := .parked, await := .none, park := r }

/-- The park record of an illegal instruction (R167). -/
def illegalPark (k : Group) (detail : Nat) : Park := { cause := 7, detail := detail, lanes := k.active }

theorem park_eq (s : State) (c g : Nat) (r : Park) :
    park s c g r = pmc (raiseIrq (setGroup s c g (parked (group s c g) r)) .cell c 0) c 0x0D 1 := rfl

theorem illegal_eq (s : State) (c g detail : Nat) : illegal s c g detail = park s c g (illegalPark (group s c g) detail) := rfl

@[simp] theorem park_part (s : State) (c g : Nat) (r : Park) : (park s c g r).part = s.part := by simp [park_eq]
@[simp] theorem park_pending (s : State) (c g : Nat) (r : Park) : (park s c g r).pending = s.pending := by simp [park_eq]
@[simp] theorem park_hbm (s : State) (c g : Nat) (r : Park) : (park s c g r).hbm = s.hbm := by simp [park_eq]
@[simp] theorem park_slices (s : State) (c g : Nat) (r : Park) : (park s c g r).slices = s.slices := by simp [park_eq]
@[simp] theorem park_regions (s : State) (c g : Nat) (r : Park) : (park s c g r).regions = s.regions := by simp [park_eq]
@[simp] theorem group_park (s : State) (c g : Nat) (r : Park) : group (park s c g r) c g = parked (group s c g) r := by simp [park_eq]

/-- Parking a group changes nothing of its cell but the group. -/
theorem cell_park (s : State) (c g : Nat) (r : Park) :
    cell (park s c g r) c = { cell s c with groups := mset {} (cell s c).groups g (parked (group s c g) r) } := by
  simp [park_eq, setGroup]

section
variable {s : State} {c g : Nat} {w : W64} {ok : Bool} {body : State → Option State}

/-- An instruction that changes its group's record alone. -/
theorem run_setGroup {k : Group} (hok : ok = true) (h : ready s c g w) (hb : body s = some (setGroup s c g k)) :
    run ok s (fun s => issue s c g w body) = .next (pmc (setGroup s c g k) c 2 1) :=
  run_issue hok h hb rfl rfl

/-- An instruction that only goes to the next one. -/
theorem run_nextPc (hok : ok = true) (h : ready s c g w) (hb : body s = some (nextPc s c g)) :
    run ok s (fun s => issue s c g w body) = .next (pmc (setGroup s c g (advanced (group s c g))) c 2 1) :=
  run_setGroup hok h hb

/-- An instruction that writes its group's record and goes to the next one. -/
theorem run_written {k : Group} (hok : ok = true) (h : ready s c g w) (hb : body s = some (retire s c g k)) :
    run ok s (fun s => issue s c g w body) = .next (pmc (setGroup s c g (advanced k)) c 2 1) :=
  run_setGroup hok h (by rw [hb, retire_eq]; rfl)

/-- An instruction that parks its group. -/
theorem run_park {r : Park} (hok : ok = true) (h : ready s c g w) (hb : body s = some (park s c g r)) :
    run ok s (fun s => issue s c g w body) = .next (pmc (park s c g r) c 2 1) :=
  run_issue hok h hb (park_part ..) (park_pending ..)

/-- An instruction that is illegal: the record, the interrupt source, and the counts of the park and of the issue. -/
theorem run_illegal {detail : Nat} (hok : ok = true) (h : ready s c g w) (hb : body s = some (illegal s c g detail)) :
    run ok s (fun s => issue s c g w body) = .next (pmc (pmc (raiseIrq (setGroup s c g
      { group s c g with st := .parked, await := .none, park := { cause := 7, detail := detail, lanes := (group s c g).active } }) .cell c 0) c 0x0D 1) c 2 1) :=
  run_park hok h hb

end

end Sys2Proof.Proofs
end

section
/-! Guards that select no lane, reserved fields and unassigned opcodes (O6: R133, R134, R170, R171). -/
namespace Sys2Proof.Proofs

open Sys2Proof.Machine Sys2Proof.Laws

/-- A group-wide instruction whose guard selects no lane only goes to the next one (R133). -/
theorem groupWide_skip {s : State} {c g : Nat} {w : W64} (f : State → Option State) (h : guardLanes (group s c g) w = 0) :
    groupWide s c g w f = some (nextPc s c g) := if_pos h

/-- The reserved field and the kind of a FENCE whose bits 51 to 0 are zero. -/
theorem fence_fields {w : W64} (h : ibits w 51 0 = 0) : ibits w 49 0 = 0 ∧ ibits w 51 50 = 0 := by
  simp only [ibits, bitsN, Nat.shiftRight_eq_div_pow] at h ⊢
  omega

section
variable {s : State} {c g : Nat} {w : W64} {ok : Bool} (hr : ready s c g w)
include hr

/-- A control instruction with a guard that selects no lane only goes to the next one. -/
theorem ctl_skip {reserved : Nat} {f : State → Option State} (hg : guardLanes (group s c g) w = 0) (hok : ok = true) (h0 : reserved = 0) :
    run ok s (ctlIssue c g w reserved fun s => groupWide s c g w f) = .next (pmc (setGroup s c g (advanced (group s c g))) c 2 1) :=
  run_nextPc hok hr ((if_neg (not_not.2 h0)).trans (groupWide_skip f hg))

/-- A fence of an assigned kind with a guard that selects no lane only goes to the next instruction. -/
theorem fence_skip (hg : guardLanes (group s c g) w = 0) (hok : ok = true) (h0 : ibits w 49 0 = 0) (hk : ibits w 51 50 ≠ 3) :
    run ok s (fence c g w) = .next (pmc (setGroup s c g (advanced (group s c g))) c 2 1) :=
  run_nextPc hok hr ((if_neg (not_not.2 h0)).trans ((if_neg hk).trans (groupWide_skip _ hg)))

/-- A copy with a guard that selects no lane only goes to the next instruction. -/
theorem copy_skip (hg : guardLanes (group s c g) w = 0) {cpd : Bool} (hok : ok = true) (h0 : ibits w 26 0 = 0) :
    run ok s (copyIssue c g w cpd) = .next (pmc (setGroup s c g (advanced (group s c g))) c 2 1) :=
  run_nextPc hok hr ((if_neg (not_not.2 h0)).trans (groupWide_skip _ hg))

/-- A control instruction with a nonzero reserved field is illegal. -/
theorem ctl_reserved {reserved : Nat} {f : State → Option State} (hok : ok = true) (h0 : reserved ≠ 0) :
    run ok s (ctlIssue c g w reserved f) = .next (pmc (illegal s c g 2) c 2 1) :=
  run_illegal hok hr (if_pos h0)

end

theorem guardFalseSkips : Claims.GuardFalseSkips := by
  intro s c g w hr hg i hi
  rcases hi with ⟨rfl, hop, h0⟩ | ⟨rfl, hop, h0⟩ | ⟨rfl, hop, h0⟩ | ⟨rfl, hop, h1, h0⟩ | ⟨rfl, hop, h0⟩ | ⟨rfl, hop, h0⟩ | ⟨rfl, hop, h0⟩ |
    ⟨rfl, hop, h0⟩ | ⟨rfl, hop, h0⟩ | ⟨rfl, hop, h0⟩ | ⟨rfl, hop, h0⟩ | ⟨rfl, hop, hk, h0⟩ | ⟨rfl, hop, hk, h0⟩ | ⟨rfl, hop, hk, h0⟩ |
    ⟨rfl, hop, h0⟩ | ⟨rfl, hop, h0⟩
  · exact ctl_skip hr hg (beq_iff_eq.2 hop) h0
  · exact ctl_skip hr hg (beq_iff_eq.2 hop) h0
  · exact ctl_skip hr hg (beq_iff_eq.2 hop) h0
  · exact run_nextPc (beq_iff_eq.2 hop) hr ((if_neg (by simp [h1, h0])).trans (groupWide_skip _ hg))
  · exact run_nextPc (beq_iff_eq.2 hop) hr ((if_neg (not_not.2 h0)).trans (groupWide_skip _ hg))
  · exact copy_skip hr hg (beq_iff_eq.2 hop) h0
  · exact copy_skip hr hg (beq_iff_eq.2 hop) h0
  · exact ctl_skip hr hg (beq_iff_eq.2 hop) h0
  · exact ctl_skip hr hg (beq_iff_eq.2 hop) h0
  · exact ctl_skip hr hg (beq_iff_eq.2 hop) h0
  · obtain ⟨h1, hk⟩ := fence_fields h0
    exact fence_skip hr hg (by simp [hop, hk]) h1 (by simp [hk])
  · exact fence_skip hr hg (by simp [hop, hk]) h0 (by simp [hk])
  · exact fence_skip hr hg (by simp [hop, hk]) h0 (by simp [hk])
  · exact run_nextPc (beq_iff_eq.2 hop) hr ((if_neg (not_not.2 h0)).trans ((if_neg hk).trans (groupWide_skip _ hg)))
  · exact ctl_skip hr hg (beq_iff_eq.2 hop) h0
  · exact ctl_skip hr hg (beq_iff_eq.2 hop) h0

theorem reservedFieldParks : Claims.ReservedFieldParks := by
  intro s c g w hr i hi
  rcases hi with ⟨rfl, hop, h0⟩ | ⟨rfl, hop, h0⟩ | ⟨rfl, hop, h0⟩ | ⟨rfl, hop, h0⟩ | ⟨rfl, hop, h0⟩ | ⟨rfl, hop, h0⟩ | ⟨rfl, hop, h0⟩ |
    ⟨rfl, hop, h0⟩ | ⟨rfl, hop, h0⟩ | ⟨rfl, hop, h0⟩ | ⟨rfl, hop, h0⟩ | ⟨rfl, hop, h0⟩ | ⟨rfl, hop, h0⟩ | ⟨rfl, hop, h0⟩ | ⟨rfl, hop, h0⟩ |
    ⟨rfl, hop, h0⟩ | ⟨rfl, hop, h0⟩
  case inr.inr.inr.inr.inr.inl => exact run_illegal (beq_iff_eq.2 hop) hr (if_pos (by simpa using h0))
  all_goals exact run_illegal (beq_iff_eq.2 hop) hr (if_pos h0)

/-- The opcodes outside the first four classes that no instruction has are in no row of the table. -/
theorem opcodeRow_unassigned {n : Nat} (h : n ≤ 0x3F ∨ (0xAA ≤ n ∧ n ≤ 0xAF) ∨ (0xB3 ≤ n ∧ n ≤ 0xBF) ∨
    n ∈ [0xC5, 0xC6, 0xC7, 0xCC, 0xCD, 0xCE, 0xCF, 0xD3, 0xD6, 0xD7, 0xDB, 0xDE, 0xDF] ∨ 0xE0 ≤ n) : n ≤ 0x3F ∨ opcodeRow n = false := by
  simp only [opcodeRow, List.contains_cons, List.contains_nil, List.mem_cons, List.not_mem_nil, Bool.or_eq_false_iff, Bool.and_eq_false_iff,
    decide_eq_false_iff_not, beq_eq_false_iff_ne, or_false, and_true] at h ⊢
  omega

theorem unassignedOpcodeParks : Claims.UnassignedOpcodeParks := by
  intro s c g w hr i hi
  rcases hi with ⟨b, rfl, hop⟩ | ⟨p, m, rfl, hlo, hhi⟩ | ⟨b, rfl, hlo, hhi⟩ | ⟨rfl, hlo, hhi⟩
  · refine run_illegal (body := fun s => some (illegal s c g 1)) ?_ hr rfl
    simpa using opcodeRow_unassigned hop
  · exact run_illegal (by simp [hlo, hhi, fpCompare]) hr (if_pos rfl)
  · exact run_illegal (by simp [hlo, hhi]) hr (if_pos rfl)
  · exact run_illegal (by simp [hlo, hhi]) hr (if_pos rfl)

/-- Settles O6: the three outcomes that the prologue of an instruction decides. -/
theorem guardsAndReservedFields : Obligations.GuardsAndReservedFields := ⟨guardFalseSkips, reservedFieldParks, unassignedOpcodeParks⟩

end Sys2Proof.Proofs
end

section
/-! Control instructions that move the PC, the masks and the stack (O7, O8: R133, R136, R139 to R141, R148). -/
namespace Sys2Proof.Proofs

open Sys2Proof.Machine Sys2Proof.Laws

/-- A group-wide control instruction whose reserved field is zero and whose guard selects a lane has its effect. -/
theorem ctl_body {s : State} {c g : Nat} {w : W64} {reserved : Nat} {x : Option State} {f : State → Option State} (h0 : reserved = 0)
    (hg : guardLanes (group s c g) w ≠ 0) : (if reserved ≠ 0 then x else groupWide s c g w f) = f s :=
  (if_neg (not_not.2 h0)).trans (groupWide_eq f hg)

/-- A group's record once it has jumped. -/
def jumped (k : Group) (a : Nat) : Group := { k with pc := a % 2 ^ 48 / 8 * 8, skipWatch := [] }

theorem jump_eq (s : State) (c g a : Nat) : jump s c g a = setGroup s c g (jumped (group s c g) a) := rfl

theorem jump_setGroup (s : State) (c g a : Nat) (k : Group) : jump (setGroup s c g k) c g a = setGroup s c g (jumped k a) := by
  rw [jump_eq, group_setGroup_self, setGroup_setGroup]

theorem nextPc_setGroup (s : State) (c g : Nat) (k : Group) : nextPc (setGroup s c g k) c g = setGroup s c g (advanced k) := by
  rw [nextPc_eq, group_setGroup_self, setGroup_setGroup]

theorem wrapN_lt (n : Nat) (x : Int) : wrapN n x < 2 ^ n := by
  rw [wrapN]
  omega

/-- A target relative to the PC is an address of 48 bits. -/
theorem jumped_relPc (k k' : Group) (n : Nat) : jumped k (relPc k' n) = { k with pc := relPc k' n / 8 * 8, skipWatch := [] } := by
  rw [jumped, relPc, Nat.mod_eq_of_lt (wrapN_lt 48 _)]

section
variable {s : State} {c g : Nat} {w : W64} {ok : Bool} {reserved : Nat} {f : State → Option State} (hr : ready s c g w)
  (hg : guardLanes (group s c g) w ≠ 0)
include hr hg

/-- A group-wide control instruction that changes its group's record alone. -/
theorem ctl_setGroup {k : Group} (hok : ok = true) (h0 : reserved = 0) (hf : f s = some (setGroup s c g k)) :
    run ok s (ctlIssue c g w reserved fun s => groupWide s c g w f) = .next (pmc (setGroup s c g k) c 2 1) :=
  run_setGroup hok hr ((ctl_body h0 hg).trans hf)

/-- A group-wide control instruction that parks its group. -/
theorem ctl_park {r : Park} (hok : ok = true) (h0 : reserved = 0) (hf : f s = some (park s c g r)) :
    run ok s (ctlIssue c g w reserved fun s => groupWide s c g w f) = .next (pmc (park s c g r) c 2 1) :=
  run_park hok hr ((ctl_body h0 hg).trans hf)

end

/-- Settles O7: by the state of the stack and of its top entry. -/
theorem convRejoins : Obligations.ConvRejoins := by
  intro s c g w hr hop h0 hg
  refine ⟨fun hk => ctl_setGroup hr hg (beq_iff_eq.2 hop) h0 ?_, fun e st hk => ⟨fun hj => ?_, fun hj hm hp => ?_, fun hj hm => ?_⟩⟩
  · simp only [hk, nextPc_eq, advanced]
  · refine ⟨_, ctl_park hr hg (r := illegalPark (group s c g) 5) (beq_iff_eq.2 hop) h0 ?_, ?_⟩
    · simp only [hk, if_pos hj]
      rfl
    · rw [pmc_group, group_park]
      rfl
  · refine ctl_setGroup hr hg (beq_iff_eq.2 hop) h0 ?_
    have hpend : (decide (e.pendMask ≠ 0) && decide (e.pendPc ≠ (group s c g).pc)) = true := by
      rw [decide_eq_true hm, decide_eq_true hp, Bool.and_self]
    simp only [hk, if_neg (not_not.2 hj), hpend, jump_setGroup]
    rfl
  · refine ctl_setGroup hr hg (beq_iff_eq.2 hop) h0 ?_
    have hpend : (decide (e.pendMask ≠ 0) && decide (e.pendPc ≠ (group s c g).pc)) = false := by
      rcases hm with hm | hm <;> simp [hm]
    simp only [hk, if_neg (not_not.2 hj), hpend, nextPc_setGroup]
    rfl

/-! ## BR (R139) -/

section
variable {s : State} {c g : Nat} {w : W64}

/-- Every active lane takes the branch. -/
theorem branch_all (hf : (group s c g).active &&& ~~~guardLanes (group s c g) w = 0) : branch s c g w =
    setGroup s c g { group s c g with pc := relPc (group s c g) (ibits w 51 28) / 8 * 8, skipWatch := [] } := by
  simp only [branch, if_pos hf, jump_eq, jumped_relPc]

section
variable (hf : (group s c g).active &&& ~~~guardLanes (group s c g) w ≠ 0)
include hf

/-- No active lane takes the branch. -/
theorem branch_none (ht : guardLanes (group s c g) w = 0) : branch s c g w = setGroup s c g (advanced (group s c g)) := by
  simp only [branch, if_neg hf, if_pos ht, nextPc_eq]

variable (ht : guardLanes (group s c g) w ≠ 0) (hj : ibits w 27 4 ≠ 0)
include ht hj

/-- The lanes that fall through join those that wait at the top entry. -/
theorem branch_merge {e : StackEnt} {st : List StackEnt} (hk : (group s c g).stack = e :: st) (he : e.join = relPc (group s c g) (ibits w 27 4))
    (hp : e.pendPc = ((group s c g).pc + 8) % 2 ^ 48) : branch s c g w =
      setGroup s c g { group s c g with
        pc := relPc (group s c g) (ibits w 51 28) / 8 * 8, skipWatch := [], active := guardLanes (group s c g) w
        stack := { e with pendMask := e.pendMask ||| ((group s c g).active &&& ~~~guardLanes (group s c g) w) } :: st } := by
  simp only [branch, if_neg hf, if_neg ht, if_neg hj, hk, he, hp, jump_setGroup, jumped_relPc]
  rfl

/-- The lanes that fall through wait in an entry of their own. -/
theorem branch_split (hl : (group s c g).stack.length < 32)
    (hk : ∀ e st, (group s c g).stack = e :: st → ¬(e.join = relPc (group s c g) (ibits w 27 4) ∧ e.pendPc = ((group s c g).pc + 8) % 2 ^ 48)) :
    branch s c g w = setGroup s c g { group s c g with
      pc := relPc (group s c g) (ibits w 51 28) / 8 * 8, skipWatch := [], active := guardLanes (group s c g) w
      stack := ⟨relPc (group s c g) (ibits w 27 4), (group s c g).active, ((group s c g).pc + 8) % 2 ^ 48,
        (group s c g).active &&& ~~~guardLanes (group s c g) w⟩ :: (group s c g).stack } := by
  simp only [branch, if_neg hf, if_neg ht, if_neg hj, jump_setGroup, jumped_relPc]
  cases hs : (group s c g).stack with
  | nil => rfl
  | cons e st =>
    have hne : (decide (e.join = relPc (group s c g) (ibits w 27 4)) && decide (e.pendPc = ((group s c g).pc + 8) % 2 ^ 48)) = false := by
      simpa using hk e st hs
    have hlen : ¬(e :: st).length ≥ 32 := by
      rw [← hs]
      omega
    simp only [hne, if_neg hlen]
    rfl

end
end

theorem branchCallReturn : Claims.BranchCallReturn := by
  intro s c g w hr k t f target join next
  refine ⟨fun hop h0 => ?_, fun hop h0 hg => ?_, fun hop h0 hg => ctl_setGroup hr hg (beq_iff_eq.2 hop) h0 rfl⟩
  · refine ⟨fun hf => ?_, fun hf ht => ?_, fun hf ht hj e st hk he hp => ?_, fun hf ht hj hl hk => ?_⟩
    all_goals refine run_setGroup (beq_iff_eq.2 hop) hr ((if_neg (not_not.2 h0)).trans (congrArg some ?_))
    · exact branch_all hf
    · exact branch_none hf ht
    · exact branch_merge hf ht hj hk he hp
    · exact branch_split hf ht hj hl hk
  · refine ctl_setGroup hr hg (beq_iff_eq.2 hop) h0 ?_
    simp only [jump_setGroup, jumped_relPc]
    rfl

theorem exitLeaves : Claims.ExitLeaves := by
  intro s c g w hr hop h0 hg
  refine ⟨fun hact hres => ?_, fun hres hD hF ht => ?_⟩
  · refine run_setGroup (beq_iff_eq.2 hop) hr ((if_neg (not_not.2 h0)).trans ((if_neg hg).trans ?_))
    simp only [exitLanes, if_neg hres, if_pos hact, nextPc_setGroup]
    rfl
  · refine run_setGroup (beq_iff_eq.2 hop) hr ((if_neg (not_not.2 h0)).trans ((if_neg hg).trans ?_))
    simp only [exitLanes, if_pos hres, endGroup, group_setGroup_self, hD, hF, busyToken, ht, freeGroup, setGroup_setGroup]
    rfl

/-- Settles O8: the branches of BR by the lanes that take it, and those of EXIT by the lanes that stay. -/
theorem branchesAndExits : Obligations.BranchesAndExits := ⟨branchCallReturn, exitLeaves⟩

end Sys2Proof.Proofs
end

section
/-! Fences, INV.RO, RDST and CLST (O9: R129, R151, R154). -/
namespace Sys2Proof.Proofs

open Sys2Proof.Machine Sys2Proof.Laws

section
variable {s : State} {c g : Nat} {w : W64} {ok : Bool} (hr : ready s c g w) (hg : guardLanes (group s c g) w ≠ 0)
include hr hg

/-- A fence that waits for nothing goes on at once. -/
theorem fence_done {kind : Nat} (hok : ok = true) (h0 : ibits w 49 0 = 0) (hk : ibits w 51 50 = kind) (h3 : kind ≠ 3)
    (hd : fenceDone (group s c g) kind = true) :
    run ok s (fence c g w) = .next (pmc (setGroup s c g (advanced (group s c g))) c 2 1) := by
  subst hk
  exact run_nextPc hok hr ((if_neg (not_not.2 h0)).trans ((if_neg h3).trans ((groupWide_eq _ hg).trans (if_pos hd))))

/-- FENCE.D waits while a write to this device has not been accepted. -/
theorem fenceD_waits (hok : ok = true) (h0 : ibits w 49 0 = 0) (hk : ibits w 51 50 = 1) (hd : fenceDone (group s c g) 1 = false) :
    run ok s (fence c g w) = .next (pmc (setGroup s c g { group s c g with st := .wait, await := .fence 1 }) c 2 1) := by
  refine run_setGroup hok hr ((if_neg (not_not.2 h0)).trans ?_)
  simp [hk, groupWide_eq _ hg, hd]

end

/-- A cell after a write of one of its groups. -/
theorem cell_setGroup (s : State) (c g : Nat) (k : Group) (d : Nat) :
    cell (setGroup s c g k) d = if d = c then { cell s c with groups := mset {} (cell s c).groups g k } else cell s d :=
  cell_setCell ..

/-- INV.RO leaves the groups of its cell alone. -/
theorem group_invRo (s : State) (c g : Nat) (i k d : Bool) : group (invRo s c i k d) c g = group s c g := by
  simp [group, invRo]

/-- What INV.RO does to a cell. -/
theorem cell_invRo (s : State) (c : Nat) (i k d : Bool) (e : Nat) : cell (invRo s c i k d) e = if e = c then { cell s c with
    icache := if i then [] else (cell s c).icache, ccache := if k then [] else (cell s c).ccache, dcache := if d then [] else (cell s c).dcache }
    else cell s e := cell_setCell ..

theorem fencesAndInvRo : Claims.FencesAndInvRo := by
  intro s c g w hr hg k go
  refine ⟨fun hop h0 => ?_, fun hop hk h0 => ⟨fun hD => ?_, fun hD => ?_⟩, fun hop hk h0 hD hF => ?_, fun hop h0 hk => ?_⟩
  · obtain ⟨h1, hk⟩ := fence_fields h0
    exact fence_done hr hg (by simp [hop, hk]) h1 hk (by decide) rfl
  · exact fence_done hr hg (by simp [hop, hk]) h0 hk (by decide) (by simp [fenceDone, show (group s c g).outD = [] from hD])
  · exact fenceD_waits hr hg (by simp [hop, hk]) h0 hk (by simpa [fenceDone] using hD)
  · exact fence_done hr hg (by simp [hop, hk]) h0 hk (by decide)
      (by simp [fenceDone, show (group s c g).outD = [] from hD, show (group s c g).outF = [] from hF])
  · refine ⟨_, run_issue (beq_iff_eq.2 hop) hr ((if_neg (not_not.2 h0)).trans ((if_neg hk).trans (groupWide_eq _ hg))) rfl rfl, ?_⟩
    simp only [pmc_cell, pmc_group, pmc_hbm, pmc_slices, nextPc_eq, group_setGroup_self, group_invRo, cell_setGroup, cell_invRo]
    exact ⟨rfl, rfl, rfl, rfl, fun d hd => by rw [if_neg hd, if_neg hd], rfl, rfl, rfl⟩

@[simp] theorem setU_pc (k : Group) (r : Nat) (x : W64) : (setU k r x).pc = k.pc := by
  rw [setU_frame]

theorem statusWord : Claims.StatusWord := by
  intro s c g w hr hg k
  refine ⟨fun hop h0 => ?_, fun hop h0 => ⟨_, ctl_setGroup hr hg (beq_iff_eq.2 hop) h0 (congrArg some (retire_eq ..)), fun i hi => ?_⟩⟩
  · exact ctl_setGroup hr hg (beq_iff_eq.2 hop) h0 (congrArg some (by rw [retire_eq, setU_pc]))
  · rw [bitN_eq_testBit, bitN_eq_testBit, bitN_eq_testBit, BitVec.testBit_toNat, BitVec.testBit_toNat, BitVec.testBit_toNat, BitVec.getLsbD_and,
      BitVec.getLsbD_not, BitVec.getLsbD_ofNat, ibits, testBit_bitsN, BitVec.testBit_toNat]
    simp [hi, k]

/-- Settles O9: fences by what they wait for, INV.RO by the caches that it names, and the two instructions on GSTAT. -/
theorem fencesAndStatusWord : Obligations.FencesAndStatusWord := ⟨fencesAndInvRo, statusWord⟩

end Sys2Proof.Proofs
end

section
/-! MXI and MXW of a diverged group (O16: R142). -/
namespace Sys2Proof.Proofs

open Sys2Proof.Machine Sys2Proof.Laws

/-- Settles O16: the check of the masks comes before anything is queued or consumed. -/
theorem divergentMatrixParks : Obligations.DivergentMatrixParks := by
  intro s c g w hr hg hdiv i d hi
  have hparks : exec i s = .next (pmc (park s c g { cause := 4, detail := d, lanes := (group s c g).active }) c 2 1) := by
    rcases hi with ⟨rfl, rfl, hop, h1, h0, ha⟩ | ⟨rfl, rfl, hop, h0⟩
    · refine run_park (beq_iff_eq.2 hop) hr ((if_neg (by simp [h1, h0])).trans ((groupWide_eq _ hg).trans ?_))
      have hal : ((getU (group s c g) (ibits w 51 47)).toNat + ibits w 43 24) % 2 ^ 20 % 64 = 0 := by omega
      exact (if_neg (not_not.2 hal)).trans (if_pos hdiv)
    · exact run_park (beq_iff_eq.2 hop) hr ((if_neg (not_not.2 h0)).trans ((groupWide_eq _ hg).trans (if_pos hdiv)))
  refine ⟨_, hparks, ?_, ?_⟩
  · rw [pmc_group, group_park]
    rfl
  · rw [pmc_cell, cell_park]

end Sys2Proof.Proofs
end

section
/-! Device loads and stores to HBM (O11, O12: R145, R146, R151, R241, R267). -/
namespace Sys2Proof.Proofs

open Sys2Proof.Machine Sys2Proof.Laws

/-! ## What counting and sending leave of the registers -/

/-- An occurrence that the PMCs count changes no steady register, except in the controllers' pages. -/
theorem reg_pmc_steady (s : State) (c ev n : Nat) {k : PageKind} {i x : Nat} (hx : Steady x) (hn : NotIrc k i) :
    reg (pmc s c ev n) k i x = reg s k i x := by
  have hfrom : ∀ m, reg (pmcFrom s c ev n m) k i x = reg s k i x := fun m => by
    induction m with
    | zero => rfl
    | succ m ih =>
      rw [pmcFrom]
      split
      · rw [reg_bump_steady _ hx hn, ih]
      · exact ih
  exact hfrom 8

section
variable {s : State} {c : Nat} {src : Src} {label : Byte} {wins : W32} {line : Nat} {op : ReqOp}

theorem reg_niSend_steady {k : PageKind} {i x : Nat} (hx : Steady x) (hn : NotIrc k i) :
    reg (niSend s c src label wins line op).1 k i x = reg s k i x :=
  reg_pmc_steady _ c _ 1 hx hn

/-- A request that is sent does not end the phase RUN. -/
theorem cellLabel_niSend (x : Byte) : cellLabel (niSend s c src label wins line op).1 x = cellLabel s x := by
  simp only [cellLabel, phase, fld, reg_niSend_steady (.inr (by decide : 0x100 ≤ f_CHIP_STATE_PHASE.off)) notIrc_chip]
  rfl

end

/-! ## Reads of lines -/

/-- A read of the words that the lanes of a group touch in a line. -/
def lineRead (label : Byte) (la : List (Nat × Nat)) (n c g : Nat) (q : Req) : Prop :=
  q.src = .group c g ∧ q.op = .read (laneWords la n q.line) ∧ q.label = label ∧ q.granted = false

/-- Every line that is admitted to HBM is read by one request, which is awaited. -/
theorem asks_sendReads {c g n : Nat} {la : List (Nat × Nat)} {es : List (Nat × Entry)} (h : ∀ e ∈ es, e.2 = .hbm) (s : State) :
    ∃ new, Asks s (sendReads s c g n la false es).1 new ∧ new.map (·.line) = es.map (·.1) ∧
      (∀ q ∈ new, lineRead (cellLabel s (group s c g).label) la n c g q) ∧
      (sendReads s c g n la false es).2.1 = new.map (fun q => (q.id, q.line)) ∧ (sendReads s c g n la false es).2.2 = [] := by
  induction es generalizing s with
  | nil => exact ⟨[], .refl, rfl, by simp, rfl, rfl⟩
  | cons e t ih =>
    obtain ⟨l, e⟩ := e
    obtain rfl : e = .hbm := h (l, e) List.mem_cons_self
    have hask := asks_niSend (s := s) (c := c) (.group c g) (cellLabel s (group s c g).label) (winsOf s (group s c g).lead) l (.read (laneWords la n l))
    obtain ⟨new, hnew, hline, hreads, hids, hgot⟩ := ih (fun x hx => h x (List.mem_cons_of_mem _ hx))
      (niSend s c (.group c g) (cellLabel s (group s c g).label) (winsOf s (group s c g).lead) l (.read (laneWords la n l))).1
    rw [group_of_cells hask.cells, cellLabel_niSend] at hreads
    refine ⟨_ :: new, hask.trans hnew, congrArg (List.cons l) hline, ?_, congrArg (List.cons _) hids, hgot⟩
    exact List.forall_mem_cons.2 ⟨⟨rfl, rfl, rfl, rfl⟩, hreads⟩

/-- A group that has requests out waits for them. -/
theorem awaitMem_eq {s : State} {c g : Nat} {a : AwaitMem} (h : a.ids ≠ []) (wait : Bool) :
    awaitMem s c g a wait = setGroup s c g { group s c g with await := .mem { a with born := s.time.toNat }, st := if wait then .wait else .run } :=
  if_neg (by simpa using h)

/-! ## Full/empty accesses -/

/-- The full/empty access of a lane: a store carries its two words of VDS. -/
def feReq (k : Group) (vd : Nat) (store : Bool) (mode : Nat) (x : Nat × Nat) : ReqOp :=
  .fe store mode (x.2 % 256 / 8) (if store then BitVec.ofNat 64 (laneValue k vd 8 x.1) else 0) false

theorem asks_sendFe {c g : Nat} {k : Group} {vd : Nat} {store : Bool} {mode : Nat} (la : List (Nat × Nat)) (s : State) :
    ∃ new, Asks s (sendFe s c g k vd store mode la).1 new ∧
      new.map (fun q => (q.line, q.op)) = la.map (fun x => (lineOf x.2, feReq k vd store mode x)) ∧
      (sendFe s c g k vd store mode la).2.map (·.1) = new.map (·.id) := by
  induction la generalizing s with
  | nil => exact ⟨[], .refl, rfl, rfl⟩
  | cons x t ih =>
    have hask := asks_niSend (s := s) (c := c) (.group c g) (cellLabel s k.label) (winsOf s k.lead) (lineOf x.2) (feReq k vd store mode x)
    obtain ⟨new, hnew, hmap, hids⟩ := ih (niSend s c (.group c g) (cellLabel s k.label) (winsOf s k.lead) (lineOf x.2) (feReq k vd store mode x)).1
    exact ⟨_ :: new, hask.trans hnew, congrArg (List.cons _) hmap, congrArg (List.cons _) hids⟩

theorem sendFe_ne_nil {s : State} {c g : Nat} {k : Group} {vd : Nat} {store : Bool} {mode : Nat} {la : List (Nat × Nat)} (h : la ≠ []) :
    (sendFe s c g k vd store mode la).2 ≠ [] := by
  cases la with
  | nil => exact absurd rfl h
  | cons x t => exact List.cons_ne_nil _ _

/-- Lanes of 8 bytes in the window raise no fault of their own (R241). -/
theorem feFaults_nil {s : State} {la : List (Nat × Nat)} (h : ∀ x ∈ la, feLine s (lineOf x.2) ≠ none) : feFaults s 8 la = [] := by
  rw [feFaults, List.filter_eq_nil_iff.2, List.map_nil]
  intro x hx
  simpa [Option.isNone_iff_eq_none] using h x hx

/-- Requests join a group's unaccepted writes; nothing is sent. -/
theorem requests_addOut (ids : List (Nat × Nat)) (s : State) (c g : Nat) :
    Requests s (ids.foldl (fun s x => addOut s c g x.1 false) s) [] ∧
      group (ids.foldl (fun s x => addOut s c g x.1 false) s) c g =
        { group s c g with outD := (group s c g).outD ++ ids.map (·.1) } := by
  induction ids generalizing s with
  | nil => exact ⟨.refl, by simp⟩
  | cons x t ih =>
    obtain ⟨hreq, hgroup⟩ := ih (addOut s c g x.1 false)
    refine ⟨((Requests.refl (s := s)).setGroup c g _).trans hreq, ?_⟩
    rw [List.foldl_cons, hgroup, addOut, group_setGroup_self]
    simp

/-- A full/empty access that waits for its requests. -/
theorem run_fe_waits {s : State} {c g : Nat} {ok : Bool} {f : State → State} {k : Group} {vd d kind mode : Nat} {store : Bool}
    {la : List (Nat × Nat)} (hok : ok = true) (hr : inReset s = false) (hla : la ≠ [])
    (hf : f s = pmc (awaitMem (sendFe s c g k vd store mode la).1 c g ⟨kind, d, 8, la, (sendFe s c g k vd store mode la).2, [], 0⟩ true) c 2 1) :
    ∃ t a new, run ok s f = .next t ∧ Requests s t new ∧
      new.map (fun q => (q.line, q.op)) = la.map (fun x => (lineOf x.2, feReq k vd store mode x)) ∧
      group t c g = { group s c g with await := .mem a, st := .wait } ∧ a.kind = kind ∧ a.vd = d ∧ a.lanes = la := by
  obtain ⟨new, hask, hmap, -⟩ := asks_sendFe (c := c) (g := g) (k := k) (vd := vd) (store := store) (mode := mode) la s
  have hreq (v : Group) := (hask.toRequests.setGroup c g v).pmc c 2 1
  rw [run_eq hok hr, hf, awaitMem_eq (by exact sendFe_ne_nil hla), group_of_cells hask.cells, done_eq (hreq _).part (hreq _).pending]
  exact ⟨_, _, new, rfl, hreq _, hmap, (pmc_group ..).trans (group_setGroup_self ..), rfl, rfl, rfl⟩

/-! ## Loads (R145, R146, R241) -/

section
variable {s : State} {c g : Nat} {w : W64} {n : Nat} (hr : ready s c g w) (hmod : modOnly w 0x19 = true) (hn : sizeBytes (mSIZE w) = some n)
  (hvd : inAlloc (group s c g) (mVDS w) (regsOf n) = true) (hva : bitN (mMOD w) 0 = false → inAlloc (group s c g) (mVA w) 1 = true)
  (hg : guardLanes (group s c g) w ≠ 0)
include hr hmod hn hvd hva hg

theorem ldd_eq (hmode : ibits w 28 27 ≠ 3) (hd : deviceOk s c g w n 4 true false) :
    let la := laneAddrs (group s c g) w false
    let sent := sendReads s c g n la false (hbmEntries la)
    ldd c g w s = pmc (awaitMem sent.1 c g ⟨0, mVDS w, n, la, sent.2.1, sent.2.2, 0⟩ false) c 2 1 := by
  rw [ldd, memIssue_eq hr (by simp [hn, hmod, hmode]) (by simpa [hn] using inAlloc_addrRegs hvd hva) hg]
  simp only [hn, Option.getD_some, loadEntry_of_deviceOk hd]

/-- LDD sends a read for each line that its lanes touch, and waits. -/
theorem ldd_asks {ok : Bool} (hok : ok = true) (hmode : ibits w 28 27 ≠ 3) (hd : deviceOk s c g w n 4 true false) :
    ∃ t a new, run ok s (ldd c g w) = .next t ∧ Requests s t new ∧
      new.map (·.line) = (laneLines (laneAddrs (group s c g) w false)).map (·.1) ∧
      (∀ q ∈ new, lineRead (cellLabel s (group s c g).label) (laneAddrs (group s c g) w false) n c g q) ∧
      group t c g = { group s c g with await := .mem a } ∧ a.kind = 0 ∧ a.vd = mVDS w ∧ a.size = n ∧
      a.lanes = laneAddrs (group s c g) w false ∧ a.ids = new.map (fun q => (q.id, q.line)) ∧ a.got = [] := by
  obtain ⟨new, hask, hline, hreads, hids, hgot⟩ := asks_sendReads (c := c) (g := g) (n := n) (la := laneAddrs (group s c g) w false)
    (es := hbmEntries (laneAddrs (group s c g) w false)) (fun e he => by obtain ⟨x, -, rfl⟩ := List.mem_map.1 he; rfl) s
  have hlines : new.map (·.line) = (laneLines (laneAddrs (group s c g) w false)).map (·.1) := by
    rw [hline, hbmEntries, List.map_map]
    rfl
  have hne : new ≠ [] := fun h0 => by
    obtain ⟨x, t, hx⟩ := List.exists_cons_of_ne_nil (laneAddrs_ne_nil hg false)
    have := lineOf_mem_laneLines (hx ▸ List.mem_cons_self : x ∈ laneAddrs (group s c g) w false)
    rw [← hlines, h0] at this
    exact List.not_mem_nil this
  have hreq (v : Group) := (hask.toRequests.setGroup c g v).pmc c 2 1
  have hst := st_of_ready hr
  rw [run_eq hok hr.1, ldd_eq hr hmod hn hvd hva hg hmode hd]
  dsimp only
  rw [awaitMem_running (by simpa [hids] using hne) (by rw [group_of_cells hask.cells, hst]), group_of_cells hask.cells, 
    done_eq (hreq _).part (hreq _).pending]
  exact ⟨_, _, new, rfl, hreq _, hlines, hreads, (pmc_group ..).trans (group_setGroup_self ..), rfl, rfl, rfl, rfl, hids, hgot⟩

theorem feLoad_eq {mode : Nat} (h8 : n = 8) (hfe : ∀ x ∈ laneAddrs (group s c g) w false, feLine s (lineOf x.2) ≠ none)
    (hd : deviceOk s c g w n 4 true false) :
    let la := laneAddrs (group s c g) w false
    let sent := sendFe s c g (group s c g) (mVDS w) false mode la
    feOp c g w false mode s = pmc (awaitMem sent.1 c g ⟨4, mVDS w, 8, la, sent.2, [], 0⟩ true) c 2 1 := by
  subst h8
  rw [feOp, memIssue_eq hr (by simp [hn, hmod]) (by simpa [hn] using inAlloc_addrRegs hvd hva) hg]
  simp [hn, feFaults_nil hfe, loadEntry_of_deviceOk hd]

end

/-- Settles O11: each line, or each lane of a full/empty load, is asked for once. -/
theorem deviceLoadsRequest : Obligations.DeviceLoadsRequest := by
  intro s c g w n hr hop hmod hn hvd hva hg hd
  refine ⟨fun hmode => ?_, fun h8 hfe mode i hi hmode => ?_⟩
  · obtain ⟨t, a, new, ht, hreq, hline, hreads, hgroup, ha⟩ :=
      ldd_asks hr hmod hn hvd hva hg (ok := opc w == 0xA2 && (ibits w 28 27 == 0 || ibits w 28 27 == 3)) (by simp [hop, hmode]) (by simp [hmode]) hd
    obtain ⟨hkind, hdest, hsize, hlanes, hids, hgot⟩ := ha
    exact ⟨t, a, new, ht, hreq.reqs, hline, hreads, hgroup, hkind, hdest, hsize, hlanes, hids, hgot, hreq.hbm, hreq.slices⟩
  · have hrun : exec i s = run true s (feOp c g w false mode) := by
      rcases hi with ⟨rfl, rfl⟩ | ⟨rfl, rfl⟩
      · exact congrArg (run · s (feOp c g w false 1)) (by simp [hop, hmode])
      · exact congrArg (run · s (feOp c g w false 2)) (by simp [hop, hmode])
    obtain ⟨t, a, new, ht, hreq, hmap, hgroup, hkind, hdest, hlanes⟩ :=
      run_fe_waits (f := feOp c g w false mode) rfl hr.1 (laneAddrs_ne_nil hg false) (feLoad_eq hr hmod hn hvd hva hg h8 hfe hd)
    exact ⟨t, a, new, hrun.trans ht, hreq.reqs, hmap, hgroup, hkind, hdest, hlanes, hreq.hbm, hreq.slices⟩

/-! ## Stores (R145, R151, R241, R267) -/

/-- The write of a line: the bytes that its lanes store, merged in lane order, and a check value when they are the whole line. -/
def mergedWrite (k : Group) (vd n : Nat) (la : List (Nat × Nat)) (l : Nat) : ReqOp :=
  .write (mergeLanes k vd n l la).1 (mergeLanes k vd n l la).2 0 ((mergeLanes k vd n l la).2 == BitVec.allOnes 256)
    (if (mergeLanes k vd n l la).2 == BitVec.allOnes 256 then checkValue .plain l (mergeLanes k vd n l la).1 else 0) none

/-- A posted request of a group, with its source. -/
theorem posts_sendOp_src {s : State} {c g : Nat} (line : Nat) (op : ReqOp) :
    ∃ q, Posts s (sendOp s c g line op) c g [q] ∧ q.src = .group c g ∧ q.line = line ∧ q.op = op := by
  have hask := asks_niSend (s := s) (c := c) (.group c g) (cellLabel s (group s c g).label) (winsOf s (group s c g).lead) line op
  refine ⟨_, ⟨hask.toRequests.setGroup c g _, ?_⟩, rfl, rfl, rfl⟩
  simp only [sendOp, addOut, group_setGroup_self, group_of_cells hask.cells]
  rfl

/-- Posted requests for each element of a list, in its order, with their sources. -/
theorem posts_foldl_src {α : Type} {c g : Nat} (line : α → Nat) (op : α → ReqOp) (l : List α) (s : State) :
    ∃ new, Posts s (l.foldl (fun s x => sendOp s c g (line x) (op x)) s) c g new ∧ (∀ q ∈ new, q.src = .group c g) ∧
      new.map (fun q => (q.line, q.op)) = l.map (fun x => (line x, op x)) := by
  induction l generalizing s with
  | nil => exact ⟨[], .refl, by simp, rfl⟩
  | cons x t ih =>
    obtain ⟨q, hq, hsrc, hline, hop⟩ := posts_sendOp_src (s := s) (c := c) (g := g) (line x) (op x)
    obtain ⟨new, hnew, hsrcs, hmap⟩ := ih (sendOp s c g (line x) (op x))
    exact ⟨q :: new, hq.trans hnew, List.forall_mem_cons.2 ⟨hsrc, hsrcs⟩, by rw [List.map_cons, List.map_cons, hmap, hline, hop]⟩

section
variable {s : State} {c g : Nat} {w : W64} {n : Nat} (hr : ready s c g w) (hmod : modOnly w 0x19 = true) (hn : sizeBytes (mSIZE w) = some n)
  (hvd : inAlloc (group s c g) (mVDS w) (regsOf n) = true) (hva : bitN (mMOD w) 0 = false → inAlloc (group s c g) (mVA w) 1 = true)
  (hg : guardLanes (group s c g) w ≠ 0)
include hr hmod hn hvd hva hg

theorem std_eq (hmode : ibits w 28 27 ≠ 3) (hd : deviceOk s c g w n 2 false true) :
    let la := laneAddrs (group s c g) w false
    std c g w s = pmc (nextPc ((laneLines la).foldl (fun t x => sendOp t c g x.1 (mergedWrite (group s c g) (mVDS w) n la x.1)) s) c g) c 2 1 := by
  rw [std, memIssue_eq hr (by simp [hn, hmod, hmode]) (by simpa [hn] using inAlloc_addrRegs hvd hva) hg]
  simp only [hn, Option.getD_some, storeEntry_of_deviceOk hd]
  rw [List.foldl_ext _ _ _ fun t x hx => by rw [entryFor_hbmEntries (List.mem_map_of_mem hx)]]
  rfl

/-- STD posts a write for each line that its lanes touch, and goes on. -/
theorem std_posts {ok : Bool} (hok : ok = true) (hmode : ibits w 28 27 ≠ 3) (hd : deviceOk s c g w n 2 false true) :
    ∃ t new, run ok s (std c g w) = .next t ∧ Requests s t new ∧ (∀ q ∈ new, q.src = .group c g) ∧
      new.map (fun q => (q.line, q.op)) = (laneLines (laneAddrs (group s c g) w false)).map (fun x =>
        (x.1, mergedWrite (group s c g) (mVDS w) n (laneAddrs (group s c g) w false) x.1)) ∧
      group t c g = advanced { group s c g with outD := (group s c g).outD ++ new.map (·.id) } := by
  obtain ⟨new, hpost, hsrc, hmap⟩ := posts_foldl_src (c := c) (g := g) (fun x : Nat × Nat => x.1)
    (fun x => mergedWrite (group s c g) (mVDS w) n (laneAddrs (group s c g) w false) x.1) (laneLines (laneAddrs (group s c g) w false)) s
  have hreq (v : Group) := (hpost.toRequests.setGroup c g v).pmc c 2 1
  rw [run_eq hok hr.1, std_eq hr hmod hn hvd hva hg hmode hd, nextPc_eq, done_eq (hreq _).part (hreq _).pending]
  refine ⟨_, new, rfl, hreq _, hsrc, hmap, ?_⟩
  rw [pmc_group, group_setGroup_self, hpost.group]

theorem feStore_eq {mode : Nat} (h8 : n = 8) (hfe : ∀ x ∈ laneAddrs (group s c g) w false, feLine s (lineOf x.2) ≠ none)
    (hd : deviceOk s c g w n 2 false true) :
    let la := laneAddrs (group s c g) w false
    let sent := sendFe s c g (group s c g) (mVDS w) true mode la
    feOp c g w true mode s = pmc (if mode = 2 then nextPc (sent.2.foldl (fun s x => addOut s c g x.1 false) sent.1) c g
      else awaitMem sent.1 c g ⟨5, 0, 8, la, sent.2, [], 0⟩ true) c 2 1 := by
  subst h8
  have halign : alignFaults (laneAddrs (group s c g) w false) 8 (aspaceOf s) = [] := alignFaults_nil _ fun x hx => (hd.1 x hx).1
  rw [feOp, memIssue_eq hr (by simp [hn, hmod]) (by simpa [hn] using inAlloc_addrRegs hvd hva) hg]
  simp [hn, halign, feFaults_nil hfe, storeEntry_of_deviceOk hd, sendFe_ne_nil (laneAddrs_ne_nil hg false)]

/-- STF posts a write for each lane and goes on. -/
theorem stf_posts {ok : Bool} (hok : ok = true) (h8 : n = 8) (hfe : ∀ x ∈ laneAddrs (group s c g) w false, feLine s (lineOf x.2) ≠ none)
    (hd : deviceOk s c g w n 2 false true) :
    ∃ t new, run ok s (feOp c g w true 2) = .next t ∧ Requests s t new ∧
      new.map (fun q => (q.line, q.op)) = (laneAddrs (group s c g) w false).map (fun x => (lineOf x.2, feReq (group s c g) (mVDS w) true 2 x)) ∧
      group t c g = advanced { group s c g with outD := (group s c g).outD ++ new.map (·.id) } := by
  obtain ⟨new, hask, hmap, hids⟩ := asks_sendFe (c := c) (g := g) (k := group s c g) (vd := mVDS w) (store := true) (mode := 2)
    (laneAddrs (group s c g) w false) s
  obtain ⟨hadd, hgroup⟩ := requests_addOut (sendFe s c g (group s c g) (mVDS w) true 2 (laneAddrs (group s c g) w false)).2
    (sendFe s c g (group s c g) (mVDS w) true 2 (laneAddrs (group s c g) w false)).1 c g
  have hreq (v : Group) := ((hask.toRequests.trans hadd).setGroup c g v).pmc c 2 1
  rw [List.append_nil] at hreq
  rw [run_eq hok hr.1, feStore_eq hr hmod hn hvd hva hg h8 hfe hd]
  dsimp only
  rw [if_pos rfl, nextPc_eq, done_eq (hreq _).part (hreq _).pending]
  refine ⟨_, new, rfl, hreq _, hmap, ?_⟩
  rw [pmc_group, group_setGroup_self, hgroup, group_of_cells hask.cells, hids]

end

/-- Settles O12: each line is written once with what its lanes store, and each lane of a full/empty store sends its own access. -/
theorem deviceStoresPost : Obligations.DeviceStoresPost := by
  intro s c g w n hr hop hmod hn hvd hva hg hd
  refine ⟨fun hmode => ?_, fun h8 hfe => ⟨fun hmode => ?_, fun hmode => ?_⟩⟩
  · obtain ⟨t, new, ht, hreq, hsrc, hmap, hgroup⟩ :=
      std_posts hr hmod hn hvd hva hg (ok := opc w == 0xA3 && (ibits w 28 27 == 0 || ibits w 28 27 == 3)) (by simp [hop, hmode]) (by simp [hmode]) hd
    refine ⟨t, new, ht, hreq.reqs, ?_, fun q hq => ?_, hgroup, hreq.hbm, hreq.slices⟩
    · simpa [Function.comp_def] using congrArg (List.map Prod.fst) hmap
    · obtain ⟨x, -, hx⟩ := List.mem_map.1 (hmap ▸ List.mem_map_of_mem hq)
      obtain ⟨hline, hop⟩ := Prod.mk.inj hx
      rw [← hop, ← hline]
      exact ⟨_, hsrc q hq, rfl⟩
  · have heq := feStore_eq hr hmod hn hvd hva hg (mode := 1) h8 hfe hd
    dsimp only at heq
    rw [if_neg (by decide)] at heq
    obtain ⟨t, a, new, ht, hreq, hmap, hgroup, hkind, -, -⟩ :=
      run_fe_waits (ok := opc w == 0xA3 && ibits w 28 27 == 1) (by simp [hop, hmode]) hr.1 (laneAddrs_ne_nil hg false) heq
    exact ⟨t, a, new, ht, hreq.reqs, hmap, hgroup, hkind, hreq.hbm, hreq.slices⟩
  · obtain ⟨t, new, ht, hreq, hmap, hgroup⟩ :=
      stf_posts hr hmod hn hvd hva hg (ok := opc w == 0xA3 && ibits w 28 27 == 2) (by simp [hop, hmode]) h8 hfe hd
    exact ⟨t, new, ht, hreq.reqs, hmap, hgroup, hreq.hbm, hreq.slices⟩

end Sys2Proof.Proofs
end

section
/-! Local memory: the bytes that a read gives and that a store writes where no word is poisoned or upset (O10, O14, O23: R143, R144, R371). -/
namespace Sys2Proof.Proofs

open Sys2Proof.Machine Sys2Proof.Laws

/-! ## Bytes of words -/

/-- A bit of a byte of a number. -/
theorem getLsbD_byteOf (v i : Nat) {b : Nat} (hb : b < 8) : (byteOf v i).getLsbD b = v.testBit (8 * i + b) := by
  rw [byteOf, BitVec.getLsbD_ofNat, decide_eq_true hb, Bool.true_and, Nat.testBit_shiftRight]

theorem byteOf_ext {v u i j : Nat} (h : ∀ b, b < 8 → v.testBit (8 * i + b) = u.testBit (8 * j + b)) : byteOf v i = byteOf u j :=
  BitVec.eq_of_getLsbD_eq fun b hb => by rw [getLsbD_byteOf v i hb, getLsbD_byteOf u j hb, h b hb]

/-- A byte of packed ones. -/
theorem byteOf_pack (f : Nat → Nat) {n i : Nat} (h : i < n) : byteOf (packN 8 f n) i = BitVec.ofNat 8 (f i) :=
  BitVec.eq_of_getLsbD_eq fun b hb => by
    rw [getLsbD_byteOf _ _ hb, testBit_packN 8 f h hb, BitVec.getLsbD_ofNat, decide_eq_true hb, Bool.true_and]

/-- A byte of a 64-bit word. -/
theorem byteOf_word (x : Nat) {i : Nat} (h : i < 8) : byteOf (BitVec.ofNat 64 x).toNat i = byteOf x i :=
  byteOf_ext fun b hb => by
    have hlt : 8 * i + b < 64 := by omega
    rw [BitVec.testBit_toNat, BitVec.getLsbD_ofNat, decide_eq_true hlt, Bool.true_and]

/-- A byte of a value that is moved up by whole bytes. -/
theorem byteOf_shiftLeft (v : Nat) {o i : Nat} (h : o ≤ i) : byteOf (v <<< (8 * o)) i = byteOf v (i - o) :=
  byteOf_ext fun b _ => by
    have hge : 8 * i + b ≥ 8 * o := by omega
    rw [Nat.testBit_shiftLeft, decide_eq_true hge, Bool.true_and, show 8 * i + b - 8 * o = 8 * (i - o) + b by omega]

/-- A byte of a value that is moved down by whole bytes. -/
theorem byteOf_shiftRight (v o i : Nat) : byteOf (v >>> (8 * o)) i = byteOf v (o + i) :=
  byteOf_ext fun b _ => by rw [Nat.testBit_shiftRight, show 8 * o + (8 * i + b) = 8 * (o + i) + b by omega]

/-- The bytes of a word with those of a mask taken from another. -/
theorem byteOf_merge (old d : W64) (m : Nat) {i : Nat} (h : i < 8) :
    byteOf ((old &&& ~~~BitVec.ofNat 64 (packN 8 (fun i => if bitN m i then 255 else 0) 8)) |||
        (d &&& BitVec.ofNat 64 (packN 8 (fun i => if bitN m i then 255 else 0) 8))).toNat i =
      if bitN m i = true then byteOf d.toNat i else byteOf old.toNat i := by
  have hmask : ∀ b, b < 8 → (BitVec.ofNat 64 (packN 8 (fun i => if bitN m i then 255 else 0) 8)).getLsbD (8 * i + b) = bitN m i := fun b hb => by
    have hlt : 8 * i + b < 64 := by omega
    rw [BitVec.getLsbD_ofNat, decide_eq_true hlt, Bool.true_and, testBit_packN 8 _ h hb]
    cases bitN m i
    · exact Nat.zero_testBit _
    · rw [if_pos rfl, show 255 = 2 ^ 8 - 1 by rfl, Nat.testBit_two_pow_sub_one, decide_eq_true hb]
  have hbit : ∀ b, b < 8 → ((old &&& ~~~BitVec.ofNat 64 (packN 8 (fun i => if bitN m i then 255 else 0) 8)) |||
      (d &&& BitVec.ofNat 64 (packN 8 (fun i => if bitN m i then 255 else 0) 8))).toNat.testBit (8 * i + b) =
      if bitN m i = true then d.toNat.testBit (8 * i + b) else old.toNat.testBit (8 * i + b) := fun b hb => by
    have hlt : 8 * i + b < 64 := by omega
    rw [BitVec.testBit_toNat, BitVec.getLsbD_or, BitVec.getLsbD_and, BitVec.getLsbD_and, BitVec.getLsbD_not, hmask b hb, decide_eq_true hlt,
      BitVec.testBit_toNat, BitVec.testBit_toNat]
    cases bitN m i <;> simp
  split
  · rename_i hm
    exact byteOf_ext fun b hb => by rw [hbit b hb, if_pos hm]
  · rename_i hm
    exact byteOf_ext fun b hb => by rw [hbit b hb, if_neg hm]

/-! ## Words of local memory -/

/-- The bytes of local memory after the first bytes of a word are written. -/
theorem mget_lmSetRaw (m : List (Nat × Byte)) (w : Nat) (d : W64) (n x : Nat) :
    mget 0 (lmSetRaw m w d n) x = if 8 * w ≤ x ∧ x < 8 * w + n then byteOf d.toNat (x - 8 * w) else mget 0 m x := by
  induction n generalizing m with
  | zero => rw [if_neg (by omega), lmSetRaw]
  | succ n ih =>
    rw [lmSetRaw, ih, mget_mset]
    by_cases hx : x = 8 * w + n
    · subst hx
      rw [if_neg (by omega), if_pos rfl, if_pos (by omega), Nat.add_sub_cancel_left]
    · rw [if_neg hx]
      exact if_congr (by omega) rfl rfl

/-- A byte of a stored word. -/
theorem byteOf_lmRaw (k : Cell) (w : Nat) {i : Nat} (h : i < 8) : byteOf (lmRaw k w).toNat i = mget 0 k.lm (8 * w + i) := by
  rw [lmRaw, byteOf_word _ h, byteOf_pack _ h, BitVec.ofNat_toNat, BitVec.setWidth_eq]

/-- No word of a cell's local memory is poisoned or upset. -/
def Clean (k : Cell) : Prop := k.lmPois = [] ∧ k.lmSyn = []

section
variable {s : State} {c : Nat}

/-- With no flip mask armed a word is stored as it is given. -/
theorem lmPut_unarmed (h : flag s .cell c f_CELL_FLIP_CTRL_ARM = false) (w : Nat) (d : W64) (p : Bool) : lmPut s c w d p =
    setCell s c { cell s c with
      lm := lmSetRaw (cell s c).lm w d 8, lmPois := mset false (cell s c).lmPois w p, lmSyn := mset 0 (cell s c).lmSyn w 0 } := by
  have hd : d ^^^ BitVec.ofNat 64 0 = d := BitVec.xor_zero
  unfold lmPut
  simp only [h, Bool.false_and, Bool.false_eq_true, if_false, hd]

/-- A word without an upset is read as it is stored, with its poison. -/
theorem lmGet_sound {w : Nat} (h : mget 0 (cell s c).lmSyn w = 0) :
    lmGet s c w = (s, lmRaw (cell s c) w, mget false (cell s c).lmPois w) := by
  have hgood : classify false (mget 0 (cell s c).lmSyn w) = .good := if_pos h
  simp only [lmGet, hgood]

theorem lmGet_clean (h : Clean (cell s c)) (w : Nat) : lmGet s c w = (s, lmRaw (cell s c) w, false) := by
  obtain ⟨hp, hs⟩ := h
  rw [lmGet_sound (by rw [hs]; rfl), hp]
  rfl

theorem lmPut_clean (harm : flag s .cell c f_CELL_FLIP_CTRL_ARM = false) (h : Clean (cell s c)) (w : Nat) (d : W64) :
    lmPut s c w d false = setCell s c { cell s c with lm := lmSetRaw (cell s c).lm w d 8 } := by
  obtain ⟨hp, hs⟩ := h
  rw [lmPut_unarmed harm]
  simp only [hp, hs]
  rfl

/-- The bytes from address `a` on, as a number. -/
def lmValue (k : Cell) (a n : Nat) : Nat := packN 8 (fun i => (mget 0 k.lm (a + i)).toNat) n

theorem byteOf_lmValue (k : Cell) (a : Nat) {n i : Nat} (h : i < n) : byteOf (lmValue k a n) i = mget 0 k.lm (a + i) := by
  rw [lmValue, byteOf_pack _ h, BitVec.ofNat_toNat, BitVec.setWidth_eq]

/-- A read of clean memory gives its bytes and nothing else. -/
theorem lmRead_clean (h : Clean (cell s c)) (a n : Nat) : lmRead s c a n = (s, lmValue (cell s c) a n, none) := by
  induction n with
  | zero => rfl
  | succ n ih =>
    have hbyte : (byteOf (lmRaw (cell s c) ((a + n) / 8)).toNat ((a + n) % 8)).toNat = (mget 0 (cell s c).lm (a + n)).toNat % 2 ^ 8 := by
      rw [byteOf_lmRaw _ _ (Nat.mod_lt _ (by decide)), Nat.div_add_mod, Nat.mod_eq_of_lt (BitVec.isLt _)]
    have hsum : lmValue (cell s c) a (n + 1) = lmValue (cell s c) a n + (mget 0 (cell s c).lm (a + n)).toNat % 2 ^ 8 * 256 ^ n := by
      rw [lmValue, packN, Nat.shiftLeft_eq, Nat.pow_mul]
      rfl
    rw [lmRead, ih, hsum]
    simp only [lmGet_clean h]
    split <;> simp only [hbyte] <;> rfl

/-- A whole word that is stored to clean memory. -/
theorem lmStoreWord_whole (harm : flag s .cell c f_CELL_FLIP_CTRL_ARM = false) (h : Clean (cell s c)) (w : Nat) (d : W64) :
    lmStoreWord s c w 255 d = setCell s c { cell s c with lm := lmSetRaw (cell s c).lm w d 8 } :=
  (if_pos rfl).trans (lmPut_clean harm h w d)

/-- A store of some bytes of a word of clean memory. -/
theorem lmStoreWord_clean (harm : flag s .cell c f_CELL_FLIP_CTRL_ARM = false) (h : Clean (cell s c)) (w m : Nat) (d : W64) :
    ∃ lm, lmStoreWord s c w m d = setCell s c { cell s c with lm := lm } ∧
      ∀ x, mget 0 lm x = if 8 * w ≤ x ∧ x < 8 * w + 8 ∧ bitN m (x - 8 * w) = true then byteOf d.toNat (x - 8 * w) else mget 0 (cell s c).lm x := by
  by_cases hm : m = 255
  · subst hm
    refine ⟨_, lmStoreWord_whole harm h w d, fun x => ?_⟩
    rw [mget_lmSetRaw]
    refine if_congr ⟨fun ⟨hlo, hhi⟩ => ⟨hlo, hhi, ?_⟩, fun ⟨hlo, hhi, _⟩ => ⟨hlo, hhi⟩⟩ rfl rfl
    rw [bitN_eq_testBit, show 255 = 2 ^ 8 - 1 by rfl, Nat.testBit_two_pow_sub_one]
    exact decide_eq_true (by omega)
  · rw [lmStoreWord, if_neg hm, lmGet_clean h]
    dsimp only
    rw [lmPut_clean harm h]
    refine ⟨_, rfl, fun x => ?_⟩
    rw [mget_lmSetRaw]
    by_cases hx : 8 * w ≤ x ∧ x < 8 * w + 8
    · rw [if_pos hx, byteOf_merge _ _ _ (by omega), byteOf_lmRaw _ _ (by omega), Nat.add_sub_cancel' hx.1]
      exact if_congr ⟨fun hb => ⟨hx.1, hx.2, hb⟩, fun ⟨_, _, hb⟩ => hb⟩ rfl rfl
    · rw [if_neg hx, if_neg fun ⟨hlo, hhi, _⟩ => hx ⟨hlo, hhi⟩]

/-- A store to an aligned address of clean memory changes its own bytes. -/
theorem lmStore_clean (harm : flag s .cell c f_CELL_FLIP_CTRL_ARM = false) (h : Clean (cell s c)) {a n : Nat} (hn : n ∈ [1, 2, 4, 8, 16])
    (ha : a % n = 0) (v : Nat) :
    ∃ lm, lmStore s c a n v = setCell s c { cell s c with lm := lm } ∧
      ∀ x, mget 0 lm x = if a ≤ x ∧ x < a + n then byteOf v (x - a) else mget 0 (cell s c).lm x := by
  by_cases h8 : n ≤ 8
  · have hfit : a % 8 + n ≤ 8 := by
      have hdiv : n = 1 ∨ n = 2 ∨ n = 4 ∨ n = 8 := by
        simp only [List.mem_cons, List.not_mem_nil, or_false] at hn
        omega
      rcases hdiv with rfl | rfl | rfl | rfl <;> omega
    obtain ⟨lm, hlm, hbytes⟩ := lmStoreWord_clean harm h (a / 8) ((2 ^ n - 1) <<< (a % 8)) (BitVec.ofNat 64 (v <<< (8 * (a % 8))))
    refine ⟨lm, (if_pos h8).trans hlm, fun x => (hbytes x).trans ?_⟩
    have hmask : ∀ i, bitN ((2 ^ n - 1) <<< (a % 8)) i = true ↔ a % 8 ≤ i ∧ i < a % 8 + n := fun i => by
      rw [bitN_eq_testBit, Nat.testBit_shiftLeft, Nat.testBit_two_pow_sub_one, Bool.and_eq_true, decide_eq_true_eq, decide_eq_true_eq]
      omega
    simp only [hmask]
    by_cases hx : a ≤ x ∧ x < a + n
    · rw [if_pos (by omega), if_pos hx, byteOf_word _ (by omega), byteOf_shiftLeft _ (by omega), show x - 8 * (a / 8) - a % 8 = x - a by omega]
    · rw [if_neg (by omega), if_neg hx]
  · obtain rfl : n = 16 := by
      simp only [List.mem_cons, List.not_mem_nil, or_false] at hn
      omega
    have hnext (lm : List (Nat × Byte)) := lmStoreWord_whole (s := setCell s c { cell s c with lm := lm }) (c := c) harm
      (by rw [cell_setCell_self]; exact h)
    rw [lmStore, if_neg h8, lmStoreWord_whole harm h, hnext, cell_setCell_self, setCell_setCell]
    refine ⟨_, rfl, fun x => ?_⟩
    rw [mget_lmSetRaw, mget_lmSetRaw]
    by_cases hhi : 8 * (a / 8 + 1) ≤ x ∧ x < 8 * (a / 8 + 1) + 8
    · rw [if_pos hhi, if_pos (by omega), byteOf_word _ (by omega), show v >>> 64 = v >>> (8 * 8) from rfl, byteOf_shiftRight,
        show 8 + (x - 8 * (a / 8 + 1)) = x - a by omega]
    · rw [if_neg hhi]
      by_cases hlo : 8 * (a / 8) ≤ x ∧ x < 8 * (a / 8) + 8
      · rw [if_pos hlo, if_pos (by omega), byteOf_word _ (by omega), show x - 8 * (a / 8) = x - a by omega]
      · rw [if_neg hlo, if_neg (by omega)]

end

end Sys2Proof.Proofs
end

section
/-! Values of several bytes in lane registers (O10, O14, O21: R126, R145). -/
namespace Sys2Proof.Proofs

open Sys2Proof.Machine Sys2Proof.Laws

/-! ## Pieces of a value -/

/-- The pieces of a number, packed again. -/
theorem packN_shiftRight (w v n : Nat) : packN w (fun i => v >>> (w * i)) n = v % 2 ^ (w * n) := by
  induction n with
  | zero => simp [packN, Nat.mod_one]
  | succ n ih =>
    rw [packN_succ, ih, Nat.shiftRight_eq_div_pow, Nat.mul_succ, Nat.pow_add, Nat.mod_mul]
    omega

theorem packN_congr (w : Nat) {f h : Nat → Nat} {n : Nat} (hf : ∀ i, i < n → f i % 2 ^ w = h i % 2 ^ w) : packN w f n = packN w h n := by
  induction n with
  | zero => rfl
  | succ n ih => rw [packN_succ, packN_succ, ih fun i hi => hf i (by omega), hf n (by omega)]

/-- The sizes of an access (R145). -/
theorem size_of_sizeBytes {code n : Nat} (h : sizeBytes code = some n) : n ∈ [1, 2, 4, 8, 16] := by
  unfold sizeBytes at h
  split at h
  · obtain rfl := Option.some.inj h
    interval_cases code <;> decide
  · exact absurd h (by simp)

/-! ## Writing a value to a lane -/

/-- What lane register `i` of a value of `n` bytes receives; the bits above a short value are open. -/
def lanePiece (s : State) (n v l i : Nat) : W32 := if n < 4 then openAbove (8 * n) v (freeLane s l).toNat else BitVec.ofNat 32 (v >>> (32 * i))

section
variable {s : State} {r n : Nat} (hn : n ∈ [1, 2, 4, 8, 16])
include hn

theorem regsOf_eq : regsOf n = if n < 4 then 1 else n / 4 := by
  simp only [List.mem_cons, List.not_mem_nil, or_false] at hn
  rcases hn with rfl | rfl | rfl | rfl | rfl <;> rfl

/-- The registers of a lane that has received a value, and all others. -/
theorem getV_putLane (k : Group) {l l' : Nat} (v r' : Nat) (hl : l < 32) (hl' : l' < 32) : getV (putLane s k r n l v) r' l' =
    if l' = l ∧ r ≤ r' ∧ r' < r + regsOf n then lanePiece s n v l (r' - r) else getV k r' l' := by
  rw [regsOf_eq hn]
  by_cases h4 : n < 4
  · rw [putLane, if_pos h4, getV_setV _ _ _ _ _ _ hl hl', if_pos h4, lanePiece, if_pos h4]
    exact if_congr (by omega) rfl rfl
  · have hfold : ∀ m, getV ((List.range m).foldl (fun k i => setV k (r + i) l (BitVec.ofNat 32 (v >>> (32 * i)))) k) r' l' =
        if l' = l ∧ r ≤ r' ∧ r' < r + m then BitVec.ofNat 32 (v >>> (32 * (r' - r))) else getV k r' l' := fun m => by
      induction m with
      | zero => rw [if_neg (by omega)]; rfl
      | succ m ih =>
        rw [List.range_succ, List.foldl_append, List.foldl_cons, List.foldl_nil, getV_setV _ _ _ _ _ _ hl hl', ih]
        by_cases hm : r' = r + m ∧ l' = l
        · rw [if_pos hm, if_pos (by omega), show r' - r = m by omega]
        · rw [if_neg hm]
          exact if_congr (by omega) rfl rfl
    rw [putLane, if_neg h4, hfold, if_neg h4, lanePiece, if_neg h4]

/-- A value that a lane holds, as it reads. -/
theorem laneValue_of_pieces {k : Group} {l v : Nat} (h : ∀ i, i < regsOf n → getV k (r + i) l = lanePiece s n v l i) :
    laneValue k r n l = v % 256 ^ n := by
  rw [regsOf_eq hn] at h
  have h256 : (256 : Nat) ^ n = 2 ^ (8 * n) := (Nat.pow_mul 2 8 n).symm
  rw [laneValue, regsOf_eq hn, h256]
  by_cases h4 : n < 4
  · have hle : 8 * n ≤ 32 := by omega
    rw [if_pos h4] at h ⊢
    rw [packN_succ, packN, Nat.mul_zero, Nat.pow_zero, Nat.one_mul, Nat.add_zero, h 0 (by decide), lanePiece, if_pos h4,
      Nat.mod_eq_of_lt (BitVec.isLt _), openAbove_mod hle]
  · have hdiv : 32 * (n / 4) = 8 * n := by
      simp only [List.mem_cons, List.not_mem_nil, or_false] at hn
      omega
    rw [if_neg h4] at h ⊢
    rw [packN_congr 32 (h := fun i => v >>> (32 * i)), packN_shiftRight, hdiv, Nat.mod_mod]
    intro i hi
    rw [h i hi, lanePiece, if_neg h4, BitVec.toNat_ofNat, Nat.mod_mod]

end

/-! ## Writing values to several lanes -/

/-- The group's record once lanes have received their values. -/
def putLanes (s : State) (k : Group) (r n : Nat) (xs : List (Nat × Nat)) : Group := xs.foldl (fun k x => putLane s k r n x.1 x.2) k

theorem foldl_setV_frame (f : Nat → Nat) (g : Nat → W32) (l : Nat) (is : List Nat) (k : Group) :
    is.foldl (fun k i => setV k (f i) l (g i)) k = { k with v := (is.foldl (fun k i => setV k (f i) l (g i)) k).v } := by
  induction is generalizing k with
  | nil => rfl
  | cons i t ih =>
    rw [List.foldl_cons, ih]
    rfl

/-- A value changes lane registers and nothing else of the group. -/
theorem putLane_frame (s : State) (k : Group) (r n l v : Nat) : putLane s k r n l v = { k with v := (putLane s k r n l v).v } := by
  unfold putLane
  split
  · rfl
  · exact foldl_setV_frame _ _ l _ k

theorem putLanes_frame (s : State) (k : Group) (r n : Nat) (xs : List (Nat × Nat)) :
    putLanes s k r n xs = { k with v := (putLanes s k r n xs).v } := by
  unfold putLanes
  induction xs generalizing k with
  | nil => rfl
  | cons x t ih =>
    rw [List.foldl_cons, ih, putLane_frame]

section
variable {s : State} {r n : Nat} {xs : List (Nat × Nat)} (hn : n ∈ [1, 2, 4, 8, 16]) (hlt : ∀ x ∈ xs, x.1 < 32)
include hn hlt

/-- A register that no value reaches. -/
theorem getV_putLanes_other (k : Group) {r' l' : Nat} (hl' : l' < 32) (h : ¬(r ≤ r' ∧ r' < r + regsOf n ∧ l' ∈ xs.map (·.1))) :
    getV (putLanes s k r n xs) r' l' = getV k r' l' := by
  unfold putLanes
  induction xs generalizing k with
  | nil => rfl
  | cons x t ih =>
    rw [List.map_cons, List.mem_cons] at h
    rw [List.foldl_cons, ih (fun y hy => hlt y (List.mem_cons_of_mem _ hy)) _ (by tauto),
      getV_putLane hn k _ _ (hlt x List.mem_cons_self) hl', if_neg (by tauto)]

/-- Each lane reads the value that it received. -/
theorem laneValue_putLanes (k : Group) (hnodup : (xs.map (·.1)).Nodup) {x : Nat × Nat} (hx : x ∈ xs) :
    laneValue (putLanes s k r n xs) r n x.1 = x.2 % 256 ^ n := by
  refine laneValue_of_pieces (s := s) hn fun i hi => ?_
  unfold putLanes
  induction xs generalizing k with
  | nil => simp at hx
  | cons y t ih =>
    have hlt' : ∀ z ∈ t, z.1 < 32 := fun z hz => hlt z (List.mem_cons_of_mem _ hz)
    obtain ⟨hy, ht⟩ := List.nodup_cons.1 hnodup
    rw [List.foldl_cons]
    rcases List.mem_cons.1 hx with rfl | hx
    · rw [show t.foldl _ _ = putLanes s (putLane s k r n x.1 x.2) r n t from rfl,
        getV_putLanes_other hn hlt' _ (hlt x List.mem_cons_self) fun h => hy h.2.2,
        getV_putLane hn _ _ _ (hlt x List.mem_cons_self) (hlt x List.mem_cons_self), if_pos ⟨rfl, by omega, by omega⟩, Nat.add_sub_cancel_left]
    · exact ih hlt' _ ht hx

end

end Sys2Proof.Proofs
end

section
/-! LDL and STL (O10: R143 to R145, R169, R371). -/
namespace Sys2Proof.Proofs

open Sys2Proof.Machine Sys2Proof.Laws

/-! ## Lanes of an access -/

theorem mem_laneAddrs {k : Group} {w : W64} {loc : Bool} {x : Nat × Nat} :
    x ∈ laneAddrs k w loc ↔ x.1 < 32 ∧ bitN (guardLanes k w).toNat x.1 = true ∧ x.2 = laneAddr k w loc x.1 := by
  rw [laneAddrs, List.mem_map]
  constructor
  · rintro ⟨l, hl, rfl⟩
    obtain ⟨hlt, hb⟩ := (mem_lanesOf _ l).1 hl
    exact ⟨hlt, hb, rfl⟩
  · rintro ⟨hlt, hb, ha⟩
    exact ⟨x.1, (mem_lanesOf _ _).2 ⟨hlt, hb⟩, Prod.ext rfl ha.symm⟩

/-! ## LDL -/

/-- A load from clean memory gives each lane its bytes, without an event. -/
theorem loadLanes_clean {s : State} {c : Nat} (h : Clean (cell s c)) (k : Group) (vd n : Nat) (la : List (Nat × Nat)) :
    loadLanes s c k vd n la = (s, putLanes s k vd n (la.map fun x => (x.1, lmValue (cell s c) x.2 n)), []) := by
  induction la generalizing k with
  | nil => rfl
  | cons x t ih =>
    rw [loadLanes, lmRead_clean h]
    simp only [ih]
    rfl

theorem localFaults_nil {la : List (Nat × Nat)} {n : Nat} (h : ∀ x ∈ la, x.2 % n = 0 ∧ x.2 + n ≤ 0x80000) : localFaults la n = [] := by
  have hfar : la.filter (fun x => x.2 + n > lmSize) = [] := List.filter_eq_nil_iff.2 fun x hx => by
    have := (h x hx).2
    simpa using this
  rw [localFaults, alignFaults_nil _ fun x hx => (h x hx).1, hfar]
  rfl

/-! ## STL -/

/-- The byte at `a` after lanes of an access of `n` bytes have stored in their order: that of the last of them that names it. -/
def storedByte (addr val : Nat → Nat) (n : Nat) (lanes : List Nat) (old : Byte) (a : Nat) : Byte :=
  match (lanes.filter (fun l => addr l ≤ a && a < addr l + n)).reverse with
  | l :: _ => byteOf (val l) (a - addr l)
  | [] => old

theorem storedByte_append (addr val : Nat → Nat) (n : Nat) (lanes : List Nat) (l : Nat) (old : Byte) (a : Nat) :
    storedByte addr val n (lanes ++ [l]) old a =
      if addr l ≤ a ∧ a < addr l + n then byteOf (val l) (a - addr l) else storedByte addr val n lanes old a := by
  rw [storedByte, List.filter_append, List.reverse_append]
  by_cases h : addr l ≤ a ∧ a < addr l + n
  · rw [if_pos h, List.filter_cons_of_pos (by simpa using h)]
    rfl
  · rw [if_neg h, List.filter_cons_of_neg (by simpa using h)]
    rfl

/-- From `s` to `t` the bytes of a cell's local memory became `lm`, and nothing else changed but how the cell is written down. -/
structure LmStored (s t : State) (c : Nat) (lm : List (Nat × Byte)) : Prop where
  cell : Machine.cell t c = { Machine.cell s c with lm := lm }
  setCell : ∀ k, Machine.setCell t c k = Machine.setCell s c k
  pages : t.pages = s.pages
  part : t.part = s.part

theorem lmStored_setCell (s : State) (c : Nat) (lm : List (Nat × Byte)) : LmStored s (setCell s c { cell s c with lm := lm }) c lm :=
  ⟨cell_setCell_self .., setCell_setCell s c _, rfl, rfl⟩

/-- Going to the next instruction writes the cell down anew. -/
theorem LmStored.nextPc_eq {s t : State} {c : Nat} {lm : List (Nat × Byte)} (h : LmStored s t c lm) (g : Nat) :
    nextPc t c g = nextPc (Machine.setCell s c { Machine.cell s c with lm := lm }) c g := by
  simp [nextPc, setGroup, group, h.cell, h.setCell]

/-- The stores of lanes to aligned addresses of clean memory, one after the other. -/
theorem lmStored_foldl {s : State} {c n : Nat} {addr val : Nat → Nat} (harm : flag s .cell c f_CELL_FLIP_CTRL_ARM = false) (h : Clean (cell s c))
    (hn : n ∈ [1, 2, 4, 8, 16]) (lanes : List Nat) (ha : ∀ l ∈ lanes, addr l % n = 0) :
    ∃ lm, LmStored s (lanes.foldl (fun t l => lmStore t c (addr l) n (val l)) s) c lm ∧
      ∀ a, mget 0 lm a = storedByte addr val n lanes (mget 0 (cell s c).lm a) a := by
  induction lanes using List.reverseRecOn with
  | nil => exact ⟨(cell s c).lm, ⟨rfl, fun _ => rfl, rfl, rfl⟩, fun _ => rfl⟩
  | append_singleton lanes l ih =>
    obtain ⟨lm, ht, hlm⟩ := ih fun x hx => ha x (List.mem_append_left _ hx)
    rw [List.foldl_append, List.foldl_cons, List.foldl_nil]
    generalize lanes.foldl (fun t l => lmStore t c (addr l) n (val l)) s = t at ht
    have harm' : flag t .cell c f_CELL_FLIP_CTRL_ARM = false := by
      rw [← harm, flag, fld, reg, page, ht.pages, ht.part]
      rfl
    obtain ⟨lm', hstore, hlm'⟩ := lmStore_clean harm' (by rw [ht.cell]; exact h) hn (ha l (by simp)) (val l)
    rw [hstore, ht.setCell, ht.cell]
    refine ⟨lm', lmStored_setCell s c lm', fun a => ?_⟩
    rw [hlm', storedByte_append, ht.cell, hlm]

section
variable {s : State} {c g : Nat} {w : W64} {n : Nat} (hr : ready s c g w) (hn : sizeBytes (mSIZE w) = some n) (hmod : modOnly w 1 = true)
  (hvd : inAlloc (group s c g) (mVDS w) (regsOf n) = true) (hva : bitN (mMOD w) 0 = false → inAlloc (group s c g) (mVA w) 1 = true)
  (hg : guardLanes (group s c g) w ≠ 0)
include hr hn hmod hvd hva hg

section
variable (hla : ∀ x ∈ laneAddrs (group s c g) w true, x.2 % n = 0 ∧ x.2 + n ≤ 0x80000)
include hla

theorem ldl_eq (h : Clean (cell s c)) : ldl c g w s = pmc (retire (drawn s) c g (putLanes s (group s c g) (mVDS w) n
    ((laneAddrs (group s c g) w true).map fun x => (x.1, lmValue (cell s c) x.2 n)))) c 2 1 := by
  rw [ldl, memIssue_eq hr (by simp [hn, hmod]) (by simpa [hn] using inAlloc_addrRegs hvd hva) hg]
  simp [hn, localFaults_nil hla, loadLanes_clean h]

theorem stl_eq : stl c g w s = pmc (nextPc ((lanesOf (guardLanes (group s c g) w)).foldl (fun t l =>
    lmStore t c (laneAddr (group s c g) w true l) n (laneValue (group s c g) (mVDS w) n l)) s) c g) c 2 1 := by
  rw [stl, memIssue_eq hr (by simp [hn, hmod]) (by simpa [hn] using inAlloc_addrRegs hvd hva) hg]
  simp only [hn, Option.getD_some, localFaults_nil hla]
  rw [laneAddrs, List.foldl_map]

/-- STL to clean memory changes local memory, and its group goes on. -/
theorem stl_stores {ok : Bool} (hok : ok = true) (harm : flag s .cell c f_CELL_FLIP_CTRL_ARM = false) (h : Clean (cell s c)) :
    ∃ lm, run ok s (stl c g w) = .next (pmc (nextPc (setCell s c { cell s c with lm := lm }) c g) c 2 1) ∧
      ∀ a, mget 0 lm a = storedByte (laneAddr (group s c g) w true) (laneValue (group s c g) (mVDS w) n) n
        (lanesOf (guardLanes (group s c g) w)) (mget 0 (cell s c).lm a) a := by
  obtain ⟨lm, ht, hlm⟩ := lmStored_foldl (addr := laneAddr (group s c g) w true) (val := laneValue (group s c g) (mVDS w) n) harm h
    (size_of_sizeBytes hn) (lanesOf (guardLanes (group s c g) w)) fun l hl => (hla (l, _) (List.mem_map_of_mem hl)).1
  refine ⟨lm, ?_, hlm⟩
  rw [run_eq hok hr.1, stl_eq hr hn hmod hvd hva hg hla, ht.nextPc_eq g]
  exact done_eq (pmc_part ..) (pmc_pending ..)

end
end

theorem localLoadStore : Claims.LocalLoadStore := by
  intro s c g w n hr hn hmod hvd hva hg hlanes hpois hsyn
  have hla : ∀ x ∈ laneAddrs (group s c g) w true, x.2 % n = 0 ∧ x.2 + n ≤ 0x80000 := fun x hx => by
    obtain ⟨hlt, hb, ha⟩ := mem_laneAddrs.1 hx
    rw [ha]
    exact hlanes x.1 hlt hb
  have hsize := size_of_sizeBytes hn
  refine ⟨fun hop => ?_, fun hop harm => ?_⟩
  · let xs := (laneAddrs (group s c g) w true).map fun x => (x.1, lmValue (cell s c) x.2 n)
    have hlt : ∀ x ∈ xs, x.1 < 32 := fun x hx => by
      obtain ⟨y, hy, rfl⟩ := List.mem_map.1 hx
      exact (mem_laneAddrs.1 hy).1
    have hmap : xs.map (·.1) = lanesOf (guardLanes (group s c g) w) := by simp [xs, laneAddrs, Function.comp_def]
    refine ⟨advanced (putLanes s (group s c g) (mVDS w) n xs), ?_, ?_, fun l hl he i hi => ?_, fun r l hl hno => ?_⟩
    · refine (run_eq (beq_iff_eq.2 hop) hr.1).trans ?_
      rw [ldl_eq hr hn hmod hvd hva hg hla ⟨hpois, hsyn⟩, retire_eq]
      exact done_eq (pmc_part ..) (pmc_pending ..)
    · rw [putLanes_frame]
      rfl
    · have hx : (l, lmValue (cell s c) (laneAddr (group s c g) w true l) n) ∈ xs :=
        List.mem_map.2 ⟨(l, _), mem_laneAddrs.2 ⟨hl, he, rfl⟩, rfl⟩
      have hv : laneValue (advanced (putLanes s (group s c g) (mVDS w) n xs)) (mVDS w) n l = _ :=
        laneValue_putLanes hsize hlt _ (by rw [hmap]; exact lanesOf_nodup _) hx
      have hfit : lmValue (cell s c) (laneAddr (group s c g) w true l) n < 256 ^ n := by
        rw [show (256 : Nat) = 2 ^ 8 from rfl, ← Nat.pow_mul]
        exact packN_lt ..
      rw [hv, Nat.mod_eq_of_lt hfit, byteOf_lmValue _ _ hi]
    · refine getV_putLanes_other hsize hlt _ hl fun ⟨hlo, hhi, hmem⟩ => hno ⟨hlo, hhi, ?_⟩
      rw [hmap] at hmem
      exact ((mem_lanesOf _ _).1 hmem).2
  · obtain ⟨lm, hrun, hlm⟩ := stl_stores hr hn hmod hvd hva hg hla (beq_iff_eq.2 hop) harm ⟨hpois, hsyn⟩
    refine ⟨lm, hrun, fun a => (hlm a).trans ?_⟩
    have hnaming : (lanesOf (guardLanes (group s c g) w)).filter (fun l => laneAddr (group s c g) w true l ≤ a && a < laneAddr (group s c g) w true l + n) =
        (List.range 32).filter (fun l => executes s c g w l && laneAddr (group s c g) w true l ≤ a && a < laneAddr (group s c g) w true l + n) := by
      rw [lanesOf, List.filter_filter]
      exact List.filter_congr fun l _ => by rw [Bool.and_comm, Bool.and_assoc]; rfl
    rw [storedByte, hnaming] <;> rfl

/-! ## Faults of lanes (R169) -/

/-- The lowest number below `n` that satisfies a test comes first. -/
theorem filter_range_head {q : Nat → Bool} {n l : Nat} (hl : l < n) (hq : q l = true) (hmin : ∀ l', l' < l → q l' = false) :
    ∃ t, (List.range n).filter q = l :: t ∧ ∀ x ∈ t, l < x := by
  have hsorted : ((List.range n).filter q).Pairwise (· < ·) := List.pairwise_lt_range.filter q
  have hmem : l ∈ (List.range n).filter q := List.mem_filter.2 ⟨List.mem_range.2 hl, hq⟩
  rcases hlist : (List.range n).filter q with - | ⟨h, t⟩
  · rw [hlist] at hmem
    exact absurd hmem List.not_mem_nil
  · have hh : q h = true := (List.mem_filter.1 (hlist ▸ List.mem_cons_self : h ∈ (List.range n).filter q)).2
    rw [hlist] at hmem hsorted
    obtain ⟨hlt, -⟩ := List.pairwise_cons.1 hsorted
    rcases List.mem_cons.1 hmem with rfl | hmem
    · exact ⟨t, rfl, hlt⟩
    · rw [hmin h (hlt l hmem)] at hh
      exact absurd hh Bool.false_ne_true

/-- Faults of one cause, the lowest lane's first, park the group with that lane's record. -/
theorem parkLanes_eq {s : State} {c g x : Nat} {fs t : List LaneFault} {f : LaneFault} {dn : Bool}
    (hx : causeOrder.find? (fun x => fs.any (fun f => f.cause == x)) = some x) (hfs : fs.filter (fun f => f.cause == x) = f :: t)
    (hmin : ∀ e ∈ t, f.lane < e.lane) : parkLanes s c g fs dn = park s c g
      { cause := x, detail := f.detail, aspace := f.aspace, addr := f.addr, done := dn, lanes := maskOf ((f :: t).map (·.lane)) } := by
  have hlow : t.foldl (fun a b => if b.lane < a.lane then b else a) f = f := by
    clear hfs
    induction t with
    | nil => rfl
    | cons e t ih =>
      rw [List.foldl_cons, if_neg (not_lt.2 (hmin e List.mem_cons_self).le), ih fun y hy => hmin y (List.mem_cons_of_mem _ hy)]
  simp only [parkLanes, hx, hfs, hlow]

/-- Faults that are all of one cause, the lowest lane's first. -/
theorem parkLanes_uniform {s : State} {c g x : Nat} {t : List LaneFault} {f : LaneFault} {dn : Bool} (hx : causeOrder.find? (fun y => x == y) = some x)
    (hf : ∀ e ∈ f :: t, e.cause = x) (hmin : ∀ e ∈ t, f.lane < e.lane) : parkLanes s c g (f :: t) dn = park s c g
      { cause := x, detail := f.detail, aspace := f.aspace, addr := f.addr, done := dn, lanes := maskOf ((f :: t).map (·.lane)) } := by
  have hany : ∀ y, ((f :: t).any fun e => e.cause == y) = (x == y) := fun y => by
    by_cases hy : x = y
    · subst hy
      rw [List.any_cons, hf f List.mem_cons_self, beq_self_eq_true, Bool.true_or]
    · rw [beq_eq_false_iff_ne.2 hy, List.any_eq_false]
      intro e he
      rw [hf e he]
      simpa using hy
  exact parkLanes_eq (by rw [funext hany]; exact hx) (List.filter_eq_self.2 fun e he => beq_iff_eq.2 (hf e he)) hmin

/-- What the lanes that meet a condition raise, all of one cause. -/
def raised (q : Nat → Bool) (cause detail : Nat) (addr : Nat → Nat) : List LaneFault :=
  ((List.range 32).filter q).map fun l => ⟨l, cause, detail, 1, addr l⟩

section
variable {q : Nat → Bool} {cause detail l : Nat} {addr : Nat → Nat}

theorem cause_of_mem_raised {f : LaneFault} (h : f ∈ raised q cause detail addr) : f.cause = cause := by
  obtain ⟨l, -, rfl⟩ := List.mem_map.1 h
  rfl

theorem filter_raised : (raised q cause detail addr).filter (fun f => f.cause == cause) = raised q cause detail addr :=
  List.filter_eq_self.2 fun _ hf => beq_iff_eq.2 (cause_of_mem_raised hf)

theorem filter_raised_other {x : Nat} (h : cause ≠ x) : (raised q cause detail addr).filter (fun f => f.cause == x) = [] :=
  List.filter_eq_nil_iff.2 fun _ hf => by
    rw [cause_of_mem_raised hf]
    simpa using h

theorem raised_nil (h : ∀ l, l < 32 → q l = false) : raised q cause detail addr = [] := by
  rw [raised, List.filter_eq_nil_iff.2, List.map_nil]
  intro l hl
  simp [h l (List.mem_range.1 hl)]

/-- The lowest lane that meets the condition raises its fault first. -/
theorem raised_eq_cons (hl : l < 32) (hq : q l = true) (hmin : ∀ l', l' < l → q l' = false) :
    ∃ t, raised q cause detail addr = ⟨l, cause, detail, 1, addr l⟩ :: t ∧ ∀ e ∈ t, l < e.lane := by
  obtain ⟨t, ht, hlt⟩ := filter_range_head hl hq hmin
  refine ⟨_, by rw [raised, ht, List.map_cons], fun e he => ?_⟩
  obtain ⟨x, hx, rfl⟩ := List.mem_map.1 he
  exact hlt x hx

/-- The misaligned lanes park their group, whatever else was raised beyond the end. -/
theorem parkLanes_align {s : State} {c g : Nat} {q' : Nat → Bool} {addr' : Nat → Nat} (hl : l < 32) (hq : q l = true)
    (hmin : ∀ l', l' < l → q l' = false) : ∃ m, parkLanes s c g (raised q 9 1 addr ++ raised q' 3 3 addr') =
      park s c g { cause := 9, detail := 1, aspace := 1, addr := addr l, lanes := m } := by
  obtain ⟨t, ht, hlt⟩ := raised_eq_cons (cause := 9) (detail := 1) (addr := addr) hl hq hmin
  have hfilter : (raised q 9 1 addr ++ raised q' 3 3 addr').filter (fun f => f.cause == 9) = ⟨l, 9, 1, 1, addr l⟩ :: t := by
    rw [List.filter_append, filter_raised, filter_raised_other (by decide), List.append_nil, ht]
  have hfirst : causeOrder.find? (fun x => (raised q 9 1 addr ++ raised q' 3 3 addr').any fun f => f.cause == x) = some 9 := by
    have hnone : ((raised q 9 1 addr ++ raised q' 3 3 addr').any fun f => f.cause == 7) = false := by
      rw [List.any_eq_false]
      intro f hf
      rcases List.mem_append.1 hf with hf | hf <;> simp [cause_of_mem_raised hf]
    rw [causeOrder, List.find?_cons_of_neg (by rw [hnone]; decide), List.find?_cons_of_pos (by rw [ht]; rfl)]
  have hpark := parkLanes_eq (s := s) (c := c) (g := g) (dn := false) hfirst hfilter hlt
  exact ⟨_, hpark⟩

/-- With every lane aligned, those beyond the end park their group. -/
theorem parkLanes_access {s : State} {c g : Nat} (hl : l < 32) (hq : q l = true) (hmin : ∀ l', l' < l → q l' = false) :
    ∃ m, parkLanes s c g (raised q 3 3 addr) = park s c g { cause := 3, detail := 3, aspace := 1, addr := addr l, lanes := m } := by
  obtain ⟨t, ht, hlt⟩ := raised_eq_cons (cause := 3) (detail := 3) (addr := addr) hl hq hmin
  have hall : ∀ e ∈ (⟨l, 3, 3, 1, addr l⟩ : LaneFault) :: t, e.cause = 3 := fun e he => cause_of_mem_raised (ht ▸ he)
  have hpark := parkLanes_uniform (s := s) (c := c) (g := g) (dn := false) (by decide) hall hlt
  rw [ht]
  exact ⟨_, hpark⟩

end

/-- The faults of local lane accesses: of those that are misaligned, then of those that reach beyond the end. -/
theorem localFaults_eq (k : Group) (w : W64) (n : Nat) : localFaults (laneAddrs k w true) n =
    raised (fun l => bitN (guardLanes k w).toNat l && laneAddr k w true l % n != 0) 9 1 (laneAddr k w true) ++
    raised (fun l => bitN (guardLanes k w).toNat l && decide (laneAddr k w true l + n > 0x80000)) 3 3 (laneAddr k w true) := by
  simp only [localFaults, alignFaults, laneAddrs, lanesOf, raised, List.filter_map, List.filter_filter, List.map_map, Function.comp_def, Bool.and_comm]

section
variable {s : State} {c g : Nat} {w : W64} {n : Nat} (hr : ready s c g w) (hn : sizeBytes (mSIZE w) = some n) (hmod : modOnly w 1 = true)
  (hvd : inAlloc (group s c g) (mVDS w) (regsOf n) = true) (hva : bitN (mMOD w) 0 = false → inAlloc (group s c g) (mVA w) 1 = true)
  (hg : guardLanes (group s c g) w ≠ 0)
include hr hn hmod hvd hva hg

/-- A local access with a fault parks its group and has no other effect. -/
theorem local_faults {i : Instr} (hi : (i = .ldl c g w ∧ opc w = 0xA0) ∨ (i = .stl c g w ∧ opc w = 0xA1)) {r : Park}
    (hne : localFaults (laneAddrs (group s c g) w true) n ≠ [])
    (hp : parkLanes s c g (localFaults (laneAddrs (group s c g) w true) n) = park s c g r) : exec i s = .next (pmc (park s c g r) c 2 1) := by
  obtain ⟨f, t, hft⟩ := List.exists_cons_of_ne_nil hne
  rw [hft] at hp
  have hregs := inAlloc_addrRegs hvd hva
  rcases hi with ⟨rfl, hop⟩ | ⟨rfl, hop⟩
  · refine (run_eq (beq_iff_eq.2 hop) hr.1).trans ?_
    rw [ldl, memIssue_eq hr (by simp [hn, hmod]) (by simpa [hn] using hregs) hg]
    simp only [hn, Option.getD_some, hft, hp]
    exact done_eq (by simp) (by simp)
  · refine (run_eq (beq_iff_eq.2 hop) hr.1).trans ?_
    rw [stl, memIssue_eq hr (by simp [hn, hmod]) (by simpa [hn] using hregs) hg]
    simp only [hn, Option.getD_some, hft, hp]
    exact done_eq (by simp) (by simp)

end

theorem guardLanes_ne_zero {s : State} {c g l : Nat} {w : W64} (h : executes s c g w l = true) : guardLanes (group s c g) w ≠ 0 := fun h0 => by
  rw [executes, h0, bitN_eq_testBit] at h
  exact Bool.false_ne_true ((Nat.zero_testBit l).symm.trans h)

theorem localFaultsPark : Claims.LocalFaults := by
  intro s c g w n l hr hn hmod hvd hva hl he i hi
  have hg := guardLanes_ne_zero he
  have hparks : ∀ r, localFaults (laneAddrs (group s c g) w true) n ≠ [] →
      parkLanes s c g (localFaults (laneAddrs (group s c g) w true) n) = park s c g r →
      ∃ t, exec i s = .next t ∧ group t c g = parked (group s c g) r ∧ (cell t c).lm = (cell s c).lm := fun r hne hp => by
    refine ⟨_, local_faults hr hn hmod hvd hva hg hi hne hp, by rw [pmc_group, group_park], ?_⟩
    rw [pmc_cell, cell_park]
  rw [executes] at he
  refine ⟨fun hmis hmin => ?_, fun hal hfar hmin => ?_⟩
  · have hq : (bitN (guardLanes (group s c g) w).toNat l && laneAddr (group s c g) w true l % n != 0) = true := by simpa [he] using hmis
    have hqmin : ∀ l', l' < l → (bitN (guardLanes (group s c g) w).toNat l' && laneAddr (group s c g) w true l' % n != 0) = false := fun l' hl' => by
      simpa [executes] using hmin l' hl'
    obtain ⟨t, ht, -⟩ := raised_eq_cons (cause := 9) (detail := 1) (addr := laneAddr (group s c g) w true) hl hq hqmin
    obtain ⟨m, hp⟩ := parkLanes_align (s := s) (c := c) (g := g) (addr := laneAddr (group s c g) w true) hl hq hqmin
    rw [localFaults_eq] at hparks
    obtain ⟨t, hexec, hgroup, hlm⟩ := hparks _ (by rw [ht]; exact List.cons_ne_nil _ _) hp
    refine ⟨t, hexec, ?_⟩
    rw [hgroup]
    exact ⟨rfl, rfl, rfl, rfl, hlm⟩
  · have hnone : raised (fun l => bitN (guardLanes (group s c g) w).toNat l && laneAddr (group s c g) w true l % n != 0) 9 1
        (laneAddr (group s c g) w true) = [] := raised_nil fun l' hl' => by simpa [executes] using hal l' hl'
    have hq : (bitN (guardLanes (group s c g) w).toNat l && decide (laneAddr (group s c g) w true l + n > 0x80000)) = true := by
      simpa [he] using hfar
    have hqmin : ∀ l', l' < l → (bitN (guardLanes (group s c g) w).toNat l' && decide (laneAddr (group s c g) w true l' + n > 0x80000)) = false :=
      fun l' hl' => by simpa [executes] using hmin l' hl'
    obtain ⟨t, ht, -⟩ := raised_eq_cons (cause := 3) (detail := 3) (addr := laneAddr (group s c g) w true) hl hq hqmin
    obtain ⟨m, hp⟩ := parkLanes_access (s := s) (c := c) (g := g) (addr := laneAddr (group s c g) w true) hl hq hqmin
    rw [localFaults_eq, hnone, List.nil_append] at hparks
    obtain ⟨t, hexec, hgroup, hlm⟩ := hparks _ (by rw [ht]; exact List.cons_ne_nil _ _) hp
    refine ⟨t, hexec, ?_⟩
    rw [hgroup]
    exact ⟨rfl, rfl, rfl, rfl, rfl, hlm⟩

/-- Settles O10: sound accesses byte by byte, and faults by the lowest lane of their cause. -/
theorem localMemoryAccesses : Obligations.LocalMemoryAccesses := ⟨localLoadStore, localFaultsPark⟩

end Sys2Proof.Proofs
end

section
/-! The end of a load whose data is sound (O14, O21: R145, R283). -/
namespace Sys2Proof.Proofs

open Sys2Proof.Machine Sys2Proof.Laws

/-- The bytes of a line that an access of `n` bytes at address `a` takes. -/
def lineValue (d : Line) (a n : Nat) : Nat := bitsN d.toNat (8 * (a % 256 + n) - 1) (8 * (a % 256))

theorem lineValue_lt (d : Line) (a : Nat) {n : Nat} (hn : 0 < n) : lineValue d a n < 256 ^ n := by
  rw [lineValue, bitsN, show 8 * (a % 256 + n) - 1 + 1 - 8 * (a % 256) = 8 * n by omega, show (256 : Nat) = 2 ^ 8 from rfl, ← Nat.pow_mul]
  exact Nat.mod_lt _ (Nat.two_pow_pos _)

/-- A sound line has no poisoned word. -/
theorem firstPoison_zero (a n : Nat) : firstPoison 0 a n = none := by
  have hnone : ∀ i, bitN (0 &&& wordsAt a n : BitVec 32).toNat i = false := fun i => by
    rw [show (0 &&& wordsAt a n : BitVec 32) = 0#32 from BitVec.zero_and, bitN_eq_testBit]
    exact Nat.zero_testBit i
  rw [firstPoison, List.find?_eq_none.2 fun i _ => by rw [hnone]; decide]
  rfl

/-- A lane takes its bytes of a sound line. -/
theorem laneGot_sound (s : State) (sp : Nat) (d : Line) (ov : Bool) (l a n : Nat) :
    laneGot s (gotOf sp (.data d 0 false ov)) l a n = .inr (lineValue d a n) := by
  have hgot : gotOf sp (.data d 0 false ov) = .data d 0 ov := rfl
  rw [hgot, laneGot, firstPoison_zero, lineValue]

theorem splitGot_inr (xs : List (Nat × Nat)) (f : Nat × Nat → Nat) :
    splitGot (xs.map fun x => (x.1, .inr (f x))) = ([], xs.map fun x => (x.1, f x)) := by
  rw [splitGot, List.filterMap_map, List.filterMap_map]
  congr 1
  · exact List.filterMap_eq_nil_iff.2 fun _ _ => rfl
  · rw [← List.filterMap_eq_map]
    rfl

/-- The record of a group that waits no longer. -/
def resumed (k : Group) : Group := { k with await := .none, st := .run }

/-- The lanes' values of a sound line. -/
def lineValues (d : Line) (n : Nat) (lanes : List (Nat × Nat)) : List (Nat × Nat) := lanes.map fun x => (x.1, lineValue d x.2 n)

theorem drawn_setGroup (s : State) (c g : Nat) (k : Group) : drawn (setGroup s c g k) = setGroup (drawn s) c g k := rfl

section
variable {s : State} {c g : Nat} {a : AwaitMem} {d : Line} {ov : Bool} (hkind : a.kind ≠ 4)
  (hd : ∀ x ∈ a.lanes, replyFor a.got (lineOf x.2) = .data d 0 false ov)
include hkind hd

/-- The lanes of a load whose reply is sound raise nothing. -/
theorem splitGot_sound (t : State) : splitGot (a.lanes.map fun x =>
    (x.1, laneGot t (gotOf (aspaceOf t x.2) (replyFor a.got (if a.kind = 4 then x.1 else lineOf x.2))) x.1 x.2 a.size)) =
      ([], lineValues d a.size a.lanes) := by
  rw [List.map_congr_left fun x hx => by rw [if_neg hkind, hd x hx, laneGot_sound]]
  exact splitGot_inr _ _

/-- An ordinary load writes its lanes' registers and collects OVF (R145, R283). -/
theorem finishLoad_lanes (h2 : a.kind ≠ 2) : finishLoad s c g a = setGroup (drawn s) c g (advanced
    (if a.kind = 0 && anyOvf a.got then orGstat (putLanes s (resumed (group s c g)) a.vd a.size (lineValues d a.size a.lanes)) 8
      else putLanes s (resumed (group s c g)) a.vd a.size (lineValues d a.size a.lanes))) := by
  simp only [finishLoad, splitGot_sound hkind hd, if_neg h2, retire_eq, drawn_setGroup, setGroup_setGroup]
  rfl

/-- A constant load to a uniform register. -/
theorem finishLoad_uniform (h2 : a.kind = 2) {x : Nat × Nat} {t : List (Nat × Nat)} (hx : a.lanes = x :: t) :
    finishLoad s c g a = setGroup (drawn s) c g (advanced (setU (resumed (group s c g)) a.vd
      (BitVec.ofNat 64 (if a.size = 4 then lineValue d x.2 a.size + (freeU s >>> 32) <<< 32 else lineValue d x.2 a.size)))) := by
  have h0 : (decide (a.kind = 0) && anyOvf a.got) = false := by simp [h2]
  simp only [finishLoad, splitGot_sound hkind hd, if_pos h2, h0, retire_eq, drawn_setGroup, setGroup_setGroup]
  rw [hx]
  rfl

end

end Sys2Proof.Proofs
end

section
/-! LDC through the constant cache, STW and DEAD (O14: R145, R157, R276, R376). -/
namespace Sys2Proof.Proofs

open Sys2Proof.Machine Sys2Proof.Laws

/-! ## LDC whose line the constant cache holds -/

/-- The lanes of a constant load, all with the address of the first. -/
def constLanes (k : Group) (w : W64) (a : Nat) : List (Nat × Nat) := (lanesOf (guardLanes k w)).map fun l => (l, a)

/-- The load whose line `d` the constant cache gave. -/
def constAwait (k : Group) (w : W64) (n a : Nat) (d : Line) : AwaitMem :=
  ⟨if bitN (mMOD w) 1 then 2 else 1, if bitN (mMOD w) 1 then mVDS w % 32 else mVDS w, n, constLanes k w a, [],
    [(0, lineOf a, .data d 0 false false)], 0⟩

/-- The reply that a constant load has for its line. -/
theorem replyFor_const (k : Group) (w : W64) (n a : Nat) (d : Line) :
    ∀ x ∈ (constAwait k w n a d).lanes, replyFor (constAwait k w n a d).got (lineOf x.2) = .data d 0 false false := fun x hx => by
  obtain ⟨l, -, rfl⟩ := List.mem_map.1 hx
  simp [replyFor, constAwait]

section
variable {s : State} {c g : Nat} {w : W64} {n a : Nat} {d : Line}

theorem ldc_hit (hr : ready s c g w) (hmod : modOnly w 3 = true) (hsize : (mSIZE w = 2 ∨ mSIZE w = 3) ∧ 2 ^ mSIZE w = n)
    (hvd : bitN (mMOD w) 1 = false → inAlloc (group s c g) (mVDS w) (regsOf n) = true)
    (hva : bitN (mMOD w) 0 = false → inAlloc (group s c g) (mVA w) 1 = true) (hg : guardLanes (group s c g) w ≠ 0)
    (ha : a = laneAddr (group s c g) w false ((lanesOf (guardLanes (group s c g) w))[0]?.getD 0)) (hal : a % n = 0)
    (hhit : (cell s c).ccache.find? (fun e => e.1 == lineOf a) = some (lineOf a, d, 0)) :
    ldc c g w s = pmc (finishLoad s c g (constAwait (group s c g) w n a d)) c 2 1 := by
  obtain ⟨hcode, hn⟩ := hsize
  have hregs : ∀ r ∈ (if bitN (mMOD w) 1 then [] else [(mVDS w, regsOf n)]) ++ addrRegs w, inAlloc (group s c g) r.1 r.2 = true := by
    rw [addrRegs]
    rcases hu : bitN (mMOD w) 1 <;> rcases hv : bitN (mMOD w) 0 <;> simp [hvd, hva, hu, hv]
  have halign : alignFaults (constLanes (group s c g) w a) n (aspaceOf s) = [] := alignFaults_nil _ fun x hx => by
    obtain ⟨l, -, rfl⟩ := List.mem_map.1 hx
    exact hal
  unfold constLanes at halign
  rw [ldc, memIssue_eq hr (by rcases hcode with h | h <;> simp [h, hmod]) (by rw [hn]; exact hregs) hg]
  simp only [hn, ← ha, halign, hhit]
  rfl

end

/-- The lowest executing lane comes first. -/
theorem lanesOf_head {m : W32} {l : Nat} (hl : l < 32) (hb : bitN m.toNat l = true) (hmin : ∀ l', l' < l → bitN m.toNat l' = false) :
    ∃ t, lanesOf m = l :: t :=
  (filter_range_head hl hb hmin).imp fun _ h => h.1

section
variable (s : State) (c g : Nat) (w : W64) (n a : Nat) (d : Line)

theorem finishConst_lanes (hu : bitN (mMOD w) 1 = false) : finishLoad s c g (constAwait (group s c g) w n a d) =
    setGroup (drawn s) c g (advanced (putLanes s (resumed (group s c g)) (mVDS w) n (lineValues d n (constLanes (group s c g) w a)))) := by
  have hkind : (constAwait (group s c g) w n a d).kind = 1 := by simp [constAwait, hu]
  rw [finishLoad_lanes (by rw [hkind]; decide) (replyFor_const (group s c g) w n a d) (by rw [hkind]; decide)]
  simp [constAwait, hu]

theorem finishConst_uniform (hu : bitN (mMOD w) 1 = true) (hg : guardLanes (group s c g) w ≠ 0) :
    finishLoad s c g (constAwait (group s c g) w n a d) = setGroup (drawn s) c g (advanced (setU (resumed (group s c g)) (mVDS w % 32)
      (BitVec.ofNat 64 (if n = 4 then lineValue d a n + (freeU s >>> 32) <<< 32 else lineValue d a n)))) := by
  have hkind : (constAwait (group s c g) w n a d).kind = 2 := by simp [constAwait, hu]
  obtain ⟨l, t, hlt⟩ := List.exists_cons_of_ne_nil (lanesOf_ne_nil hg)
  rw [finishLoad_uniform (x := (l, a)) (t := t.map fun l => (l, a)) (by rw [hkind]; decide) (replyFor_const (group s c g) w n a d) hkind
    (by simp [constAwait, constLanes, hlt])]
  simp [constAwait, hu]

end

/-- The low bytes of a uniform register that received a value of 4 or 8 bytes. -/
theorem uniform_low {n v : Nat} (free : Nat) (hn : n = 4 ∨ n = 8) (hv : v < 256 ^ n) :
    (BitVec.ofNat 64 (if n = 4 then v + (free >>> 32) <<< 32 else v)).toNat % 256 ^ n = v := by
  rw [BitVec.toNat_ofNat]
  rcases hn with rfl | rfl
  · rw [if_pos rfl, Nat.shiftLeft_eq]
    omega
  · rw [if_neg (by decide)]
    omega

theorem constantLoad : Claims.ConstantLoad := by
  intro s c g w n l0 d hr hop hmod hsize hvd hva hl0 he hmin a hal hhit
  have hg := guardLanes_ne_zero he
  have hn48 : n = 4 ∨ n = 8 := hsize.imp (·.2) (·.2)
  have hsizes : (mSIZE w = 2 ∨ mSIZE w = 3) ∧ 2 ^ mSIZE w = n := by
    rcases hsize with ⟨h, rfl⟩ | ⟨h, rfl⟩ <;> simp [h]
  have hn : n ∈ [1, 2, 4, 8, 16] := by rcases hn48 with rfl | rfl <;> decide
  have hregs : regsOf n = n / 4 := by rcases hn48 with rfl | rfl <;> rfl
  have hpos : 0 < n := by omega
  obtain ⟨t, ht⟩ := lanesOf_head hl0 he hmin
  have hldc := ldc_hit (d := d) hr hmod hsizes (hregs ▸ hvd) hva hg (a := a) (by rw [ht]; rfl) hal hhit
  have hexec : ∀ k, finishLoad s c g (constAwait (group s c g) w n a d) = setGroup (drawn s) c g k →
      exec (.ldc c g w) s = .next (pmc (setGroup (drawn s) c g k) c 2 1) := fun k hk => by
    rw [hk] at hldc
    refine (run_eq (beq_iff_eq.2 hop) hr.1).trans ?_
    rw [hldc]
    exact done_eq (pmc_part ..) (pmc_pending ..)
  rcases hu : bitN (mMOD w) 1
  · have hmap : (lineValues d n (constLanes (group s c g) w a)).map (·.1) = lanesOf (guardLanes (group s c g) w) := by
      simp [lineValues, constLanes, Function.comp_def]
    have hlt : ∀ x ∈ lineValues d n (constLanes (group s c g) w a), x.1 < 32 := fun x hx =>
      lt_of_mem_lanesOf x.1 (hmap ▸ List.mem_map_of_mem hx)
    refine ⟨_, hexec _ (finishConst_lanes s c g w n a d hu), ?_, fun _ => ⟨?_, fun l hl hle => ?_, fun r l hl hno => ?_⟩, fun h => absurd h (by simp)⟩
    · rw [putLanes_frame]
      rfl
    · rw [putLanes_frame]
      rfl
    · have hx : (l, lineValue d a n) ∈ lineValues d n (constLanes (group s c g) w a) :=
        List.mem_map.2 ⟨(l, a), List.mem_map_of_mem ((mem_lanesOf _ l).2 ⟨hl, hle⟩), rfl⟩
      have hv : laneValue (advanced (putLanes s (resumed (group s c g)) (mVDS w) n (lineValues d n (constLanes (group s c g) w a)))) (mVDS w) n l = _ :=
        laneValue_putLanes hn hlt _ (by rw [hmap]; exact lanesOf_nodup _) hx
      rw [hv]
      exact Nat.mod_eq_of_lt (lineValue_lt d a hpos)
    · refine getV_putLanes_other hn hlt _ hl fun ⟨hlo, hhi, hmem⟩ => hno ⟨hlo, hregs ▸ hhi, ?_⟩
      rw [hmap] at hmem
      exact ((mem_lanesOf _ _).1 hmem).2
  · refine ⟨_, hexec _ (finishConst_uniform s c g w n a d hu hg), ?_, fun h => absurd h (by simp), fun _ => ⟨?_, fun r hne => ?_, fun h0 => ?_⟩⟩
    · rw [setU_frame]
      rfl
    · rw [setU_frame]
      rfl
    · rw [getU_advanced, getU_setU, if_neg fun h => hne h.1]
      rfl
    · rw [getU_advanced, getU_setU, if_pos ⟨rfl, h0⟩]
      exact uniform_low _ hn48 (lineValue_lt d a hpos)

end Sys2Proof.Proofs
end

section
/-! STW and DEAD (O14: R145, R157, R276, R376). -/
namespace Sys2Proof.Proofs

open Sys2Proof.Machine Sys2Proof.Laws

/-! ## A line of local memory -/

/-- The 256 bytes of local memory from `a` on, as a line. -/
def lmLineValue (k : Cell) (a n : Nat) : Nat := packN 64 (fun i => (lmRaw k (a / 8 + i)).toNat) n

theorem lmLine_clean {s : State} {c : Nat} (h : Clean (cell s c)) (a n : Nat) : lmLine s c a n = (s, lmLineValue (cell s c) a n, 0) := by
  induction n with
  | zero => rfl
  | succ n ih =>
    rw [lmLine, ih]
    simp only [lmGet_clean h, lmLineValue, packN]
    rw [Nat.mod_eq_of_lt (BitVec.isLt _)]
    simp [b2n]

/-- The bytes of a line that was read from local memory. -/
theorem lineByte_lmLineValue (k : Cell) {a : Nat} (ha : a % 8 = 0) {i : Nat} (hi : i < 256) :
    lineByte (BitVec.ofNat 2048 (lmLineValue k a 32)) i = mget 0 k.lm (a + i) := by
  rw [show a + i = 8 * (a / 8 + i / 8) + i % 8 by omega, ← byteOf_lmRaw k _ (Nat.mod_lt i (by decide))]
  refine BitVec.eq_of_getLsbD_eq fun b hb => ?_
  have hlt : 8 * i + b < 2048 := by omega
  have hword := testBit_packN 64 (fun i => (lmRaw k (a / 8 + i)).toNat) (n := 32) (i := i / 8) (j := 8 * (i % 8) + b) (by omega) (by omega)
  rw [getLsbD_lineByte _ _ _ hb, BitVec.testBit_toNat, BitVec.getLsbD_ofNat, decide_eq_true hlt, Bool.true_and, getLsbD_byteOf _ _ hb, ← hword,
    lmLineValue, show 64 * (i / 8) + (8 * (i % 8) + b) = 8 * i + b by omega]

/-! ## STW -/

/-- A posted write whose lanes all are aligned, admitted to HBM without an event and hit no watchpoint goes on with every lane. -/
theorem storeEntry_hbm {s : State} {c g kinds n : Nat} {la : List (Nat × Nat)} (hal : ∀ x ∈ la, x.2 % n = 0)
    (hentry : ∀ x ∈ la, cellEntry s c (cellLabel s (group s c g).label) x.2 false true = (s, .hbm)) (hwatch : watchLanes s c g kinds n la = (s, [])) :
    storeEntry s c g kinds n la = (s, some (la, hbmEntries la)) := by
  have hcheck : checkEntries s c (cellLabel s (group s c g).label) false true (laneLines la) = (s, hbmEntries la) := checkEntries_hbm fun e he => by
    obtain ⟨x, hx, rfl⟩ := mem_laneLines he
    exact hentry x hx
  simp only [storeEntry, alignFaults_nil _ hal, hwatch, hcheck]
  rw [List.filter_eq_self.2 fun x hx => by rw [entryFor_lane hx], if_pos rfl]

section
variable {s : State} {c g : Nat} {w : W64} {la a : Nat} (hr : ready s c g w) (hg : guardLanes (group s c g) w ≠ 0)
include hr hg

/-- STW of a sound line sends its write. -/
theorem stw_eq (hsize : mSIZE w = 0) (hmod : mMOD w = 0) (hla : la = (getU (group s c g) (mVA w % 32)).toNat)
    (ha : a = wrapN 48 (((getU (group s c g) (mUB w)).toNat : Int) + mOFFS w)) (hlal : la % 256 = 0) (hfit : la + 256 ≤ 0x80000) (hal : a % 256 = 0)
    (hentry : cellEntry s c (cellLabel s (group s c g).label) a false true = (s, .hbm))
    (hwatch : watchLanes s c g 2 256 ((lanesOf (guardLanes (group s c g) w)).map (fun l => (l, a))) = (s, [])) (hclean : Clean (cell s c)) :
    stw c g w s = pmc (nextPc (sendOp s c g (lineOf a) (.write (BitVec.ofNat 2048 (lmLineValue (cell s c) la 32)) (BitVec.allOnes 256) 0 true
      (checkValue .wide (lineOf a) (BitVec.ofNat 2048 (lmLineValue (cell s c) la 32)))
      (some ((getU (group s c g) (mVDS w % 32)).setWidth 16, 0, 0)))) c g) c 2 1 := by
  obtain ⟨l, t, hlt⟩ := List.exists_cons_of_ne_nil (lanesOf_ne_nil hg)
  have hlanes : ∀ x ∈ (lanesOf (guardLanes (group s c g) w)).map (fun l => (l, a)), x.2 = a := fun x hx => by
    obtain ⟨l, -, rfl⟩ := List.mem_map.1 hx
    rfl
  have hstore := storeEntry_hbm (fun x hx => by rw [hlanes x hx, hal]) (fun x hx => by rw [hlanes x hx, hentry]) hwatch
  have hline : entryFor (hbmEntries ((lanesOf (guardLanes (group s c g) w)).map (fun l => (l, a)))) (lineOf a) = .hbm :=
    entryFor_lane (x := (l, a)) (by rw [hlt]; exact List.mem_cons_self)
  rw [hlt, List.map_cons] at hstore hline
  rw [stw, memIssue_eq hr (by simp [hsize, hmod]) (by simp) hg]
  simp only [← hla, ← ha, hal, hlal, hlt, ne_eq, not_true_eq_false, if_false, if_neg (show ¬la + 256 > lmSize from not_lt.2 hfit), hstore, List.map_cons,
    hline, lmLine_clean hclean]
  rfl

end

/-! ## What sending leaves of the checks of a request (R304, R519, R520) -/

/-- From `s` to `t` no steady register changed, except in the controllers' pages. -/
structure SameChecks (s t : State) : Prop where
  regs : ∀ k i x, Steady x → NotIrc k i → reg t k i x = reg s k i x
  repair : t.repair = s.repair

theorem SameChecks.refl (s : State) : SameChecks s s := ⟨fun _ _ _ _ _ => rfl, rfl⟩

theorem SameChecks.trans {s t u : State} (h : SameChecks s t) (k : SameChecks t u) : SameChecks s u :=
  ⟨fun p i x hx hn => (k.regs p i x hx hn).trans (h.regs p i x hx hn), k.repair.trans h.repair⟩

theorem sameChecks_sendOp (s : State) (c g line : Nat) (op : ReqOp) : SameChecks s (sendOp s c g line op) :=
  ⟨fun _ _ _ hx hn => reg_pmc_steady _ c _ 1 hx hn, by simp [sendOp, addOut, niSend, sendReq, newId]⟩

section
variable {s t : State} (h : SameChecks s t)
include h

theorem sameChecks_chip {f : Fld} (hf : 0x100 ≤ f.off) : fld t .chip 0 f = fld s .chip 0 f := by
  rw [fld, h.regs .chip 0 f.off (.inr hf) notIrc_chip, fld]

theorem sameChecks_sec {x : Nat} (hx : 0x100 ≤ x) : reg t .sec 0 x = reg s .sec 0 x := h.regs .sec 0 x (.inr hx) (by decide)

theorem sameChecks_cellLabel (x : Byte) : cellLabel t x = cellLabel s x := by
  rw [cellLabel, phase, sameChecks_chip h (by decide), cellLabel, phase]

theorem sameChecks_feLine (l : Nat) : feLine t l = feLine s l := by
  have hen : feEnabled t = feEnabled s := by rw [feEnabled, flag, sameChecks_chip h (by decide), feEnabled, flag]
  have hlines : feLines t = feLines s := by rw [feLines, sameChecks_chip h (by decide), feLines]
  have hbase : feBase t = feBase s := by rw [feBase, hlines, sameChecks_chip h (by decide), feBase]
  rw [feLine, hen, hlines, hbase, feLine]

theorem sameChecks_secureCell (c : Nat) : secureCell t c = secureCell s c := by
  have hcells : cellsOfBlock t = cellsOfBlock s := funext fun b => by rw [cellsOfBlock, sevenMask, h.repair, cellsOfBlock, sevenMask]
  have hranks : firstRank t = firstRank s := funext fun b => by rw [firstRank, hcells, firstRank]
  have hblock : blockOfCell t c = blockOfCell s c := by rw [blockOfCell, hcells, hranks, blockOfCell]
  rw [secureCell, secureBlock, hblock, sameChecks_sec h (by unfold o_SEC_BLOCK_WORLD; omega), secureCell, secureBlock]

theorem sameChecks_mrdCheck (a : Nat) (secure rd wr : Bool) (part : Option Nat) : mrdCheck t a secure rd wr part = mrdCheck s a secure rd wr part := by
  have hregs : ∀ n, mrdRegs t n = mrdRegs s n := fun n => by
    rw [mrdRegs, sameChecks_sec h (by unfold o_SEC_MRD_BASE; omega), sameChecks_sec h (by unfold o_SEC_MRD_LIMIT; omega),
      sameChecks_sec h (by unfold o_SEC_MRD_CFG; omega), mrdRegs]
  simp only [mrdCheck, mrdOf, hregs]

end

/-! ## DEAD -/

/-- No descriptor refuses a dead hint at `a`, and HBM backs its line outside the full/empty window. -/
def hinted (s : State) (c g a : Nat) : Prop :=
  mrdCheck s a (secureCell s c) false true (some (labelPart (cellLabel s (group s c g).label))) = none ∧ backed (lineOf a) = true ∧ feLine s (lineOf a) = none

section
variable {s t : State} {c g a : Nat}

/-- A hint that nothing refuses is sent. -/
theorem deadLine_eq (h : hinted s c g a) : deadLine s c g a = sendOp s c g (lineOf a) .dead := by
  obtain ⟨hmrd, hback, hfe⟩ := h
  simp only [deadLine, hmrd, if_pos hback, hfe]
  rfl

theorem SameChecks.hinted (h : SameChecks s t) (hlabel : (group t c g).label = (group s c g).label) (ha : hinted s c g a) : Proofs.hinted t c g a := by
  rw [Proofs.hinted, sameChecks_mrdCheck h, sameChecks_secureCell h, sameChecks_cellLabel h, hlabel, sameChecks_feLine h]
  exact ha

/-- Hints that nothing refuses are sent in their order. -/
theorem deadLines_eq {l : List Nat} (h : ∀ x ∈ l, hinted s c g (a + 256 * x)) : l.foldl (fun s i => deadLine s c g (a + 256 * i)) s =
    l.foldl (fun s i => sendOp s c g (lineOf (a + 256 * i)) .dead) s := by
  induction l generalizing s with
  | nil => rfl
  | cons x l ih =>
    obtain ⟨q, hpost, -⟩ := posts_sendOp (s := s) (c := c) (g := g) (lineOf (a + 256 * x)) .dead
    rw [List.foldl_cons, List.foldl_cons, deadLine_eq (h x List.mem_cons_self)]
    exact ih fun y hy => (sameChecks_sendOp s c g _ _).hinted (by rw [hpost.group]) (h y (List.mem_cons_of_mem _ hy))

end

theorem wideStoreAndDead : Claims.WideStoreAndDead := by
  intro s c g w hr hg
  refine ⟨fun hop hsize hmod la a hla ha hlal hfit hal hentry hwatch hpois hsyn => ?_, fun hop h0 a ha hal hwatch hj => ?_⟩
  · have hstw := stw_eq hr hg hsize hmod hla ha hlal hfit hal hentry hwatch ⟨hpois, hsyn⟩
    obtain ⟨q, hpost, hline, hqop⟩ := posts_sendOp (s := s) (c := c) (g := g) (lineOf a)
      (.write (BitVec.ofNat 2048 (lmLineValue (cell s c) la 32)) (BitVec.allOnes 256) 0 true
        (checkValue .wide (lineOf a) (BitVec.ofNat 2048 (lmLineValue (cell s c) la 32))) (some ((getU (group s c g) (mVDS w % 32)).setWidth 16, 0, 0)))
    have hreq (v : Group) := (hpost.toRequests.setGroup c g v).pmc c 2 1
    rw [nextPc_eq] at hstw
    have hrun : exec (.stw c g w) s = .next _ :=
      (run_eq (beq_iff_eq.2 hop) hr.1).trans (by rw [hstw]; exact done_eq (hreq _).part (hreq _).pending)
    refine ⟨_, q, _, hrun, (hreq _).reqs, hline, fun i hi => lineByte_lmLineValue _ (by omega) hi, hqop, ?_, (hreq _).hbm, (hreq _).slices⟩
    rw [pmc_group, group_setGroup_self, hpost.group]
    rfl
  · have hints : ∀ x ∈ List.range (ibits w 46 36 + 1), hinted s c g (a + 256 * x) := fun x hx => by
      have hx := List.mem_range.1 hx
      have hline : lineOf (a + 256 * x) = a / 256 + x := Nat.add_mul_div_left a x (by decide)
      rw [hinted, hline]
      exact hj x (by omega)
    obtain ⟨new, hpost, hmap⟩ := posts_foldl (s := s) (c := c) (g := g) (fun i => lineOf (a + 256 * i)) (fun _ => .dead) (List.range (ibits w 46 36 + 1))
    have hreq (v : Group) := (hpost.toRequests.setGroup c g v).pmc c 2 1
    have hwl : ∀ l, watchLanes s c g 1 256 ((List.range (ibits w 46 36 + 1)).map fun i => (l, (a + 256 * i) % 2 ^ 48)) = (s, []) := fun l => by
      simp only [watchLanes, List.map_map, Function.comp_def, hwatch]
    have hrun : exec (.dead c g w) s = .next (pmc (nextPc ((List.range (ibits w 46 36 + 1)).foldl (fun s i =>
        sendOp s c g (lineOf (a + 256 * i)) .dead) s) c g) c 2 1) := by
      refine run_issue (beq_iff_eq.2 hop) hr ((if_neg (not_not.2 h0)).trans ((groupWide_eq _ hg).trans ?_)) hpost.part hpost.pending
      simp only [← ha, hal, ne_eq, not_true_eq_false, if_false, hwl, deadLines_eq hints]
    refine ⟨_, new, hrun, (hreq _).reqs, ?_, ?_, (hreq _).hbm, (hreq _).slices⟩
    · rw [hmap]
      exact List.map_congr_left fun i _ => by rw [lineOf, Nat.add_mul_div_left a i (by decide)]
    · rw [pmc_group, nextPc_eq, group_setGroup_self, hpost.group]
      rfl

/-- Settles O14: a line that the cache holds is a load whose data has come; a whole line and a list of hints are posted writes. -/
theorem constantAndWideAccesses : Obligations.ConstantAndWideAccesses := ⟨constantLoad, wideStoreAndDead⟩

end Sys2Proof.Proofs
end

section
/-! Waits on flags and on full/empty words, and the gate of an idle cell (O20: R149, R159, R160, R241, R242). -/
namespace Sys2Proof.Proofs

open Sys2Proof.Machine Sys2Proof.Laws

/-! ## FLAG_WAKE and FLW_TIMEOUT -/

/-- The cell's clock runs. -/
def ungated (s : State) (c : Nat) : State := setCell s c { cell s c with gated := false }

theorem group_ungated (s : State) (c g : Nat) : group (ungated s c) c g = group s c g := by simp [group, ungated]

/-- A group's record once its FLW has returned with `v` in PD (R160). -/
def flwReturned (k : Group) (np : Bool) (pd : Nat) (v : W32) : Group :=
  { (if np then setP k pd v else k) with st := .run, await := .none, pc := (k.pc + 8) % 2 ^ 48, skipWatch := [] }

theorem setP_pc (k : Group) (p : Nat) (x : W32) : (setP k p x).pc = k.pc := by
  unfold setP
  split <;> rfl

theorem flwPd_pc (k : Group) (np : Bool) (pd : Nat) (v : Bool) : (flwPd k np pd v).pc = k.pc := by
  unfold flwPd
  split
  · exact setP_pc ..
  · rfl

theorem retire_flwPd (s : State) (c g : Nat) (k : Group) (np : Bool) (pd : Nat) (v : Bool) :
    retire s c g { flwPd k np pd v with st := .run, await := .none } = setGroup s c g (flwReturned k np pd (if v then 0xFFFFFFFF else 0)) := by
  rw [retire_eq, flwReturned]
  simp only [flwPd_pc]
  rfl

/-- A flag that a wait consumes is cleared (R159). -/
def consumed (s : State) (r i : Nat) (b : Bool) : State := if b then putFlag s r i {} else s

theorem consumed_frame (s : State) (r i : Nat) (b : Bool) : consumed s r i b = { s with regions := (consumed s r i b).regions } := by
  cases b <;> rfl

theorem flagAt_consumed (s : State) (r i : Nat) (b : Bool) (r' i' : Nat) :
    flagAt (consumed s r i b) r' i' = if b = true ∧ r' = r ∧ i' = i then {} else flagAt s r' i' := by
  cases b
  · exact (if_neg fun h => Bool.false_ne_true h.1).symm
  · exact (flagAt_putFlag r i r' i' {}).trans (if_congr (by simp) rfl rfl)

/-- A wait that ends with the wanted state: a consuming wait for a set flag clears it. -/
theorem flwReturn_eq (s : State) (c g r i : Nat) (st consume np : Bool) (pd : Nat) : flwReturn s c g r i st consume np pd =
    setGroup (consumed s r i (st && consume)) c g (flwReturned (group s c g) np pd 0xFFFFFFFF) := by
  rw [flwReturn]
  dsimp only
  rw [retire_flwPd]
  cases st && consume <;> rfl

/-- A waiting group whose flag reads the wanted state returns, and its cell's clock runs. -/
theorem flagWake_eq {s : State} {c g r i lim pd f born : Nat} {st consume np : Bool} (hth : thawed s = true)
    (hawait : (group s c g).await = .flw r i st consume lim np pd f born) (hset : (flagAt s r i).set = st) : flagWake c g s =
      setGroup (consumed (ungated s c) r i (st && consume)) c g (flwReturned (group s c g) np pd 0xFFFFFFFF) := by
  have hheld : flagHeld s (regionOfCell c) (some (.loc r i)) = false := flagHeld_of_thawed hth _ _
  rw [flagWake, hawait]
  simp only [hset, hheld]
  rw [← group_ungated s c g]
  exact flwReturn_eq ..

/-- A waiting group whose limit has passed returns with PD clear, or parks where NP is 0 (R160). -/
theorem flwTimeout_eq {s : State} {c g r i lim pd f born : Nat} {st consume np : Bool}
    (hawait : (group s c g).await = .flw r i st consume lim np pd f born) (hlim : lim ≠ 0) (hout : timedOut s born lim = true) : flwTimeout c g s =
      if np then setGroup (ungated s c) c g (flwReturned (group s c g) true pd 0)
      else park (ungated s c) c g { cause := 10, detail := lim, addr := f, lanes := (group s c g).active } := by
  have hgo : (decide (lim = 0) || !timedOut s born lim) = false := by simp [hlim, hout]
  rw [flwTimeout]
  simp only [hawait, hgo]
  rw [retire_flwPd]
  cases np <;> rfl

@[simp] theorem park_reqs (s : State) (c g : Nat) (r : Park) : (park s c g r).reqs = s.reqs := by simp [park_eq]

theorem flagWaitEnds : Claims.FlagWaitEnds := by
  intro s c g r i lim pd f born st consume np hres hth hpres hg hawait
  have hok : (present s .cell c && decide (g < 16)) = true := by rw [hpres, decide_eq_true hg]; rfl
  refine ⟨fun hset => ?_, fun hlim hout => ?_, fun hgroups hops hcopies hidle => ?_⟩
  · refine ⟨_, (run_eq hok hres).trans ((congrArg (done s) (flagWake_eq hth hawait hset)).trans (done_eq ?_ ?_)), group_setGroup_self .., ?_,
      fun r' i' hne => ?_, ?_, ?_, ?_⟩
    · rw [consumed_frame]
      rfl
    · rw [consumed_frame]
      rfl
    · refine (congrArg Flag.set (flagAt_consumed (ungated s c) r i (st && consume) r i)).trans ?_
      have hflag : (flagAt (ungated s c) r i).set = st := hset
      cases st <;> cases consume <;> simp [hflag]
    · exact (flagAt_consumed (ungated s c) r i (st && consume) r' i').trans (if_neg fun h => hne h.2)
    · rw [cell_setGroup, if_pos rfl, consumed_frame]
      exact congrArg Cell.gated (cell_setCell_self ..)
    · rw [consumed_frame]
      rfl
    · rw [consumed_frame]
      rfl
  · have hgroup (k : Group) : (cell (setGroup (ungated s c) c g k) c).gated = false := by
      rw [cell_setGroup, if_pos rfl]
      exact congrArg Cell.gated (cell_setCell_self ..)
    have hrun {t : State} (ht : flwTimeout c g s = t) (hp : t.part = s.part) (hq : t.pending = s.pending) : exec (.flwTimeout c g) s = .next t :=
      (run_eq hok hres).trans (ht ▸ done_eq (by rw [ht, hp]) (by rw [ht, hq]))
    have heq := flwTimeout_eq hawait hlim hout
    cases np
    · rw [if_neg Bool.false_ne_true] at heq
      refine ⟨_, hrun heq (park_part ..) (park_pending ..), ?_, park_regions .., park_hbm .., fun h => absurd h (by decide), fun _ => ?_⟩
      · rw [cell_park]
        exact congrArg Cell.gated (cell_setCell_self ..)
      · rw [group_park, group_ungated]
        rfl
    · rw [if_pos rfl] at heq
      exact ⟨_, hrun heq rfl rfl, hgroup _, rfl, rfl, fun _ => group_setGroup_self .., fun h => absurd h (by decide)⟩
  · have hgate : cellGate c s = setCell s c { cell s c with gated := true } := by
      refine if_pos ?_
      rw [hops, hcopies, hidle]
      refine Bool.and_eq_true_iff.2 ⟨Bool.and_eq_true_iff.2 ⟨Bool.and_eq_true_iff.2 ⟨List.all_eq_true.2 fun x hx => ?_, rfl⟩, rfl⟩, rfl⟩
      rcases hgroups x hx with h | ⟨h, _, _, _, _, _, _, _, _, _, ha⟩
      · rw [h]
        rfl
      · rw [h, ha]
        rfl
    exact (run_eq hpres hres).trans ((congrArg (done s) hgate).trans (done_eq rfl rfl))

/-! ## FE_ACCESS_TIMEOUT (R242) -/

/-- The state once the requests of a full/empty access are withdrawn. -/
def withdrawn (s : State) (out : List Nat) : State :=
  { s with reqs := s.reqs.filter (fun q => !out.contains q.id), resps := s.resps.filter (fun r => !out.contains r.id) }

/-- Lanes that have no answer raise TIMEOUT. -/
theorem lateLanes_eq (s : State) (a : AwaitMem) (lim : Nat) (h : ∀ x ∈ a.lanes, a.ids.any (fun y => y.2 == x.1) = true) :
    a.lanes.filterMap (lateLane s a lim) = a.lanes.map fun x => ⟨x.1, 10, lim, 2, x.2⟩ := by
  rw [← List.filterMap_eq_map]
  exact List.filterMap_congr fun x hx => if_pos (h x hx)

theorem fullEmptyTimeout : Claims.FullEmptyTimeout := by
  intro s c g l a0 a rest hres hpres hg hst hawait hkind
  set lim := fld s .region (regionOfCell c) f_REGION_FE_CTRL_TO with hdef
  intro hlim
  have hok : (present s .cell c && decide (g < 16)) = true := by rw [hpres, decide_eq_true hg]; rfl
  refine ⟨fun hout => ?_, fun hout hlanes hmin hids => ?_⟩
  · have hstay : feTimeout c g s = s := by
      rw [feTimeout]
      simp [hawait, ← hdef, hout]
    refine (run_eq hok hres).trans ?_
    rw [hstay]
    exact done_eq rfl rfl
  · have hgo : (decide (lim = 0) || !(a.kind == 4 || a.kind == 5) || (group s c g).st != .wait || !timedOut s a.born lim) = false := by
      rcases hkind with h | h <;> simp [h, hlim, hst, hout]
    have hout' : feTimeout c g s = parkLanes (withdrawn s (a.ids.map (·.1))) c g (a.lanes.filterMap (lateLane (withdrawn s (a.ids.map (·.1))) a lim)) := by
      rw [feTimeout]
      simp only [hawait, ← hdef, hgo]
      rfl
    rw [lateLanes_eq _ _ _ hids, hlanes, List.map_cons] at hout'
    have hcause : ∀ e ∈ (⟨l, 10, lim, 2, a0⟩ : LaneFault) :: rest.map (fun x => ⟨x.1, 10, lim, 2, x.2⟩), e.cause = 10 := by
      exact List.forall_mem_cons.2 ⟨rfl, List.forall_mem_map.2 fun _ _ => rfl⟩
    have hpark := hout'.trans (parkLanes_uniform (by decide) hcause (List.forall_mem_map.2 hmin))
    refine ⟨_, (run_eq hok hres).trans ((congrArg (done s) hpark).trans (done_eq (park_part ..) (park_pending ..))), ?_⟩
    simp only [group_park, park_reqs, park_hbm, park_slices]
    exact ⟨rfl, rfl, rfl, rfl, rfl, rfl, rfl, rfl, rfl⟩

/-- Settles O20: a wait ends by its flag or by its limit, and a full/empty access by its limit. -/
theorem flagWaitsEndOrTimeOut : Obligations.FlagWaitsEndOrTimeOut := ⟨flagWaitEnds, fullEmptyTimeout⟩

end Sys2Proof.Proofs
end

section
/-! Replies that reach a group through its network interface (O21: R145, R151, R153, R343). -/
namespace Sys2Proof.Proofs

open Sys2Proof.Machine Sys2Proof.Laws

/-! ## A reply is taken -/

/-- The state once a reply is no longer on its way. -/
def answerTaken (s : State) (id : Nat) : State := { s with resps := s.resps.filter (fun x => x.id != id) }

@[simp] theorem group_answerTaken (s : State) (id c g : Nat) : group (answerTaken s id) c g = group s c g := rfl

section
variable {s : State} {id : Nat} {r : Resp} (hth : thawed s = true) (hfind : s.resps.find? (fun x => x.id == id) = some r)
include hfind

theorem id_of_find : r.id = id := by simpa using List.find?_some hfind

include hth in

/-- The first reply with an identifier is taken by the event of its kind and reaches its source. -/
theorem takeResp_eq {load : Bool} (hload : isLoad s r = load) : takeResp load id s = (deliver (answerTaken s id) r).getD s := by
  have hboth : s.resps.find? (fun x => x.id == id && isLoad s x == load) = some r := by
    obtain ⟨hid, pre, post, hsplit, hpre⟩ := List.find?_eq_some_iff_append.1 hfind
    refine List.find?_eq_some_iff_append.2 ⟨by rw [hid, hload, beq_self_eq_true]; rfl, pre, post, hsplit, fun x hx => ?_⟩
    have hne : (x.id == id) = false := Bool.not_eq_true' _ ▸ hpre x hx
    rw [hne]
    rfl
  simp only [takeResp, hboth, niFrozen_of_thawed hth, Bool.false_eq_true, if_false, answerTaken]

variable {c g : Nat} (hsrc : r.src = .group c g)
include hsrc

include hth in
/-- A reply that the group awaits is kept or ends its wait. -/
theorem takeResp_load (hload : isLoad s r = true) : takeResp true id s = groupReply (answerTaken s id) c g id r.reply := by
  have hl : isLoad (answerTaken s id) r = true := hload
  rw [takeResp_eq hth hfind hload, deliver, hsrc]
  simp only [hl, if_true, id_of_find hfind, Option.getD_some]

include hth in
/-- The acceptance, refusal or timeout of a group's posted write. -/
theorem takeResp_write (hload : isLoad s r = false) : takeResp false id s = groupWrite (answerTaken s id) c g r := by
  have hl : isLoad (answerTaken s id) r = false := hload
  rw [takeResp_eq hth hfind hload, deliver, hsrc]
  simp only [hl, Bool.false_eq_true, if_false, Option.getD_some]

theorem isLoad_of_awaited {a : AwaitMem} {key : Nat} (hawait : (group s c g).await = .mem a) (hid : (id, key) ∈ a.ids) : isLoad s r = true := by
  rw [isLoad, hsrc]
  simp only [hawait, id_of_find hfind]
  exact List.any_eq_true.2 ⟨_, hid, beq_self_eq_true _⟩

omit hfind in
theorem isLoad_of_not_mem (hawait : (group s c g).await = .none ∨ ∃ n, (group s c g).await = .fence n) : isLoad s r = replyLoads r.reply := by
  rw [isLoad, hsrc]
  rcases hawait with h | ⟨n, h⟩ <;> simp only [h]

end

/-! ## Answers of a load -/

section
variable {s : State} {c g id key : Nat} {rep : Reply} {a : AwaitMem}

/-- The load with one more answer. -/
def gathered (a : AwaitMem) (id key : Nat) (rep : Reply) : AwaitMem :=
  { a with ids := a.ids.filter (fun x => x.1 != id), got := a.got ++ [(id, key, rep)] }

theorem find_ids (hid : (id, key) ∈ a.ids) (hpw : a.ids.Pairwise (fun x y => x.1 ≠ y.1)) : a.ids.find? (fun x => x.1 == id) = some (id, key) := by
  generalize a.ids = ids at hid hpw
  induction ids with
  | nil => simp at hid
  | cons x t ih =>
    obtain ⟨hx, ht⟩ := List.pairwise_cons.1 hpw
    rcases List.mem_cons.1 hid with rfl | hmem
    · exact List.find?_cons_of_pos (beq_self_eq_true _)
    · rw [List.find?_cons_of_neg (by simpa using hx _ hmem)]
      exact ih hmem ht

variable (hawait : (group s c g).await = .mem a) (hkind : a.kind = 0) (hid : (id, key) ∈ a.ids) (hpw : a.ids.Pairwise (fun x y => x.1 ≠ y.1))
include hawait hkind hid hpw

/-- An answer to an ordinary load is kept, and the last one ends the load. -/
theorem groupReply_eq : groupReply s c g id rep = if (gathered a id key rep).ids.isEmpty then finishLoad s c g (gathered a id key rep)
    else setGroup s c g { group s c g with await := .mem (gathered a id key rep) } := by
  rw [groupReply]
  simp only [hawait, find_ids hid hpw, hkind, gathered, Nat.zero_ne_one, OfNat.zero_ne_ofNat, decide_false, Bool.or_self, Bool.false_eq_true, if_false]

end

/-- A bit of GSTAT after one has been set. -/
theorem bitN_orGstat (k : Group) {b j : Nat} (hj : j < 64) : bitN (orGstat k (2 ^ b)).gstat.toNat j = (bitN k.gstat.toNat j || j == b) := by
  rw [orGstat, bitN_toNat, bitN_toNat, BitVec.getLsbD_or, BitVec.getLsbD_ofNat, decide_eq_true hj, Bool.true_and, Nat.testBit_two_pow, beq_eq_decide]
  exact congrArg _ (decide_eq_decide.2 eq_comm)

/-- The record of a group whose ordinary load has brought line `d`. -/
def loaded (s : State) (k : Group) (a : AwaitMem) (d : Line) (ov : Bool) : Group :=
  advanced (if ov then orGstat (putLanes s (resumed k) a.vd a.size (lineValues d a.size a.lanes)) 8
    else putLanes s (resumed k) a.vd a.size (lineValues d a.size a.lanes))

theorem loaded_frame (s : State) (k : Group) (a : AwaitMem) (d : Line) (ov : Bool) : loaded s k a d ov =
    { k with st := .run, await := .none, pc := (k.pc + 8) % 2 ^ 48, skipWatch := [], v := (loaded s k a d ov).v, gstat := (loaded s k a d ov).gstat } := by
  rw [loaded, putLanes_frame]
  cases ov <;> rfl

theorem loaded_v (s : State) (k : Group) (a : AwaitMem) (d : Line) (ov : Bool) :
    (loaded s k a d ov).v = (putLanes s (resumed k) a.vd a.size (lineValues d a.size a.lanes)).v := by cases ov <;> rfl

theorem bitN_loaded_gstat (s : State) (k : Group) (a : AwaitMem) (d : Line) (ov : Bool) {j : Nat} (hj : j < 64) :
    bitN (loaded s k a d ov).gstat.toNat j = (bitN k.gstat.toNat j || (j == 3 && ov)) := by
  rw [loaded, putLanes_frame]
  cases ov
  · simp [advanced, resumed]
  · exact (bitN_orGstat _ (b := 3) hj).trans (by rw [Bool.and_true]; rfl)

/-- The last line of an ordinary load brings its lanes their bytes. -/
theorem lastAnswer {s : State} {c g id line : Nat} {a : AwaitMem} {d : Line} {ov : Bool} (hawait : (group s c g).await = .mem a) (hkind : a.kind = 0)
    (hids : a.ids = [(id, line)]) (hgot : a.got = []) (hlanes : ∀ x ∈ a.lanes, x.2 / 256 = line) :
    groupReply s c g id (.data d 0 false ov) = setGroup (drawn s) c g (loaded s (group s c g) a d ov) := by
  have hreply : ∀ x ∈ a.lanes, replyFor (gathered a id line (.data d 0 false ov)).got (lineOf x.2) = .data d 0 false ov := fun x hx => by
    simp [replyFor, gathered, hgot, lineOf, hlanes x hx]
  have hlast := groupReply_eq (rep := .data d 0 false ov) hawait hkind (key := line) (by rw [hids]; exact List.mem_singleton_self _) (by rw [hids]; exact List.pairwise_singleton ..)
  rw [hlast, if_pos (by simp [gathered, hids]), finishLoad_lanes (show (gathered a id line _).kind ≠ 4 by rw [gathered, hkind]; decide) hreply
    (by rw [gathered, hkind]; decide)]
  simp [loaded, gathered, hgot, hkind, anyOvf]

/-! ## Answers of a write -/

/-- A group without one of its outstanding writes. -/
def written (k : Group) (id : Nat) : Group := { k with outD := k.outD.filter (· != id), outF := k.outF.filter (· != id) }

section
variable {s : State} {c g : Nat} {r : Resp} (hout : r.id ∈ (group s c g).outD ∨ r.id ∈ (group s c g).outF)
include hout

theorem groupWrite_accepted (h : r.reply = .accepted) : groupWrite s c g r = settleWait (setGroup s c g (written (group s c g) r.id)) c g := by
  have hmem : (!((group s c g).outD.contains r.id || (group s c g).outF.contains r.id)) = false := by
    rcases hout with h | h <;> simp [h]
  simp only [groupWrite, hmem, h]
  rfl

theorem groupWrite_timeout (h : r.reply = .timeout) : groupWrite s c g r = settleWait (fto (setGroup s c g (written (group s c g) r.id)) c g) c g := by
  have hmem : (!((group s c g).outD.contains r.id || (group s c g).outF.contains r.id)) = false := by
    rcases hout with h | h <;> simp [h]
  simp only [groupWrite, hmem, h]
  rfl

end

theorem settleWait_none {s : State} {c g : Nat} (h : (group s c g).await = .none) : settleWait s c g = s := by
  rw [settleWait]
  simp only [h]

theorem group_fto (s : State) (c g : Nat) : group (fto s c g) c g = orGstat (group s c g) gsFTO := by
  rw [fto, noteLost]
  exact group_setGroup_self ..

/-- A FENCE.D whose last write has been accepted is done. -/
theorem settleWait_fence {s : State} {c g : Nat} (h : (group s c g).await = .fence 1) (hout : (group s c g).outD = []) :
    settleWait s c g = setGroup s c g (advanced (resumed (group s c g))) := by
  have hdone : fenceDone (group s c g) 1 = true := by rw [fenceDone, hout]; rfl
  rw [settleWait]
  simp only [h, hdone]
  exact nextPc_setGroup ..

/-- Settles O21: the last answer ends a load, an earlier one is kept, and a write's acceptance or timeout takes it from those outstanding. -/
theorem repliesReturn : Obligations.RepliesReturn := by
  intro s c g id r hres hth hfind hsrc
  refine ⟨fun a d ov hawait hkind hids hgot hpw hlanes hsize hrep => ?_, fun a j l hawait hkind hid hpw hj hne => ?_, fun hawait hid hrep => ?_,
    fun hawait hid hrep => ?_, fun hawait hid hrep => ?_⟩
  · have hid : (id, r.line) ∈ a.ids := by
      rw [hids]
      exact List.mem_singleton_self _
    have heq := takeResp_load hth hfind hsrc (isLoad_of_awaited hfind hsrc hawait hid)
    rw [hrep, lastAnswer (s := answerTaken s id) hawait hkind hids hgot fun x hx => (hlanes x hx).2.1] at heq
    have hpos : 0 < a.size := by
      simp only [List.mem_cons, List.not_mem_nil, or_false] at hsize
      omega
    have hlt : ∀ y ∈ lineValues d a.size a.lanes, y.1 < 32 := List.forall_mem_map.2 fun x hx => (hlanes x hx).1
    have hvals : (lineValues d a.size a.lanes).map (·.1) = a.lanes.map (·.1) := by
      rw [lineValues, List.map_map]
      rfl
    have hnodup : ((lineValues d a.size a.lanes).map (·.1)).Nodup := hvals ▸ (List.pairwise_map.2 hpw).imp fun h => ne_of_lt h
    refine ⟨_, (run_eq rfl hres).trans ((congrArg (done s) heq).trans (done_eq rfl rfl)), ?_, fun x hx => ?_, fun q l hl hq => ?_, fun j hj => ?_, rfl, rfl, rfl⟩
    · rw [group_setGroup_self]
      exact loaded_frame ..
    · rw [group_setGroup_self, group_answerTaken]
      have hlane : laneValue (loaded (answerTaken s id) (group s c g) a d ov) a.vd a.size x.1 =
          laneValue (putLanes (answerTaken s id) (resumed (group s c g)) a.vd a.size (lineValues d a.size a.lanes)) a.vd a.size x.1 := by
        simp only [laneValue, getV, loaded_v]
      rw [hlane, laneValue_putLanes hsize hlt _ hnodup (List.mem_map_of_mem hx), Nat.mod_eq_of_lt (lineValue_lt _ _ hpos)]
      rfl
    · rw [group_setGroup_self, group_answerTaken]
      have hreg : getV (loaded (answerTaken s id) (group s c g) a d ov) q l =
          getV (putLanes (answerTaken s id) (resumed (group s c g)) a.vd a.size (lineValues d a.size a.lanes)) q l := by
        simp only [getV, loaded_v]
      rw [hreg, getV_putLanes_other hsize hlt _ hl (hvals ▸ hq)]
      rfl
    · rw [group_setGroup_self]
      exact bitN_loaded_gstat _ _ _ _ _ hj
  · have heq := takeResp_load hth hfind hsrc (isLoad_of_awaited hfind hsrc hawait hid)
    have hmore : (gathered a id r.line r.reply).ids.isEmpty = false := by
      rw [gathered, List.isEmpty_eq_false_iff_exists_mem]
      exact ⟨_, List.mem_filter.2 ⟨hj, by simpa using hne⟩⟩
    rw [groupReply_eq (s := answerTaken s id) hawait hkind hid hpw, hmore] at heq
    exact ⟨_, (run_eq rfl hres).trans ((congrArg (done s) heq).trans (done_eq rfl rfl)), group_setGroup_self ..⟩
  · have heq := takeResp_write hth hfind hsrc ((isLoad_of_not_mem hsrc (.inl hawait)).trans (by rw [hrep]; rfl))
    obtain rfl := id_of_find hfind
    rw [groupWrite_accepted (s := answerTaken s r.id) (.inl hid) hrep, settleWait_none (by rw [group_setGroup_self]; exact hawait)] at heq
    exact ⟨_, (run_eq rfl hres).trans ((congrArg (done s) heq).trans (done_eq rfl rfl)), group_setGroup_self .., rfl, rfl, rfl, rfl⟩
  · have heq := takeResp_write hth hfind hsrc ((isLoad_of_not_mem hsrc (.inr ⟨1, hawait⟩)).trans (by rw [hrep]; rfl))
    obtain rfl := id_of_find hfind
    have hmem : r.id ∈ (group s c g).outD := by
      rw [hid]
      exact List.mem_singleton_self _
    have hempty : (written (group s c g) r.id).outD = [] := by simp [written, hid]
    rw [groupWrite_accepted (s := answerTaken s r.id) (.inl hmem) hrep, settleWait_fence (by rw [group_setGroup_self]; exact hawait)
      (by rw [group_setGroup_self]; exact hempty)] at heq
    refine ⟨_, (run_eq rfl hres).trans ((congrArg (done s) heq).trans (done_eq rfl rfl)), (group_setGroup_self ..).trans ?_⟩
    rw [group_setGroup_self, group_answerTaken, advanced, resumed, ← hempty]
    rfl
  · have heq := takeResp_write hth hfind hsrc ((isLoad_of_not_mem hsrc (.inl hawait)).trans (by rw [hrep]; rfl))
    obtain rfl := id_of_find hfind
    rw [groupWrite_timeout (s := answerTaken s r.id) (.inr hid) hrep, settleWait_none (by rw [group_fto, group_setGroup_self]; exact hawait)] at heq
    refine ⟨_, (run_eq rfl hres).trans ((congrArg (done s) heq).trans (done_eq rfl rfl)), ?_, fun j hj => ?_⟩
    · rw [group_fto, group_setGroup_self]
      rfl
    · rw [group_fto, group_setGroup_self]
      exact bitN_orGstat _ (b := 8) hj

end Sys2Proof.Proofs
end

section
/-! FLS, FLC and FLW (O17: R137, R158 to R160, R164, R224, R236). -/
namespace Sys2Proof.Proofs

open Sys2Proof.Machine Sys2Proof.Laws

/-! ## What counting leaves of the interrupt registers -/

section
variable {s : State} {k : PageKind} {i i' : Nat}

/-- Another interrupt source's pending bit, in the pages of one kind. -/
theorem pending_raiseIrq_other {bit bit' : Nat} (hb : bit ≤ 31) (hb' : bit' ≤ 31) (hne : bit' ≠ bit) (hn : NotIrc k i') :
    bitN (reg (raiseIrq s k i bit) k i' o_COMMON_IRQ_PENDING).toNat bit' = bitN (reg s k i' o_COMMON_IRQ_PENDING).toNat bit' := by
  have hev : evtOf bit ≤ 31 := by unfold evtOf; split <;> omega
  by_cases hp : i' = i
  · subst hp
    rw [reg_raiseIrq_page s bit _ hn.1 hn.2, reg_bumpByte_off _
      (by dsimp only [o_COMMON_EVT_CNT, o_COMMON_IRQ_PENDING]; omega) (by dsimp only [o_COMMON_EVT_SAT, o_COMMON_IRQ_PENDING]; omega)]
    have hbits := fld_setF_bits s k i' ⟨o_COMMON_IRQ_PENDING, bit, bit⟩ ⟨o_COMMON_IRQ_PENDING, bit', bit'⟩ 1 le_rfl (by dsimp only; omega)
      (by dsimp only; omega)
    rw [← flag_eq_bitN, ← flag_eq_bitN, flag, flag, hbits]
  · rw [reg_raiseIrq_other s bit (fun h => hp (Nat.add_left_cancel h)) hn]

/-- A counted event leaves the pending bits below its own as they are. -/
theorem pending_bump {off n bit : Nat} (hb : bit < 31) (hn : NotIrc k i') :
    bitN (reg (bump s k i off n) k i' o_COMMON_IRQ_PENDING).toNat bit = bitN (reg s k i' o_COMMON_IRQ_PENDING).toNat bit := by
  have hctr : ∀ v, reg (setCtr s k i off v) k i' o_COMMON_IRQ_PENDING = reg s k i' o_COMMON_IRQ_PENDING := fun v => by
    by_cases hp : pageNo k i' = pageNo k i
    · have hpage : page s k i' = page s k i := by unfold page; rw [hp]
      simp only [reg, setCtr, page_setPage, if_pos hp, setPage_part, hpage]
    · simp only [reg, setCtr, page_setPage, if_neg hp, setPage_part]
  unfold bump
  dsimp only
  split
  · split
    · rfl
    · split
      · rw [hctr]
      · rw [pending_raiseIrq_other (by decide) (by omega) (by omega) hn, hctr]
  · split <;> rw [hctr]
  · rfl

/-- What the PMCs count leaves a region's other interrupt sources as they are. -/
theorem pending_pmc (c ev n : Nat) {bit : Nat} (hb : bit < 31) (r : Nat) :
    bitN (reg (pmc s c ev n) .region r o_COMMON_IRQ_PENDING).toNat bit = bitN (reg s .region r o_COMMON_IRQ_PENDING).toNat bit := by
  have hfrom : ∀ m, bitN (reg (pmcFrom s c ev n m) .region r o_COMMON_IRQ_PENDING).toNat bit = bitN (reg s .region r o_COMMON_IRQ_PENDING).toNat bit := fun m => by
    induction m with
    | zero => rfl
    | succ m ih =>
      rw [pmcFrom]
      split
      · rw [pending_bump hb (notIrc_region r), ih]
      · exact ih
  exact hfrom 8

end

/-! ## Flag writes -/

/-- The state once the segment's world has refused a write (R236). -/
def worldRefused (s : State) (c r i : Nat) (l : Byte) : State := flagDrop (secLogAdd s 4 0 true c l 0 i) r

theorem worldRefused_fields (s : State) (c r i : Nat) (l : Byte) : (worldRefused s c r i l).part = s.part ∧ (worldRefused s c r i l).pending = s.pending ∧
    (worldRefused s c r i l).regions = s.regions ∧ (worldRefused s c r i l).hbm = s.hbm ∧ (worldRefused s c r i l).cells = s.cells := by
  obtain ⟨hp, hq, -⟩ := pagesOnly_fields (pagesOnly_secLogAdd s 4 0 true c l 0 i)
  refine ⟨(raiseIrq_part ..).trans hp, (raiseIrq_pending ..).trans hq, (raiseIrq_regions ..).trans (secLogAdd_regions ..),
    (raiseIrq_hbm ..).trans ?_, (raiseIrq_cells ..).trans ?_⟩ <;> rw [pagesOnly_secLogAdd]

theorem nextPc_frame (u : State) (c g : Nat) : nextPc u c g = { u with cells := (nextPc u c g).cells } := rfl

/-- A dropped write changes its group, and the run of the group's reach. -/
theorem wdrop_frame (u : State) (c g : Nat) : wdrop u c g = { u with cells := (wdrop u c g).cells, blocks := (wdrop u c g).blocks } := rfl

theorem wdrop_next_fields (u : State) (c g : Nat) : (nextPc (wdrop u c g) c g).part = u.part ∧ (nextPc (wdrop u c g) c g).pending = u.pending ∧
    (nextPc (wdrop u c g) c g).regions = u.regions ∧ (nextPc (wdrop u c g) c g).hbm = u.hbm := by
  rw [nextPc_frame, wdrop_frame]
  exact ⟨rfl, rfl, rfl, rfl⟩

theorem reg_wdrop_next (u : State) (c g : Nat) (k : PageKind) (i x : Nat) : reg (nextPc (wdrop u c g) c g) k i x = reg u k i x := by
  rw [nextPc_frame, wdrop_frame]
  rfl

theorem group_wdrop (u : State) (c g : Nat) : group (wdrop u c g) c g = orGstat (group u c g) gsWDROP := by
  rw [wdrop, noteLost]
  exact group_setGroup_self ..

theorem sends_fabIssue (s : State) (r : FabReq) : Sends s (fabIssue s r) := 
  (sends_fab s { s.fab with wait := s.fab.wait ++ [{ r with born := s.time.toNat }] } rfl rfl).trans (sends_pump _)

/-- The state in which a group's posted write goes to the fabric. -/
def flagPosted (s : State) (c g : Nat) : State := addOut (pmc (newId s).1 c 6 1) c g (newId s).2 true

theorem flagPosted_fields (s : State) (c g : Nat) : (flagPosted s c g).part = s.part ∧ (flagPosted s c g).pending = s.pending ∧
    (flagPosted s c g).regions = s.regions ∧ (flagPosted s c g).hbm = s.hbm ∧ (flagPosted s c g).slices = s.slices :=
  ⟨pmc_part .., pmc_pending .., pmc_regions .., pmc_hbm .., pmc_slices ..⟩

theorem group_flagPosted (s : State) (c g : Nat) :
    group (flagPosted s c g) c g = { group s c g with outF := (group s c g).outF ++ [s.nextId] } := by
  refine (group_setGroup_self ..).trans ?_
  rw [pmc_group]
  rfl

/-- The state once a write of a flag of another device has been sent. -/
def flagSent (s : State) (c g wd r i : Nat) (set : Bool) : State :=
  let pkt := flagPacket (fwin (flagPosted s c g) wd) r i set (secureCell s c) (cellLabel s (group s c g).label)
  fabIssue (flagPosted s c g) { id := (newId s).2, src := .group c g, line := 0, pkt := pkt, nid := some (nidOf c g), win := wd }

theorem flagSent_sends (s : State) (c g wd r i : Nat) (set : Bool) : Sends (flagPosted s c g) (flagSent s c g wd r i set) := sends_fabIssue ..

theorem group_flagSent (s : State) (c g wd r i : Nat) (set : Bool) : group (flagSent s c g wd r i set) c g = group (flagPosted s c g) c g := by
  simp only [group, cell, (flagSent_sends s c g wd r i set).cells]

theorem nextPc_fields (u : State) (c g : Nat) : (nextPc u c g).part = u.part ∧ (nextPc u c g).pending = u.pending ∧
    (nextPc u c g).regions = u.regions ∧ (nextPc u c g).hbm = u.hbm ∧ (nextPc u c g).slices = u.slices := ⟨rfl, rfl, rfl, rfl, rfl⟩

section
variable {s : State} {c g : Nat} {w : W64} {ok : Bool} {t : State} (hr : ready s c g w) (hg : guardLanes (group s c g) w ≠ 0)
include hr hg

/-- A group-wide control instruction that has its effect. -/
theorem ctl_next {reserved : Nat} {f : State → Option State} (hok : ok = true) (h0 : reserved = 0) (hf : f s = some t) (hp : t.part = s.part)
    (hq : t.pending = s.pending) : run ok s (ctlIssue c g w reserved fun s => groupWide s c g w f) = .next (pmc t c 2 1) :=
  run_issue hok hr ((ctl_body h0 hg).trans hf) hp hq

variable (hth : thawed s = true) (h0 : ibits w 30 0 = 0) (hok : ok = true)
include hth h0 hok

/-- FLS and FLC on a flag of this device that their cell may write. -/
theorem flagOp_open {set : Bool} {r i : Nat} (hx : xlat s (regionOfCell c) (flagIdent (group s c g) w) = some (.loc r i))
    (hw : flagSecure s r i = true → secureCell s c = true) (hf : (if set then flagSet s r i else flagClr s r i) = t)
    (hgrp : group t c g = group s c g) (hp : t.part = s.part) (hq : t.pending = s.pending) :
    run ok s (flagOp c g w set) = .next (pmc (setGroup t c g (advanced (group s c g))) c 2 1) := by
  have hopen : flagSecure s r i = false ∨ secureCell s c = true := by
    rcases hs : flagSecure s r i
    · exact .inl rfl
    · exact .inr (hw hs)
  refine ctl_next hr hg hok h0 ?_ hp hq
  simp only [flagHeld_of_thawed hth, hx, flagWrite_open r i set 0 c _ hopen, hf, Bool.false_eq_true, if_false, if_true, nextPc_eq, hgrp]

/-- A write of a flag that the segment's world refuses. -/
theorem flagOp_refused {set : Bool} {r i : Nat} (hx : xlat s (regionOfCell c) (flagIdent (group s c g) w) = some (.loc r i))
    (hf : flagSecure s r i = true) (hw : secureCell s c = false) : run ok s (flagOp c g w set) = .next (pmc (nextPc (wdrop
      (worldRefused s c r i (cellLabel s (group s c g).label)) c g) c g) c 2 1) := by
  refine ctl_next hr hg hok h0 ?_ ?_ ?_
  · simp only [flagHeld_of_thawed hth, hx, hw, flagWrite_refused r i set 0 c _ hf, Bool.false_eq_true, if_false]
    rfl
  · exact (wdrop_next_fields ..).1.trans (worldRefused_fields ..).1
  · exact (wdrop_next_fields ..).2.1.trans (worldRefused_fields ..).2.1

/-- A write of a flag of another device that its window admits. -/
theorem flagOp_remote {set : Bool} {wd r i : Nat} (hx : xlat s (regionOfCell c) (flagIdent (group s c g) w) = some (.remote wd r i))
    (hen : fwEn (fwin s wd) = true) (hw : flagWinOk s wd (secureCell s c) (labelPart (cellLabel s (group s c g).label)) = true) :
    run ok s (flagOp c g w set) = .next (pmc (nextPc (flagSent s c g wd r i set) c g) c 2 1) := by
  refine ctl_next hr hg hok h0 ?_ ?_ ?_
  · simp only [flagHeld_of_thawed hth, hx, hen, hw, Bool.not_true, Bool.false_eq_true, if_false]
    rfl
  · exact (nextPc_fields ..).1.trans ((flagSent_sends ..).part.trans (flagPosted_fields s c g).1)
  · exact (nextPc_fields ..).2.1.trans ((flagSent_sends ..).pending.trans (flagPosted_fields s c g).2.1)

end

/-! ## FLW -/

section
variable {s : State} {c g r i : Nat} {w : W64} (hr : ready s c g w) (hg : guardLanes (group s c g) w ≠ 0) (hth : thawed s = true)
  (h0 : ibits w 20 0 = 0) (hop : opc w = 0xD0) (hx : xlat s (regionOfCell c) (flagIdent (group s c g) w) = some (.loc r i))
  (hw : flagSecure s r i = true → secureCell s c = true)
include hr hg hth h0 hop hx hw

theorem flw_returns (hs : (flagAt s r i).set = bitN w.toNat 30) : exec (.flw c g w) s = .next (pmc (setGroup
    (consumed s r i (bitN w.toNat 30 && bitN w.toNat 29)) c g (flwReturned (group s c g) (bitN w.toNat 24) (ibits w 23 21) 0xFFFFFFFF)) c 2 1) := by
  have hopen : (flagSecure s r i && !secureCell s c) = false := by
    cases hsec : flagSecure s r i <;> simp [hw, hsec]
  refine ctl_next hr hg (beq_iff_eq.2 hop) h0 ?_ ?_ ?_
  · simp only [flagHeld_of_thawed hth, hx, hopen, hs, Bool.false_eq_true, if_false, if_true, flwReturn_eq]
  · rw [consumed_frame]
    rfl
  · rw [consumed_frame]
    rfl

theorem flw_waits (hs : (flagAt s r i).set ≠ bitN w.toNat 30) : exec (.flw c g w) s = .next (pmc (setGroup s c g { group s c g with
    st := .wait, await := .flw r i (bitN w.toNat 30) (bitN w.toNat 29) (ibits w 28 25) (bitN w.toNat 24) (ibits w 23 21)
      (flagIdent (group s c g) w) s.time.toNat }) c 2 1) := by
  have hopen : (flagSecure s r i && !secureCell s c) = false := by
    cases hsec : flagSecure s r i <;> simp [hw, hsec]
  refine ctl_next hr hg (beq_iff_eq.2 hop) h0 ?_ rfl rfl
  simp only [flagHeld_of_thawed hth, hx, hopen, hs, Bool.false_eq_true, if_false]

end

theorem getP_flwReturned (k : Group) (np : Bool) (pd j : Nat) :
    getP (flwReturned k np pd 0xFFFFFFFF) j = if np = true ∧ j = pd then 0xFFFFFFFF else getP k j := by
  have hrec : getP (flwReturned k np pd 0xFFFFFFFF) j = getP (if np then setP k pd 0xFFFFFFFF else k) j := rfl
  rw [hrec]
  cases np
  · simp
  · rw [if_pos rfl, getP_setP]
    by_cases hj : j = pd
    · subst hj
      by_cases h0 : j = 0
      · simp [h0]
      · simp [h0]
    · simp [hj]

theorem setP_frame (k : Group) (p : Nat) (x : W32) : setP k p x = { k with p := (setP k p x).p } := by
  unfold setP
  split <;> rfl

theorem flagInstructions : Claims.FlagInstructions := by
  intro s c g w hr hth hg k f on
  refine ⟨fun r i hx hw => ⟨fun hop h0 => ⟨fun hs hn => ?_, fun hs => ?_, fun b hs hb => ?_⟩, fun hop h0 => ?_, fun hop h0 => ⟨fun hs => ?_, fun hs => ?_⟩⟩,
    fun i hi h0 => ⟨fun wd r j hx hen hok => ?_, fun r j hx hs hw => ?_⟩⟩
  · exact flagOp_open hr hg hth h0 (beq_iff_eq.2 hop) (set := true) hx hw ((flagSet_free r i hn).trans (if_neg (by simp [hs]))) rfl rfl rfl
  · exact flagOp_open hr hg hth h0 (beq_iff_eq.2 hop) (set := true) hx hw (if_pos hs) rfl rfl rfl
  · exact flagOp_open hr hg hth h0 (beq_iff_eq.2 hop) (set := true) hx hw (flagSet_taken r i hb hs) rfl rfl rfl
  · exact flagOp_open hr hg hth h0 (beq_iff_eq.2 hop) (set := false) hx hw rfl rfl rfl rfl
  · refine ⟨_, flw_returns hr hg hth h0 hop hx hw hs, ?_, getP_flwReturned _ _ _⟩
    rw [flwReturned, setP_frame]
    cases bitN w.toNat 24 <;> rfl
  · exact flw_waits hr hg hth h0 hop hx hw hs
  · have hrun : ∃ set, exec i s = .next (pmc (nextPc (flagSent s c g wd r j set) c g) c 2 1) := by
      rcases hi with ⟨rfl, hop⟩ | ⟨rfl, hop⟩
      · exact ⟨true, flagOp_remote hr hg hth h0 (beq_iff_eq.2 hop) hx hen hok⟩
      · exact ⟨false, flagOp_remote hr hg hth h0 (beq_iff_eq.2 hop) hx hen hok⟩
    obtain ⟨set, hrun⟩ := hrun
    have hsent := flagSent_sends s c g wd r j set
    obtain ⟨-, -, hregions, hhbm, hslices⟩ := flagPosted_fields s c g
    obtain ⟨-, -, hregions', hhbm', hslices'⟩ := nextPc_fields (flagSent s c g wd r j set) c g
    refine ⟨_, hrun, ?_, ?_, ?_, ?_⟩
    · rw [pmc_group, nextPc_eq, group_setGroup_self, group_flagSent, group_flagPosted]
      rfl
    · rw [pmc_regions, hregions', congrArg State.regions hsent.rest, hregions]
    · rw [pmc_hbm, hhbm', hsent.hbm, hhbm]
    · rw [pmc_slices, hslices', hsent.slices, hslices]
  · have hrun : exec i s = .next (pmc (nextPc (wdrop (worldRefused s c r j (cellLabel s (group s c g).label)) c g) c g) c 2 1) := by
      rcases hi with ⟨rfl, hop⟩ | ⟨rfl, hop⟩
      · exact flagOp_refused hr hg hth h0 (beq_iff_eq.2 hop) (set := true) hx hs hw
      · exact flagOp_refused hr hg hth h0 (beq_iff_eq.2 hop) (set := false) hx hs hw
    obtain ⟨-, -, hregions, hhbm, hcells⟩ := worldRefused_fields s c r j (cellLabel s (group s c g).label)
    obtain ⟨-, -, hregions', hhbm'⟩ := wdrop_next_fields (worldRefused s c r j (cellLabel s (group s c g).label)) c g
    have hgrp : group (wdrop (worldRefused s c r j (cellLabel s (group s c g).label)) c g) c g = orGstat (group s c g) gsWDROP := by
      rw [group_wdrop, group, cell, hcells]
      rfl
    refine ⟨_, hrun, ?_, ?_, ?_, ?_, ?_⟩
    · rw [pmc_regions, hregions', hregions]
    · rw [pmc_group, nextPc_eq, group_setGroup_self, hgrp]
      rfl
    · rw [pmc_group, nextPc_eq, group_setGroup_self, hgrp]
      rfl
    · rw [pending_pmc _ _ _ (by decide), reg_wdrop_next]
      exact pending_raiseIrq _ (by decide) (notIrc_region r)
    · rw [pmc_hbm, hhbm', hhbm]

end Sys2Proof.Proofs
end

section
/-! TAKE and GIVE (O17: R162, R163, R165). -/
namespace Sys2Proof.Proofs

open Sys2Proof.Machine Sys2Proof.Laws

/-- The lanes that name a lock, each with its identifier. -/
def lockNames (s : State) (c g : Nat) (w : W64) : List (Nat × Nat) :=
  (lanesOf (guardLanes (group s c g) w)).map fun l => (l, (getV (group s c g) (ibits w 44 38) l).toNat % 65536)

section
variable {s : State} {c g : Nat} {w : W64} {ok : Bool} {ls : List (Nat × Nat × Nat × Nat)} (hr : ready s c g w) (hth : thawed s = true)
  (h0 : ibits w 34 0 = 0) (hd : inAlloc (group s c g) (ibits w 51 45) 1 = true) (ha : inAlloc (group s c g) (ibits w 44 38) 1 = true)
include hr hth h0 hd ha

/-- A lock instruction whose lanes all name locks of this device acts on them. -/
theorem lockIssue_next {eff : State → List (Nat × Nat × Nat × Nat) → State} {t : State} (hok : ok = true)
    (hls : lockLanes s c (lockNames s c g w) = ([], ls)) (heff : eff s ls = t) (hp : t.part = s.part) (hq : t.pending = s.pending) :
    run ok s (lockIssue c g w eff) = .next (pmc t c 2 1) := by
  have hheld : ((lockNames s c g w).any fun x => flagHeld s (regionOfCell c) (xlat s (regionOfCell c) x.2)) = false :=
    List.any_eq_false.2 fun x _ => by rw [flagHeld_of_thawed hth]; decide
  have hregs : (!(inAlloc (group s c g) (ibits w 51 45) 1 && inAlloc (group s c g) (ibits w 44 38) 1)) = false := by rw [hd, ha]; rfl
  refine run_issue hok hr ?_ hp hq
  rw [lockNames] at hheld hls
  simp only [h0, hregs, hheld, hls, heff, ne_eq, not_true_eq_false, Bool.false_eq_true, if_false]

end

/-- Two states that differ in the flags and the registers alone, where locks and the levels of take flags are. -/
def FlagsOnly (s t : State) : Prop := t = { s with regions := t.regions, pages := t.pages }

section
variable {s t u : State}

theorem FlagsOnly.refl : FlagsOnly s s := rfl

theorem FlagsOnly.trans (h : FlagsOnly s t) (k : FlagsOnly t u) : FlagsOnly s u := by
  unfold FlagsOnly at *
  rw [k, h]

theorem FlagsOnly.part (h : FlagsOnly s t) : t.part = s.part := (congrArg State.part h :)
theorem FlagsOnly.pending (h : FlagsOnly s t) : t.pending = s.pending := (congrArg State.pending h :)
theorem FlagsOnly.hbm (h : FlagsOnly s t) : t.hbm = s.hbm := (congrArg State.hbm h :)

theorem flagsOnly_takeLock (r i c g : Nat) : FlagsOnly s (takeLock s r i c g).1 := by
  unfold takeLock
  dsimp only
  split
  · split <;> rfl
  · split <;> rfl

theorem flagsOnly_giveLock (r i c g : Nat) : FlagsOnly s (giveLock s r i c g).1 := by
  unfold giveLock
  dsimp only
  split
  · rfl
  · split <;> rfl

theorem flagsOnly_lockRun {op : State → Nat → Nat → State × Nat} (hop : ∀ s r i, FlagsOnly s (op s r i).1) (ls : List (Nat × Nat × Nat × Nat)) :
    FlagsOnly s (lockRun op ls s).1 := by
  induction ls generalizing s with
  | nil => exact FlagsOnly.refl
  | cons x t ih => exact (hop s x.2.2.1 x.2.2.2).trans ih

end

theorem setPLane_frame (k : Group) (p l : Nat) (b : Bool) : setPLane k p l b = { k with p := (setPLane k p l b).p } := setP_frame ..

theorem lockResults_frame (k : Group) (w : W64) (rs : List (Nat × Nat × Nat)) :
    lockResults k w rs = { k with v := (lockResults k w rs).v, p := (lockResults k w rs).p } := by
  rw [lockResults]
  induction rs generalizing k with
  | nil => rfl
  | cons x t ih =>
    rw [List.foldl_cons, ih, setPLane_frame]
    rfl

theorem lockResults_pc (k : Group) (w : W64) (rs : List (Nat × Nat × Nat)) : (lockResults k w rs).pc = k.pc := by rw [lockResults_frame]

section
variable {s t : State} {c g : Nat} {w : W64} {ls : List (Nat × Nat × Nat × Nat)} {rs : List (Nat × Nat × Nat)} (hr : ready s c g w) (hth : thawed s = true)
  (h0 : ibits w 34 0 = 0) (hd : inAlloc (group s c g) (ibits w 51 45) 1 = true) (ha : inAlloc (group s c g) (ibits w 44 38) 1 = true)
  (hls : lockLanes s c (lockNames s c g w) = ([], ls))
include hr hth h0 hd ha hls

/-- TAKE below the limit of its spin count. -/
theorem take_next {n f : Nat} (hop : opc w = 0xD4) (hrun : lockRun (fun s r i => takeLock s r i c g) ls s = (t, rs))
    (hspin : spinNext (group s c g) rs = (n, f)) (hn : n < 65536) : exec (.take c g w) s =
      .next (pmc (setGroup t c g (advanced (lockResults { group s c g with spin := n, spinId := f } w rs))) c 2 1) := by
  have hflags := flagsOnly_lockRun (s := s) (op := fun s r i => takeLock s r i c g) (fun _ _ _ => flagsOnly_takeLock ..) ls
  rw [hrun] at hflags
  refine lockIssue_next hr hth h0 hd ha (beq_iff_eq.2 hop) hls ?_ hflags.part hflags.pending
  simp only [hrun, hspin, if_neg (not_le.2 hn), retire_eq]
  rfl

theorem give_next (hop : opc w = 0xD5) (hrun : lockRun (fun s r i => giveLock s r i c g) ls s = (t, rs)) : exec (.give c g w) s =
    .next (pmc (setGroup t c g (advanced (lockResults { group s c g with spin := if rs.any (fun x => x.2.2 == 0) then 0 else (group s c g).spin } w rs))) c 2 1) := by
  have hflags := flagsOnly_lockRun (s := s) (op := fun s r i => giveLock s r i c g) (fun _ _ _ => flagsOnly_giveLock ..) ls
  rw [hrun] at hflags
  refine lockIssue_next hr hth h0 hd ha (beq_iff_eq.2 hop) hls ?_ hflags.part hflags.pending
  simp only [hrun, retire_eq]
  cases rs.any fun x => x.2.2 == 0 <;> rfl

end

/-! ## One lane -/

section
variable {s : State} {c g : Nat} {w : W64} {l : Nat}

theorem lanesOf_single {m : W32} (hl : l < 32) (h : ∀ x, x < 32 → (bitN m.toNat x = true ↔ x = l)) : lanesOf m = [l] := by
  have hmem : ∀ x, x ∈ lanesOf m ↔ x = l := fun x => by
    rw [mem_lanesOf]
    exact ⟨fun hx => (h x hx.1).1 hx.2, fun hx => ⟨hx ▸ hl, (h x (hx ▸ hl)).2 hx⟩⟩
  exact (List.perm_singleton).1 ((List.perm_ext_iff_of_nodup (lanesOf_nodup m) (List.nodup_singleton l)).2 (by simpa using hmem))

variable (hl : l < 32) (k : Group) (f code : Nat)

theorem lockResults_single : lockResults k w [(l, f, code)] = setPLane (setV k (ibits w 51 45) l (BitVec.ofNat 32 code)) (ibits w 37 35) l (code == 0) := rfl

include hl

theorem getV_lockResults_single : getV (lockResults k w [(l, f, code)]) (ibits w 51 45) l = BitVec.ofNat 32 code := by
  rw [lockResults_single, setPLane_frame]
  exact (getV_setV _ _ _ _ _ _ hl hl).trans (if_pos ⟨rfl, rfl⟩)

theorem bitN_getP_lockResults_single (hp : ibits w 37 35 ≠ 0) : bitN (getP (lockResults k w [(l, f, code)]) (ibits w 37 35)).toNat l = (code == 0) := by
  rw [lockResults_single, bitN_getP_setPLane _ _ _ _ _ _ hl hl, if_pos ⟨rfl, hp, rfl⟩]

end

theorem notIrc_block (b : Nat) : NotIrc .block b := by
  simp only [NotIrc, pageNo, kindBase, kindRow]
  omega

section
variable (s : State) (r i c g : Nat)

theorem takeLock_clear (hs : (flagAt s r i).set = false) (hn : takerOf s r i = none) :
    takeLock s r i c g = (putFlag s r i { set := true, holder := some (c, g) }, 0) := by simp [takeLock, hs, hn]

theorem takeLock_taken {b : Nat} (hs : (flagAt s r i).set = false) (hb : takerOf s r i = some b) : takeLock s r i c g = (levelDown s b, 0) := by
  simp [takeLock, hs, hb]

theorem takeLock_set (hs : (flagAt s r i).set = true) : takeLock s r i c g = (s, if (flagAt s r i).holder = some (c, g) then 2 else 1) := by
  by_cases hh : (flagAt s r i).holder = some (c, g) <;> simp [takeLock, hs, hh]

theorem code_takeLock : (takeLock s r i c g).2 = if (flagAt s r i).set = false then 0 else if (flagAt s r i).holder = some (c, g) then 2 else 1 := by
  rcases hs : (flagAt s r i).set
  · rcases hn : takerOf s r i with - | b
    · rw [takeLock_clear s r i c g hs hn, if_pos rfl]
    · rw [takeLock_taken s r i c g hs hn, if_pos rfl]
  · rw [takeLock_set s r i c g hs]
    rfl

/-- The flags after one lane of a TAKE: the lock is taken, unless it is a take flag. -/
theorem flagAt_takeLock (r' i' : Nat) : flagAt (takeLock s r i c g).1 r' i' =
    if (r' = r ∧ i' = i) ∧ (takeLock s r i c g).2 = 0 ∧ takerOf s r i = none then { set := true, holder := some (c, g) } else flagAt s r' i' := by
  rcases hs : (flagAt s r i).set
  · rcases hn : takerOf s r i with - | b
    · rw [takeLock_clear s r i c g hs hn]
      simpa using flagAt_putFlag r i r' i' _
    · rw [takeLock_taken s r i c g hs hn, if_neg fun h => absurd h.2.2 (Option.some_ne_none b)]
      rfl
  · rw [takeLock_set s r i c g hs]
    by_cases hh : (flagAt s r i).holder = some (c, g) <;> simp [hh]

/-- A TAKE of a clear take flag takes one off its reach's LEVEL (R224). -/
theorem level_takeLock {b : Nat} (h0 : (takeLock s r i c g).2 = 0) (hb : takerOf s r i = some b) :
    fld (takeLock s r i c g).1 .block b f_BLOCK_REACH_STATUS_LEVEL = fld s .block b f_BLOCK_REACH_STATUS_LEVEL - 1 := by
  rcases hs : (flagAt s r i).set
  · rw [takeLock_taken s r i c g hs hb, fld_levelDown]
  · rw [takeLock_set s r i c g hs] at h0
    by_cases hh : (flagAt s r i).holder = some (c, g) <;> simp [hh] at h0

theorem giveLock_clear (hs : (flagAt s r i).set = false) : giveLock s r i c g = (s, 2) := by simp [giveLock, hs]

theorem giveLock_set (hs : (flagAt s r i).set = true) :
    giveLock s r i c g = if (flagAt s r i).holder = some (c, g) then (putFlag s r i {}, 0) else (s, 1) := by
  by_cases hh : (flagAt s r i).holder = some (c, g) <;> simp [giveLock, hs, hh]

theorem code_giveLock : (giveLock s r i c g).2 = if (flagAt s r i).set = false then 2 else if (flagAt s r i).holder = some (c, g) then 0 else 1 := by
  rcases hs : (flagAt s r i).set
  · rw [giveLock_clear s r i c g hs, if_pos rfl]
  · rw [giveLock_set s r i c g hs]
    by_cases hh : (flagAt s r i).holder = some (c, g) <;> simp [hh]

/-- The flags after one lane of a GIVE: the lock is freed. -/
theorem flagAt_giveLock (r' i' : Nat) :
    flagAt (giveLock s r i c g).1 r' i' = if (r' = r ∧ i' = i) ∧ (giveLock s r i c g).2 = 0 then {} else flagAt s r' i' := by
  rcases hs : (flagAt s r i).set
  · rw [giveLock_clear s r i c g hs]
    simp
  · rw [giveLock_set s r i c g hs]
    split
    · simpa using flagAt_putFlag r i r' i' _
    · simp

end

/-- The spin count after a TAKE of one lane (R165). -/
theorem spinNext_single (k : Group) (l f code : Nat) : (spinNext k [(l, f, code)]).1 =
    if code = 0 then 0 else if code = 2 then (if k.spinId = f ∧ k.spin ≠ 0 then k.spin + 1 else 1) else k.spin := by
  unfold spinNext
  by_cases h0 : code = 0
  · simp [h0]
  · by_cases h2 : code = 2
    · by_cases hs : k.spinId = f ∧ k.spin ≠ 0 <;> simp [h2, hs]
    · simp [h0, h2]

theorem lockLanes_single {s : State} {c l f r i : Nat} (hx : xlat s (regionOfCell c) f = some (.loc r i))
    (hw : flagSecure s r i = true → secureCell s c = true) : lockLanes s c [(l, f)] = ([], [(l, f, r, i)]) := by
  have hat : lockAt s c f l = .inr (r, i) := by
    have hopen : (flagSecure s r i && !secureCell s c) = false := by cases hsec : flagSecure s r i <;> simp [hw, hsec]
    simp only [lockAt, hx, hopen, Bool.false_eq_true, if_false]
  simp [lockLanes, hat]

/-- The flags after an instruction of a group. -/
theorem flagAt_retired (t : State) (c g r i : Nat) (k : Group) : flagAt (pmc (setGroup t c g k) c 2 1) r i = flagAt t r i := by
  rw [flagAt, region, pmc_regions]
  rfl

theorem fld_retired (t : State) (c g b : Nat) (k : Group) :
    fld (pmc (setGroup t c g k) c 2 1) .block b f_BLOCK_REACH_STATUS_LEVEL = fld t .block b f_BLOCK_REACH_STATUS_LEVEL := by
  rw [fld, reg_pmc_steady _ _ _ _ (by decide) (notIrc_block b)]
  rfl

theorem lockCodes : Claims.LockCodes := by
  intro s c g w hr hth h0 hd ha k on
  have hruns : ∀ ls, lockLanes s c (lockNames s c g w) = ([], ls) →
      (∀ t rs n f, opc w = 0xD4 → lockRun (fun s r i => takeLock s r i c g) ls s = (t, rs) → spinNext k rs = (n, f) → n < 65536 →
        exec (.take c g w) s = .next (pmc (setGroup t c g (on (lockResults { k with spin := n, spinId := f } w rs))) c 2 1)) ∧
      (∀ t rs, opc w = 0xD5 → lockRun (fun s r i => giveLock s r i c g) ls s = (t, rs) →
        exec (.give c g w) s = .next (pmc (setGroup t c g (on (lockResults { k with spin := if rs.any (fun x => x.2.2 == 0) = true then 0 else k.spin } w rs))) c 2 1)) := by
    refine fun ls hls => ⟨fun t rs n f hop hrun hspin hn => ?_, fun t rs hop hrun => ?_⟩
    · rw [take_next hr hth h0 hd ha hls hop hrun hspin hn, advanced, lockResults_pc]
    · rw [give_next hr hth h0 hd ha hls hop hrun, advanced, lockResults_pc]
  refine ⟨hruns, ?_⟩
  intro l r i hl hone f hx hw
  have hls : lockLanes s c (lockNames s c g w) = ([], [(l, f, r, i)]) := by
    rw [lockNames, lanesOf_single hl hone]
    exact lockLanes_single hx hw
  refine ⟨fun hop hspin => ?_, fun hop => ?_⟩
  · have hn : (spinNext k [(l, f, (takeLock s r i c g).2)]).1 < 65536 := by
      rw [spinNext_single]
      split
      · omega
      · split
        · split <;> omega
        · omega
    have hexec := take_next hr hth h0 hd ha hls hop (t := (takeLock s r i c g).1) (rs := [(l, f, (takeLock s r i c g).2)]) rfl rfl hn
    refine ⟨_, _, hexec, code_takeLock .., ?_, fun b h0 hb => ?_, fun r' i' hne => ?_, ?_, fun hp => ?_, ?_, ?_, ?_, ?_⟩
    · rw [flagAt_retired, flagAt_takeLock]
      simp
    · rw [fld_retired, level_takeLock _ _ _ _ _ h0 hb]
    · rw [flagAt_retired, flagAt_takeLock, if_neg fun h => hne (by rw [h.1.1, h.1.2])]
    · rw [pmc_group, group_setGroup_self, getV_advanced, getV_lockResults_single hl]
    · rw [pmc_group, group_setGroup_self, getP_advanced, bitN_getP_lockResults_single hl _ _ _ hp]
    · rw [pmc_group, group_setGroup_self, lockResults_frame]
      exact spinNext_single ..
    · rw [pmc_group, group_setGroup_self, lockResults_frame]
      rfl
    · rw [pmc_group, group_setGroup_self, lockResults_frame]
      rfl
    · rw [pmc_hbm]
      exact (flagsOnly_takeLock ..).hbm
  · have hexec := give_next hr hth h0 hd ha hls hop (t := (giveLock s r i c g).1) (rs := [(l, f, (giveLock s r i c g).2)]) rfl
    refine ⟨_, _, hexec, code_giveLock .., ?_, fun r' i' hne => ?_, ?_, fun hp => ?_, ?_, ?_, ?_, ?_⟩
    · rw [flagAt_retired, flagAt_giveLock]
      simp
    · rw [flagAt_retired, flagAt_giveLock, if_neg fun h => hne (by rw [h.1.1, h.1.2])]
    · rw [pmc_group, group_setGroup_self, getV_advanced, getV_lockResults_single hl]
    · rw [pmc_group, group_setGroup_self, getP_advanced, bitN_getP_lockResults_single hl _ _ _ hp]
    · rw [pmc_group, group_setGroup_self, lockResults_frame, List.any_cons, List.any_nil, Bool.or_false]
      exact if_congr beq_iff_eq rfl rfl
    · rw [pmc_group, group_setGroup_self, lockResults_frame]
      rfl
    · rw [pmc_group, group_setGroup_self, lockResults_frame]
      rfl
    · rw [pmc_hbm]
      exact (flagsOnly_giveLock ..).hbm

/-- Settles O17: flags by their state and place, and locks by the codes of their lanes. -/
theorem flagAndLockInstructions : Obligations.FlagAndLockInstructions := ⟨flagInstructions, lockCodes⟩

end Sys2Proof.Proofs
end

section
/-! Lines and completion of copies (O23: R147, R376, R383). -/
namespace Sys2Proof.Proofs

open Sys2Proof.Machine Sys2Proof.Laws

/-! ## A line that lands in local memory -/

/-- A word of a line has the line's bytes. -/
theorem byteOf_lineWord (d : Line) (n : Nat) {j : Nat} (hj : j < 8) : byteOf (lineWord d n).toNat j = lineByte d (8 * n + j) := by
  refine BitVec.eq_of_getLsbD_eq fun b hb => ?_
  rw [getLsbD_byteOf _ _ hb, getLsbD_lineByte _ _ _ hb, lineWord, BitVec.testBit_toNat, BitVec.getLsbD_ofNat, decide_eq_true (by omega : 8 * j + b < 64),
    Bool.true_and, Nat.testBit_shiftRight]
  congr 1
  omega

section
variable {s : State} {c a : Nat} (harm : flag s .cell c f_CELL_FLIP_CTRL_ARM = false) (d : Line) (p : BitVec 32)
include harm

/-- A line written to local memory that no flip mask is armed on changes its cell alone. -/
theorem lmPutLine_frame (n : Nat) : lmPutLine s c a d p n = { s with cells := (lmPutLine s c a d p n).cells } := by
  induction n with
  | zero => rfl
  | succ n ih =>
    rw [lmPutLine, ih, lmPut_unarmed (by exact harm)]
    rfl

/-- The bytes of the line land in local memory, and no other byte of it changes. -/
theorem cell_lmPutLine (ha : a % 8 = 0) (n : Nat) :
    ∃ lm po sy, cell (lmPutLine s c a d p n) c = { cell s c with lm := lm, lmPois := po, lmSyn := sy } ∧
      ∀ x, mget 0 lm x = if a ≤ x ∧ x < a + 8 * n then lineByte d (x - a) else mget 0 (cell s c).lm x := by
  induction n with
  | zero => exact ⟨_, _, _, rfl, fun x => (if_neg (by omega)).symm⟩
  | succ n ih =>
    obtain ⟨lm, po, sy, heq, hlm⟩ := ih
    rw [lmPutLine, lmPut_unarmed (by rw [lmPutLine_frame harm]; exact harm), cell_setCell_self, heq]
    refine ⟨_, _, _, rfl, fun x => ?_⟩
    rw [mget_lmSetRaw, hlm]
    by_cases hx : 8 * (a / 8 + n) ≤ x ∧ x < 8 * (a / 8 + n) + 8
    · rw [if_pos hx, if_pos (by omega), byteOf_lineWord _ _ (by omega)]
      congr 1
      omega
    · rw [if_neg hx]
      exact if_congr (by omega) rfl rfl

end

/-! ## The copy that runs -/

section
variable {s : State} {c : Nat} {q : Copy} {rest : List Copy} (hth : thawed s = true) (hq : (cell s c).copies = q :: rest) (hk : q.killed = false)
include hq hk

/-- A cell's first copy runs while it has lines to move. -/
theorem copyLine_eq (hn : q.next < q.lines) (hreset : (cell s c).resetting = false) (hheld : allHeld s (regionOfCell c) = false) :
    copyLine c s = if q.cpd then copyIn s c 0 q else copyOut s c 0 q := by
  have hruns : (decide (q.next < q.lines) && !q.killed && !(cell s c).resetting && !allHeld s (regionOfCell c)) = true := by
    rw [decide_eq_true hn, hk, hreset, hheld]
    rfl
  have hfirst : (cell s c).copies.findIdx? (fun q => q.next < q.lines && !q.killed && !(cell s c).resetting && !allHeld s (regionOfCell c)) = some 0 := by
    rw [hq, List.findIdx?_cons, hruns]
    rfl
  rw [copyLine]
  simp only [hfirst]
  rw [hq]
  rfl

end

theorem watchUnit_none {s : State} {c kinds a n : Nat} {l : Byte} (h : watchOf s c kinds l [(a, n)] [] = none) : watchUnit s c kinds a n l = s := by
  simp only [watchUnit, h]

/-- The device address of a copy's next line. -/
def copyAddr (q : Copy) : Nat := (q.dev + 256 * q.next) % 2 ^ 48

section
variable {s : State} {c : Nat} {q : Copy}

/-- The next line of a CPD, delivered sound. -/
theorem copyIn_sound {s' : State} {r : LineRead} (hwatch : watchOf s c 4 (cellLabel s q.label) [(copyAddr q, 256)] [] = none)
    (hentry : cellEntry s c (cellLabel s q.label) (copyAddr q) true false = (s, .hbm))
    (hline : cellLine s c (.copy c) (cellLabel s q.label) (winsOf s q.lead) (copyAddr q / 256) = some (s', r)) (hok : r.ok = true) (hdead : r.dead = false)
    (hpois : r.pois = 0) : copyIn s c 0 q =
      putCopy (lmPutLine s' c (q.loc + 256 * q.next) r.data 0 32) c 0 { q with next := q.next + 1, num := if r.ovf then q.num ||| stOVF else q.num } := by
  have hsound : (!r.ok || r.dead || decide (r.pois ≠ 0)) = false := by simp [hok, hdead, hpois]
  unfold copyAddr at *
  simp only [copyIn, hentry, watchUnit_none hwatch, lineOf, hline, landCopy, hsound, Bool.false_eq_true, if_false]

/-- The line that a CPL sends next. -/
def copyValue (s : State) (c : Nat) (q : Copy) : Line := BitVec.ofNat 2048 (lmLineValue (cell s c) (q.loc + 256 * q.next) 32)

/-- The write of a CPL's next line. -/
def copyWrite (s : State) (c : Nat) (q : Copy) : State × Nat :=
  niSend s c (.copy c) (cellLabel s q.label) (winsOf s q.lead) (copyAddr q / 256)
    (.write (copyValue s c q) (BitVec.allOnes 256) 0 true (checkValue .plain (copyAddr q / 256) (copyValue s c q)) none)

/-- The next line of a CPL, sound in local memory. -/
theorem copyOut_sound (hwatch : watchOf s c 2 (cellLabel s q.label) [(copyAddr q, 256)] [] = none)
    (hentry : cellEntry s c (cellLabel s q.label) (copyAddr q) false true = (s, .hbm)) (hclean : Clean (cell s c)) : copyOut s c 0 q =
      putCopy (copyWrite s c q).1 c 0 { q with next := q.next + 1, outs := q.outs ++ [((copyWrite s c q).2, q.next)] } := by
  unfold copyWrite copyValue copyAddr at *
  simp only [copyOut, hentry, watchUnit_none hwatch, lineOf, lmLine_clean hclean]
  rfl

end

theorem copies_putCopy (s : State) (c : Nat) (q q' : Copy) {rest : List Copy} (h : (cell s c).copies = q :: rest) :
    cell (putCopy s c 0 q') c = { cell s c with copies := q' :: rest } := by
  rw [putCopy, cell_setCell_self, h]
  rfl

/-! ## COPY_COMPLETE -/

/-- The token of a copy that has ended. -/
def copyToken (q : Copy) : Token := { st := 2, status := Machine.statusWord q.fault false q.num, addr := q.faddr, aspace := q.faspace, src := 7 }

/-- A copy whose lines are all moved and answered leaves, and its token is done. -/
theorem copyComplete_eq {s : State} {c : Nat} {q : Copy} {rest : List Copy} (hq : (cell s c).copies = q :: rest) (hk : q.killed = false)
    (hn : q.lines ≤ q.next) (hout : q.outs = []) :
    copyComplete c s = tokenDone (setCell s c { cell s c with copies := rest }) c q.grp q.token q.lead (copyToken q) := by
  have hfin : (decide (q.lines ≤ q.next) && q.outs.isEmpty && !q.killed) = true := by
    rw [decide_eq_true hn, hout, hk]
    rfl
  simp only [copyComplete, hq, List.find?_cons_of_pos (p := fun q : Copy => q.lines ≤ q.next && q.outs.isEmpty && !q.killed) hfin,
    List.eraseP_cons_of_pos (p := fun q : Copy => q.lines ≤ q.next && q.outs.isEmpty && !q.killed) hfin]
  rfl

/-- Settles O23: a line in, a line out, and the end of a copy. -/
theorem copyLines : Obligations.CopyLines := by
  intro s c q rest hres hth hpres hq hk
  have hok : (present s .cell c && !frozen s .block (blockOfCell s c)) = true := by rw [hpres, frozen_of_thawed hth]; rfl
  refine ⟨fun hn hreset hheld hwatch hentry hloc => ⟨fun hcpd s' r hline hrok hdead hpois harm hcopies => ?_, fun hcpd hp hs => ?_⟩,
    fun hn hout hawait => ?_⟩
  · rw [hcpd] at hwatch hentry
    have hcopy := copyLine_eq hq hk hn hreset hheld
    rw [hcpd, if_pos rfl, copyIn_sound hwatch hentry hline hrok hdead hpois] at hcopy
    obtain ⟨lm, po, sy, hcell, hlm⟩ := cell_lmPutLine harm r.data 0 (a := q.loc + 256 * q.next) (by omega) 32
    have hput := copies_putCopy (lmPutLine s' c (q.loc + 256 * q.next) r.data 0 32) c q
      { q with next := q.next + 1, num := if r.ovf then q.num ||| stOVF else q.num } (rest := rest) (by rw [hcell]; exact hcopies.trans hq)
    refine ⟨_, (run_eq hok hres).trans ((congrArg (done s) hcopy).trans done_next), congrArg Cell.copies hput, fun i hi => ?_, fun x hx => ?_, ?_⟩
    · refine (congrArg (fun k : Cell => mget 0 k.lm (q.loc + 256 * q.next + i)) hput).trans ?_
      dsimp only
      rw [hcell]
      refine (hlm _).trans ((if_pos (by omega)).trans ?_)
      rw [Nat.add_sub_cancel_left]
    · refine (congrArg (fun k : Cell => mget 0 k.lm x) hput).trans ?_
      dsimp only
      rw [hcell]
      exact (hlm _).trans (if_neg (by omega))
    · exact (congrArg State.hbm (lmPutLine_frame harm r.data 0 32) :)
  · rw [hcpd] at hwatch hentry
    have hcopy := copyLine_eq hq hk hn hreset hheld
    rw [hcpd, if_neg Bool.false_ne_true, copyOut_sound hwatch hentry ⟨hp, hs⟩] at hcopy
    have hask := asks_niSend (s := s) (c := c) (.copy c) (cellLabel s q.label) (winsOf s q.lead) (copyAddr q / 256)
      (.write (copyValue s c q) (BitVec.allOnes 256) 0 true (checkValue .plain (copyAddr q / 256) (copyValue s c q)) none)
    have hcell : cell (copyWrite s c q).1 c = cell s c := by simp only [cell, copyWrite, hask.cells]
    have hput := copies_putCopy (copyWrite s c q).1 c q { q with next := q.next + 1, outs := q.outs ++ [((copyWrite s c q).2, q.next)] } (rest := rest)
      (by rw [hcell]; exact hq)
    refine ⟨_, _, copyValue s c q, (run_eq hok hres).trans ((congrArg (done s) hcopy).trans (done_eq hask.part hask.pending)), hask.reqs, rfl, rfl, rfl,
      fun i hi => ?_, congrArg Cell.copies hput, ?_, hask.hbm, hask.slices⟩
    · exact lineByte_lmLineValue _ (by omega) hi
    · exact (congrArg Cell.lm hput).trans (by rw [hcell])
  · have hgrp : group (setCell s c { cell s c with copies := rest }) c q.grp = group s c q.grp := by simp [group]
    have hdone := copyComplete_eq hq hk hn hout
    rw [tokenDone_none (by rw [hgrp]; exact hawait), lostRun_frame, setToken_eq, hgrp] at hdone
    have hcell : cell (copyComplete c s) c = { cell s c with copies := rest, groups := mset {} (cell s c).groups q.grp (withToken (group s c q.grp) q.token (copyToken q)) } := by
      rw [hdone]
      exact (cell_setGroup ..).trans ((if_pos rfl).trans (by rw [cell_setCell_self]))
    refine ⟨copyComplete c s, (run_eq hok hres).trans (done_eq ?_ ?_), ?_, ?_, ?_, ?_⟩
    · rw [hdone]
      rfl
    · rw [hdone]
      rfl
    · rw [hcell]
    · rw [hcell]
    · rw [group, hcell]
      exact (mget_mset_self ..).trans rfl
    · rw [hdone]
      rfl

end Sys2Proof.Proofs
end

section
/-! Requests that a slice performs on a line that it holds (O32: R145, R276, R279 to R281, R284, R287). -/
namespace Sys2Proof.Proofs

open Sys2Proof.Machine Sys2Proof.Laws

/-! ## A request that hits -/

/-- Two states that differ in what the slices hold, the register pages, the request numbers and the ports. -/
def SliceWork (s t : State) : Prop := t = { s with pages := t.pages, slices := t.slices, nextId := t.nextId, ports := t.ports }

section
variable {s t u : State}

theorem SliceWork.refl : SliceWork s s := rfl

theorem SliceWork.trans (h : SliceWork s t) (k : SliceWork t u) : SliceWork s u := by
  unfold SliceWork at *
  rw [k, h]

theorem Quiet.work (h : Quiet s t) : SliceWork s t := h.rest

theorem PagesOnly.work (h : PagesOnly s t) : SliceWork s t := by
  rw [h]
  rfl

theorem SliceWork.part (h : SliceWork s t) : t.part = s.part := (congrArg State.part h :)
theorem SliceWork.pending (h : SliceWork s t) : t.pending = s.pending := (congrArg State.pending h :)
theorem SliceWork.hbm (h : SliceWork s t) : t.hbm = s.hbm := (congrArg State.hbm h :)
theorem SliceWork.resps (h : SliceWork s t) : t.resps = s.resps := (congrArg State.resps h :)

end

/-- The state in which a request is performed: it has left those that wait, and its way is the most recent. -/
def hitAt (s : State) (id sl key l : Nat) : State :=
  touch (bump (takenOff s id) .slice sl o_SLICE_HITS 1) sl (placeOf (takenOff s id) l).set (key % 24)

theorem still_hitAt (s : State) (id sl key l : Nat) : Still (takenOff s id) (hitAt s id sl key l) :=
  (still_bump (takenOff s id) ..).trans (still_touch _ ..)

/-- An answer changes what is on its way back alone. -/
theorem respond_frame (s : State) (q : Req) (r : Reply) : respond s q r = { s with resps := (respond s q r).resps } := by
  unfold respond
  split <;> rfl

theorem respond_resps {s t : State} (h : t.resps = s.resps) (q : Req) (r : Reply) : (respond t q r).resps = (respond s q r).resps := by
  unfold respond
  split
  · exact h
  · exact congrArg (· ++ _) h

theorem wayAt_respond (s : State) (q : Req) (r : Reply) (sl key : Nat) : wayAt (respond s q r) sl key = wayAt s sl key := by
  rw [respond_frame]
  rfl

theorem bitN_zero (i : Nat) : bitN 0 i = false := by simp [bitN]

/-- A transfer that poisons no word leaves a request as it is. -/
theorem poisonOp_zero (op : ReqOp) : poisonOp op 0 = op := by
  cases op <;> simp [poisonOp, bitN_zero]

section
variable {s : State} {id sl key : Nat} {q : Req} (hh : hitsWay s id q sl key)
include hh

theorem id_of_hits : q.id = id := by
  obtain ⟨-, hnext, -⟩ := hh
  unfold nextReq at hnext
  split at hnext
  · exact absurd hnext (by simp)
  · rename_i hfind
    dsimp only at hnext
    split at hnext
    · rw [← Option.some.inj hnext]
      simpa using List.find?_some hfind
    · exact absurd hnext (by simp)

/-- A granted request that finds its line is performed, and its source is told; no transfer is upset. -/
theorem run_hit {p : ReqOp → Bool} {ok : Bool} {t : State} {r : Reply} (hok : ok = true) (hp : p q.op = true)
    (hcarry : carriesData q.op = true ∨ r = .accepted) (hperf : performAt (hitAt s id sl key q.line) sl key q = (t, r))
    (hwork : SliceWork (hitAt s id sl key q.line) t) :
    run ok s (sliceCmd p id .none) = .next (respond t q r) ∧ (respond t q r).resps = (respond s q r).resps ∧ (respond t q r).hbm = s.hbm := by
  obtain rfl := id_of_hits hh
  obtain ⟨hres, hnext, hheld, hfe, hsl, hkey, -⟩ := hh
  have hslice : slicePerform (takenOff s q.id) q = some (t, some r) := slicePerform_hit (s := takenOff s q.id) hheld hfe hsl hkey hperf
  have htotal : SliceWork (takenOff s q.id) t := (still_hitAt s q.id sl key q.line).toQuiet.work.trans hwork
  have hcmd : sliceCmd p q.id .none s = respond t q r := by
    have hdone : slicePerform (takenOff s q.id) { q with op := poisonOp q.op 0 } = some (t, some r) := by rw [poisonOp_zero]; exact hslice
    rw [sliceCmd, hnext]
    dsimp only
    rw [if_pos hp, performReq]
    simp only [ite_self, transfer, hdone, Bool.false_eq_true, if_false]
    rcases hcarry with hc | rfl
    · rw [if_pos hc]
    · simp only [linkReply, transfer, poisonReply, ite_self]
  refine ⟨(run_eq hok hres).trans ((congrArg (done s) hcmd).trans ?_), respond_resps (s := s) (by exact htotal.resps) q r, ?_⟩
  · rw [respond_frame]
    exact done_eq htotal.part htotal.pending
  · rw [respond_frame]
    exact htotal.hbm

end

/-! ## A line that may be changed -/

/-- Way `key` of slice `sl` holds line `l` alive, with sound words that pass their check, and no flip mask is armed. -/
structure Alive (s : State) (l sl key : Nat) : Prop where
  dead : (wayAt s sl key).dead = false
  syn : (wayAt s sl key).body.syn = []
  arm : flag s .slice sl f_SLICE_FLIP_CTRL_ARM = false
  pois : (wayAt s sl key).body.pois = 0
  check : checkOk l (wayAt s sl key).body = true

theorem alive_hitAt {s : State} {id sl key : Nat} {q : Req} (hh : hitsWay s id q sl key) (hpois : (wayAt s sl key).body.pois = 0)
    (hcheck : checkOk q.line (wayAt s sl key).body = true) : Alive (hitAt s id sl key q.line) q.line sl key ∧
      (wayAt (hitAt s id sl key q.line) sl key).body = (wayAt s sl key).body := by
  obtain ⟨-, -, -, -, -, -, hdead, hsyn, harm⟩ := hh
  have hstill := still_hitAt s id sl key q.line
  have hbody : (wayAt (hitAt s id sl key q.line) sl key).body = (wayAt s sl key).body := (hstill.body sl key).1
  refine ⟨⟨(hstill.body sl key).2.trans hdead, by rw [hbody, hsyn], ?_, by rw [hbody, hpois], by rw [hbody, hcheck]⟩, hbody⟩
  rw [flag, quiet_fld hstill.toQuiet _ (.inr (by decide)) (notIrc_slice sl)]
  exact harm

/-- A body with the check value of its form. -/
def checked (l : Nat) (b : Body) : Body := { b with chk := formValue l b }

theorem data_checked (l : Nat) (b : Body) : (checked l b).data = b.data := by rw [checked]
theorem pois_checked (l : Nat) (b : Body) : (checked l b).pois = b.pois := by rw [checked]
theorem av_checked (l : Nat) (b : Body) : (checked l b).av = b.av := by rw [checked]

/-- The check value is not one of the data that it checks. -/
theorem chk_checked (l : Nat) (b : Body) : (checked l b).chk = formValue l (checked l b) := by
  rw [formValue, data_checked, av_checked, checked, formValue]

section
variable {s : State} {l sl key : Nat}

theorem work_setWay (s : State) (sl key : Nat) (w : Way) : SliceWork s (setWay s sl key w) := rfl

/-- A changed body is stored with its check value, and the way is dirty. -/
theorem storeChanged_way (harm : flag s .slice sl f_SLICE_FLIP_CTRL_ARM = false) (b : Body) (hb : b.syn = []) (w : BitVec 32) :
    SliceWork s (storeChanged s sl key l b w) ∧ wayAt (storeChanged s sl key l b w) sl key = { wayAt s sl key with dirty := true, body := checked l b } := by
  have hdirty := work_setWay s sl key { wayAt s sl key with dirty := true }
  have hway : wayAt (setWay s sl key { wayAt s sl key with dirty := true }) sl key = { wayAt s sl key with dirty := true } := by
    rw [wayAt_setWay, if_pos ⟨rfl, rfl⟩]
  have harm' : flag (setWay s sl key { wayAt s sl key with dirty := true }) .slice sl f_SLICE_FLIP_CTRL_ARM = false := harm
  rw [storeChanged]
  generalize setWay s sl key { wayAt s sl key with dirty := true } = u at *
  have hput := putBody_unarmed (key := key) harm' { b with chk := formValue l b } hb w
  rw [hput]
  refine ⟨hdirty.trans (work_setWay ..), ?_⟩
  rw [wayAt_setWay, if_pos ⟨rfl, rfl⟩, hway]
  rfl

theorem work_holdWay (s : State) (sl key : Nat) : SliceWork s (holdWay s sl key) := rfl

/-- A way after a contribution that its line accepted (R284). -/
theorem wayAt_holdWay : wayAt (holdWay s sl key) sl key = { wayAt s sl key with hold := true, heldAt := s.time.toNat } := by
  rw [holdWay, wayAt_setWay, if_pos ⟨rfl, rfl⟩]

variable (h : Alive s l sl key) {q : Req} (hq : q.line = l)
include h

theorem Alive.notDead : ¬ (wayAt s sl key).dead = true := by rw [h.dead]; decide

include hq

/-- R379: a sound line may be changed. -/
theorem verifyForWrite_alive : verifyForWrite s sl key q = (s, true) := by
  unfold verifyForWrite
  rw [decodeWay_clean h.syn]
  dsimp only
  rw [hq, if_pos h.check]

/-! ## Atomics (R145, R284) -/

omit h hq in
/-- The word that an atomic leaves. -/
def atdWord (cas : Bool) (old x y : W64) : W64 := if cas then (if old = x then y else old) else old + x

omit h hq in
/-- The body that an atomic leaves, poisoned where its operand came poisoned. -/
def atdBody (b : Body) (cas : Bool) (i : Nat) (x y : W64) (p : BitVec 32) : Body :=
  { b with data := setLineWord b.data i (atdWord cas (lineWord b.data i) x y), pois := p &&& BitVec.ofNat 32 (2 ^ i) }

omit h hq in
theorem data_atdBody (b : Body) (cas : Bool) (i : Nat) (x y : W64) (p : BitVec 32) :
    (atdBody b cas i x y p).data = setLineWord b.data i (atdWord cas (lineWord b.data i) x y) := by rw [atdBody]

omit h hq in
theorem pois_atdBody (b : Body) (cas : Bool) (i : Nat) (x y : W64) (p : BitVec 32) : (atdBody b cas i x y p).pois = p &&& BitVec.ofNat 32 (2 ^ i) := by
  rw [atdBody]

theorem performAt_atd {cas : Bool} {i : Nat} {x y : W64} {p : BitVec 32} (hop : q.op = .atd cas [(i, x, y)] p) :
    ∃ t, performAt s sl key q = (t, .olds [(lineWord (wayAt s sl key).body.data i, false)]) ∧ SliceWork s t ∧ wayAt t sl key =
      { wayAt s sl key with dirty := true, hold := false, body := checked l (atdBody (wayAt s sl key).body cas i x y p) } := by
  have hclear : SliceWork s (setWay s sl key { wayAt s sl key with hold := false }) := work_setWay ..
  have harm : flag (setWay s sl key { wayAt s sl key with hold := false }) .slice sl f_SLICE_FLIP_CTRL_ARM = false := h.arm
  obtain ⟨hwork, hway⟩ := storeChanged_way (l := l) (key := key) harm (atdBody (wayAt s sl key).body cas i x y p) h.syn (atdWords [(i, x, y)])
  rw [wayAt_setWay, if_pos ⟨rfl, rfl⟩] at hway
  have hp : bitN ((wayAt s sl key).body.pois).toNat i = false := by rw [h.pois]; simp [bitN]
  have hbody : ({ (atdLanes cas [(i, x, y)] (wayAt s sl key).body).2 with
      pois := (atdLanes cas [(i, x, y)] (wayAt s sl key).body).2.pois ||| (p &&& atdWords [(i, x, y)]) } : Body) =
      atdBody (wayAt s sl key).body cas i x y p := by
    simp [atdLanes, atdBody, atdWord, atdWords, h.pois]
  have holds : (atdLanes cas [(i, x, y)] (wayAt s sl key).body).1 = [(lineWord (wayAt s sl key).body.data i, false)] := by
    simp only [atdLanes, hp]
  refine ⟨_, ?_, hclear.trans hwork, hway⟩
  simp only [performAt, hop, doAtd, h.dead, verifyForWrite_alive h hq, hbody, holds, hq, Bool.not_true, Bool.false_eq_true, if_false]

/-! ## FP32, MAX and MIN contributions (R281) -/

omit h hq in
/-- The body with one element changed. -/
def redFBody (b : Body) (f : W32 → W32 → W32) (i : Nat) (x : W32) : Body := { b with data := setLineF b.data i (f (lineF b.data i) x) }

omit h hq in
theorem data_redFBody (b : Body) (f : W32 → W32 → W32) (i : Nat) (x : W32) :
    (redFBody b f i x).data = setLineF b.data i (f (lineF b.data i) x) := by rw [redFBody]

theorem doRedF_accepted (f : W32 → W32 → W32) (i : Nat) (x : W32) (hav : (wayAt s sl key).body.av = false) :
    ∃ t, doRedF s sl key q f [(i, x, false)] = (t, .accepted) ∧ SliceWork s t ∧ (wayAt t sl key).hold = true ∧
      (wayAt t sl key).body = checked l (redFBody (wayAt s sl key).body f i x) := by
  have hstored := storeChanged_way (l := l) (key := key) h.arm (redFBody (wayAt s sl key).body f i x) h.syn
    ([(i, x, false)].foldl (fun m v => m ||| BitVec.ofNat 32 (2 ^ (v.1 / 2))) 0)
  have hbody : [(i, x, false)].foldl (applyF f) (wayAt s sl key).body = redFBody (wayAt s sl key).body f i x := rfl
  have hredF : doRedF s sl key q f [(i, x, false)] = (holdWay (storeChanged s sl key l (redFBody (wayAt s sl key).body f i x)
      ([(i, x, false)].foldl (fun m v => m ||| BitVec.ofNat 32 (2 ^ (v.1 / 2))) 0)) sl key, .accepted) := by
    simp only [doRedF, h.dead, decodeWay_clean h.syn, h.pois, hav, verifyForWrite_alive h hq, hbody, hq, ne_eq, not_true_eq_false, Bool.not_true,
      Bool.false_eq_true, if_false]
  generalize storeChanged s sl key l _ _ = u at *
  obtain ⟨hwork, hway⟩ := hstored
  exact ⟨_, hredF, hwork.trans (work_holdWay ..), by rw [wayAt_holdWay], by rw [wayAt_holdWay, hway]⟩

/-! ## DEAD hints (R276) -/

omit h hq in
theorem performAt_dead (hop : q.op = .dead) : ∃ t, performAt s sl key q = (t, .accepted) ∧ SliceWork s t ∧
    wayAt t sl key = { wayAt s sl key with dirty := false, dead := true, hold := false, cls := 0, body := {} } := by
  refine ⟨setWay s sl key { wayAt s sl key with dirty := false, dead := true, hold := false, cls := 0, body := {} }, ?_, work_setWay .., ?_⟩
  · simp only [performAt, hop, doDead]
  · rw [wayAt_setWay, if_pos ⟨rfl, rfl⟩]

/-! ## ADD.W contributions (R280) -/

/-- A WIDE line takes a contribution of its anchor. -/
theorem doAddW_accepted {a : W16} {v : WideVal} (hav : (wayAt s sl key).body.av = true) (ha : (wayAt s sl key).body.anchor = a)
    (hsyn : (addPartial (wayAt s sl key).body v).syn = []) :
    ∃ t, doAddW s sl key q a [v] = (t, .accepted) ∧ SliceWork s t ∧ (wayAt t sl key).hold = true ∧
      (wayAt t sl key).body = checked l (addPartial (wayAt s sl key).body v) := by
  have hstored := storeChanged_way (l := l) (key := key) h.arm (addPartial (wayAt s sl key).body v) hsyn (wideWords [v])
  have hbody : [v].foldl addPartial (wayAt s sl key).body = addPartial (wayAt s sl key).body v := rfl
  have hadd : doAddW s sl key q a [v] =
      (holdWay (storeChanged s sl key l (addPartial (wayAt s sl key).body v) (wideWords [v])) sl key, .accepted) := by
    simp only [doAddW, h.dead, decodeWay_clean h.syn, h.pois, hav, ha, verifyForWrite_alive h hq, hbody, hq, ne_eq, not_true_eq_false, Bool.not_true,
      Bool.false_eq_true, if_false, if_true, decide_false, Bool.and_false]
  generalize storeChanged s sl key l _ _ = u at *
  obtain ⟨hwork, hway⟩ := hstored
  exact ⟨_, hadd, hwork.trans (work_holdWay ..), by rw [wayAt_holdWay], by rw [wayAt_holdWay, hway]⟩

omit hq in
/-- A WIDE line of another anchor refuses a contribution, and is poisoned. -/
theorem doAddW_refused {a : W16} {vs : List WideVal} (hav : (wayAt s sl key).body.av = true) (ha : (wayAt s sl key).body.anchor ≠ a) :
    doAddW s sl key q a vs = refuse (poisonWay s sl key) sl q 3 a (wayAt s sl key).body.anchor := by
  simp only [doAddW, h.dead, decodeWay_clean h.syn, h.pois, hav, ha, ne_eq, not_true_eq_false, not_false_eq_true, Bool.false_eq_true, if_false, if_true,
    decide_true, Bool.and_true]

omit hq in
theorem poisonWay_way : SliceWork s (poisonWay s sl key) ∧ (wayAt (poisonWay s sl key) sl key).body.pois = allWords := by
  have hdirty := work_setWay s sl key { wayAt s sl key with dirty := true }
  have harm : flag (setWay s sl key { wayAt s sl key with dirty := true }) .slice sl f_SLICE_FLIP_CTRL_ARM = false := h.arm
  have hsyn := h.syn
  rw [poisonWay]
  dsimp only
  generalize setWay s sl key { wayAt s sl key with dirty := true } = u at *
  have hput := putBody_unarmed (key := key) harm { (wayAt s sl key).body with pois := allWords } hsyn allWords
  rw [hput]
  refine ⟨hdirty.trans (work_setWay ..), ?_⟩
  rw [wayAt_setWay, if_pos ⟨rfl, rfl⟩]

end

/-- What a number keeps in the bits of a partial. -/
theorem signed_wrapN {n : Int} (hlo : wideMin ≤ n) (hhi : n ≤ wideMax) : signed 128 (wrapN 128 n) = n := by
  simp only [wideMin, wideMax, signed, wrapN] at *
  omega

/-- The partials of a line after a write of one of them. -/
theorem partialN_setPartial (d : Line) {n : Int} (hlo : wideMin ≤ n) (hhi : n ≤ wideMax) {i j : Nat} (hi : i < 16) (hj : j < 16) :
    partialN (setPartial d i n) j = if j = i then n else partialN d j := by
  rw [partialN, setPartial, bitsN_line _ _ _ (by omega)]
  split
  · rename_i h
    subst h
    rw [bitsN_putBitsN _ _ _ _ (by omega), show 128 * j + 127 + 1 - 128 * j = 128 by omega, Nat.mod_eq_of_lt (wrapN_lt 128 n)]
    exact signed_wrapN hlo hhi
  · rename_i h
    rw [bitsN_putBitsN_disjoint _ _ _ _ _ _ (by omega) (by omega), partialN]

/-- A body with one partial changed, and its metadata. -/
def withPartial (b : Body) (i : Nat) (n : Int) (sp : W32) (ov : W16) : Body := { b with data := setPartial b.data i n, spec := sp, ovf := ov }

section
variable (b : Body) (i : Nat) (n : Int) (sp : W32) (ov : W16)

theorem data_withPartial : (withPartial b i n sp ov).data = setPartial b.data i n := by rw [withPartial]
theorem pois_withPartial : (withPartial b i n sp ov).pois = b.pois := by rw [withPartial]
theorem syn_withPartial : (withPartial b i n sp ov).syn = b.syn := by rw [withPartial]

end

/-- A contribution that is exact and in range adds to its partial (R73, R74). -/
theorem addPartial_exact {b : Body} {v : WideVal} (hp : v.pois = false) (hv : v.ovf = false) (hs : v.spec = 0) (ho : bitN b.ovf.toNat v.idx = false)
    (hlo : wideMin ≤ partialN b.data v.idx + v.n) (hhi : partialN b.data v.idx + v.n ≤ wideMax) :
    ∃ sp ov, addPartial b v = withPartial b v.idx (partialN b.data v.idx + v.n) sp ov := by
  have hadd : wideAdd (partialN b.data v.idx) false v.n = (partialN b.data v.idx + v.n, false) := by
    simp only [wideAdd, Bool.false_eq_true, if_false, if_neg (not_lt.2 hhi), if_neg (not_lt.2 hlo)]
  refine ⟨setSpec b.spec v.idx (specJoin (specAt b.spec v.idx) v.spec), setOvf b.ovf v.idx false, ?_⟩
  simp only [addPartial, hp, hv, ho, hs, hadd, Bool.false_eq_true, if_false, if_true, withPartial]

/-! ## Refusals (R280, R297) -/

section
variable (s : State) (sl type : Nat) (lbl : Byte) (src : Src) (a r : W16) (l : Nat)

theorem sliceLog_keeps : SliceWork s (sliceLog s sl type lbl src a r l) ∧ (∀ key, wayAt (sliceLog s sl type lbl src a r l) sl key = wayAt s sl key) ∧
    bitN (reg (sliceLog s sl type lbl src a r l) .slice sl o_COMMON_IRQ_PENDING).toNat 1 = bitN (reg s .slice sl o_COMMON_IRQ_PENDING).toNat 1 := by
  unfold sliceLog
  dsimp only
  split
  · exact ⟨.refl, fun _ => rfl, rfl⟩
  · split
    · have hpages : PagesOnly s (raiseIrq (bumpField s .slice sl f_SLICE_LOG_STATUS_LOST 1) .slice sl 4) :=
        (pagesOnly_setF s ..).trans (pagesOnly_raiseIrq ..)
      refine ⟨PagesOnly.work hpages, fun key => by rw [wayAt, slice, hpages]; rfl, ?_⟩
      rw [pending_raiseIrq_other (by decide) (by decide) (by decide) (notIrc_slice sl), bumpField, reg_setF_ne _ _ (by decide)]
    · refine ⟨rfl, fun key => ?_, ?_⟩
      · rw [wayAt, slice, setF_slices, ← slice, slice_setSlice_self]
        rfl
      · rw [reg_setF_ne _ _ (by decide)]
        rfl

/-- A refused contribution is counted, raises bit 1 and is logged; the line stays. -/
theorem refuse_keeps (q : Req) (code : Nat) : ∃ t, refuse s sl q code a r = (t, .refused code) ∧ SliceWork s t ∧ (∀ key, wayAt t sl key = wayAt s sl key) ∧
    bitN (reg t .slice sl o_COMMON_IRQ_PENDING).toNat 1 = true := by
  have hpages : PagesOnly s (raiseIrq (bump s .slice sl o_SLICE_RED_REFUSED 1) .slice sl 1) := (pagesOnly_bump s ..).trans (pagesOnly_raiseIrq ..)
  have hraised := pending_raiseIrq (bump s .slice sl o_SLICE_RED_REFUSED 1) (bit := 1) (by decide) (notIrc_slice sl)
  unfold refuse
  dsimp only
  generalize raiseIrq (bump s .slice sl o_SLICE_RED_REFUSED 1) .slice sl 1 = u at *
  obtain ⟨hwork, hway, hpend⟩ := sliceLog_keeps u sl (match code with | 1 => 2 | 2 => 5 | 3 => 3 | _ => 4) q.label q.src a r q.line
  refine ⟨_, rfl, (PagesOnly.work hpages).trans hwork, fun key => (hway key).trans ?_, hpend.trans hraised⟩
  rw [wayAt, slice, hpages]
  rfl

end

/-! ## The obligation -/

/-- What a request's command answers, by what its way becomes. -/
theorem hit_outcome {s t : State} {id sl key : Nat} {q : Req} {p : ReqOp → Bool} {ok : Bool} {r : Reply} {W : Way → Prop} (hh : hitsWay s id q sl key)
    (hok : ok = true) (hp : p q.op = true) (hcarry : carriesData q.op = true ∨ r = .accepted)
    (hperf : performAt (hitAt s id sl key q.line) sl key q = (t, r)) (hwork : SliceWork (hitAt s id sl key q.line) t) (hW : W (wayAt t sl key)) :
    ∃ u, run ok s (sliceCmd p id .none) = .next u ∧ u.resps = (respond s q r).resps ∧ W (wayAt u sl key) ∧ u.hbm = s.hbm ∧
      ∀ k i x, reg u k i x = reg t k i x := by
  obtain ⟨hrun, hresps, hhbm⟩ := run_hit hh hok hp hcarry hperf hwork
  exact ⟨_, hrun, hresps, by rw [wayAt_respond]; exact hW, hhbm, fun _ _ _ => by rw [respond_frame]; rfl⟩

section
variable {s : State} {id sl key : Nat} {q : Req} (hh : hitsWay s id q sl key) (hpois : (wayAt s sl key).body.pois = 0)
  (hcheck : checkOk q.line (wayAt s sl key).body = true)
include hh hpois hcheck

/-- An FP32, MAX or MIN contribution at its line. -/
theorem redF_outcome {p : ReqOp → Bool} {f : W32 → W32 → W32} {i : Nat} {x : W32} (hp : p q.op = true)
    (hcarry : carriesData q.op = true) (hav : (wayAt s sl key).body.av = false) (hi : i < 64)
    (hperf : performAt (hitAt s id sl key q.line) sl key q = doRedF (hitAt s id sl key q.line) sl key q f [(i, x, false)]) :
    ∃ u, run true s (sliceCmd p id .none) = .next u ∧ u.resps = (respond s q .accepted).resps ∧
      lineF (wayAt u sl key).body.data i = f (lineF (wayAt s sl key).body.data i) x ∧
      (∀ j, j < 64 → j ≠ i → lineF (wayAt u sl key).body.data j = lineF (wayAt s sl key).body.data j) ∧ (wayAt u sl key).hold = true ∧ u.hbm = s.hbm := by
  obtain ⟨halive, hbody⟩ := alive_hitAt hh hpois hcheck
  obtain ⟨t, heq, hwork, hhold, hdata⟩ := doRedF_accepted halive rfl f i x (by rw [hbody]; exact hav)
  rw [hbody] at hdata
  obtain ⟨u, hrun, hresps, ⟨hhold', hdata'⟩, hhbm, -⟩ := hit_outcome (W := fun w => w.hold = true ∧ w.body = checked q.line (redFBody (wayAt s sl key).body f i x))
    hh rfl hp (.inl hcarry) (hperf.trans heq) hwork ⟨hhold, hdata⟩
  refine ⟨u, hrun, hresps, ?_, fun j hj hne => ?_, hhold', hhbm⟩
  · rw [hdata', data_checked, data_redFBody, lineF_setLineF _ _ hi hi, if_pos rfl]
  · rw [hdata', data_checked, data_redFBody, lineF_setLineF _ _ hi hj, if_neg hne]

end

/-- Settles O32: each kind of request by what its way becomes. -/
theorem sliceCombines : Obligations.SliceCombines := by
  intro s id q sl key hh hpois hcheck w
  obtain ⟨halive, hbody⟩ := alive_hitAt hh hpois hcheck
  refine ⟨fun cas i x y p hop hi => ?_, fun a v hop hi hvp hvo hvs hav => ⟨fun ha ho hs hlo hhi => ?_, fun ha => ?_⟩,
    fun i x f c hc hi hav => ?_, fun hop => ?_⟩
  · obtain ⟨t, heq, hwork, hway⟩ := performAt_atd halive rfl hop
    rw [hbody] at heq hway
    obtain ⟨u, hrun, hresps, ⟨hhold, hdata⟩, hhbm, -⟩ := hit_outcome (W := fun w' => w'.hold = false ∧ w'.body = checked q.line (atdBody w.body cas i x y p))
      (p := fun o => match o with | .atd _ _ _ => true | _ => false) hh rfl (by rw [hop]) (.inl (by rw [hop]; rfl)) heq hwork (by rw [hway]; exact ⟨rfl, rfl⟩)
    refine ⟨u, hrun, hresps, ?_, fun j hj hne => ?_, ?_, ?_, hhold, hhbm⟩
    · rw [hdata, data_checked, data_atdBody, lineWord_setLineWord _ _ hi hi, if_pos rfl, atdWord]
    · rw [hdata, data_checked, data_atdBody, lineWord_setLineWord _ _ hi hj, if_neg hne]
    · rw [hdata, pois_checked, pois_atdBody]
    · rw [hdata, chk_checked]
  · obtain ⟨sp, ov, hadd⟩ := addPartial_exact hvp hvo hvs ho hlo hhi
    have hsyn : (addPartial (wayAt (hitAt s id sl key q.line) sl key).body v).syn = [] := by
      rw [hbody, hadd, syn_withPartial, ← halive.syn, hbody]
    obtain ⟨t, heq, hwork, hhold, hdata⟩ := doAddW_accepted halive rfl (a := a) (by rw [hbody]; exact hav) (by rw [hbody]; exact ha) hsyn
    rw [hbody, hadd] at hdata
    obtain ⟨u, hrun, hresps, ⟨hhold', hdata'⟩, hhbm, -⟩ := hit_outcome
      (W := fun w' => w'.hold = true ∧ w'.body = checked q.line (withPartial w.body v.idx (partialN w.body.data v.idx + v.n) sp ov))
      (p := fun o => match o with | .addW _ _ => true | _ => false) hh rfl (by rw [hop]) (.inl (by rw [hop]; rfl))
      (by rw [performAt, hop]; exact heq) hwork ⟨hhold, hdata⟩
    refine ⟨u, hrun, hresps, ?_, fun j hj hne => ?_, ?_, hhold', hhbm⟩
    · rw [hdata', data_checked, data_withPartial, partialN_setPartial _ hlo hhi hi hi, if_pos rfl]
    · rw [hdata', data_checked, data_withPartial, partialN_setPartial _ hlo hhi hi hj, if_neg hne]
    · rw [hdata', pois_checked, pois_withPartial, hpois]
  · obtain ⟨hpoison, hwords⟩ := poisonWay_way halive
    have hrefused := doAddW_refused (q := q) (vs := [v]) halive (by rw [hbody]; exact hav) (by rw [hbody]; exact ha)
    obtain ⟨t, heq, hwork, hkeep, hpend⟩ := refuse_keeps (poisonWay (hitAt s id sl key q.line) sl key) sl a (wayAt (hitAt s id sl key q.line) sl key).body.anchor q 3
    obtain ⟨u, hrun, hresps, hwords', hhbm, hregs⟩ := hit_outcome (W := fun w' => w'.body.pois = allWords)
      (p := fun o => match o with | .addW _ _ => true | _ => false) hh rfl (by rw [hop]) (.inl (by rw [hop]; rfl))
      (by rw [performAt, hop]; exact hrefused.trans heq) (hpoison.trans hwork) (by rw [hkeep]; exact hwords)
    refine ⟨u, hrun, hresps, hwords', ?_, hhbm⟩
    rw [hregs, hpend]
  · rcases hc with ⟨hop, rfl, rfl⟩ | ⟨hop, rfl, rfl⟩ | ⟨hop, rfl, rfl⟩
    · exact redF_outcome hh hpois hcheck (by rw [hop]) (by rw [hop]; rfl) hav hi (by rw [performAt, hop])
    · exact redF_outcome hh hpois hcheck (by rw [hop]) (by rw [hop]; rfl) hav hi (by rw [performAt, hop]; rfl)
    · exact redF_outcome hh hpois hcheck (by rw [hop]) (by rw [hop]; rfl) hav hi (by rw [performAt, hop]; rfl)
  · obtain ⟨t, heq, hwork, hway⟩ := performAt_dead (s := hitAt s id sl key q.line) (sl := sl) (key := key) hop
    obtain ⟨u, hrun, hresps, ⟨hdead, hdirty, hhold⟩, hhbm, -⟩ := hit_outcome (W := fun w' => w'.dead = true ∧ w'.dirty = false ∧ w'.hold = false)
      (p := fun o => match o with | .dead => true | _ => false) hh rfl (by rw [hop]) (.inr rfl) heq hwork (by rw [hway]; exact ⟨rfl, rfl, rfl⟩)
    exact ⟨u, hrun, hresps, hdead, hdirty, hhold, hhbm⟩

end Sys2Proof.Proofs
end

section
/-! The end of a run: its last group, its outcome, its output flags and its count (O27: R214, R218, R219). -/
namespace Sys2Proof.Proofs

open Sys2Proof.Machine Sys2Proof.Laws

/-! ## Counters -/

/-- Two states whose counters read the same. -/
structure SameCtrs (s t : State) : Prop where
  ctr : ∀ k i x, Machine.ctr t k i x = Machine.ctr s k i x

section
variable {s t u : State}

theorem SameCtrs.refl : SameCtrs s s := ⟨fun _ _ _ => rfl⟩

theorem SameCtrs.trans (h : SameCtrs s t) (k : SameCtrs t u) : SameCtrs s u := ⟨fun p i x => (k.ctr p i x).trans (h.ctr p i x)⟩

variable (s) (k : PageKind) (i : Nat)

theorem sameCtrs_setF (f : Fld) (v : Nat) : SameCtrs s (setF s k i f v) := by
  refine ⟨fun k' i' x => ?_⟩
  by_cases hp : pageNo k' i' = pageNo k i
  · have hpage : page s k' i' = page s k i := by unfold page; rw [hp]
    simp only [ctr, setF, setReg, page_setPage, if_pos hp, hpage]
  · simp only [ctr, setF, setReg, page_setPage, if_neg hp]

theorem sameCtrs_bumpByte (base sat per n : Nat) : SameCtrs s (bumpByte s k i base sat per n) := by
  unfold bumpByte
  dsimp only
  split
  · exact sameCtrs_setF ..
  · exact sameCtrs_setF ..

theorem sameCtrs_ircEvent (h : Bool) (src : Nat) : SameCtrs s (ircEvent s h src) := (sameCtrs_bumpByte s ..).trans (sameCtrs_setF ..)

theorem sameCtrs_raiseIrq (bit : Nat) : SameCtrs s (raiseIrq s k i bit) := by
  have hpend := (sameCtrs_setF s k i ⟨o_COMMON_IRQ_PENDING, bit, bit⟩ 1).trans (sameCtrs_bumpByte _ k i (o_COMMON_EVT_CNT 0) o_COMMON_EVT_SAT 16 (evtOf bit))
  unfold raiseIrq
  dsimp only
  split
  · exact hpend
  · split <;> split
    · exact (hpend.trans (sameCtrs_ircEvent ..)).trans (sameCtrs_ircEvent ..)
    · exact hpend.trans (sameCtrs_ircEvent ..)
    · exact hpend.trans (sameCtrs_ircEvent ..)
    · exact hpend

end

/-- The count of a counter's word. -/
theorem bitsN_word (n : Nat) : bitsN (BitVec.ofNat 64 n).toNat 47 0 = bitsN n 47 0 := by
  simp only [bitsN, BitVec.toNat_ofNat, Nat.shiftRight_zero]
  omega

/-- A counter that wraps counts one more, unless the counters are frozen (R566). -/
theorem ctr_bump_perf (s : State) {k : PageKind} {i off : Nat} (hacc : counterAt k off = some .perf) (hf : fld s .trace 0 f_TRACE_PERF_CTRL_FREEZE = 0) :
    bitsN (ctr (bump s k i off 1) k i off).toNat 47 0 = (bitsN (ctr s k i off).toNat 47 0 + 1) % 2 ^ 48 := by
  have hlt : bitsN (ctr s k i off).toNat 47 0 < 2 ^ 48 := Nat.mod_lt _ (Nat.two_pow_pos _)
  have hgo : ¬ (decide (fld s .trace 0 f_TRACE_PERF_CTRL_FREEZE = 1) || decide (1 = 0)) = true := by rw [hf]; decide
  unfold bump
  simp only [hacc]
  rw [if_neg hgo]
  split
  · rename_i h
    rw [ctr_setCtr, if_pos rfl, bitsN_word, Nat.mod_eq_of_lt h]
    simp only [bitsN, Nat.shiftRight_zero] at h ⊢
    omega
  · rename_i h
    rw [(sameCtrs_raiseIrq ..).ctr, ctr_setCtr, if_pos rfl, bitsN_word, bitsN_putBitsN_disjoint _ _ _ _ _ _ (by omega) (by omega),
      bitsN_putBitsN _ _ _ _ (by omega)]

/-! ## Output flags (R219, R231, R234) -/

/-- The output flags of a run that are free flags of this device, in segments that any world may write, are set. -/
theorem outs_set (b : Nat) (outs : List (Nat × FlagAt)) (s : State)
    (h : ∀ x ∈ outs, ∃ r i, x.2 = .loc r i ∧ takerOf s r i = none ∧ flagSecure s r i = false) :
    outs.foldl (outFlag b) s = { s with regions := (outs.foldl (outFlag b) s).regions } ∧
      (∀ x ∈ outs, ∀ r i, x.2 = .loc r i → (flagAt (outs.foldl (outFlag b) s) r i).set = true) ∧
      ∀ r i, (flagAt s r i).set = true → (flagAt (outs.foldl (outFlag b) s) r i).set = true := by
  induction outs generalizing s with
  | nil => exact ⟨rfl, fun _ hx => absurd hx List.not_mem_nil, fun _ _ h => h⟩
  | cons x t ih =>
    obtain ⟨r, i, hx, hn, hw⟩ := h x List.mem_cons_self
    have hout : outFlag b s x = flagSet s r i := by
      rw [outFlag, hx]
      simp only [flagWrite_open r i true 3 b _ (.inl hw : flagSecure s r i = false ∨ secureBlock s b = true), if_true]
    have hset : ∀ r' i', (flagAt (flagSet s r i) r' i').set = ((flagAt s r' i').set || (decide (r' = r ∧ i' = i))) := fun r' i' => by
      rw [flagAt_flagSet r i hn]
      by_cases heq : r' = r ∧ i' = i
      · obtain ⟨rfl, rfl⟩ := heq
        cases hs : (flagAt s r' i').set <;> simp [hs]
      · simp [heq]
    have hframe := flagSet_frame r i hn
    obtain ⟨hrest, hall, hkeep⟩ := ih (flagSet s r i) fun y hy => by
      obtain ⟨r', i', hy', hn', hw'⟩ := h y (List.mem_cons_of_mem _ hy)
      refine ⟨r', i', hy', ?_, ?_⟩
      · rw [hframe]
        exact hn'
      · rw [hframe]
        exact hw'
    rw [List.foldl_cons, hout]
    refine ⟨hrest.trans ?_, fun y hy r' i' hy' => ?_, fun r' i' hs => hkeep r' i' (by rw [hset, hs, Bool.true_or])⟩
    · generalize t.foldl (outFlag b) (flagSet s r i) = u
      rw [hframe]
    · rcases List.mem_cons.1 hy with rfl | hy
      · obtain ⟨rfl, rfl⟩ := FlagAt.loc.inj (hx.symm.trans hy')
        exact hkeep r i (by rw [hset]; simp)
      · exact hall y hy r' i' hy'

/-! ## The reach's status -/

/-- Two states that differ in register pages and blocks, while the outcome of the last run, REPEAT and the power page stay. -/
structure StatusWork (b : Nat) (s t : State) : Prop where
  rest : t = { s with pages := t.pages, blocks := t.blocks }
  last : fld t .block b f_BLOCK_REACH_STATUS_LAST = fld s .block b f_BLOCK_REACH_STATUS_LAST
  ctrl : ∀ f : Fld, f.off = 0x300 → fld t .block b f = fld s .block b f
  pwr : ∀ x, reg t .pwr 0 x = reg s .pwr 0 x

section
variable {b : Nat} {s t u : State}

theorem StatusWork.refl : StatusWork b s s := ⟨rfl, rfl, fun _ _ => rfl, fun _ => rfl⟩

theorem StatusWork.trans (h : StatusWork b s t) (k : StatusWork b t u) : StatusWork b s u where
  rest := by rw [k.rest, h.rest]
  last := k.last.trans h.last
  ctrl f hf := (k.ctrl f hf).trans (h.ctrl f hf)
  pwr x := (k.pwr x).trans (h.pwr x)

theorem StatusWork.allWanted (h : StatusWork b s t) (hw : allWanted s) : allWanted t := allWanted_congr s h.pwr hw

variable (b s)

theorem pwr_setF_block (f : Fld) (v x : Nat) : reg (setF s .block b f v) .pwr 0 x = reg s .pwr 0 x :=
  (drops_setF (P := fun _ => True) s f v (unitPage_block b)).pwr x trivial

/-- A field of REACH_STATUS but LAST. -/
theorem statusWork_setF (f : Fld) (v : Nat) (hf : f.off = 0xC50) (hle : f.lo ≤ f.hi) (hd : f.hi < 24 ∨ 27 < f.lo) : StatusWork b s (setF s .block b f v) where
  rest := rfl
  last := fld_setF_bits s _ _ _ _ _ hle (by decide) hd
  ctrl e he := fld_setF_off _ _ _ _ _ _ (by rw [he, hf]; decide)
  pwr x := pwr_setF_block b s f v x

theorem statusWork_raiseIrq {bit : Nat} (hb : bit ≤ 31) : StatusWork b s (raiseIrq s .block b bit) where
  rest := by rw [pagesOnly_raiseIrq s .block b bit]
  last := by rw [fld, reg_raiseIrq_steady s hb (.inr (by decide)) (notIrc_block b), ← fld]
  ctrl f hf := by rw [fld, reg_raiseIrq_steady s hb (.inr (by rw [hf]; decide)) (notIrc_block b), ← fld]
  pwr x := (drops_raiseIrq (P := fun _ => True) s bit (unitPage_block b)).pwr x trivial

theorem pwr_setCtr_block (o : Nat) (v : W64) (x : Nat) : reg (setCtr s .block b o v) .pwr 0 x = reg s .pwr 0 x :=
  (drops_setPage (P := fun _ => True) s _ (unitPage_block b)).pwr x trivial

theorem pwr_bump_block (off n x : Nat) : reg (bump s .block b off n) .pwr 0 x = reg s .pwr 0 x := by
  unfold bump
  dsimp only
  split
  · split
    · rfl
    · split
      · exact pwr_setCtr_block ..
      · exact ((drops_raiseIrq (P := fun _ => True) _ 31 (unitPage_block b)).pwr x trivial).trans (pwr_setCtr_block ..)
  · split <;> exact pwr_setCtr_block ..
  · rfl

theorem statusWork_bump (off n : Nat) : StatusWork b s (bump s .block b off n) where
  rest := by rw [pagesOnly_bump s .block b off n]
  last := by rw [fld, reg_bump_steady s (.inr (by decide)) (notIrc_block b), ← fld]
  ctrl f hf := by rw [fld, reg_bump_steady s (.inr (by rw [hf]; decide)) (notIrc_block b), ← fld]
  pwr x := pwr_bump_block b s off n x

theorem statusWork_setRun (r : Run) : StatusWork b s (setRun s b r) := ⟨rfl, rfl, fun _ _ => rfl, fun _ => rfl⟩

theorem statusWork_reachOff : StatusWork b s (reachOff s b) :=
  ((statusWork_setF b s f_BLOCK_REACH_STATUS_STATE rOff rfl (by decide) (by decide)).trans
    (statusWork_setF b _ f_BLOCK_REACH_STATUS_DISARM_PEND 0 rfl (by decide) (by decide))).trans (statusWork_setRun b _ _)

theorem reachState_setState {v : Nat} (hv : v < 16) : reachState (setF s .block b f_BLOCK_REACH_STATUS_STATE v) b = v :=
  fld_setF_self s (by decide) (by decide) hv

theorem reachState_reachOff : reachState (reachOff s b) b = 0 := by
  have hrun : ∀ (u : State) r, reachState (setRun u b r) b = reachState u b := fun _ _ => rfl
  rw [reachOff, hrun, reachState, fld_setF_bits _ _ _ _ _ _ (by decide) (by decide) (by decide)]
  exact reachState_setState b s (by decide)

theorem sameCtrs_reachOff : SameCtrs s (reachOff s b) := (sameCtrs_setF s ..).trans ((sameCtrs_setF ..).trans ⟨fun _ _ _ => rfl⟩)

end

/-! ## The settling of a run (R214, R219, R220) -/

/-- A run that ended well is counted in REACH_RUNS, and its reach's LEVEL rises under frame pacing (R219, R224). -/
def okCounted (s : State) (b : Nat) : State :=
  let s := bump s .block b o_BLOCK_REACH_RUNS 1
  if flag s .block b f_BLOCK_REACH_CTRL_FP_EN then levelUp s b else s

/-- A reach is ARMED again under REPEAT, else OFF. -/
def rearmed (s : State) (b : Nat) : State :=
  if flag s .block b f_BLOCK_REACH_CTRL_REPEAT then setF s .block b f_BLOCK_REACH_STATUS_STATE rArmed else reachOff s b

section
variable (b : Nat) (s : State)

theorem statusWork_okCounted : StatusWork b s (okCounted s b) := by
  unfold okCounted
  dsimp only
  split
  · exact (statusWork_bump ..).trans (statusWork_setF b _ f_BLOCK_REACH_STATUS_LEVEL _ rfl (by decide) (by decide))
  · exact statusWork_bump ..

theorem sameCtrs_okCounted : SameCtrs (bump s .block b o_BLOCK_REACH_RUNS 1) (okCounted s b) := by
  unfold okCounted
  dsimp only
  split
  · exact sameCtrs_setF ..
  · exact .refl

theorem statusWork_rearmed : StatusWork b s (rearmed s b) := by
  unfold rearmed
  split
  · exact statusWork_setF b _ f_BLOCK_REACH_STATUS_STATE rArmed rfl (by decide) (by decide)
  · exact statusWork_reachOff ..

theorem sameCtrs_rearmed : SameCtrs s (rearmed s b) := by
  unfold rearmed
  split
  · exact sameCtrs_setF ..
  · exact sameCtrs_reachOff ..

theorem reachState_rearmed : reachState (rearmed s b) b = if flag s .block b f_BLOCK_REACH_CTRL_REPEAT = true then 1 else 0 := by
  unfold rearmed
  split
  · exact reachState_setState b s (by decide)
  · exact reachState_reachOff ..

end

section
variable {b : Nat} {s : State} (hst : reachState s b = 3) (hd : flag s .block b f_BLOCK_REACH_STATUS_DISARM_PEND = false)
include hst hd

/-- What settling a run that ended well does. -/
theorem settle_ok (ho : outcome s b = 1) : settle b s = stopIdle (rearmed (okCounted
    ((block s b).run.outs.foldl (outFlag b) (setF s .block b f_BLOCK_REACH_STATUS_LAST 1)) b) b) := by
  rw [settle, if_neg (not_not.2 hst), ho, hd]
  simp only [if_true, Bool.not_false, Bool.and_true]
  rfl

/-- What settling a run that failed or was aborted does. -/
theorem settle_failed (ho : outcome s b ≠ 1) : settle b s = stopIdle (setF
    (raiseIrq (setF s .block b f_BLOCK_REACH_STATUS_LAST (outcome s b)) .block b 11) .block b f_BLOCK_REACH_STATUS_STATE rHalted) := by
  rw [settle, if_neg (not_not.2 hst), hd]
  simp only [if_neg ho, Bool.false_eq_true, if_false]

end

theorem outcome_lt (s : State) (b : Nat) : outcome s b < 4 := by
  unfold outcome
  dsimp only
  split
  · decide
  · split <;> decide

/-- The outcome of the last run reads as it was written. -/
theorem last_setF (s : State) (b : Nat) {v : Nat} (hv : v < 4) :
    fld (setF s .block b f_BLOCK_REACH_STATUS_LAST v) .block b f_BLOCK_REACH_STATUS_LAST = v :=
  fld_setF_self s (by decide) (by decide) (Nat.lt_of_lt_of_le hv (by decide))

theorem flagSecure_setLast (s : State) (b v r i : Nat) : flagSecure (setF s .block b f_BLOCK_REACH_STATUS_LAST v) r i = flagSecure s r i := by
  rw [flagSecure, fld, reg_setF_ne s v (by decide), ← fld, ← flagSecure]

theorem freeze_setF_block (s : State) (b : Nat) (f : Fld) (v : Nat) :
    fld (setF s .block b f v) .trace 0 f_TRACE_PERF_CTRL_FREEZE = fld s .trace 0 f_TRACE_PERF_CTRL_FREEZE :=
  fld_setF_page _ _ _ _ _ _ _ _ (by simp only [pageNo, kindBase, kindRow]; omega)

/-- REACH_RUNS wraps (R566). -/
theorem runs_counter : counterAt .block o_BLOCK_REACH_RUNS = some .perf := by decide

/-- A state that differs in its flags reads the same registers. -/
structure SameRegs (s t : State) : Prop where
  reg : ∀ k i x, Machine.reg t k i x = Machine.reg s k i x
  ctr : ∀ k i x, Machine.ctr t k i x = Machine.ctr s k i x

theorem sameRegs_regions (s : State) (rs : List (Nat × Region)) : SameRegs s { s with regions := rs } := ⟨fun _ _ _ => rfl, fun _ _ _ => rfl⟩

section
variable {s : State} {b : Nat} (hr : inReset s = false) (hth : thawed s = true) (hp : present s .block b = true)
  (hst : reachState s b = 3) (hd : flag s .block b f_BLOCK_REACH_STATUS_DISARM_PEND = false) (hw : allWanted s)

include hth hp in
theorem settles_ok : (present s .block b && !reachFrozen s b) = true := by rw [hp, reachFrozen_of_thawed hth]; rfl

include hr hth hp hst hd hw

/-- A run that ended well: its output flags, its count and the state of its reach (R219). -/
theorem reachSettle_ok (ho : outcome s b = 1) (houts : ∀ x ∈ (block s b).run.outs, ∃ r i, x.2 = .loc r i ∧ takerOf s r i = none ∧ flagSecure s r i = false) :
    ∃ t, exec (.reachSettle b) s = .next t ∧ fld t .block b f_BLOCK_REACH_STATUS_LAST = 1 ∧
      reachState t b = (if flag s .block b f_BLOCK_REACH_CTRL_REPEAT = true then 1 else 0) ∧
      (∀ x ∈ (block s b).run.outs, ∀ r i, x.2 = .loc r i → (flagAt t r i).set = true) ∧
      (fld s .trace 0 f_TRACE_PERF_CTRL_FREEZE = 0 → bitsN (ctr t .block b o_BLOCK_REACH_RUNS).toNat 47 0 =
        (bitsN (ctr s .block b o_BLOCK_REACH_RUNS).toNat 47 0 + 1) % 2 ^ 48) ∧ t.cells = s.cells ∧ t.hbm = s.hbm := by
  have hset := settle_ok hst hd ho
  obtain ⟨hframe, hall, -⟩ := outs_set b (block s b).run.outs (setF s .block b f_BLOCK_REACH_STATUS_LAST 1) fun x hx => by
    obtain ⟨r, i, hx', hn, hw'⟩ := houts x hx
    exact ⟨r, i, hx', hn, (flagSecure_setLast ..).trans hw'⟩
  generalize (block s b).run.outs.foldl (outFlag b) (setF s .block b f_BLOCK_REACH_STATUS_LAST 1) = u at hset hframe hall
  have hregs : SameRegs (setF s .block b f_BLOCK_REACH_STATUS_LAST 1) u := by
    rw [hframe]
    exact sameRegs_regions ..
  have hwork : StatusWork b u (rearmed (okCounted u b) b) := (statusWork_okCounted b u).trans (statusWork_rearmed b _)
  have hctrs : SameCtrs (bump u .block b o_BLOCK_REACH_RUNS 1) (rearmed (okCounted u b) b) := (sameCtrs_okCounted b u).trans (sameCtrs_rearmed b _)
  have hstate := reachState_rearmed b (okCounted u b)
  rw [flag, (statusWork_okCounted b u).ctrl _ rfl] at hstate
  generalize rearmed (okCounted u b) b = v at hset hwork hctrs hstate
  have hwanted : allWanted u := allWanted_congr s (fun x => (hregs.reg ..).trans (pwr_setF_block b s _ 1 x)) hw
  rw [stopIdle_of_allWanted _ (hwork.allWanted hwanted)] at hset
  have hrest : v = { setF s .block b f_BLOCK_REACH_STATUS_LAST 1 with pages := v.pages, blocks := v.blocks, regions := u.regions } := by
    rw [hwork.rest, hframe]
  refine ⟨v, (run_eq (settles_ok hth hp) hr).trans ((congrArg (done s) hset).trans (done_eq ?_ ?_)), ?_, ?_, ?_, fun hfr => ?_, ?_, ?_⟩
  · rw [hrest]; rfl
  · rw [hrest]; rfl
  · rw [hwork.last, fld, hregs.reg, ← fld, last_setF s b (by decide)]
  · rw [hstate, fld, hregs.reg, ← fld, fld_setF_off _ _ _ _ _ _ (by decide)]
    rfl
  · intro x hx r i hx'
    rw [hwork.rest]
    exact hall x hx r i hx'
  · have hfreeze : fld u .trace 0 f_TRACE_PERF_CTRL_FREEZE = 0 := by rw [fld, hregs.reg, ← fld, freeze_setF_block, hfr]
    rw [hctrs.ctr, ctr_bump_perf u (runs_counter) hfreeze, hregs.ctr, (sameCtrs_setF ..).ctr]
  · rw [hrest]; rfl
  · rw [hrest]; rfl

/-- A run that failed or was aborted: the interrupt and the halt (R219). -/
theorem reachSettle_failed (ho : outcome s b ≠ 1) : ∃ t, exec (.reachSettle b) s = .next t ∧ fld t .block b f_BLOCK_REACH_STATUS_LAST = outcome s b ∧
    reachState t b = 4 ∧ bitN (reg t .block b o_COMMON_IRQ_PENDING).toNat 11 = true ∧ t.regions = s.regions ∧ t.cells = s.cells := by
  have hset := settle_failed hst hd ho
  have hraise := statusWork_raiseIrq b (setF s .block b f_BLOCK_REACH_STATUS_LAST (outcome s b)) (bit := 11) (by decide)
  have hpend := pending_raiseIrq (s := setF s .block b f_BLOCK_REACH_STATUS_LAST (outcome s b)) (bit := 11) (by decide) (notIrc_block b)
  generalize raiseIrq (setF s .block b f_BLOCK_REACH_STATUS_LAST (outcome s b)) .block b 11 = u at hset hraise hpend
  have hwork := hraise.trans (statusWork_setF b u f_BLOCK_REACH_STATUS_STATE rHalted rfl (by decide) (by decide))
  rw [stopIdle_of_allWanted _ (hwork.allWanted (allWanted_congr s (pwr_setF_block b s _ _) hw))] at hset
  have hrest : setF u .block b f_BLOCK_REACH_STATUS_STATE rHalted = { s with pages := (setF u .block b f_BLOCK_REACH_STATUS_STATE rHalted).pages, blocks := u.blocks } :=
    hwork.rest
  refine ⟨_, (run_eq (settles_ok hth hp) hr).trans ((congrArg (done s) hset).trans (done_eq ?_ ?_)), ?_, reachState_setState b u (by decide), ?_, ?_, ?_⟩
  · rw [hrest]
  · rw [hrest]
  · rw [hwork.last]
    exact last_setF s b (outcome_lt s b)
  · rw [reg_setF_ne u _ (by decide)]
    exact hpend
  · rw [hrest]
  · rw [hrest]

end

/-- A RUNNING reach without a live group is COMPLETING (R214). -/
theorem reachLastGroupFree_completes {s : State} {b : Nat} (hok : (present s .block b && !reachFrozen s b) = true) (hr : inReset s = false)
    (hst : reachState s b = 2) (hg : runGroups s b = []) :
    exec (.reachLastGroupFree b) s = .next (setF s .block b f_BLOCK_REACH_STATUS_STATE rCompleting) := by
  have hgo : (reachState s b = rRunning && (runGroups s b).isEmpty) = true := by rw [hst, hg, List.isEmpty_nil, Bool.and_true, decide_eq_true_eq]
  have hrun := run_eq hok hr (f := fun s => if reachState s b = rRunning && (runGroups s b).isEmpty then setF s .block b f_BLOCK_REACH_STATUS_STATE rCompleting else s)
  rw [if_pos hgo, done_eq (setF_part ..) (setF_pending ..)] at hrun
  exact hrun

theorem reachSettles : Claims.ReachSettles := by
  intro s b hr hth hp
  exact ⟨fun hst hg => ⟨_, reachLastGroupFree_completes (settles_ok hth hp) hr hst hg, reachState_setState b s (by decide), rfl, rfl⟩,
    fun hst hd hw => ⟨reachSettle_ok hr hth hp hst hd hw, reachSettle_failed hr hth hp hst hd hw⟩⟩

end Sys2Proof.Proofs
end

section
/-! The start of a run: its claim, its cells and its groups (O27: R128, R211, R216, R223). -/
namespace Sys2Proof.Proofs

open Sys2Proof.Machine Sys2Proof.Laws

/-! ## The claim of the input flags (R216) -/

/-- Inputs that are set and name different flags are all claimed: each is clear where it has CONSUME, and no other flag changes. -/
theorem claimFlags_set (ins : List (Nat × Nat × Bool)) (took : List (Nat × Nat)) (s : State) (hset : ∀ x ∈ ins, (flagAt s x.1 x.2.1).set = true)
    (hne : ins.Pairwise fun x y => ¬(x.1 = y.1 ∧ x.2.1 = y.2.1)) :
    ∃ u, claimFlags s ins took = (u, true) ∧ u = { s with regions := u.regions } ∧ (∀ x ∈ ins, (flagAt u x.1 x.2.1).set = !x.2.2) ∧
      ∀ r i, (∀ x ∈ ins, ¬(x.1 = r ∧ x.2.1 = i)) → flagAt u r i = flagAt s r i := by
  induction ins generalizing s took with
  | nil => exact ⟨s, rfl, rfl, fun _ hx => absurd hx List.not_mem_nil, fun _ _ _ => rfl⟩
  | cons x t ih =>
    obtain ⟨r, i, c⟩ := x
    obtain ⟨hfirst, hrest⟩ := List.pairwise_cons.1 hne
    have hi : (flagAt s r i).set = true := hset _ List.mem_cons_self
    have ht : ∀ x ∈ t, (flagAt s x.1 x.2.1).set = true := fun x hx => hset x (List.mem_cons_of_mem _ hx)
    cases c with
    | false =>
      obtain ⟨u, heq, hframe, hins, hother⟩ := ih took s ht hrest
      refine ⟨u, by simpa only [claimFlags, Bool.not_false, if_true] using heq, hframe, fun x hx => ?_, fun r' i' h => ?_⟩
      · rcases List.mem_cons.1 hx with rfl | hx
        · rw [hother r i fun y hy h => hfirst y hy ⟨h.1.symm, h.2.symm⟩, hi]
          rfl
        · exact hins x hx
      · exact hother r' i' fun x hx => h x (List.mem_cons_of_mem _ hx)
    | true =>
      have hclr : ∀ r' i', ¬(r' = r ∧ i' = i) → flagAt (flagClr s r i) r' i' = flagAt s r' i' := fun r' i' h => by
        rw [flagClr, flagAt_putFlag, if_neg h]
      obtain ⟨u, heq, hframe, hins, hother⟩ := ih (took ++ [(r, i)]) (flagClr s r i)
        (fun x hx => by rw [hclr _ _ fun h => hfirst x hx ⟨h.1.symm, h.2.symm⟩]; exact ht x hx) hrest
      refine ⟨u, by simpa only [claimFlags, Bool.not_true, Bool.false_eq_true, if_false, hi, if_true] using heq, hframe, fun x hx => ?_, fun r' i' h => ?_⟩
      · rcases List.mem_cons.1 hx with rfl | hx
        · rw [hother r i fun y hy h => hfirst y hy ⟨h.1.symm, h.2.symm⟩, flagClr, flagAt_putFlag, if_pos ⟨rfl, rfl⟩]
          rfl
        · exact hins x hx
      · rw [hother r' i' fun x hx => h x (List.mem_cons_of_mem _ hx), hclr r' i' fun he => h _ List.mem_cons_self ⟨he.1.symm, he.2.symm⟩]

/-! ## A group as it is launched (R128) -/

/-- The lanes' numbers in v0. -/
theorem getV_laneNumbers (k : Group) {m : Nat} (hm : m ≤ 32) {l : Nat} (hl : l < 32) :
    getV ((List.range m).foldl (fun k l => setV k 0 l (BitVec.ofNat 32 l)) k) 0 l = if l < m then BitVec.ofNat 32 l else getV k 0 l := by
  induction m with
  | zero => rfl
  | succ m ih =>
    rw [List.range_succ, List.foldl_append, List.foldl_cons, List.foldl_nil, getV_setV _ _ _ _ _ _ (by omega) hl, ih (by omega)]
    by_cases h : l = m
    · rw [if_pos ⟨rfl, h⟩, if_pos (by omega), h]
    · rw [if_neg fun e => h e.2]
      exact if_congr (by omega) rfl rfl

/-- Writes of lane registers change lane registers alone. -/
theorem foldl_setV_lanes_frame (f : Nat → W32) (ls : List Nat) (k : Group) :
    ls.foldl (fun k l => setV k 0 l (f l)) k = { k with v := (ls.foldl (fun k l => setV k 0 l (f l)) k).v } := by
  induction ls generalizing k with
  | nil => rfl
  | cons l t ih =>
    rw [List.foldl_cons, ih]
    rfl

/-- Writes of uniform registers change uniform registers alone. -/
theorem foldl_setU_frame (us : List (Nat × Nat)) (k : Group) : us.foldl (fun k x => setU k x.1 (BitVec.ofNat 64 x.2)) k =
    { k with u := (us.foldl (fun k x => setU k x.1 (BitVec.ofNat 64 x.2)) k).u } := by
  induction us generalizing k with
  | nil => rfl
  | cons x t ih => rw [List.foldl_cons, ih, setU_frame]

/-- The record with which a group starts, but for its registers. -/
def freshGroup (s : State) (b : Nat) : Group where
  st := .run
  pc := fld s .block b f_BLOCK_REACH_PROG_HI_BASE_HI * 2 ^ 32 + fld s .block b f_BLOCK_REACH_PROG_LO_BASE_LO * 8
  base := fld s .block b f_BLOCK_REACH_PROG_HI_BASE_HI * 2 ^ 32 + fld s .block b f_BLOCK_REACH_PROG_LO_BASE_LO * 8
  resident := BitVec.ofNat 32 (2 ^ fld s .block b f_BLOCK_REACH_SHAPE_LANES - 1)
  active := BitVec.ofNat 32 (2 ^ fld s .block b f_BLOCK_REACH_SHAPE_LANES - 1)
  alloc := 8 * fld s .block b f_BLOCK_REACH_SHAPE_ALLOC_U
  lead := b
  label := BitVec.ofNat 8 (fld s .block b f_BLOCK_REACH_CTRL_CLASS * 16 + (partOfRegion s (b / 6)).getD 0)

/-- v0 of each lane holds the lane's number. -/
def laneNumbers (k : Group) : Group := (List.range 32).foldl (fun k l => setV k 0 l (BitVec.ofNat 32 l)) k

/-- The registers that R128 gives a group. -/
def startRegs (k : Group) (c g rank cells groups : Nat) : Group :=
  [(1, c), (2, g), (3, rank), (4, cells), (5, groups), (6, k.label.toNat)].foldl (fun k x => setU k x.1 (BitVec.ofNat 64 x.2)) (laneNumbers k)

theorem launchGroup_eq (s : State) (b c g rank cells : Nat) :
    launchGroup s b c g rank cells = startRegs (freshGroup s b) c g rank cells (fld s .block b f_BLOCK_REACH_SHAPE_GROUPS) := rfl

section
variable (k : Group) (c g rank cells groups : Nat)

theorem startRegs_lanes : startRegs k c g rank cells groups = { laneNumbers k with u := (startRegs k c g rank cells groups).u } :=
  foldl_setU_frame _ _

theorem startRegs_frame : startRegs k c g rank cells groups =
    { k with v := (startRegs k c g rank cells groups).v, u := (startRegs k c g rank cells groups).u } := by
  have hu := startRegs_lanes k c g rank cells groups
  have hv : laneNumbers k = { k with v := (laneNumbers k).v } := foldl_setV_lanes_frame _ _ k
  generalize startRegs k c g rank cells groups = z at hu ⊢
  generalize laneNumbers k = y at hu hv
  rw [hu, hv]

theorem getV_startRegs {l : Nat} (hl : l < 32) : getV (startRegs k c g rank cells groups) 0 l = BitVec.ofNat 32 l := by
  have hlanes : getV (laneNumbers k) 0 l = BitVec.ofNat 32 l := by rw [laneNumbers, getV_laneNumbers k (le_refl 32) hl, if_pos hl]
  have hu := startRegs_lanes k c g rank cells groups
  generalize startRegs k c g rank cells groups = z at hu ⊢
  generalize laneNumbers k = y at hu hlanes
  rw [hu]
  exact hlanes

theorem getU_startRegs : getU (startRegs k c g rank cells groups) 1 = BitVec.ofNat 64 c ∧
    getU (startRegs k c g rank cells groups) 2 = BitVec.ofNat 64 g ∧ getU (startRegs k c g rank cells groups) 3 = BitVec.ofNat 64 rank ∧
    getU (startRegs k c g rank cells groups) 4 = BitVec.ofNat 64 cells ∧ getU (startRegs k c g rank cells groups) 5 = BitVec.ofNat 64 groups ∧
    getU (startRegs k c g rank cells groups) 6 = BitVec.ofNat 64 k.label.toNat := by
  simp [startRegs, getU_setU]

end

/-! ## A cell as it is launched (R211) -/

/-- What a launch makes of a cell: its instruction cache is empty, its local memory is kept and its first `m` groups are new. -/
structure CellLaunched (s : State) (b c rank cells m : Nat) (x : Cell) : Prop where
  icache : x.icache = []
  lm : x.lm = (cell s c).lm
  groups : ∀ g, g < m → mget {} x.groups g = launchGroup s b c g rank cells

/-- The groups of a cell whose caches are empty, launched in turn. -/
theorem foldl_launchGroup (s : State) (b c rank cells m : Nat) (hi : (cell s c).icache = []) :
    ∃ u, (List.range m).foldl (fun s g => setGroup s c g (launchGroup s b c g rank cells)) s = u ∧ u = { s with cells := u.cells } ∧
      CellLaunched s b c rank cells m (cell u c) ∧ ∀ d, d ≠ c → cell u d = cell s d := by
  induction m with
  | zero => exact ⟨s, rfl, rfl, ⟨hi, rfl, fun g hg => absurd hg (Nat.not_lt_zero g)⟩, fun _ _ => rfl⟩
  | succ m ih =>
    obtain ⟨u, hfold, hframe, hcell, hother⟩ := ih
    have hgroup : launchGroup u b c m rank cells = launchGroup s b c m rank cells := by rw [hframe]; rfl
    rw [List.range_succ, List.foldl_append, hfold, List.foldl_cons, List.foldl_nil, hgroup]
    refine ⟨_, rfl, ?_, ⟨?_, ?_, fun g hg => ?_⟩, fun d hd => ?_⟩
    · rw [setGroup, setCell, hframe]
    · rw [cell_setGroup, if_pos rfl]
      exact hcell.icache
    · rw [cell_setGroup, if_pos rfl]
      exact hcell.lm
    · rw [cell_setGroup, if_pos rfl, mget_mset]
      by_cases h : g = m
      · rw [if_pos h, h]
      · rw [if_neg h, hcell.groups g (by omega)]
    · rw [cell_setGroup, if_neg hd, hother d hd]

theorem launchCell_spec (s : State) (b c rank cells : Nat) : ∃ u, launchCell s b c rank cells = u ∧ u = { s with cells := u.cells } ∧
    CellLaunched s b c rank cells (fld s .block b f_BLOCK_REACH_SHAPE_GROUPS) (cell u c) ∧ ∀ d, d ≠ c → cell u d = cell s d := by
  obtain ⟨u, hfold, hframe, hcell, hother⟩ := foldl_launchGroup (invRo (setCell s c { cell s c with gated := false }) c true true true) b c rank cells
    (fld s .block b f_BLOCK_REACH_SHAPE_GROUPS) (by rw [cell_invRo, if_pos rfl]; rfl)
  refine ⟨u, hfold, ?_, ⟨hcell.icache, ?_, hcell.groups⟩, fun d hd => ?_⟩
  · rw [hframe]; rfl
  · rw [hcell.lm, cell_invRo, if_pos rfl, cell_setCell_self]
  · rw [hother d hd, cell_invRo, if_neg hd, cell_setCell_ne _ _ hd]

/-! ## The cells of a run (R211) -/

/-- The first `m` cells of a list of different cells, launched in turn. -/
theorem foldl_launchCell (s : State) (b : Nat) (cs : List Nat) (hnd : cs.Nodup) (m : Nat) (hm : m ≤ cs.length) :
    ∃ u, (List.range m).foldl (fun s i => launchCell s b (cs.getD i 0) i cs.length) s = u ∧ u = { s with cells := u.cells } ∧
      (∀ j c, j < m → cs[j]? = some c → CellLaunched s b c j cs.length (fld s .block b f_BLOCK_REACH_SHAPE_GROUPS) (cell u c)) ∧
      ∀ d, (∀ j, j < m → cs[j]? ≠ some d) → cell u d = cell s d := by
  induction m with
  | zero => exact ⟨s, rfl, rfl, fun j _ hj => absurd hj (Nat.not_lt_zero j), fun _ _ => rfl⟩
  | succ m ih =>
    obtain ⟨u, hfold, hframe, hcells, hother⟩ := ih (by omega)
    have hget : cs[m]? = some (cs.getD m 0) := by
      rw [List.getD_eq_getElem?_getD, List.getElem?_eq_getElem (by omega)]
      rfl
    have hdiff : ∀ j, j < m → cs[j]? ≠ some (cs.getD m 0) := fun j hj he =>
      absurd ((List.nodup_iff_getElem?_ne_getElem?.1 hnd) j m hj (by omega)) (not_not.2 (he.trans hget.symm))
    obtain ⟨v, hlaunch, hframe', hcell, hkeep⟩ := launchCell_spec u b (cs.getD m 0) m cs.length
    rw [List.range_succ, List.foldl_append, hfold, List.foldl_cons, List.foldl_nil, hlaunch]
    refine ⟨v, rfl, ?_, fun j c hj hc => ?_, fun d hd => ?_⟩
    · rw [hframe', hframe]
    · by_cases hjm : j = m
      · subst hjm
        obtain rfl : cs.getD j 0 = c := Option.some.inj (hget.symm.trans hc)
        have hfld : ∀ f, fld u .block b f = fld s .block b f := fun f => by rw [hframe]; rfl
        have hnew : ∀ c g rank n, launchGroup u b c g rank n = launchGroup s b c g rank n := fun _ _ _ _ => by rw [hframe]; rfl
        exact ⟨hcell.icache, hcell.lm.trans (by rw [hother _ hdiff]), fun g hg => (hcell.groups g (by rw [hfld]; exact hg)).trans (hnew ..)⟩
      · have hlt : j < m := by omega
        rw [hkeep c fun he => hdiff j hlt (he ▸ hc)]
        exact hcells j c hlt hc
    · rw [hkeep d fun he => hd m (by omega) (he ▸ hget)]
      exact hother d fun j hj => hd j (by omega)

/-- A run's launch: its groups in each cell, the time of its start and its reach's state; HBM and the flags are as they were. -/
theorem launch_spec (s : State) (b : Nat) (hnd : ((block s b).run.blocks.flatMap (cellsIn s)).Nodup) :
    ∃ t, launch s b = t ∧ t.part = s.part ∧ t.pending = s.pending ∧ t.regions = s.regions ∧ t.hbm = s.hbm ∧ reachState t b = 2 ∧
      (block t b).run.lastStart = some s.time.toNat ∧ ∀ j c, ((block s b).run.blocks.flatMap (cellsIn s))[j]? = some c →
        CellLaunched s b c j ((block s b).run.blocks.flatMap (cellsIn s)).length (fld s .block b f_BLOCK_REACH_SHAPE_GROUPS) (cell t c) := by
  obtain ⟨u, hfold, hframe, hcells, -⟩ := foldl_launchCell s b _ hnd _ (le_refl _)
  have hlaunch : launch s b = setF (setRun u b { (block u b).run with lastStart := some u.time.toNat, killed := false, aborted := false, lost := false })
      .block b f_BLOCK_REACH_STATUS_STATE rRunning := by
    rw [← hfold]
    rfl
  refine ⟨_, hlaunch, ?_, ?_, ?_, ?_, reachState_setState b _ (by decide), ?_, fun j c hj => hcells j c (List.getElem?_eq_some_iff.1 hj).1 hj⟩
  · rw [setF_part, setRun, setBlock, hframe]
  · rw [setF_pending, setRun, setBlock, hframe]
  · rw [setF_regions, setRun, setBlock, hframe]
  · rw [setF_hbm, setRun, setBlock, hframe]
  · rw [block, setF_blocks, ← block, setRun, block_setBlock_self, hframe]

/-! ## The start of a reach (R216, R223) -/

/-- The inputs of a reach that may start are all set. -/
theorem startMet_ins {s : State} {b : Nat} (h : startMet s b = true) : ∀ x ∈ (block s b).run.ins, (flagAt s x.1 x.2.1).set = true := by
  simp only [startMet, Bool.and_eq_true, List.all_eq_true] at h
  obtain ⟨⟨⟨⟨⟨-, hins⟩, -⟩, -⟩, -⟩, -⟩ := h
  exact hins

/-- A claim of a reach that may start clears its inputs and launches its run. -/
theorem claim_met {s u : State} {b : Nat} (h : startMet s b = true) (hc : claimFlags s (block s b).run.ins [] = (u, true)) : claim b s = launch u b := by
  unfold claim
  rw [if_neg (by rw [h]; decide), hc]

theorem claim_unmet {s : State} {b : Nat} (h : startMet s b = false) : claim b s = s := if_pos (by rw [h]; rfl)

theorem fpPeriodExpire_passed {s : State} {b : Nat} (h : periodPassed s b = true) : fpPeriodExpire b s = claim b s := if_pos h

theorem fpPeriodExpire_early {s : State} {b : Nat} (h : periodPassed s b = false) : fpPeriodExpire b s = s := if_neg (by rw [h]; decide)

section
variable {s : State} {b : Nat} (hr : inReset s = false) (hp : present s .block b = true)
include hr hp

theorem exec_reachClaim : exec (.reachClaim b) s = done s (claim b s) := run_eq hp hr

theorem exec_fpPeriodExpire : exec (.fpPeriodExpire b) s = done s (fpPeriodExpire b s) := run_eq hp hr

/-- Both commands that start a reach claim it. -/
theorem exec_start {c : Instr} (hc : c = .reachClaim b ∨ c = .fpPeriodExpire b ∧ periodPassed s b = true) : exec c s = done s (claim b s) := by
  rcases hc with rfl | ⟨rfl, hpassed⟩
  · exact exec_reachClaim hr hp
  · rw [exec_fpPeriodExpire hr hp, fpPeriodExpire_passed hpassed]

end

theorem reachLaunch : Claims.ReachLaunch := by
  intro s b hr hp
  refine ⟨fun c hc hmet hne hnd => ?_, fun hmet => ?_, fun hearly => ?_⟩
  · obtain ⟨u, hclaim, hframe, hins, hother⟩ := claimFlags_set _ [] s (startMet_ins hmet) hne
    have hblock : block u b = block s b := by rw [hframe]; rfl
    have hcells : cellsIn u = cellsIn s := by rw [hframe]; rfl
    have hlead : (block u b).run.blocks.flatMap (cellsIn u) = (block s b).run.blocks.flatMap (cellsIn s) := by rw [hblock, hcells]
    have hshape : fld u .block b f_BLOCK_REACH_SHAPE_GROUPS = fld s .block b f_BLOCK_REACH_SHAPE_GROUPS := by rw [hframe]; rfl
    obtain ⟨t, hlaunch, hpart, hpending, hregions, hhbm, hstate, hstart, hnew⟩ := launch_spec u b (by rw [hlead]; exact hnd)
    have hflag : ∀ r i, flagAt t r i = flagAt u r i := fun r i => by rw [flagAt, flagAt, region, region, hregions]
    refine ⟨t, ?_, hstate, ?_, ?_, fun x hx => by rw [hflag]; exact hins x hx, fun r i h => by rw [hflag]; exact hother r i h, fun j c g hj hg => ?_⟩
    · rw [exec_start hr hp hc, claim_met hmet hclaim, hlaunch, done_eq (hpart.trans (by rw [hframe])) (hpending.trans (by rw [hframe]))]
    · rw [hhbm, hframe]
    · rw [hstart, hframe]
    · obtain ⟨hicache, hlm, hgroups⟩ := hnew j c (by rw [hlead]; exact hj)
      have hgroup := hgroups g (by rw [hshape]; exact hg)
      have hsame : ∀ n, launchGroup u b c g j n = startRegs (freshGroup s b) c g j n (fld s .block b f_BLOCK_REACH_SHAPE_GROUPS) := fun n => by
        rw [hframe, ← launchGroup_eq]
        rfl
      rw [hsame, hlead] at hgroup
      dsimp only
      generalize ((block s b).run.blocks.flatMap (cellsIn s)).length = n at hgroup ⊢
      generalize fld s .block b f_BLOCK_REACH_SHAPE_GROUPS = m at hgroup ⊢
      have hrec := startRegs_frame (freshGroup s b) c g j n m
      have hlanes := fun l (hl : l < 32) => getV_startRegs (freshGroup s b) c g j n m hl
      obtain ⟨h1, h2, h3, h4, h5, h6⟩ := getU_startRegs (freshGroup s b) c g j n m
      rw [show startRegs (freshGroup s b) c g j n m = group t c g from hgroup.symm] at hrec hlanes h1 h2 h3 h4 h5 h6
      generalize group t c g = k at hrec hlanes h1 h2 h3 h4 h5 h6 ⊢
      refine ⟨congrArg Group.st hrec, congrArg Group.pc hrec, ?_, congrArg Group.active hrec, ?_, congrArg Group.alloc hrec, congrArg Group.stack hrec,
        congrArg Group.gstat hrec, congrArg Group.lead hrec, hlanes, h1, h2, h3, h4, h5, ?_, hicache, ?_⟩
      · exact (congrArg Group.base hrec).trans (congrArg Group.pc hrec).symm
      · exact (congrArg Group.resident hrec).trans (congrArg Group.active hrec).symm
      · rw [h6, show (freshGroup s b).label = k.label from (congrArg Group.label hrec).symm]
      · rw [hlm, hframe]
        rfl
  · exact ⟨by rw [exec_reachClaim hr hp, claim_unmet hmet, done_eq rfl rfl], by
      rw [exec_fpPeriodExpire hr hp, fpPeriodExpire, claim_unmet hmet, ite_self, done_eq rfl rfl]⟩
  · rw [exec_fpPeriodExpire hr hp, fpPeriodExpire_early hearly, done_eq rfl rfl]

/-- Settles O27: the start of a run and its end. -/
theorem reachLaunchesAndSettles : Obligations.ReachLaunchesAndSettles := ⟨reachLaunch, reachSettles⟩

end Sys2Proof.Proofs
end

section
/-! SFX and TLU (O18: R185 to R187). -/
namespace Sys2Proof.Proofs

open Sys2Proof.Machine Sys2Proof.Laws

/-- A lane that writes a lane register and a predicate bit touches each as an instruction would that writes it alone. -/
theorem mapLanes_setV_setPLane (k : Group) (r q : Nat) (f : Nat → W32) (h : Nat → Bool) (lanes : List Nat) :
    mapLanes k lanes (fun k' l => setPLane (setV k' r l (f l)) q l (h l)) =
      { mapLanes k lanes (fun k' l => setV k' r l (f l)) with p := (mapLanes k lanes fun k' l => setPLane k' q l (h l)).p } := by
  unfold mapLanes
  induction lanes using List.reverseRecOn with
  | nil => rfl
  | append_singleton lanes l ih =>
    simp only [List.foldl_append, List.foldl_cons, List.foldl_nil, ih]
    unfold setPLane setP getP
    split <;> rfl

/-- The group's record after SFX: each executing lane has the result of the micro-program in VD. -/
def sfxLanes (s : State) (k : Group) (w : W64) (b : Nat) : Group :=
  mapLanes k (lanesOf (guardLanes k w)) fun k' l =>
    setV k' (fVD w) l (sfuRun s b (activeBank s b) (ssCompat s b) (ibits w 37 30) (getV k (fVA w) l))

/-- What TLU gives a lane: the table's word and whether there is one (R186). -/
def tluResult (s : State) (k : Group) (w : W64) (b l : Nat) : W32 × Bool :=
  tluLane s b (activeBank s b) (ibits w 37 34) (bitN w.toNat 33) (getV k (fVA w) l)

/-- The lane registers and the predicates after TLU, each as if it were written alone. -/
def tluLanes (s : State) (k : Group) (w : W64) (b : Nat) : Group :=
  { mapLanes k (lanesOf (guardLanes k w)) (fun k' l => setV k' (fVD w) l (tluResult s k w b l).1) with
    p := (mapLanes k (lanesOf (guardLanes k w)) fun k' l => setPLane k' (ibits w 32 30) l (tluResult s k w b l).2).p }

section
variable (s : State) (k : Group) (w : W64) (b : Nat)

theorem sfxLanes_frame : sfxLanes s k w b = { k with v := (sfxLanes s k w b).v } :=
  mapLanes_setV_eq k (fVD w) _ _ _ fun _ _ _ => rfl

theorem tluLanes_frame : tluLanes s k w b = { k with v := (tluLanes s k w b).v, p := (tluLanes s k w b).p } := by
  unfold tluLanes
  rw [mapLanes_setV_eq k (fVD w) _ _ _ fun _ _ _ => rfl]

end

section
variable {s : State} {c g : Nat} {w : W64} {bad : State → Nat → Nat → Bool} {lane : State → Nat → Nat → Bool → Group → Group → Nat → Group}
  (hr : ready s c g w) (h0 : ibits w 29 0 = 0) (hg : guardLanes (group s c g) w ≠ 0) (hvd : inAlloc (group s c g) (fVD w) 1 = true)
  (hva : inAlloc (group s c g) (fVA w) 1 = true) (hbusy : sfuBusy s c = false)
include hr h0 hg hvd hva hbusy

/-- An invocation of the free unit on an entry or table that is not empty writes the executing lanes. -/
theorem run_sfuIssue {ok : Bool} (hok : ok = true) (hbad : bad s (blockOfCell s c) (activeBank s (blockOfCell s c)) = false) :
    run ok s (sfuIssue c g w bad lane) = .next (pmc (setGroup s c g (advanced (mapLanes (group s c g) (lanesOf (guardLanes (group s c g) w))
      (lane s (blockOfCell s c) (activeBank s (blockOfCell s c)) (ssCompat s (blockOfCell s c)) (group s c g))))) c 2 1) :=
  run_written hok hr (by simp only [hbusy, h0, hvd, hva, hbad, if_neg hg, ne_eq, not_true_eq_false, Bool.and_self, Bool.not_true, Bool.false_eq_true, if_false])

theorem exec_sfx (hop : opc w = 0xB0) (hentry : entryEmpty s (blockOfCell s c) (activeBank s (blockOfCell s c)) (ibits w 37 30) = false) :
    exec (.sfx c g w) s = .next (pmc (setGroup s c g (advanced (sfxLanes s (group s c g) w (blockOfCell s c)))) c 2 1) :=
  run_sfuIssue (bad := fun s b bank => entryEmpty s b bank (ibits w 37 30)) (lane := fun s b bank compat old k l =>
    setV k (fVD w) l (sfuRun s b bank compat (ibits w 37 30) (getV old (fVA w) l))) hr h0 hg hvd hva hbusy (beq_iff_eq.2 hop) hentry

theorem exec_tlu (hop : opc w = 0xB1) (htable : (tableOf s (blockOfCell s c) (activeBank s (blockOfCell s c)) (ibits w 37 34)).isSome = true) :
    exec (.tlu c g w) s = .next (pmc (setGroup s c g (advanced (tluLanes s (group s c g) w (blockOfCell s c)))) c 2 1) := by
  have htable' : (tableOf s (blockOfCell s c) (activeBank s (blockOfCell s c)) (ibits w 37 34)).isNone = false := by
    rw [← Option.not_isSome, htable]
    rfl
  rw [tluLanes, ← mapLanes_setV_setPLane]
  exact run_sfuIssue (bad := fun s b bank => (tableOf s b bank (ibits w 37 34)).isNone) (lane := fun s b bank _ old k l =>
    setPLane (setV k (fVD w) l (tluLane s b bank (ibits w 37 34) (bitN w.toNat 33) (getV old (fVA w) l)).1) (ibits w 32 30) l
      (tluLane s b bank (ibits w 37 34) (bitN w.toNat 33) (getV old (fVA w) l)).2) hr h0 hg hvd hva hbusy (beq_iff_eq.2 hop) htable'

end

/-- Settles O18: the executing lanes write VD with the result of the entry or table, and TLU its PD bit beside it. -/
theorem specialFunctionLanes : Obligations.SpecialFunctionLanes := by
  rintro s c g w _ _ hr h0 hg hvd hva rfl rfl hbusy
  refine ⟨fun hop hentry => ⟨_, exec_sfx hr h0 hg hvd hva hbusy hop hentry, ?_, fun r l hl => ?_⟩,
    fun hop htable => ⟨_, exec_tlu hr h0 hg hvd hva hbusy hop htable, ?_, fun r l hl => ?_, fun r l hl => ?_⟩⟩
  · rw [sfxLanes_frame]
    rfl
  · exact getV_mapLanes_mask _ _ (fun _ _ => rfl) r hl
  · rw [tluLanes_frame]
    rfl
  · exact getV_mapLanes_mask _ _ (fun _ _ => rfl) r hl
  · exact getP_mapLanes_mask _ _ (fun _ _ => rfl) r hl

end Sys2Proof.Proofs
end

section
/-! The record of ROWSTAT: its 64 bytes, and what its operations keep of them (O19: R195 to R198, R204). -/
namespace Sys2Proof.Proofs

open Sys2Proof.Machine Sys2Proof.Laws

/-! ## Sixty-four bytes of local memory -/

theorem ofBytes_concat (l : List Byte) (x : Byte) : ofBytes (l ++ [x]) = ofBytes l + 256 ^ l.length * x.toNat := by
  induction l with
  | nil => simp [ofBytes]
  | cons y l ih =>
    rw [List.cons_append, ofBytes, ofBytes, ih, List.length_cons, Nat.pow_succ]
    ring

/-- The bytes of local memory from an address on, as the number that a read gives. -/
theorem ofBytes_lm (k : Cell) (a n : Nat) : ofBytes ((List.range n).map fun i => mget 0 k.lm (a + i)) = lmValue k a n := by
  induction n with
  | zero => rfl
  | succ n ih =>
    rw [List.range_succ, List.map_append, List.map_cons, List.map_nil, ofBytes_concat, ih, lmValue, lmValue, packN_succ, List.length_map, List.length_range,
      Nat.mod_eq_of_lt (BitVec.isLt _), Nat.pow_mul, Nat.add_comm]

/-- Local memory that holds the bytes of a number reads as the number. -/
theorem lmValue_of_bytes {k : Cell} {a v : Nat} {n : Nat} (h : ∀ i, i < n → mget 0 k.lm (a + i) = byteOf v i) (hv : v < 2 ^ (8 * n)) :
    lmValue k a n = v := by
  rw [lmValue, packN_congr 8 (h := fun i => v >>> (8 * i)), packN_shiftRight, Nat.mod_eq_of_lt hv]
  intro i hi
  rw [h i hi, byteOf, BitVec.toNat_ofNat, Nat.mod_mod]

/-- The record at an address. -/
def recordAt (k : Cell) (a : Nat) : Stat := statOf (ofBytes ((List.range 64).map fun i => mget 0 k.lm (a + i)))

theorem recordAt_eq (k : Cell) (a : Nat) : recordAt k a = statOf (lmValue k a 64) := by rw [recordAt, ofBytes_lm]

/-! ## Fields -/

/-- A number cut to its low bits is what they say as a two's-complement number. -/
theorem wrapN_signed (n v : Nat) : wrapN n (signed n v) = v % 2 ^ n := by
  have hpos : (0 : Int) < (2 ^ n : Nat) := by exact_mod_cast Nat.two_pow_pos n
  have hlt : ((v % 2 ^ n : Nat) : Int) < (2 ^ n : Nat) := by exact_mod_cast Nat.mod_lt v (Nat.two_pow_pos n)
  unfold wrapN signed
  dsimp only
  split
  · rw [Int.emod_eq_of_lt (Int.natCast_nonneg _) hlt, Int.toNat_natCast]
  · rw [Int.sub_emod_right, Int.emod_eq_of_lt (Int.natCast_nonneg _) hlt, Int.toNat_natCast]

/-- A record whose fields fit the places that R195 gives them. -/
structure Fits (r : Stat) : Prop where
  n : r.n < 2 ^ 32
  flags : r.flags < 2 ^ 8
  s2 : stCompat r = true → r.s2 < 2 ^ 32

/-- What the bytes of a record keep of its first sum. -/
def sumBits (r : Stat) : Nat := if stCompat r then wrapN 32 r.s1 else wrapN 96 r.s1

theorem sumBits_lt (r : Stat) : sumBits r < 2 ^ (if stCompat r then 32 else 96) := by
  unfold sumBits
  split
  · exact wrapN_lt 32 _
  · exact wrapN_lt 96 _

/-- The native form's place holds the first sum of either form. -/
theorem sumBits_lt_native (r : Stat) : sumBits r < 2 ^ 96 :=
  (sumBits_lt r).trans_le (Nat.pow_le_pow_right (by decide) (by split <;> decide))

theorem statBits_eq (r : Stat) :
    statBits r = r.n + wrapN 16 r.e * 2 ^ 32 + r.flags * 2 ^ 48 + sumBits r * 2 ^ 64 + r.s2 % 2 ^ 192 * 2 ^ 160 := by
  have hbits : statBits r = r.n + wrapN 16 r.e <<< 32 + r.flags <<< 48 + sumBits r <<< 64 + (r.s2 % 2 ^ 192) <<< 160 := rfl
  rw [hbits, Nat.shiftLeft_eq, Nat.shiftLeft_eq, Nat.shiftLeft_eq, Nat.shiftLeft_eq]

/-- A record as it is read again: what its places hold of its fields. -/
def reread (r : Stat) : Stat :=
  { n := r.n, e := signed 16 (wrapN 16 r.e), flags := r.flags, s1 := if stCompat r then (sumBits r : Int) else signed 96 (sumBits r), s2 := r.s2 % 2 ^ 192 }

/-- Reading keeps what the bytes hold. -/
theorem statBits_reread (r : Stat) : statBits (reread r) = statBits r := by
  have he : wrapN 16 (signed 16 (wrapN 16 r.e)) = wrapN 16 r.e := by rw [wrapN_signed, Nat.mod_eq_of_lt (wrapN_lt ..)]
  have hsum : sumBits (reread r) = sumBits r := by
    have hlt := sumBits_lt r
    have hcompat : stCompat (reread r) = stCompat r := rfl
    rw [sumBits, hcompat, reread]
    dsimp only
    split
    · rename_i hc
      rw [if_pos hc] at hlt
      rw [wrapN, Int.emod_eq_of_lt (Int.natCast_nonneg _) (by exact_mod_cast hlt), Int.toNat_natCast]
    · rename_i hc
      rw [if_neg hc] at hlt
      rw [wrapN_signed, Nat.mod_eq_of_lt hlt]
  rw [statBits_eq, statBits_eq, hsum]
  simp only [reread, he, Nat.mod_mod]

section
variable {r : Stat} (h : Fits r)
include h

theorem statBits_lt : statBits r < 2 ^ (8 * 64) := by
  obtain ⟨hn, hflags, -⟩ := h
  have he := wrapN_lt 16 r.e
  have hsum := sumBits_lt_native r
  rw [show 8 * 64 = 256 + 256 from rfl, Nat.pow_add, statBits_eq]
  omega

/-- The fields that both forms have in one place. -/
theorem bitsN_statBits : bitsN (statBits r) 31 0 = r.n ∧ bitsN (statBits r) 47 32 = wrapN 16 r.e ∧ bitsN (statBits r) 55 48 = r.flags := by
  obtain ⟨hn, hflags, -⟩ := h
  have he := wrapN_lt 16 r.e
  have hsum := sumBits_lt_native r
  have hbits := statBits_eq r
  simp only [bitsN, Nat.shiftRight_eq_div_pow]
  omega

/-- The sums of a record of the compatibility form. -/
theorem bitsN_statBits_compat (hc : stCompat r = true) :
    bitsN (statBits r) 95 64 = sumBits r ∧ bitsN (statBits r) 191 160 = r.s2 % 2 ^ 192 := by
  obtain ⟨hn, hflags, hs2⟩ := h
  have he := wrapN_lt 16 r.e
  have hsum := sumBits_lt r
  rw [if_pos hc] at hsum
  have hs2 := hs2 hc
  have hbits := statBits_eq r
  simp only [bitsN, Nat.shiftRight_eq_div_pow]
  omega

/-- The sums in the places of the native form. -/
theorem bitsN_statBits_native : bitsN (statBits r) 159 64 = sumBits r ∧ bitsN (statBits r) 351 160 = r.s2 % 2 ^ 192 := by
  obtain ⟨hn, hflags, -⟩ := h
  have he := wrapN_lt 16 r.e
  have hsum := sumBits_lt_native r
  have hbits := statBits_eq r
  simp only [bitsN, Nat.shiftRight_eq_div_pow]
  omega

theorem statOf_statBits : statOf (statBits r) = reread r := by
  obtain ⟨hn, he, hflags⟩ := bitsN_statBits h
  have hcompat : bitN r.flags 7 = stCompat r := rfl
  rw [statOf, hn, he, hflags, hcompat, reread]
  split
  · rename_i hc
    obtain ⟨hs1, hs2⟩ := bitsN_statBits_compat h hc
    rw [hs1, hs2]
  · obtain ⟨hs1, hs2⟩ := bitsN_statBits_native h
    rw [hs1, hs2]

end

/-- A record that is read from memory fits. -/
theorem fits_statOf (v : Nat) : Fits (statOf v) := by
  have hbits : ∀ hi lo, bitsN v hi lo < 2 ^ (hi + 1 - lo) := fun hi lo => Nat.mod_lt _ (Nat.two_pow_pos _)
  unfold statOf
  dsimp only
  split
  · exact ⟨hbits 31 0, hbits 55 48, fun _ => hbits 191 160⟩
  · rename_i hc
    exact ⟨hbits 31 0, hbits 55 48, fun h => absurd h hc⟩

/-- The record that INIT writes fits. -/
theorem fits_empty (e : Int) : Fits { e := e } := ⟨Nat.two_pow_pos 32, Nat.two_pow_pos 8, fun _ => Nat.two_pow_pos 32⟩

/-- The empty record of an exponent reads as it was written (R196). -/
theorem reread_empty (x : Nat) : reread { e := signed 16 (x % 65536) } = { e := signed 16 (x % 65536) } := by
  have he : signed 16 (wrapN 16 (signed 16 (x % 65536))) = signed 16 (x % 65536) := by
    rw [wrapN_signed]
    exact congrArg (signed 16) (Nat.mod_mod ..)
  have hsum : sumBits { e := signed 16 (x % 65536) } = 0 := by simp [sumBits, stCompat, bitN, wrapN]
  rw [reread, he, hsum, show signed 96 0 = 0 from rfl]
  simp

/-! ## The operations on a record -/

/-- From `r` to `t` a record keeps its COMPAT bit and its places. -/
structure Kept (r t : Stat) : Prop where
  fits : Fits t
  compat : stCompat t = stCompat r

theorem Kept.refl {r : Stat} (h : Fits r) : Kept r r := ⟨h, rfl⟩

theorem Kept.trans {r t u : Stat} (h : Kept r t) (k : Kept t u) : Kept r u := ⟨k.fits, k.compat.trans h.compat⟩

theorem specJoin_lt {a b : Nat} (ha : a < 4) (hb : b < 4) : specJoin a b < 4 := by
  unfold specJoin
  split_ifs <;> omega

theorem specOf_lt (v : Val) : specOf v < 4 := by
  cases v with
  | inf n => cases n <;> decide
  | _ => simp [specOf]

theorem statSpec_lt (r : Stat) : statSpec r < 4 := Nat.mod_lt _ (by decide)

section
variable {r : Stat} (h : Fits r)
include h

/-- Flags of R195 below COMPAT are raised. -/
theorem kept_flags {m : Nat} (hm : m < 2 ^ 7) : Kept r { r with flags := r.flags ||| m } := by
  have hcompat : stCompat { r with flags := r.flags ||| m } = stCompat r := by
    simp only [stCompat, bitN_eq_testBit, Nat.testBit_or, Nat.testBit_lt_two_pow hm, Bool.or_false]
  exact ⟨⟨h.n, Nat.or_lt_two_pow h.flags (by omega), fun hc => h.s2 (hcompat ▸ hc)⟩, hcompat⟩

theorem kept_statCount (m : Nat) : Kept r (statCount r m) := by
  unfold statCount
  split
  · exact ⟨⟨by assumption, h.flags, h.s2⟩, rfl⟩
  · exact kept_flags h (by decide)

theorem kept_joinSpec {x : Nat} (hx : x < 4) : Kept r (joinSpec r x) := by
  have hspec := specJoin_lt (statSpec_lt r) hx
  have hflags := h.flags
  have hcompat : stCompat (joinSpec r x) = stCompat r := by
    have : (r.flags / 4 * 4 + specJoin (statSpec r) x) / 2 ^ 7 % 2 = r.flags / 2 ^ 7 % 2 := by omega
    simp only [stCompat, joinSpec, bitN, Nat.shiftRight_eq_div_pow, this]
  exact ⟨⟨h.n, by dsimp only [joinSpec]; omega, fun hc => h.s2 (hcompat ▸ hc)⟩, hcompat⟩

/-- Other sums in a record of the native form. -/
theorem kept_sums (hc : stCompat r = false) (s1 : Int) (s2 : Nat) : Kept r { r with s1 := s1, s2 := s2 } :=
  ⟨⟨h.n, h.flags, fun ht => absurd (hc.symm.trans ht) Bool.false_ne_true⟩, rfl⟩

theorem kept_accNative (hc : stCompat r = false) (v : Val) : Kept r (accNative r v) := by
  unfold accNative
  split
  · exact kept_joinSpec h (specOf_lt v)
  · split
    · exact kept_flags h (by decide)
    · have hcount := kept_statCount h 1
      exact hcount.trans (kept_sums hcount.fits (hcount.compat.trans hc) _ _)

/-- ACC of the native form (R197). -/
theorem kept_accumulate (hc : stCompat r = false) (xs : List Val) : Kept r (xs.foldl accNative r) := by
  induction xs generalizing r with
  | nil => exact .refl h
  | cons v xs ih =>
    have hacc := kept_accNative h hc v
    exact hacc.trans (ih hacc.fits (hacc.compat.trans hc))

/-- CMB (R198). -/
theorem kept_statJoin (q : Stat) : Kept r (statJoin r q) := by
  have hspec := kept_joinSpec h (statSpec_lt q)
  have hflags := hspec.trans (kept_flags hspec.fits (m := q.flags &&& (rfNOVF ||| rfRANGE)) (Nat.and_lt_two_pow _ (by decide)))
  have hcount := hflags.trans (kept_statCount hflags.fits q.n)
  unfold statJoin
  dsimp only
  split
  · exact hcount.trans (kept_flags hcount.fits (by decide))
  · split
    · exact ⟨⟨hcount.fits.n, hcount.fits.flags, fun _ => BitVec.isLt _⟩, hcount.compat⟩
    · rename_i hc
      exact hcount.trans (kept_sums hcount.fits (hcount.compat.trans (Bool.not_eq_true _ ▸ hc)) _ _)

end

end Sys2Proof.Proofs
end

section
/-! ROWSTAT on a record in local memory (O19: R194 to R199). -/
namespace Sys2Proof.Proofs

open Sys2Proof.Machine Sys2Proof.Laws

/-! ## A record in local memory -/

/-- A whole word is written as a store of eight bytes writes it. -/
theorem lmPut_eq_lmStore (s : State) (c w v : Nat) : lmPut s c w (BitVec.ofNat 64 v) false = lmStore s c (8 * w) 8 v := by
  rw [lmStore, if_pos (le_refl 8), Nat.mul_mod_right, Nat.mul_div_cancel_left w (by decide)]
  exact (if_pos rfl).symm

/-- The bytes after a number is stored word by word. -/
theorem storedByte_words (a v n : Nat) (old : Byte) (x : Nat) :
    storedByte (fun i => a + 8 * i) (fun i => v >>> (64 * i)) 8 (List.range n) old x = if a ≤ x ∧ x < a + 8 * n then byteOf v (x - a) else old := by
  induction n with
  | zero => rw [if_neg (by omega)]; rfl
  | succ n ih =>
    rw [List.range_succ, storedByte_append, ih]
    by_cases hx : a + 8 * n ≤ x ∧ x < a + 8 * n + 8
    · rw [if_pos hx, if_pos (by omega), show 64 * n = 8 * (8 * n) by omega, byteOf_shiftRight]
      congr 1
      omega
    · rw [if_neg hx]
      exact if_congr (by omega) rfl rfl

section
variable {s : State} {c g a : Nat} (h : Clean (cell s c))
include h

/-- A record is read as it stands. -/
theorem getStat_clean : getStat s c g a = (s, .inr (recordAt (cell s c) a)) := by
  have hread := lmRead_clean h a 64
  rw [recordAt_eq]
  unfold getStat
  generalize lmRead s c a 64 = z, lmValue (cell s c) a 64 = v at hread ⊢
  subst hread
  rfl

/-- Writing a record at an aligned address writes its 64 bytes. -/
theorem lmStored_putStat (harm : flag s .cell c f_CELL_FLIP_CTRL_ARM = false) (ha : a % 64 = 0) (r : Stat) :
    ∃ lm, LmStored s (putStat s c a r) c lm ∧
      ∀ x, mget 0 lm x = if a ≤ x ∧ x < a + 64 then byteOf (statBits r) (x - a) else mget 0 (cell s c).lm x := by
  obtain ⟨lm, hstored, hlm⟩ := lmStored_foldl (addr := fun i => a + 8 * i) (val := fun i => statBits r >>> (64 * i)) harm h (n := 8) (by decide)
    (List.range 8) fun i _ => by omega
  refine ⟨lm, ?_, fun x => (hlm x).trans (storedByte_words a _ 8 _ x)⟩
  have hword : ∀ i, 8 * (a / 8 + i) = a + 8 * i := fun i => by omega
  simpa only [putStat, lmPut_eq_lmStore, hword] using hstored

end

/-- What a sub-operation that has written the record `r` at `a` leaves: its bytes, the group at its next instruction, and all else of local
memory and HBM as it was. -/
structure RecordWritten (s t : State) (c g a : Nat) (r : Stat) : Prop where
  record : recordAt (cell t c) a = reread r
  group : group t c g = advanced (Machine.group s c g)
  rest : ∀ x, x < a ∨ a + 64 ≤ x → mget 0 (cell t c).lm x = mget 0 (cell s c).lm x
  hbm : t.hbm = s.hbm

/-- The bytes of a record that was written read as that record's. -/
theorem RecordWritten.bits {s t : State} {c g a : Nat} {r : Stat} (h : RecordWritten s t c g a r) : statBits (recordAt (cell t c) a) = statBits r := by
  rw [h.record, statBits_reread]

theorem lm_nextPc (s : State) (c g : Nat) : (cell (nextPc s c g) c).lm = (cell s c).lm := by
  rw [nextPc_eq, setGroup, cell_setCell_self]

theorem recordWritten {s : State} {c g a : Nat} {r : Stat} (hr : Fits r) (h : Clean (cell s c)) (harm : flag s .cell c f_CELL_FLIP_CTRL_ARM = false)
    (ha : a % 64 = 0) : RecordWritten s (pmc (nextPc (putStat s c a r) c g) c 2 1) c g a r := by
  obtain ⟨lm, hstored, hlm⟩ := lmStored_putStat h harm ha r
  rw [hstored.nextPc_eq]
  have hcell : (cell (pmc (nextPc (setCell s c { cell s c with lm := lm }) c g) c 2 1) c).lm = lm := by
    rw [cell_of_cells (pmc_cells ..), lm_nextPc, cell_setCell_self]
  refine ⟨?_, ?_, fun x hx => ?_, pmc_hbm ..⟩
  · rw [recordAt_eq, lmValue_of_bytes (v := statBits r) (fun i hi => ?_) (statBits_lt hr), statOf_statBits hr]
    rw [hcell, hlm, if_pos (by omega), Nat.add_sub_cancel_left]
  · rw [pmc_group, nextPc_eq, group_setGroup_self]
    simp [Machine.group]
  · rw [hcell, hlm, if_neg (by omega)]

/-! ## The three registers of FIN (R199) -/

/-- The group's record once each lane of `lanes` has three values in the registers from `r` on. -/
def finLanes (k : Group) (lanes : List Nat) (r : Nat) (x : W32 × W32 × W32) : Group :=
  mapLanes k lanes fun k l => setV (setV (setV k r l x.1) (r + 1) l x.2.1) (r + 2) l x.2.2

theorem finLanes_concat (k : Group) (lanes : List Nat) (l r : Nat) (x : W32 × W32 × W32) : finLanes k (lanes ++ [l]) r x =
    setV (setV (setV (finLanes k lanes r x) r l x.1) (r + 1) l x.2.1) (r + 2) l x.2.2 :=
  List.foldl_append

theorem finLanes_frame (k : Group) (lanes : List Nat) (r : Nat) (x : W32 × W32 × W32) :
    finLanes k lanes r x = { k with v := (finLanes k lanes r x).v } := by
  induction lanes using List.reverseRecOn with
  | nil => rfl
  | append_singleton lanes l ih =>
    rw [finLanes_concat, ih]
    rfl

/-- Each lane has the three values, and all else stays. -/
theorem getV_finLanes (k : Group) {lanes : List Nat} (hlt : ∀ l ∈ lanes, l < 32) (r : Nat) (x : W32 × W32 × W32) (r' : Nat) {l' : Nat} (hl' : l' < 32) :
    getV (finLanes k lanes r x) r' l' =
      if l' ∈ lanes ∧ r' = r then x.1 else if l' ∈ lanes ∧ r' = r + 1 then x.2.1 else if l' ∈ lanes ∧ r' = r + 2 then x.2.2 else getV k r' l' := by
  induction lanes using List.reverseRecOn with
  | nil => simp [finLanes, mapLanes]
  | append_singleton lanes l ih =>
    have hl : l < 32 := hlt l (by simp)
    rw [finLanes_concat, getV_setV _ _ _ _ _ _ hl hl', getV_setV _ _ _ _ _ _ hl hl', getV_setV _ _ _ _ _ _ hl hl',
      ih fun x hx => hlt x (List.mem_append_left _ hx)]
    simp only [List.mem_append, List.mem_singleton]
    grind

/-! ## The sub-operations (R194) -/

theorem statAddr_aligned (k : Group) {a : Nat} (ha : a % 64 = 0) (hfit : a + 64 ≤ 0x80000) : statAddr k a = none := by
  rw [statAddr, if_neg (not_not.2 ha), if_neg (not_lt.2 hfit)]

section
variable {s : State} {c g : Nat} {w : W64} {eff : State → State} (hr : ready s c g w) (h0 : ibits w 28 0 = 0)
  (hg : guardLanes (group s c g) w ≠ 0) (hbusy : sfuBusy s c = false)
include hr h0 hg hbusy

/-- A sub-operation of the free unit whose registers are allocated has its effect. -/
theorem run_rowstat {ok : Bool} (hok : ok = true) (hsub : ibits w 51 49 < 5)
    (hone : ibits w 51 49 = 1 ∨ ibits w 51 49 = 2 → inAlloc (group s c g) (ibits w 48 42) 1 = true)
    (hthree : ibits w 51 49 = 4 → inAlloc (group s c g) (ibits w 48 42) 3 = true) (hpart : (eff s).part = s.part) (hpending : (eff s).pending = s.pending) :
    run ok s (rowstat c g w eff) = .next (pmc (eff s) c 2 1) := by
  refine run_issue hok hr ?_ hpart hpending
  have hregs : ((ibits w 51 49 == 1 || ibits w 51 49 == 2) && !inAlloc (group s c g) (ibits w 48 42) 1 ||
      ibits w 51 49 == 4 && !inAlloc (group s c g) (ibits w 48 42) 3) = false := by
    rw [← Bool.not_eq_true]
    simp only [Bool.or_eq_true, Bool.and_eq_true, Bool.not_eq_true', beq_iff_eq, ← Bool.not_eq_true]
    tauto
  simp only [hbusy, h0, hregs, Nat.not_le.2 hsub, groupWide_eq _ hg, Bool.false_eq_true, ne_eq, not_true_eq_false, decide_false, Bool.or_self, if_false]

/-- A sub-operation that writes registers of its group and goes on. -/
theorem run_rowstat_retire {ok : Bool} {k : Group} (hok : ok = true) (hsub : ibits w 51 49 < 5)
    (hone : ibits w 51 49 = 1 ∨ ibits w 51 49 = 2 → inAlloc (group s c g) (ibits w 48 42) 1 = true)
    (hthree : ibits w 51 49 = 4 → inAlloc (group s c g) (ibits w 48 42) 3 = true) (heff : eff s = retire s c g k) :
    run ok s (rowstat c g w eff) = .next (pmc (setGroup s c g (advanced k)) c 2 1) := by
  rw [retire_eq] at heff
  rw [run_rowstat hr h0 hg hbusy hok hsub hone hthree (by rw [heff]; rfl) (by rw [heff]; rfl), heff]
  rfl

/-- A sub-operation that writes a record and goes on. -/
theorem run_record {ok : Bool} {a : Nat} {r : Stat} (hok : ok = true) (hsub : ibits w 51 49 < 4)
    (hone : ibits w 51 49 = 1 ∨ ibits w 51 49 = 2 → inAlloc (group s c g) (ibits w 48 42) 1 = true) (hf : Fits r) (hclean : Clean (cell s c))
    (harm : flag s .cell c f_CELL_FLIP_CTRL_ARM = false) (ha : a % 64 = 0) (heff : eff s = nextPc (putStat s c a r) c g) :
    ∃ t, run ok s (rowstat c g w eff) = .next t ∧ RecordWritten s t c g a r := by
  obtain ⟨lm, hstored, -⟩ := lmStored_putStat hclean harm ha r
  have hstate : eff s = nextPc (setCell s c { cell s c with lm := lm }) c g := heff.trans (hstored.nextPc_eq g)
  refine ⟨pmc (eff s) c 2 1, run_rowstat hr h0 hg hbusy hok (by omega) hone (by omega) ?_ ?_, heff ▸ recordWritten hf hclean harm ha⟩ <;>
    rw [hstate] <;> rfl

/-- A record of local memory that a sub-operation names: its place is aligned and within bounds, no word is poisoned or upset, no flip mask is armed. -/
structure Writable (s : State) (c a : Nat) : Prop where
  clean : Clean (cell s c)
  unarmed : flag s .cell c f_CELL_FLIP_CTRL_ARM = false
  aligned : a % 64 = 0
  fits : a + 64 ≤ 0x80000

variable (hop : opc w = 0xB2)
include hop

section
variable {a b : Nat} (hua : a = (getU (group s c g) (rsUR w)).toNat) (hsound : Writable s c a)
include hua hsound

theorem exec_rowstatInit (hsub : ibits w 51 49 = 0) (hcompat : ssCompat s (blockOfCell s c) = false) : ∃ t, exec (.rowstatInit c g w) s = .next t ∧
    RecordWritten s t c g a { e := signed 16 ((getU (group s c g) (rsUS w)).toNat % 65536) } := by
  obtain ⟨hclean, harm, ha, hfit⟩ := hsound
  refine run_record hr h0 hg hbusy (by simp [hop, hsub]) (by omega) (by omega) (fits_empty _) hclean harm ha ?_
  simp only [← hua, statAddr_aligned _ ha hfit, hcompat, Bool.false_eq_true, if_false]
  rfl

theorem exec_rowstatAcc (hsub : ibits w 51 49 = 2) (hv : inAlloc (group s c g) (ibits w 48 42) 1 = true)
    (hnative : stCompat (recordAt (cell s c) a) = false) : ∃ t, exec (.rowstatAcc c g w) s = .next t ∧
    RecordWritten s t c g a ((rowVals (group s c g) w).foldl accNative (recordAt (cell s c) a)) := by
  obtain ⟨hclean, harm, ha, hfit⟩ := hsound
  refine run_record hr h0 hg hbusy (by simp [hop, hsub]) (by omega) (fun _ => hv) (kept_accumulate (fits_statOf _) hnative _).fits hclean harm ha ?_
  simp only [← hua, statAddr_aligned _ ha hfit, getStat_clean hclean, hnative, Bool.false_eq_true, if_false]

theorem exec_rowstatCmb (hsub : ibits w 51 49 = 3) (hub : b = (getU (group s c g) (rsUS w)).toNat) (hb : b % 64 = 0) (hfitb : b + 64 ≤ 0x80000) :
    ∃ t, exec (.rowstatCmb c g w) s = .next t ∧ RecordWritten s t c g a (statJoin (recordAt (cell s c) a) (recordAt (cell s c) b)) := by
  obtain ⟨hclean, harm, ha, hfit⟩ := hsound
  refine run_record hr h0 hg hbusy (by simp [hop, hsub]) (by omega) (by omega) (kept_statJoin (fits_statOf _) _).fits hclean harm ha ?_
  simp only [← hua, ← hub, statAddr_aligned _ ha hfit, statAddr_aligned _ hb hfitb, getStat_clean hclean]
  rfl

/-- FIN gives its three values to the registers of every executing lane. -/
theorem exec_rowstatFin (hsub : ibits w 51 49 = 4) (hv : inAlloc (group s c g) (ibits w 48 42) 3 = true) :
    exec (.rowstatFin c g w) s = .next (pmc (setGroup s c g (advanced (finLanes (group s c g) (lanesOf (guardLanes (group s c g) w)) (ibits w 48 42)
      (statFin (recordAt (cell s c) a) ((getU (group s c g) (rsUS w)).setWidth 32))))) c 2 1) := by
  obtain ⟨hclean, -, ha, hfit⟩ := hsound
  refine run_rowstat_retire hr h0 hg hbusy (by simp [hop, hsub]) (by omega) (by omega) (fun _ => hv) ?_
  simp only [← hua, statAddr_aligned _ ha hfit, getStat_clean hclean]
  rfl

end

/-- MAXE gives UR the greatest exponent (R196). -/
theorem exec_rowstatMaxe (hsub : ibits w 51 49 = 1) (hv : inAlloc (group s c g) (ibits w 48 42) 1 = true) :
    exec (.rowstatMaxe c g w) s = .next (pmc (setGroup s c g (advanced (setU (group s c g) (rsUR w) (BitVec.ofNat 64 (wrapN 16
      (((rowVals (group s c g) w).filter fun v => !isSpecial v && !isZero v).foldl (fun m v => max m (vlog2 v))
        (signed 16 ((getU (group s c g) (rsUR w)).toNat % 65536)))))))) c 2 1) :=
  run_rowstat_retire hr h0 hg hbusy (by simp [hop, hsub]) (by omega) (fun _ => hv) (by omega) rfl

end

/-- Settles O19: each sub-operation by the record that it writes or the registers that it gives. -/
theorem rowstatRecords : Obligations.RowstatRecords := by
  intro s c g w hr hop h0 hg hbusy hpois hsyn harm
  have hsound : ∀ {a}, a % 64 = 0 → a + 64 ≤ 0x80000 → Writable s c a := fun ha hfit => ⟨⟨hpois, hsyn⟩, harm, ha, hfit⟩
  refine ⟨fun hsub ha hfit hcompat => ?_, fun hsub hv => exec_rowstatMaxe hr h0 hg hbusy hop hsub hv, fun hsub hv ha hfit hnative => ?_,
    fun b hsub hub ha hfit hb hfitb => ?_, fun hsub hv ha hfit => ?_⟩
  · obtain ⟨t, hrun, ht⟩ := exec_rowstatInit hr h0 hg hbusy hop rfl (hsound ha hfit) hsub hcompat
    exact ⟨t, hrun, ht.record.trans (reread_empty _), ht.group, ht.rest, ht.hbm⟩
  · obtain ⟨t, hrun, ht⟩ := exec_rowstatAcc hr h0 hg hbusy hop rfl (hsound ha hfit) hsub hv hnative
    exact ⟨t, hrun, ht.bits, ht.group, ht.rest, ht.hbm⟩
  · obtain ⟨t, hrun, ht⟩ := exec_rowstatCmb hr h0 hg hbusy hop rfl (hsound ha hfit) hsub hub hb hfitb
    exact ⟨t, hrun, ht.bits, ht.group, ht.rest, ht.hbm⟩
  · refine ⟨_, exec_rowstatFin hr h0 hg hbusy hop rfl (hsound ha hfit) hsub hv, ?_, fun r l hl => ?_⟩
    · rw [finLanes_frame]
      rfl
    · rw [getV_advanced, getV_finLanes _ lt_of_mem_lanesOf _ _ _ hl]
      simp only [mem_lanesOf, hl, true_and]
      rfl

end Sys2Proof.Proofs
end

section
/-! Loads of special-function banks and step words (O25: R188, R189, R192). -/
namespace Sys2Proof.Proofs

open Sys2Proof.Machine Sys2Proof.Laws

/-! ## SF_LOAD_GO -/

/-- Latched invocations are those of the block's cells. -/
theorem usersOf_congr {s t : State} (hrepair : t.repair = s.repair) (hcells : t.cells = s.cells) (b bank : Nat) :
    usersOf t b bank = usersOf s b bank := by
  simp only [usersOf, latchedOps, cellsIn_congr hrepair, cell_of_cells hcells]

/-- The load that SF_LOAD_GO starts (R188, R192). -/
def startedLoad (s : State) (b target lines off : Nat) : SfLoad :=
  { target := target, src := sfSource s b, offset := off, lines := lines + 1, hold := (block s b).prev == some target && usersOf s b target != 0 }

/-- The operands of a load as SF_LOAD_CTRL shows them. -/
def loadCtrl (s : State) (b target lines off : Nat) : State :=
  setF (setF (setF s .block b f_BLOCK_SF_LOAD_CTRL_TARGET target) .block b f_BLOCK_SF_LOAD_CTRL_LINES lines) .block b f_BLOCK_SF_LOAD_CTRL_OFFSET off

theorem fld_loadCtrl (s : State) (b target lines off : Nat) {f : Fld} (h : f.off ≠ 0x20C) :
    fld (loadCtrl s b target lines off) .block b f = fld s .block b f :=
  (fld_setF_off _ .block b f_BLOCK_SF_LOAD_CTRL_OFFSET f off h).trans
    ((fld_setF_off _ .block b f_BLOCK_SF_LOAD_CTRL_LINES f lines h).trans (fld_setF_off s .block b f_BLOCK_SF_LOAD_CTRL_TARGET f target h))

/-- The source address is that of SF_LOAD_SRC, which SF_LOAD_CTRL does not touch. -/
theorem sfSource_loadCtrl (s : State) (b target lines off : Nat) : sfSource (loadCtrl s b target lines off) b = sfSource s b := by
  rw [sfSource, fld_loadCtrl s b target lines off (by decide), fld_loadCtrl s b target lines off (by decide), sfSource]

theorem sfGo_admitted {s : State} {secure : Bool} {b target lines off : Nat} (h : loadRefused s b target lines off = false) :
    sfGo secure b target lines off s =
      setBlock (loadCtrl s b target lines off) b { block s b with load := some (startedLoad s b target lines off) } := by
  have husers := usersOf_congr (s := s) (t := loadCtrl s b target lines off) rfl rfl b target
  have hblock : block (loadCtrl s b target lines off) b = block s b := rfl
  rw [startedLoad, ← husers, ← sfSource_loadCtrl s b target lines off, ← hblock, sfGo, if_neg (by rw [h]; exact Bool.false_ne_true)]
  rfl

theorem sfGo_refused {s : State} {secure : Bool} {b target lines off : Nat} (h : loadRefused s b target lines off = true) :
    sfGo secure b target lines off s = busError s (bar0Of .block b o_BLOCK_SF_LOAD_CTRL) true (hostSecure s secure) beREFUSED := if_pos h

theorem busError_blocks (s : State) (off : Nat) (w sec : Bool) (c : Nat) : (busError s off w sec c).blocks = s.blocks := by
  rw [pagesOnly_busError s off w sec c]

/-- SF_LOAD_GO of a page that it reaches. -/
theorem exec_sfLoadGo {s : State} {secure : Bool} {b target lines off : Nat} (hr : reaches s secure .block b) (hth : thawed s = true) (hb : b < 192)
    (htarget : target < 4) (hlines : lines < 256) (hoff : off < 256) :
    exec (.sfLoadGo secure b target lines off) s = done s (sfGo secure b target lines off s) := by
  change execSfLoadGo secure b target lines off s = _
  rw [execSfLoadGo, run_eq (by simp [hb, hth, htarget, hlines, hoff]) hr.1, hostCmd_eq _ _ hr]

/-! ## A line lands -/

/-- The words that a load targets: the step words, or those of its bank. -/
def targetWord (k : Block) (target x : Nat) : W32 := if target = 2 then mget 0 k.steps x else mget 0 k.banks (target * 8192 + x)

theorem targetWord_eq (k : Block) (target x : Nat) :
    targetWord k target x = mget 0 (if target = 2 then k.steps else k.banks) ((if target = 2 then 0 else target * 8192) + x) := by
  unfold targetWord
  split <;> simp

/-- A line changes the words of the target, and only its own among them. -/
theorem targetWord_sfWords (k : Block) (l : SfLoad) (d : Line) (n x : Nat) : targetWord (sfWords k l d n) l.target x =
    if 64 * (l.offset + l.next) ≤ x ∧ x < 64 * (l.offset + l.next) + n then
      BitVec.ofNat 32 (bitsN d.toNat (32 * (x - 64 * (l.offset + l.next)) + 31) (32 * (x - 64 * (l.offset + l.next))))
    else targetWord k l.target x := by
  induction n with
  | zero => rw [if_neg (by omega), sfWords]
  | succ n ih =>
    have hstep : targetWord (sfWords k l d (n + 1)) l.target x = if x = 64 * (l.offset + l.next) + n then
        BitVec.ofNat 32 (bitsN d.toNat (32 * n + 31) (32 * n)) else targetWord (sfWords k l d n) l.target x := by
      rw [sfWords]
      unfold targetWord
      by_cases ht : l.target = 2
      · simp only [if_pos ht, mget_mset]
      · simp only [if_neg ht, mget_mset, Nat.add_left_cancel_iff]
    rw [hstep, ih]
    by_cases hx : x = 64 * (l.offset + l.next) + n
    · subst hx
      rw [if_pos rfl, if_pos (by omega), Nat.add_sub_cancel_left]
    · rw [if_neg hx]
      exact if_congr (by omega) rfl rfl

/-- The block after a line of a load has landed: its words, and the load's next line or its end. -/
def landed (k : Block) (l : SfLoad) (d : Line) : Block :=
  if l.next + 1 < l.lines then { sfWords k l d 64 with load := some { l with next := l.next + 1, out := none } }
  else { setValid (sfWords k l d 64) l.target true with load := none }

/-- The words of the target after a line has landed: its own 64, and the others as they were. -/
theorem targetWord_landed (k : Block) (l : SfLoad) (d : Line) (x : Nat) : targetWord (landed k l d) l.target x =
    if 64 * (l.offset + l.next) ≤ x ∧ x < 64 * (l.offset + l.next) + 64 then
      BitVec.ofNat 32 (bitsN d.toNat (32 * (x - 64 * (l.offset + l.next)) + 31) (32 * (x - 64 * (l.offset + l.next))))
    else targetWord k l.target x := by
  have hwords : targetWord (landed k l d) l.target x = targetWord (sfWords k l d 64) l.target x := by
    unfold landed setValid
    split_ifs <;> rfl
  rw [hwords, targetWord_sfWords]

/-- A load that has lines left goes on with the next. -/
theorem load_landed {k : Block} {l : SfLoad} (d : Line) (h : l.next + 1 < l.lines) :
    (landed k l d).load = some { l with next := l.next + 1, out := none } := by
  rw [landed, if_pos h]

/-- The last line ends the load, and its bank is valid (R189). -/
theorem ended_landed {k : Block} {l : SfLoad} (d : Line) (h : ¬(l.next + 1 < l.lines)) : (landed k l d).load = none ∧
    (l.target = 0 → (landed k l d).invalid0 = false) ∧ (l.target = 1 → (landed k l d).invalid1 = false) := by
  rw [landed, if_neg h]
  refine ⟨rfl, fun ht => ?_, fun ht => ?_⟩ <;> rw [ht] <;> rfl

/-- A sound line lands; the last one raises bit 8. -/
theorem sfLand_sound (s : State) (b : Nat) (l : SfLoad) (d : Line) : sfLand s b l d false =
    if l.next + 1 < l.lines then setBlock s b (landed (block s b) l d) else raiseIrq (setBlock s b (landed (block s b) l d)) .block b 8 := by
  rw [sfLand, if_neg Bool.false_ne_true, landed]
  split_ifs <;> rfl

/-- The read of a load's next line: not secure, with label 0x70. -/
abbrev loaderRead (s : State) (b a : Nat) : Req :=
  { id := s.nextId, src := .block b, line := a / 256, op := .read allWords, label := 0x70, part := 0, ingress := false, wins := 0 }

/-- A line that HBM delivers sound lands. -/
theorem sfLine_sound {s s' : State} {b a : Nat} {l : SfLoad} {r : LineRead} (hload : (block s b).load = some l) (hhold : l.hold = false)
    (hout : l.out = none) (ha : a = (l.src + 256 * l.next) % 2 ^ 48) (hentry : masterEntry s 0x70 false a true false = (s, .hbm))
    (hread : readLineNow { s with nextId := s.nextId + 1 } (loaderRead s b a) = some (s', r))
    (hok : r.ok = true) (hdead : r.dead = false) (hpois : r.pois = 0) : sfLine b s = sfLand s' b l r.data false := by
  subst ha
  simp only [sfLine, hload, hhold, hout, Option.isSome_none, Bool.or_self, Bool.false_eq_true, if_false, hentry, newId, lineOf, hread, hok, hdead, hpois]
  rfl

/-! ## The end of a load -/

/-- IRQ_PENDING resets to 0 on every part. -/
theorem regReset_irqPending (p : Part) (k : PageKind) (i : Nat) : regReset p k i o_COMMON_IRQ_PENDING = 0 := by
  cases k <;> rfl

/-- The pending bits of a page do not depend on the part. -/
theorem irqPending_done (s t : State) (k : PageKind) (i : Nat) :
    reg { t with part := s.part, pending := s.pending } k i o_COMMON_IRQ_PENDING = reg t k i o_COMMON_IRQ_PENDING := by
  rw [reg, reg, regReset_irqPending, regReset_irqPending]
  rfl

/-- What a sound line leaves: the block with the line landed, HBM as the read left it, and after the last line bit 8. -/
theorem sfLand_leaves (s : State) (b : Nat) (l : SfLoad) (d : Line) : block (sfLand s b l d false) b = landed (block s b) l d ∧
    (sfLand s b l d false).hbm = s.hbm ∧
    (¬(l.next + 1 < l.lines) → bitN (reg (sfLand s b l d false) .block b o_COMMON_IRQ_PENDING).toNat 8 = true) := by
  rw [sfLand_sound]
  split
  · rename_i hmore
    exact ⟨block_setBlock_self .., rfl, fun h => absurd hmore h⟩
  · exact ⟨by rw [raiseIrq_block, block_setBlock_self], by rw [raiseIrq_hbm]; rfl, fun _ => pending_raiseIrq _ (by decide) (notIrc_block b)⟩

/-- Settles O25: a load by its start, its resumption after a hold, and each line that lands. -/
theorem bankLoads : Obligations.BankLoads := by
  intro s secure b target lines off hreset hth hpres hb htarget hlines hoff
  have hok : (present s .block b && !frozen s .block b) = true := by rw [hpres, frozen_of_thawed hth]; rfl
  refine ⟨fun hr hrefused => ?_, fun hr hadmitted => ?_, fun l hload hhold husers => ?_,
    fun l s' r hload hhold hout hentry hread hrok hdead hpois hblocks => ?_⟩
  · obtain ⟨hvalid, -, hpart, hpending, hhbm, -⟩ :=
      refused_busError s (bar0Of .block b o_BLOCK_SF_LOAD_CTRL) true (hostSecure s secure) (c := beREFUSED) (by decide)
    refine ⟨_, ?_, busError_blocks .., hvalid, hhbm⟩
    rw [exec_sfLoadGo hr hth hb htarget hlines hoff, sfGo_refused hrefused, done_eq hpart hpending]
  · refine ⟨setBlock (loadCtrl s b target lines off) b { block s b with load := some (startedLoad s b target lines off) }, ?_,
      block_setBlock_self .., fun d hd => (block_setBlock ..).trans (if_neg hd), rfl⟩
    rw [exec_sfLoadGo hr hth hb htarget hlines hoff, sfGo_admitted hadmitted]
    exact done_eq rfl rfl
  · have hresume : sfResume b s = setBlock s b { block s b with load := some { l with hold := false } } := by
      simp [sfResume, hload, hhold, husers]
    exact (run_eq hok hreset).trans ((congrArg (done s) hresume).trans (done_eq rfl rfl))
  · have hline := sfLine_sound hload hhold hout rfl hentry hread hrok hdead hpois
    obtain ⟨hblock, hhbm, hirq⟩ := sfLand_leaves s' b l r.data
    rw [block_of_blocks hblocks] at hblock
    have hkeep : ∀ x, x < 64 * (l.offset + l.next) ∨ 64 * (l.offset + l.next) + 64 ≤ x →
        targetWord (block (sfLand s' b l r.data false) b) l.target x = targetWord (block s b) l.target x := fun x hx => by
      rw [hblock, targetWord_landed, if_neg (by omega)]
    refine ⟨_, (run_eq hok hreset).trans ((congrArg (done s) hline).trans done_next), hhbm, fun n hn => ?_, fun x hx => ⟨fun ht => ?_, fun ht => ?_⟩,
      fun hmore => (congrArg Block.load hblock).trans (load_landed _ hmore), fun hlast => ?_⟩
    · rw [Nat.add_assoc]
      refine (targetWord_eq (block (sfLand s' b l r.data false) b) ..).symm.trans ?_
      rw [hblock, targetWord_landed, if_pos (by omega), Nat.add_sub_cancel_left]
    · have := hkeep x hx
      rwa [targetWord, if_pos ht, targetWord, if_pos ht] at this
    · have := hkeep x hx
      rwa [targetWord, if_neg ht, targetWord, if_neg ht] at this
    · obtain ⟨hload', hvalid0, hvalid1⟩ := ended_landed (k := block s b) r.data hlast
      rw [← hblock] at hload' hvalid0 hvalid1
      rw [irqPending_done]
      exact ⟨hload', hvalid0, hvalid1, hirq hlast⟩

end Sys2Proof.Proofs
end

section
/-! Host software's commands to a reach (O26: R214, R215, R220, R224). -/
namespace Sys2Proof.Proofs

open Sys2Proof.Machine Sys2Proof.Laws

/-! ## Commands and refusals -/

section
variable (s : State) {b : Nat}

theorem pageNo_block_ne {d : Nat} (h : d ≠ b) : pageNo .block d ≠ pageNo .block b := fun he => h (Nat.add_left_cancel he)

/-- A write of a block's field below bit 28 leaves every reach's STATE. -/
theorem reachState_setF {f : Fld} (v d : Nat) (hle : f.lo ≤ f.hi) (hd : f.hi < 28) :
    reachState (setF s .block b f v) d = reachState s d := by
  by_cases h : d = b
  · rw [h]
    exact fld_setF_bits s _ _ _ _ _ hle (by decide) (.inl hd)
  · exact fld_setF_page _ _ _ _ _ _ _ _ (pageNo_block_ne h)

/-- A reach's state after a write of it. -/
theorem reachState_setState_other (v : Nat) {d : Nat} (h : d ≠ b) : reachState (setF s .block b f_BLOCK_REACH_STATUS_STATE v) d = reachState s d :=
  fld_setF_page _ _ _ _ _ _ _ _ (pageNo_block_ne h)

/-- A raised interrupt of a block leaves REACH_STATUS. -/
theorem status_raiseIrq {bit : Nat} (hb : bit ≤ 31) {f : Fld} (hf : f.off = 0xC50) :
    fld (raiseIrq s .block b bit) .block b f = fld s .block b f := by
  rw [fld, reg_raiseIrq_high s hb (by rw [hf]; decide) (notIrc_block b), ← fld]

/-- A refusal writes its code, raises bit 12 and leaves the reach (R209, R215). -/
theorem reachRefuse_leaves {n : Nat} (hn : n < 16) : PagesOnly s (reachRefuse s b n) ∧ reachState (reachRefuse s b n) b = reachState s b ∧
    fld (reachRefuse s b n) .block b f_BLOCK_REACH_STATUS_REFUSE = n ∧ bitN (reg (reachRefuse s b n) .block b o_COMMON_IRQ_PENDING).toNat 12 = true := by
  refine ⟨(pagesOnly_setF ..).trans (pagesOnly_raiseIrq ..), ?_, ?_, pending_raiseIrq _ (by decide) (notIrc_block b)⟩
  · exact (status_raiseIrq _ (by decide) rfl).trans (reachState_setF s n b (by decide) (by decide))
  · exact (status_raiseIrq _ (by decide) rfl).trans (fld_setF_self s (by decide) (by decide) hn)

end

section
variable {s : State} {secure : Bool} {b : Nat} (h : reaches s secure .block b) (hth : thawed s = true) (hb : b < 192)
include h hth hb

/-- A command to a reach whose page host software reaches has its effect. -/
theorem run_reachCmd (f : State → State) : run (b < 192 && !frozen s .block b) s (reachCmd secure b f) = done s (f s) := by
  rw [run_eq (by rw [frozen_of_thawed hth]; simpa using hb) h.1, reachCmd, hostCmd_eq _ _ h]

theorem exec_reachArm : exec (.reachArm secure b) s = done s (arm b s) := run_reachCmd h hth hb (arm b)
theorem exec_reachDisarm : exec (.reachDisarm secure b) s = done s (disarm b s) := run_reachCmd h hth hb (disarm b)
theorem exec_reachAbort : exec (.reachAbort secure b) s = done s (abort b s) := run_reachCmd h hth hb (abort b)
theorem exec_fpTake : exec (.fpTake secure b) s = done s (levelDown s b) := run_reachCmd h hth hb fun s => levelDown s b

end

/-! ## ARM (R215, R224) -/

/-- The take flag that a reach observes once it is armed (R224). -/
def observedTake (s : State) (b : Nat) : Option (Nat × Nat) :=
  if flag s .block b f_BLOCK_REACH_CTRL_FP_EN then localFlag (xlat s (b / 6) (fld s .block b f_BLOCK_FP_MARKS_TAKE)) else none

/-- What ARM gathers (R215). -/
def gatheredRun (s : State) (b : Nat) : Run where
  blocks := gather s b
  ins := (inputsOf s b).filterMap (fun x => (localFlag x.1).map (fun f => (f.1, f.2, x.2)))
  outs := (outputsOf s b).filterMap (fun x => x.2.map (fun f => (x.1, f)))
  take := observedTake s b
  lastStart := (block s b).run.lastStart

/-- An OFF reach begins with LEVEL 0. -/
def levelCleared (s : State) (b : Nat) : State := if reachState s b = rOff then setF s .block b f_BLOCK_REACH_STATUS_LEVEL 0 else s

/-- An admitted ARM before it consumes a take flag. -/
def enterArmed (s : State) (b : Nat) : State :=
  setRun (setF (setF (levelCleared s b) .block b f_BLOCK_REACH_STATUS_DISARM_PEND 0) .block b f_BLOCK_REACH_STATUS_STATE rArmed) b (gatheredRun s b)

section
variable {s : State} {b : Nat}

theorem arm_admitted (h : armRefusal s b = none) : arm b s = takeSet (enterArmed s b) b (observedTake s b) := by
  rw [arm, h]
  rfl

theorem arm_refused {n : Nat} (h : armRefusal s b = some n) : arm b s = reachRefuse s b n := by
  rw [arm, h]

theorem armRefusal_lt {n : Nat} (h : armRefusal s b = some n) : n < 16 := by
  have hcode : armRefusal s b ∈ [some 3, some 4, some 5, some 6, some 7, some 8, none] := by
    unfold armRefusal
    dsimp only
    repeat' split
    all_goals simp only [List.mem_cons, true_or, or_true]
  rw [h] at hcode
  simp only [List.mem_cons, Option.some.injEq, List.not_mem_nil, or_false, reduceCtorEq] at hcode
  omega

variable (s b)

theorem levelCleared_frame : levelCleared s b = { s with pages := (levelCleared s b).pages } := by
  unfold levelCleared
  split <;> rfl

theorem enterArmed_frame : enterArmed s b = { s with pages := (enterArmed s b).pages, blocks := (enterArmed s b).blocks } := by
  rw [enterArmed, levelCleared_frame]
  rfl

theorem block_enterArmed (d : Nat) : block (enterArmed s b) d = if d = b then { block s b with run := gatheredRun s b } else block s d := by
  rw [enterArmed, levelCleared_frame]
  exact block_setBlock _ _ _ _

theorem reachState_enterArmed (d : Nat) : reachState (enterArmed s b) d = if d = b then 1 else reachState s d := by
  have hrun : ∀ (u : State) r, reachState (setRun u b r) d = reachState u d := fun _ _ => rfl
  rw [enterArmed, hrun]
  split
  case isTrue h =>
    rw [h]
    exact reachState_setState b _ (by decide)
  case isFalse h =>
    rw [reachState_setState_other _ _ h, reachState_setF _ _ _ (by decide) (by decide)]
    unfold levelCleared
    split
    · exact reachState_setF _ _ _ (by decide) (by decide)
    · rfl

theorem level_enterArmed : fld (enterArmed s b) .block b f_BLOCK_REACH_STATUS_LEVEL =
    if reachState s b = 0 then 0 else fld s .block b f_BLOCK_REACH_STATUS_LEVEL := by
  have hrun : ∀ (u : State) r, fld (setRun u b r) .block b f_BLOCK_REACH_STATUS_LEVEL = fld u .block b f_BLOCK_REACH_STATUS_LEVEL := fun _ _ => rfl
  rw [enterArmed, hrun, fld_setF_bits _ _ _ _ _ _ (by decide) (by decide) (by decide), fld_setF_bits _ _ _ _ _ _ (by decide) (by decide) (by decide),
    levelCleared]
  split
  · exact fld_setF_self s (by decide) (by decide) (by decide)
  · rfl

theorem flagAt_enterArmed (r i : Nat) : flagAt (enterArmed s b) r i = flagAt s r i := by
  rw [enterArmed_frame]
  rfl

variable (f : Option (Nat × Nat))

theorem takeSet_cases : takeSet s b f = s ∨ ∃ r i, f = some (r, i) ∧ takeSet s b f = levelDown (flagClr s r i) b := by
  rcases f with _ | ⟨r, i⟩
  · exact .inl rfl
  · unfold takeSet
    dsimp only
    split
    · exact .inr ⟨r, i, rfl, rfl⟩
    · exact .inl rfl

/-- A consumed take flag changes flags and register pages. -/
theorem takeSet_frame : takeSet s b f = { s with pages := (takeSet s b f).pages, regions := (takeSet s b f).regions } := by
  rcases takeSet_cases s b f with h | ⟨r, i, -, h⟩
  · rw [h]
  · rw [h]
    rfl

theorem reachState_takeSet (d : Nat) : reachState (takeSet s b f) d = reachState s d := by
  rcases takeSet_cases s b f with h | ⟨r, i, -, h⟩
  · rw [h]
  · rw [h]
    exact reachState_setF (flagClr s r i) _ d (by decide) (by decide)

theorem block_takeSet (d : Nat) : block (takeSet s b f) d = block s d := by
  rw [takeSet_frame]
  rfl

variable (r i : Nat)

/-- A take flag that is set is consumed, with one off LEVEL. -/
theorem takeSet_taken : (flagAt (takeSet s b (some (r, i))) r i).set = false ∧ fld (takeSet s b (some (r, i))) .block b f_BLOCK_REACH_STATUS_LEVEL =
    fld s .block b f_BLOCK_REACH_STATUS_LEVEL - if (flagAt s r i).set = true then 1 else 0 := by
  unfold takeSet
  dsimp only
  split
  · refine ⟨?_, fld_levelDown (flagClr s r i) b⟩
    have hclr : flagAt (flagClr s r i) r i = {} := by rw [flagClr, flagAt_putFlag, if_pos ⟨rfl, rfl⟩]
    exact congrArg Flag.set hclr
  · rename_i hset
    exact ⟨by simpa using hset, rfl⟩

theorem flagAt_takeSet (h : f ≠ some (r, i)) : flagAt (takeSet s b f) r i = flagAt s r i := by
  rcases takeSet_cases s b f with he | ⟨r', i', hf, he⟩
  · rw [he]
  · have hne : ¬(r = r' ∧ i = i') := fun ⟨hr, hi⟩ => h (by rw [hf, hr, hi])
    rw [he]
    exact (flagAt_putFlag r' i' r i {}).trans (if_neg hne)

end

section
variable {s : State} {secure : Bool} {b : Nat} (h : reaches s secure .block b) (hth : thawed s = true) (hb : b < 192)
include h hth hb

theorem reachArm_admitted (ha : armRefusal s b = none) : ∃ t, exec (.reachArm secure b) s = .next t ∧ reachState t b = 1 ∧
    (block t b).run.blocks = gather s b ∧ (block t b).run.lastStart = (block s b).run.lastStart ∧
    (∀ d, d ≠ b → block t d = block s d ∧ reachState t d = reachState s d) ∧ (block t b).run.take = observedTake s b ∧
    (∀ r i, (block t b).run.take = some (r, i) → (flagAt t r i).set = false ∧ fld t .block b f_BLOCK_REACH_STATUS_LEVEL =
      (if reachState s b = 0 then 0 else fld s .block b f_BLOCK_REACH_STATUS_LEVEL) - (if (flagAt s r i).set = true then 1 else 0)) ∧
    (∀ r i, (block t b).run.take ≠ some (r, i) → flagAt t r i = flagAt s r i) ∧ t.cells = s.cells ∧ t.hbm = s.hbm := by
  have hframe : takeSet (enterArmed s b) b (observedTake s b) = { s with
      pages := (takeSet (enterArmed s b) b (observedTake s b)).pages, blocks := (enterArmed s b).blocks
      regions := (takeSet (enterArmed s b) b (observedTake s b)).regions } := by
    rw [takeSet_frame, enterArmed_frame]
  have hrun : (block (takeSet (enterArmed s b) b (observedTake s b)) b).run = gatheredRun s b := by
    rw [block_takeSet, block_enterArmed, if_pos rfl]
  refine ⟨takeSet (enterArmed s b) b (observedTake s b), ?_, ?_, ?_, ?_, fun d hd => ⟨?_, ?_⟩, ?_, fun r i ht => ?_, fun r i ht => ?_, ?_, ?_⟩
  · rw [exec_reachArm h hth hb, arm_admitted ha]
    exact done_eq (congrArg State.part hframe :) (congrArg State.pending hframe :)
  · rw [reachState_takeSet, reachState_enterArmed, if_pos rfl]
  · rw [hrun]; rfl
  · rw [hrun]; rfl
  · rw [block_takeSet, block_enterArmed, if_neg hd]
  · rw [reachState_takeSet, reachState_enterArmed, if_neg hd]
  · rw [hrun]; rfl
  · rw [hrun] at ht
    change observedTake s b = _ at ht
    rw [ht, ← flagAt_enterArmed s b, ← level_enterArmed]
    exact takeSet_taken ..
  · rw [hrun] at ht
    change observedTake s b ≠ _ at ht
    rw [flagAt_takeSet _ _ _ _ _ ht, flagAt_enterArmed]
  · exact (congrArg State.cells hframe :)
  · exact (congrArg State.hbm hframe :)

theorem reachArm_refused {n : Nat} (ha : armRefusal s b = some n) : ∃ t, exec (.reachArm secure b) s = .next t ∧ reachState t b = reachState s b ∧
    t.blocks = s.blocks ∧ fld t .block b f_BLOCK_REACH_STATUS_REFUSE = n ∧ bitN (reg t .block b o_COMMON_IRQ_PENDING).toNat 12 = true := by
  obtain ⟨hpages, hstate, hcode, hirq⟩ := reachRefuse_leaves s (b := b) (armRefusal_lt ha)
  refine ⟨reachRefuse s b n, ?_, hstate, (congrArg State.blocks hpages :), hcode, hirq⟩
  rw [exec_reachArm h hth hb, arm_refused ha]
  exact done_eq (congrArg State.part hpages :) (congrArg State.pending hpages :)

/-! ## DISARM and FP_TAKE (R214, R220, R224) -/

theorem reachDisarm_idle (hm : isMember s b = false) (hst : reachState s b = 1 ∨ reachState s b = 4) :
    ∃ t, exec (.reachDisarm secure b) s = .next t ∧ reachState t b = 0 ∧ (block t b).run = { lastStart := (block s b).run.lastStart } ∧ t.cells = s.cells := by
  have hoff : disarm b s = reachOff s b := by
    unfold disarm
    rw [hm]
    rcases hst with hst | hst <;> rw [hst] <;> rfl
  refine ⟨reachOff s b, ?_, reachState_reachOff b s, congrArg Block.run (block_setBlock_self ..), rfl⟩
  rw [exec_reachDisarm h hth hb, hoff]
  exact done_eq rfl rfl

theorem reachDisarm_busy (hm : isMember s b = false) (hst : reachState s b = 2 ∨ reachState s b = 3) :
    ∃ t, exec (.reachDisarm secure b) s = .next t ∧ reachState t b = reachState s b ∧ flag t .block b f_BLOCK_REACH_STATUS_DISARM_PEND = true ∧
      t.blocks = s.blocks ∧ t.cells = s.cells := by
  have hpend : disarm b s = setF s .block b f_BLOCK_REACH_STATUS_DISARM_PEND 1 := by
    unfold disarm
    rw [hm]
    rcases hst with hst | hst <;> rw [hst] <;> rfl
  refine ⟨_, ?_, reachState_setF s 1 b (by decide) (by decide), flag_setF_self s (by decide) (by decide) (by decide), rfl, rfl⟩
  rw [exec_reachDisarm h hth hb, hpend]
  exact done_eq rfl rfl

theorem fpTake_takes : ∃ t, exec (.fpTake secure b) s = .next t ∧
    fld t .block b f_BLOCK_REACH_STATUS_LEVEL = fld s .block b f_BLOCK_REACH_STATUS_LEVEL - 1 ∧
    reachState t b = reachState s b ∧ t.blocks = s.blocks ∧ t.cells = s.cells :=
  ⟨levelDown s b, (exec_fpTake h hth hb).trans (done_eq rfl rfl), fld_levelDown s b, reachState_setF s _ b (by decide) (by decide), rfl, rfl⟩

end

/-! ## ABORT (R218, R220) -/

section
variable (s : State) (c g : Nat)

/-- Killing a group changes no other cell. -/
theorem cell_killGroup_other {d : Nat} (hd : d ≠ c) : cell (killGroup s c g) d = cell s d := by
  by_cases hf : (group s c g).st = .free
  · rw [killGroup, if_pos hf]
  · have hcell : cell (releaseLocks (haltGroup c g s) c g true) d = cell s d :=
      (cell_of_cells (releaseLocks_cells ..) d).trans (cell_setCell_ne _ _ hd)
    rw [killGroup_eq s hf]
    exact (cell_setCell_ne _ _ hd).trans hcell

/-- A live group that is killed is FREE, and no other group changes. -/
theorem group_killGroup_eq (d e : Nat) : group (killGroup s c g) d e = if (d = c ∧ e = g) ∧ (group s c g).st ≠ .free then {} else group s d e := by
  by_cases hf : (group s c g).st = .free
  · rw [killGroup, if_pos hf, if_neg (fun h => h.2 hf)]
  · by_cases hd : d = c
    · subst hd
      rw [group_killGroup hf]
      simp [hf]
    · rw [group, cell_killGroup_other s c g hd, if_neg (fun h => hd h.1.1), group]

/-- Killing a group notes it as killed in its run, and as nothing else. -/
theorem aborted_killGroup (d : Nat) : (block (killGroup s c g) d).run.aborted = (block s d).run.aborted := by
  by_cases hf : (group s c g).st = .free
  · rw [killGroup, if_pos hf]
  · have hblock := block_of_blocks (releaseLocks_blocks (haltGroup c g s) c g true) d
    rw [killGroup_eq s hf]
    refine (congrArg (fun x : Block => x.run.aborted) hblock).trans ?_
    change (block (setRun s (group s c g).lead _) d).run.aborted = _
    rw [setRun, block_setBlock]
    split
    · rename_i he; rw [he]
    · rfl

end

section
variable (l : List (Nat × Nat)) (s : State)

/-- A group that is FREE from the start stays so while others are killed. -/
theorem group_killed_empty {d e : Nat} (h : group s d e = {}) : group (l.foldl (fun s x => killGroup s x.1 x.2) s) d e = {} :=
  List.foldlRecOn (motive := fun t : State => group t d e = {}) l _ h fun t ht x _ => by
    rw [group_killGroup_eq, ht]
    split <;> rfl

/-- Every live group of a list is FREE once the list is killed. -/
theorem group_killed {d e : Nat} (hx : (d, e) ∈ l) (hlive : (group s d e).st ≠ .free) :
    group (l.foldl (fun s x => killGroup s x.1 x.2) s) d e = {} := by
  induction l generalizing s with
  | nil => cases hx
  | cons x t ih =>
    rw [List.foldl_cons]
    have hgroup := group_killGroup_eq s x.1 x.2 d e
    split at hgroup
    · exact group_killed_empty t _ hgroup
    · rename_i hne
      rcases List.mem_cons.1 hx with rfl | hx
      · exact absurd ⟨⟨rfl, rfl⟩, hlive⟩ hne
      · exact ih _ hx (by rwa [hgroup])

theorem aborted_killed (d : Nat) : (block (l.foldl (fun s x => killGroup s x.1 x.2) s) d).run.aborted = (block s d).run.aborted :=
  List.foldlRecOn (motive := fun t : State => (block t d).run.aborted = (block s d).run.aborted) l _ rfl
    fun t ht x _ => (aborted_killGroup t x.1 x.2 d).trans ht

end

/-- The groups of a run are live. -/
theorem live_of_runGroups {s : State} {b : Nat} {x : Nat × Nat} (h : x ∈ runGroups s b) : (group s x.1 x.2).st ≠ .free := by
  unfold runGroups at h
  obtain ⟨c, -, hx⟩ := List.mem_flatMap.1 h
  obtain ⟨g, hg, rfl⟩ := List.mem_map.1 hx
  have hlive := List.mem_of_mem_filter hg
  simpa [liveGroups] using (List.mem_filter.1 hlive).2

theorem reachAbort_kills {s : State} {secure : Bool} {b : Nat} (h : reaches s secure .block b) (hth : thawed s = true) (hb : b < 192)
    (hst : reachState s b = 2) : ∃ t, exec (.reachAbort secure b) s = .next t ∧ (block t b).run.aborted = true ∧
      (∀ x ∈ runGroups s b, group t x.1 x.2 = {}) ∧ t.hbm = s.hbm := by
  have hblock : block (setRun s b { (block s b).run with aborted := true }) b = { block s b with run := { (block s b).run with aborted := true } } :=
    block_setBlock_self ..
  have hgroups : runGroups (setRun s b { (block s b).run with aborted := true }) b = runGroups s b := by
    unfold runGroups
    rw [hblock]
    rfl
  have hdrops : Drops (fun _ => False) s (killRun (setRun s b { (block s b).run with aborted := true }) b) := (drops_setRun s b _).trans (drops_killRun _ b)
  refine ⟨_, ?_, ?_, fun x hx => ?_, hdrops.hbm⟩
  · rw [exec_reachAbort h hth hb, abort, if_pos hst]
    exact done_eq hdrops.part hdrops.pending
  · rw [killRun, aborted_killed, hblock]
  · have hlive : (group s x.1 x.2).st ≠ .free := live_of_runGroups hx
    rw [killRun, hgroups]
    exact group_killed _ _ hx hlive

/-- Settles O26, command by command. -/
theorem reachCommands : Obligations.ReachCommands := fun _ _ _ h hth hb =>
  ⟨reachArm_admitted h hth hb, fun _ => reachArm_refused h hth hb, reachDisarm_idle h hth hb, reachDisarm_busy h hth hb,
    reachAbort_kills h hth hb, fpTake_takes h hth hb⟩

end Sys2Proof.Proofs
end

section
/-! The copies of a page's registers at its safe points: what the sets of a page take, drop and wait for (R488, R491). -/
namespace Sys2Proof.Proofs

open Sys2Proof.Machine Sys2Proof.Laws

/-! ## Work at one page -/

/-- Two states that differ in the register pages and in records beside the units: the HBM controllers' queues, the chores, the fabric's and
the cache die's fields. -/
def ConfigOnly (s t : State) : Prop :=
  t = { s with pages := t.pages, hbmCtl := t.hbmCtl, chores := t.chores, fab := t.fab, cache := t.cache }

/-- Beside that, one register page alone differs. -/
structure AtPage (k : PageKind) (i : Nat) (s t : State) : Prop where
  rest : ConfigOnly s t
  other : ∀ k' i', pageNo k' i' ≠ pageNo k i → page t k' i' = page s k' i'

section
variable {k : PageKind} {i : Nat} {s t u : State}

theorem ConfigOnly.trans (h : ConfigOnly s t) (g : ConfigOnly t u) : ConfigOnly s u := by
  unfold ConfigOnly at *
  rw [g, h]

theorem ConfigOnly.part (h : ConfigOnly s t) : t.part = s.part := (congrArg State.part h :)
theorem ConfigOnly.pending (h : ConfigOnly s t) : t.pending = s.pending := (congrArg State.pending h :)
theorem ConfigOnly.hbm (h : ConfigOnly s t) : t.hbm = s.hbm := (congrArg State.hbm h :)
theorem ConfigOnly.cells (h : ConfigOnly s t) : t.cells = s.cells := (congrArg State.cells h :)
theorem ConfigOnly.slices (h : ConfigOnly s t) : t.slices = s.slices := (congrArg State.slices h :)
theorem ConfigOnly.blocks (h : ConfigOnly s t) : t.blocks = s.blocks := (congrArg State.blocks h :)

theorem ConfigOnly.done (h : ConfigOnly s t) : Machine.done s t = .next t := done_eq h.part h.pending

theorem PagesOnly.configOnly (h : PagesOnly s t) : ConfigOnly s t := by
  unfold PagesOnly at h
  rw [h]
  rfl

theorem AtPage.refl : AtPage k i s s := ⟨rfl, fun _ _ _ => rfl⟩

theorem AtPage.trans (h : AtPage k i s t) (g : AtPage k i t u) : AtPage k i s u :=
  ⟨h.rest.trans g.rest, fun k' i' hp => (g.other k' i' hp).trans (h.other k' i' hp)⟩

/-- Steps that each work at the page do so together. -/
theorem atPage_foldl {α : Type} (f : State → α → State) (l : List α) (h : ∀ s, ∀ x ∈ l, AtPage k i s (f s x)) : AtPage k i s (l.foldl f s) :=
  List.foldlRecOn l f AtPage.refl fun t ht x hx => ht.trans (h t x hx)

theorem atPage_setPage (s : State) (v : Page) : AtPage k i s (setPage s k i v) := ⟨rfl, fun k' i' hp => by rw [page_setPage, if_neg hp]⟩

theorem atPage_setReg (s : State) (o : Nat) (v : W32) : AtPage k i s (setReg s k i o v) := atPage_setPage s _
theorem atPage_setF (s : State) (f : Fld) (v : Nat) : AtPage k i s (setF s k i f v) := atPage_setPage s _
theorem atPage_setStg (s : State) (o : Nat) (v : W32) : AtPage k i s (setStg s k i o v) := atPage_setPage s _
theorem atPage_setShd (s : State) (o : Nat) (v : W32) : AtPage k i s (setShd s k i o v) := atPage_setPage s _

end

/-! ## Writes of active registers -/

/-- Two states that differ in active registers only. -/
structure ActiveOnly (s t : State) : Prop where
  rest : PagesOnly s t
  pages : ∀ k i, page t k i = { page s k i with act := (page t k i).act }

section
variable {s t u : State}

theorem ActiveOnly.refl : ActiveOnly s s := ⟨.refl s, fun _ _ => rfl⟩

theorem ActiveOnly.trans (h : ActiveOnly s t) (g : ActiveOnly t u) : ActiveOnly s u :=
  ⟨h.rest.trans g.rest, fun k i => by rw [g.pages, h.pages]⟩

theorem ActiveOnly.part (h : ActiveOnly s t) : t.part = s.part := (congrArg State.part (show t = _ from h.rest) :)

theorem ActiveOnly.waiting (h : ActiveOnly s t) (k : PageKind) (i : Nat) : (page t k i).waiting = (page s k i).waiting :=
  (congrArg Page.waiting (h.pages k i) :)

theorem ActiveOnly.regStg (h : ActiveOnly s t) (k : PageKind) (i x : Nat) : Machine.regStg t k i x = Machine.regStg s k i x := by
  rw [Machine.regStg, Machine.regStg, h.pages, h.part]

theorem ActiveOnly.regShd (h : ActiveOnly s t) (k : PageKind) (i x : Nat) : Machine.regShd t k i x = Machine.regShd s k i x := by
  rw [Machine.regShd, Machine.regShd, h.pages, h.part]

variable (s) (k : PageKind) (i : Nat)

theorem activeOnly_setReg (o : Nat) (v : W32) : ActiveOnly s (setReg s k i o v) := by
  refine ⟨rfl, fun k' i' => ?_⟩
  by_cases hp : pageNo k' i' = pageNo k i
  · have hpage : page s k' i' = page s k i := by unfold page; rw [hp]
    rw [hpage, setReg, page_setPage, if_pos hp]
  · rw [setReg, page_setPage, if_neg hp]

theorem activeOnly_setF (f : Fld) (v : Nat) : ActiveOnly s (setF s k i f v) := activeOnly_setReg ..

theorem activeOnly_bumpByte (base sat per n : Nat) : ActiveOnly s (bumpByte s k i base sat per n) := by
  unfold bumpByte
  dsimp only
  split <;> exact activeOnly_setF ..

theorem activeOnly_ircEvent (h : Bool) (src : Nat) : ActiveOnly s (ircEvent s h src) := (activeOnly_bumpByte s ..).trans (activeOnly_setF ..)

theorem activeOnly_raiseIrq (bit : Nat) : ActiveOnly s (raiseIrq s k i bit) := by
  have hpend := (activeOnly_setF s k i ⟨o_COMMON_IRQ_PENDING, bit, bit⟩ 1).trans
    (activeOnly_bumpByte _ k i (o_COMMON_EVT_CNT 0) o_COMMON_EVT_SAT 16 (evtOf bit))
  unfold raiseIrq
  dsimp only
  split
  · exact hpend
  · split <;> split
    · exact (hpend.trans (activeOnly_ircEvent ..)).trans (activeOnly_ircEvent ..)
    · exact hpend.trans (activeOnly_ircEvent ..)
    · exact hpend.trans (activeOnly_ircEvent ..)
    · exact hpend

end

/-! ## The copies -/

section
variable (s : State) (k : PageKind) (i o x : Nat) (v : W32)

theorem waiting_setStg : (page (setStg s k i o v) k i).waiting = (page s k i).waiting := by simp [setStg]

/-- A page that waits for fewer sets holds the same copies. -/
theorem reg_unwait : reg (unwait s k i o) k i x = reg s k i x := by simp [reg, unwait]

theorem regStg_unwait : regStg (unwait s k i o) k i x = regStg s k i x := by simp [regStg, unwait]

theorem waiting_unwait : (page (unwait s k i o) k i).waiting = (page s k i).waiting.filter (· != o) := by simp [unwait]

theorem atPage_unwait : AtPage k i s (unwait s k i o) := atPage_setPage s _

end

/-! ## RW-S fields -/

/-- A map holds its default at a key that it does not list. -/
theorem mget_unlisted {α : Type} (d : α) {m : List (Nat × α)} {x : Nat} (h : x ∉ m.map (·.1)) : mget d m x = d := by
  rcases mget_entry d m x with hd | ⟨e, he, hx, -⟩
  · exact hd
  · exact absurd (List.mem_map.2 ⟨e, he, hx⟩) h

/-- A register without RW-S fields has none to take. -/
theorem rwMask_of_plain {k : PageKind} {off : Nat} (h : isShadowed k off = false) : rwMask k off = 0 := by
  have hnone : ∀ f ∈ fieldsAt k off, f.acc ≠ .rwS := by simpa [isShadowed] using h
  have hmask : accMask (fieldsAt k off) .rwS = 0 :=
    List.foldlRecOn (motive := fun m => m = 0) _ _ rfl fun m hm f hf => by rw [if_neg (hnone f hf), hm]
  rw [rwMask, hmask]
  rfl

/-- A register with RW-S fields lies beyond the common block. -/
theorem high_of_isShadowed {k : PageKind} {off : Nat} (h : isShadowed k off = true) : 0x100 ≤ off := by
  have hdir : ∀ r ∈ pageRegs k, r.fields.any (fun f => f.acc == .rwS) = true → 0x100 ≤ r.off := by
    cases k <;> decide +kernel
  unfold isShadowed fieldsAt at h
  split at h
  · simp at h
  · split at h
    · simp at h
    · obtain ⟨f, hf, hacc⟩ := List.any_eq_true.1 h
      obtain ⟨r, hr, hfr⟩ := List.mem_flatMap.1 hf
      have hcov := (List.mem_filter.1 hr).2
      have hle : r.off ≤ off := by
        simp only [regCovers, Bool.and_eq_true, decide_eq_true_eq] at hcov
        exact hcov.1.1
      exact (hdir r (List.mem_of_mem_filter hr) (List.any_eq_true.2 ⟨f, hfr, hacc⟩)).trans hle

/-- What an active register becomes as its set applies: its RW-S fields as staged, the others as they are. -/
def taken (s : State) (k : PageKind) (i off : Nat) : W32 := putMask (reg s k i off) (regStg s k i off) (rwMask k off)

theorem taken_congr {s t : State} {k : PageKind} {i off : Nat} (h : reg t k i off = reg s k i off) (hg : regStg t k i off = regStg s k i off) :
    taken t k i off = taken s k i off := by rw [taken, h, hg, taken]

/-- The bits of a mask taken twice from the same word. -/
theorem putMask_putMask (r g m : W32) : putMask (putMask r g m) g m = putMask r g m := by
  apply BitVec.eq_of_getLsbD_eq
  intro b hb
  simp only [getLsbD_putMask _ _ _ _ hb]
  split <;> rfl

/-- The bits of a mask taken from the word itself. -/
theorem putMask_self (r m : W32) : putMask r r m = r := by
  apply BitVec.eq_of_getLsbD_eq
  intro b hb
  rw [getLsbD_putMask _ _ _ _ hb, ite_self]

/-- The bits of a mask agree once they have been taken. -/
theorem putMask_agrees (r g m : W32) : (putMask r g m ^^^ g) &&& m = 0 := by
  apply BitVec.eq_of_getLsbD_eq
  intro b hb
  rw [BitVec.getLsbD_and, BitVec.getLsbD_xor, getLsbD_putMask _ _ _ _ hb]
  cases m.getLsbD b <;> simp

/-- Fields that have been taken differ from the staged ones no longer. -/
theorem differs_of_taken {s t : State} {k : PageKind} {i off : Nat} (h : reg t k i off = taken s k i off) (hg : regStg t k i off = regStg s k i off) :
    differs t k i off = false := by
  rw [differs, h, hg, taken, putMask_agrees]
  rfl

section
variable (s : State) (k : PageKind) (i : Nat) {x : Nat}

/-- A register at which a page holds nothing is at its reset value in all copies. -/
theorem copies_of_unheld (hsh : isShadowed k x = true) (h : x ∉ heldOffs s k i) :
    reg s k i x = regReset s.part k i x ∧ regStg s k i x = regReset s.part k i x ∧ regShd s k i x = regReset s.part k i x := by
  have hkeys : x ∉ ((page s k i).shd ++ (page s k i).stg ++ (page s k i).act).map (·.1) := fun hk =>
    h (List.mem_eraseDups.2 (List.mem_filter.2 ⟨hk, hsh⟩))
  simp only [List.map_append, List.mem_append, not_or] at hkeys
  obtain ⟨⟨hshd, hstg⟩, hact⟩ := hkeys
  exact ⟨mget_unlisted _ hact, mget_unlisted _ hstg, mget_unlisted _ hshd⟩

theorem taken_of_unheld (h : x ∉ heldOffs s k i) : taken s k i x = reg s k i x := by
  cases hsh : isShadowed k x
  · rw [taken, rwMask_of_plain hsh, putMask_zero]
  · obtain ⟨hact, hstg, -⟩ := copies_of_unheld s k i hsh h
    rw [taken, hact, hstg, putMask_self]

/-! ## A set applies -/

variable (l : List Nat)

theorem regStg_applyRegs : regStg (l.foldl (applyReg k i) s) k i x = regStg s k i x :=
  List.foldlRecOn (motive := fun t => regStg t k i x = regStg s k i x) l _ rfl fun t ht o _ => ((activeOnly_setReg t k i o _).regStg k i x).trans ht

theorem waiting_applyRegs : (page (l.foldl (applyReg k i) s) k i).waiting = (page s k i).waiting :=
  List.foldlRecOn (motive := fun t => (page t k i).waiting = (page s k i).waiting) l _ rfl fun t ht o _ => ((activeOnly_setReg t k i o _).waiting k i).trans ht

theorem atPage_applyRegs : AtPage k i s (l.foldl (applyReg k i) s) := atPage_foldl _ l fun t o _ => atPage_setReg t o _

/-- The listed registers take their staged fields. -/
theorem reg_applyRegs : reg (l.foldl (applyReg k i) s) k i x = if x ∈ l then taken s k i x else reg s k i x := by
  induction l generalizing s with
  | nil => simp
  | cons o t ih =>
    have hself : reg (applyReg k i s o) k i x = if x = o then taken s k i x else reg s k i x := by
      rw [applyReg, reg_setReg]
      split
      · rename_i h; rw [h]; rfl
      · rfl
    have hstg : regStg (applyReg k i s o) k i x = regStg s k i x := (activeOnly_setReg s k i o _).regStg k i x
    rw [List.foldl_cons, ih]
    by_cases ho : x = o
    · rw [if_pos ho] at hself
      rw [if_pos (List.mem_cons.2 (.inl ho)), hself, taken, hself, hstg]
      split
      · exact putMask_putMask ..
      · rfl
    · rw [if_neg ho] at hself
      rw [taken_congr hself hstg, hself]
      simp [ho]

variable (y : Nat)

/-- A register of the set has its staged fields active. -/
theorem reg_applyWhole (h : setOf k x = y) : reg (applyWhole s k i y) k i x = taken s k i x := by
  rw [applyWhole, reg_unwait, applySet, reg_applyRegs]
  split
  · rfl
  · rename_i hx
    exact (taken_of_unheld s k i fun hheld => hx (List.mem_filter.2 ⟨hheld, by rw [h, beq_self_eq_true]⟩)).symm

/-- A register without RW-S fields, or of another set, stands. -/
theorem reg_applyWhole_other (h : isShadowed k x = false ∨ setOf k x ≠ y) : reg (applyWhole s k i y) k i x = reg s k i x := by
  rw [applyWhole, reg_unwait, applySet, reg_applyRegs, if_neg]
  intro hx
  obtain ⟨hheld, hset⟩ := List.mem_filter.1 hx
  rcases h with h | h
  · have := (List.mem_filter.1 (List.mem_eraseDups.1 hheld)).2
    rw [h] at this
    cases this
  · exact h (by simpa using hset)

theorem regStg_applyWhole : regStg (applyWhole s k i y) k i x = regStg s k i x := by
  rw [applyWhole, regStg_unwait, applySet, regStg_applyRegs]

theorem waiting_applyWhole : (page (applyWhole s k i y) k i).waiting = (page s k i).waiting.filter (· != y) := by
  rw [applyWhole, waiting_unwait, applySet, waiting_applyRegs]

theorem atPage_applyWhole : AtPage k i s (applyWhole s k i y) := (atPage_applyRegs s k i _).trans (atPage_unwait ..)

/-! ## A set is dropped -/

theorem reg_dropSet : reg (dropSet s k i y) k i x = reg s k i x :=
  List.foldlRecOn (motive := fun t => reg t k i x = reg s k i x) _ _ rfl fun t ht o _ => (reg_setStg t k i o _ x).trans ht

theorem waiting_dropSet : (page (dropSet s k i y) k i).waiting = (page s k i).waiting :=
  List.foldlRecOn (motive := fun t => (page t k i).waiting = (page s k i).waiting) _ _ rfl fun t ht o _ => (waiting_setStg t k i o _).trans ht

theorem atPage_dropSet : AtPage k i s (dropSet s k i y) := atPage_foldl _ _ fun t o _ => atPage_setStg t o _

end

end Sys2Proof.Proofs
end

section
/-! Frozen units (O29: R232, R495). -/
namespace Sys2Proof.Proofs

open Sys2Proof.Machine Sys2Proof.Laws

/-- A command whose unit is frozen changes nothing. -/
theorem run_frozen {s : State} {ok held : Bool} {f : State → State} (h : held = true) : run (ok && !held) s f = .next s :=
  run_illFormed (by rw [h, Bool.not_true, Bool.and_false])

/-- The same where the command's check goes on. -/
theorem run_frozen_and {s : State} {ok held more : Bool} {f : State → State} (h : held = true) : run (ok && !held && more) s f = .next s :=
  run_illFormed (by rw [h, Bool.not_true, Bool.and_false, Bool.false_and])

section
variable {s : State}

theorem cellFrozen_stops {c : Nat} (h : cellFrozen s c = true) : (∀ g, canIssue s c g = false) ∧
    ∀ i ∈ [Instr.mxOpStart c, .mxHazardRelease c, .mxTileFillDone c false, .mxTileFillDone c true, .mxBeat c 0, .mxDrainRow c, .mxOpComplete c],
      exec i s = .next s := by
  refine ⟨fun g => by simp [canIssue, h], ?_⟩
  simp only [List.forall_mem_cons, List.not_mem_nil, false_imp_iff, implies_true, and_true]
  exact ⟨(run_frozen h : execMxOpStart c s = _),
    (run_frozen h : execMxHazardRelease c s = _),
    (run_frozen h : execMxTileFillDone c false s = _),
    (run_frozen h : execMxTileFillDone c true s = _),
    (run_frozen_and h : execMxBeat c 0 s = _),
    (run_frozen h : execMxDrainRow c s = _),
    (run_frozen h : execMxOpComplete c s = _)⟩

theorem reachFrozen_stops {b : Nat} (h : reachFrozen s b = true) :
    startMet s b = false ∧ exec (.reachLastGroupFree b) s = .next s ∧ exec (.reachSettle b) s = .next s :=
  ⟨by simp [startMet, h], (run_frozen h : execReachLastGroupFree b s = _), (run_frozen h : execReachSettle b s = _)⟩

theorem blockFrozen_stops {b : Nat} (secure : Bool) (h : frozen s .block b = true) :
    ∀ i ∈ [Instr.reachArm secure b, .reachDisarm secure b, .reachAbort secure b, .fpTake secure b, .sfLoadResume b, .sfLoadLine b],
      exec i s = .next s := by
  simp only [List.forall_mem_cons, List.not_mem_nil, false_imp_iff, implies_true, and_true]
  exact ⟨(run_frozen h : execReachArm secure b s = _),
    (run_frozen h : execReachDisarm secure b s = _),
    (run_frozen h : execReachAbort secure b s = _),
    (run_frozen h : execFpTake secure b s = _),
    (run_frozen h : execSfLoadResume b s = _),
    (run_frozen h : execSfLoadLine b s = _)⟩

theorem sliceFrozen_stops {sl : Nat} (h : sliceFrozen s sl = true) : (∀ l, (placeOf s l).slice = sl → lineHeld s l = true) ∧
    (∀ id, exec (.qosGrant (.slice sl id)) s = .next s) ∧
    (∀ l, ∀ i ∈ [Instr.sliceFillLanded sl l, .sliceWritebackDone sl l, .bypassRetry sl l, .holdExpire sl l, .maintDone sl, .sliceRetireDone sl,
      .bondWindowEnd sl, .bucketLeak false sl 0, .scourLine false sl], exec i s = .next s) := by
  refine ⟨fun l hl => by simp [lineHeld, hl, h], fun id => (run_frozen_and h : execQosGrant (.slice sl id) s = _), fun l => ?_⟩
  simp only [List.forall_mem_cons, List.not_mem_nil, false_imp_iff, implies_true, and_true]
  exact ⟨(run_frozen h : execSliceFillLanded sl l s = _),
    (run_frozen h : execSliceWritebackDone sl l s = _),
    (run_frozen h : execBypassRetry sl l s = _),
    (run_frozen h : execHoldExpire sl l s = _),
    (run_frozen h : execMaintDone sl s = _),
    (run_frozen h : execSliceRetireDone sl s = _),
    (run_frozen h : execBondWindowEnd sl s = _),
    (run_frozen h : execBucketLeak false sl 0 s = _),
    (run_frozen h : execScourLine false sl s = _)⟩

theorem portFrozen_stops {p : Nat} (h : portFrozen s p = true) : (∀ i, exec (.qosGrant (.port p i)) s = .next s) ∧
    (∀ k corr uncorr, exec (.fabPacketReceived p k corr uncorr) s = .next s) ∧
    ∀ i ∈ [Instr.portSignalDetect p, .portLockLoss p, .linkHoldExpire p, .replayTimeout p, .lcpTimer p, .fabRdReceived p, .fabWrReceived p,
      .fabRedReceived p, .fabAtomReceived p, .fabFlagReceived p, .authChal p, .authFin p], exec i s = .next s := by
  refine ⟨fun i => (run_frozen h : execQosGrant (.port p i) s = _),
    fun k corr uncorr => (run_frozen_and h : execFabPacketReceived p k corr uncorr s = _), ?_⟩
  simp only [List.forall_mem_cons, List.not_mem_nil, false_imp_iff, implies_true, and_true]
  exact ⟨(run_frozen h : execPortSignalDetect p s = _),
    (run_frozen h : execPortLockLoss p s = _),
    (run_frozen h : execLinkHoldExpire p s = _),
    (run_frozen h : execReplayTimeout p s = _),
    (run_frozen h : execLcpTimer p s = _),
    (run_frozen h : execFabRdReceived p s = _),
    (run_frozen h : execFabWrReceived p s = _),
    (run_frozen h : execFabRedReceived p s = _),
    (run_frozen h : execFabAtomReceived p s = _),
    (run_frozen h : execFabFlagReceived p s = _),
    (run_frozen h : execAuthChal p s = _),
    (run_frozen h : execAuthFin p s = _)⟩

/-- A flag write to a frozen region joins those that wait (R495). -/
theorem flagByHost_waits {secure : Bool} {r i : Nat} (v : Bool) (h : reaches s secure .region r) (hf : frozen s .region r = true) (hi : i < 4096) :
    exec (if v = true then .flagSet secure r i else .flagClr secure r i) s =
      .next (setRegion s r { region s r with held := (region s r).held ++ [(i, v, hostSecure s secure)] }) := by
  obtain ⟨hr, -, -, -, hp, -⟩ := id h
  have hr32 : r < 32 := by
    have hlt : r < partRegions s.part := of_decide_eq_true hp
    exact hlt.trans_le (partRegions_le s.part)
  have hrun : run (decide (r < 32) && decide (i < 4096)) s (hostFlag secure r i v) =
      .next (setRegion s r { region s r with held := (region s r).held ++ [(i, v, hostSecure s secure)] }) := by
    rw [run_eq (by simp [hr32, hi]) hr, hostFlag, hostCmd_eq _ _ h, flagByHost, if_pos hf]
    exact done_eq rfl rfl
  cases v
  · exact hrun
  · exact hrun

end

theorem frozenUnits : Claims.FrozenUnits := fun s =>
  ⟨fun _ => cellFrozen_stops, fun c h => ⟨(run_frozen h : execCopyLineDone c s = _), (run_frozen h : execCopyComplete c s = _)⟩, fun _ => reachFrozen_stops, fun _ => blockFrozen_stops,
    fun _ => sliceFrozen_stops, fun _ => portFrozen_stops, fun _ _ _ v h hf hi => flagByHost_waits v h hf hi⟩

end Sys2Proof.Proofs
end


section
/-! Safe points (O29: R209, R210, R491, R494, R495). -/
namespace Sys2Proof.Proofs

open Sys2Proof.Machine Sys2Proof.Laws

/-! ## The queues and the timers beside a page -/

section
variable (s : State)

theorem syncQueues_frame : ∃ q, syncQueues s = { s with hbmCtl := q } :=
  List.foldlRecOn (motive := fun t : State => ∃ q, t = { s with hbmCtl := q }) _ _ ⟨_, rfl⟩ fun t ht o _ => by
    obtain ⟨q, rfl⟩ := ht
    exact ⟨_, rfl⟩

theorem applySampling_frame (off : Bool) : ∃ c, applySampling s off = { s with chores := c } := by
  unfold applySampling
  split
  · exact ⟨_, rfl⟩
  · exact ⟨_, rfl⟩

/-! ## The plain fields (R491) -/

/-- What the safe point of a page's set `x` leaves: the set's registers with their staged fields, and the set waits no more. -/
structure Applied (k : PageKind) (i x : Nat) (s t : State) : Prop extends AtPage k i s t where
  regs : ∀ off, setOf k off = x → reg t k i off = taken s k i off
  waiting : (page t k i).waiting = (page s k i).waiting.filter (· != x)

theorem applied_applyWhole (x : Nat) : Applied k i x s (applyWhole s k i x) where
  toAtPage := atPage_applyWhole s k i x
  regs _ h := reg_applyWhole s k i x h
  waiting := waiting_applyWhole s k i x

/-- A page without rules of its own applies its plain fields whole. -/
theorem applied_applyPlain (h : k ∉ [PageKind.sec, .fab, .port, .pwr, .therm, .cal, .hbm, .block]) : Applied k i 0 s (applyPlain s k i) := by
  have hqos : Applied .qos i 0 s (applyWhole (syncQueues s) .qos i spPlain) := by
    obtain ⟨q, hq⟩ := syncQueues_frame s
    have happ := applied_applyWhole { s with hbmCtl := q } (k := .qos) (i := i) 0
    rw [hq]
    exact ⟨⟨.trans (t := { s with hbmCtl := q }) rfl happ.rest, happ.other⟩, happ.regs, happ.waiting⟩
  have htrace : ∀ off, Applied .trace i 0 s (applySampling (applyWhole s .trace i spPlain) off) := fun off => by
    have happ := applied_applyWhole s (k := .trace) (i := i) 0
    obtain ⟨c, hc⟩ := applySampling_frame (applyWhole s .trace i spPlain) off
    rw [hc]
    exact ⟨⟨.trans happ.rest rfl, happ.other⟩, happ.regs, happ.waiting⟩
  cases k
  case qos => exact hqos
  case trace => exact htrace _
  case sec | fab | port | pwr | therm | cal | hbm | block => simp at h
  all_goals exact applied_applyWhole s 0

/-- Of the sets of a page that waits for one, that one alone has its turn. -/
theorem sets_waiting {x : Nat} (h : x ∈ setsOf k) : (setsOf k).filter (fun y => [x].contains y) = [x] := by
  have hnodup : (setsOf k).Nodup := by cases k <;> decide +kernel
  have hfilter : (setsOf k).filter (fun y => [x].contains y) = (setsOf k).filter (· == x) := by
    congr 1
    funext y
    simp only [List.contains_cons, List.contains_nil, Bool.or_false]
  rw [hfilter, List.filter_beq, List.count_eq_one_of_mem hnodup h]
  rfl

/-- A page that waits for one set examines that set, and clears PARITY once it waits no more. -/
theorem applyPage_one {x : Nat} (hx : x ∈ setsOf k) (hw : (page s k i).waiting = [x]) : applyPage k i s =
    if (page (applyOne k i s x) k i).waiting = [x] then applyOne k i s x else setF (applyOne k i s x) k i f_COMMON_SHADOW_STATE_PARITY 0 := by
  rw [applyPage, hw, sets_waiting hx]
  rfl

end

section
variable {s : State} {k : PageKind} {i : Nat} (hr : inReset s = false) (hp : present s k i = true) (hu : unitOn s k i = true)
include hr hp hu

theorem exec_safePoint (hf : frozen s k i = false) (hh : reportHolds s k = false) :
    exec (.stagedApply k i none) s = done s (applyPage k i s) := by
  refine (run_eq (by rw [hp]; rfl) hr : execStagedApply k i none s = _).trans ?_
  rw [stagedApply, hu, hf, hh]
  rfl

theorem plainSafePoint (hf : frozen s k i = false) (hh : reportHolds s k = false)
    (hk : k ∉ [PageKind.sec, .fab, .port, .pwr, .therm, .cal, .hbm, .block]) (h0 : 0 ∈ setsOf k) (hw : (page s k i).waiting = [0]) :
    ∃ t, exec (.stagedApply k i none) s = .next t ∧ (page t k i).waiting = [] ∧
      (∀ off, setOf k off = 0 → reg t k i off = if off = o_COMMON_SHADOW_STATE then reg t k i off
        else (reg s k i off &&& ~~~(rwMask k off)) ||| (regStg s k i off &&& rwMask k off)) ∧
      (∀ k' i', pageNo k' i' ≠ pageNo k i → page t k' i' = page s k' i') ∧ t.hbm = s.hbm ∧ t.cells = s.cells := by
  have happ : Applied k i 0 s (applyOne k i s 0) := applied_applyPlain s hk
  have hwait : (page (applyOne k i s 0) k i).waiting = [] := by
    rw [happ.waiting, hw]
    rfl
  have hat : AtPage k i s (setF (applyOne k i s 0) k i f_COMMON_SHADOW_STATE_PARITY 0) := happ.toAtPage.trans (atPage_setF ..)
  have hpage := applyPage_one s h0 hw
  rw [hwait, if_neg (by decide)] at hpage
  refine ⟨_, (exec_safePoint hr hp hu hf hh).trans (by rw [hpage]; exact hat.rest.done), ?_, fun off ho => ?_, hat.other, hat.rest.hbm, hat.rest.cells⟩
  · rw [(activeOnly_setF ..).waiting, hwait]
  · split
    · rfl
    · rename_i hne
      rw [reg_setF_ne _ _ hne]
      exact happ.regs off ho

end

/-! ## Mismatches (R494, R495) -/

section
variable (s : State) (k : PageKind) (i : Nat) (copy : Bool) {off : Nat}

theorem activeOnly_parityErr (off : Nat) : ActiveOnly s (parityErr s k i copy off) := by
  unfold parityErr
  split
  · exact .refl
  · exact activeOnly_setReg ..

theorem reg_parityErr {x : Nat} (h : x ≠ o_COMMON_PARITY_ERR) {k' : PageKind} {i' : Nat} (off : Nat) :
    reg (parityErr s k i copy off) k' i' x = reg s k' i' x := by
  unfold parityErr
  split
  · rfl
  · exact reg_setReg_ne s _ h

/-- A mismatch stands in PARITY_ERR, or an earlier one does. -/
theorem valid_parityErr (h : off < 4096) : flag (parityErr s k i copy off) k i f_COMMON_PARITY_ERR_VALID = true := by
  unfold parityErr
  split
  · assumption
  · have hc : b2n copy ≤ 1 := by cases copy <;> decide
    rw [flag_eq_bitN, reg_setReg_self]
    simp only [bitN, BitVec.toNat_ofNat, Nat.shiftLeft_eq, Nat.shiftRight_eq_div_pow, beq_iff_eq]
    omega

/-- A counted event leaves the registers before the interrupt registers, of every page. -/
theorem reg_bumpByte_low {base sat per n x : Nat} (hx : x < 0x20) (hb : 0x20 ≤ base) (hs : 0x20 ≤ sat) {k' : PageKind} {i' : Nat} :
    reg (bumpByte s k i base sat per n) k' i' x = reg s k' i' x := by
  unfold bumpByte
  dsimp only
  split <;> exact reg_setF_ne _ _ (by dsimp only; omega)

theorem reg_ircEvent_low {x : Nat} (hx : x < 0x20) (h : Bool) (src : Nat) {k' : PageKind} {i' : Nat} :
    reg (ircEvent s h src) k' i' x = reg s k' i' x := by
  unfold ircEvent
  dsimp only
  rw [reg_setF_ne _ _ (by dsimp only; omega), reg_bumpByte_low _ _ _ hx (by decide) (by decide)]

/-- An interrupt leaves the registers before the interrupt registers, of every page. -/
theorem reg_raiseIrq_low (bit : Nat) {x : Nat} (hx : x < 0x20) {k' : PageKind} {i' : Nat} : reg (raiseIrq s k i bit) k' i' x = reg s k' i' x := by
  have hpend : reg (bumpByte (setF s k i ⟨o_COMMON_IRQ_PENDING, bit, bit⟩ 1) k i (o_COMMON_EVT_CNT 0) o_COMMON_EVT_SAT 16 (evtOf bit)) k' i' x =
      reg s k' i' x := by
    rw [reg_bumpByte_low _ _ _ hx (by decide) (by decide), reg_setF_ne _ _ (by dsimp only [o_COMMON_IRQ_PENDING]; omega)]
  unfold raiseIrq
  dsimp only
  split
  · exact hpend
  · split <;> split <;> simp only [reg_ircEvent_low _ hx, hpend]

theorem pagesOnly_chipFault : PagesOnly s (chipFault s) := by
  unfold chipFault
  split
  · exact pagesOnly_setF ..
  · exact PagesOnly.refl s

theorem reg_chipFault {x : Nat} (hx : x < 0x100) {k' : PageKind} {i' : Nat} : reg (chipFault s) k' i' x = reg s k' i' x := by
  unfold chipFault
  split
  · exact reg_setF_ne s _ (Nat.ne_of_lt (hx.trans_le (by decide)))
  · rfl

/-- A frozen page before the phase follows: FROZEN, PARITY_ERR, PARITY_SRC and bit 2 of the CHIP page. -/
def frozenAt (off : Nat) : State :=
  let s := parityErr (setF s k i f_COMMON_PAGE_STATUS_FROZEN 1) k i true off
  let s := if flag s .chip 0 f_CHIP_PARITY_SRC_VALID then s else setReg s .chip 0 o_CHIP_PARITY_SRC (BitVec.ofNat 32 (2 ^ 31 + pageNo k i * 4096))
  raiseIrq s .chip 0 2

theorem freeze_cases (off : Nat) : freeze s k i off = frozenAt s k i off ∨ freeze s k i off = chipFault (frozenAt s k i off) := by
  unfold freeze
  dsimp only
  split
  · exact .inl rfl
  · exact .inl rfl
  · exact .inl rfl
  · exact .inr rfl

theorem pagesOnly_frozenAt (off : Nat) : PagesOnly s (frozenAt s k i off) := by
  have herr := (pagesOnly_setF s k i f_COMMON_PAGE_STATUS_FROZEN 1).trans (activeOnly_parityErr _ k i true off).rest
  unfold frozenAt
  dsimp only
  split
  · exact herr.trans (pagesOnly_raiseIrq ..)
  · exact (herr.trans (pagesOnly_setReg ..)).trans (pagesOnly_raiseIrq ..)

theorem reg_frozenAt {x : Nat} (hx : x < 0x20) (off : Nat) {k' : PageKind} {i' : Nat} : reg (frozenAt s k i off) k' i' x =
    reg (parityErr (setF s k i f_COMMON_PAGE_STATUS_FROZEN 1) k i true off) k' i' x := by
  unfold frozenAt
  dsimp only
  rw [reg_raiseIrq_low _ _ _ _ hx]
  split
  · rfl
  · exact reg_setReg_ne _ _ (Nat.ne_of_lt (hx.trans_le (by decide)))

/-- A mismatch of an active copy freezes the page and is raised at the CHIP page (R495). -/
theorem freeze_freezes (h : off < 4096) : PagesOnly s (freeze s k i off) ∧ frozen (freeze s k i off) k i = true ∧
    flag (freeze s k i off) k i f_COMMON_PARITY_ERR_VALID = true ∧ bitN (reg (freeze s k i off) .chip 0 o_COMMON_IRQ_PENDING).toNat 2 = true := by
  have hfrozen : frozen (frozenAt s k i off) k i = true := by
    rw [frozen, flag, fld, reg_frozenAt _ _ _ (by decide), reg_parityErr _ _ _ _ (by decide)]
    exact flag_setF_self s (by decide) (by decide) (v := 1) (by decide)
  have hvalid : flag (frozenAt s k i off) k i f_COMMON_PARITY_ERR_VALID = true := by
    rw [flag, fld, reg_frozenAt _ _ _ (by decide)]
    exact valid_parityErr _ k i true h
  have hirq : bitN (reg (frozenAt s k i off) .chip 0 o_COMMON_IRQ_PENDING).toNat 2 = true := pending_raiseIrq _ (by decide) notIrc_chip
  rcases freeze_cases s k i off with he | he
  · rw [he]
    exact ⟨pagesOnly_frozenAt .., hfrozen, hvalid, hirq⟩
  · rw [he]
    refine ⟨(pagesOnly_frozenAt ..).trans (pagesOnly_chipFault _), ?_, ?_, ?_⟩
    · rw [frozen, flag, fld, reg_chipFault _ (by decide)]
      exact hfrozen
    · rw [flag, fld, reg_chipFault _ (by decide)]
      exact hvalid
    · rw [reg_chipFault _ (by decide)]
      exact hirq

/-- A page other than CHIP that refuses its application for a mismatch waits no more, shows PARITY and keeps what was staged (R494). -/
theorem refuseParity_refuses (hk : k ≠ .chip) (off : Nat) : PagesOnly s (refuseParity s k i off) ∧ (page (refuseParity s k i off) k i).waiting = [] ∧
    flag (refuseParity s k i off) k i f_COMMON_SHADOW_STATE_PARITY = true ∧ ∀ o, regStg (refuseParity s k i off) k i o = regStg s k i o := by
  have hswitch : switchSets s k = fun _ => false := by
    funext x
    simp [switchSets, hk]
  have he : refuseParity s k i off = parityErr (setF (setPage s k i { page s k i with waiting := [] }) k i f_COMMON_SHADOW_STATE_PARITY 1) k i false off := by
    rw [refuseParity, if_neg hk]
    dsimp only
    rw [hswitch, List.filter_false]
  have hempty : PagesOnly s (setPage s k i { page s k i with waiting := [] }) := rfl
  have hstg : ∀ o, regStg (setPage s k i { page s k i with waiting := [] }) k i o = regStg s k i o := fun o => by simp [regStg]
  have hwait : (page (setPage s k i { page s k i with waiting := [] }) k i).waiting = [] := by rw [page_setPage_self]
  rw [he]
  generalize setPage s k i { page s k i with waiting := [] } = u at *
  have hact := (activeOnly_setF u k i f_COMMON_SHADOW_STATE_PARITY 1).trans (activeOnly_parityErr _ k i false off)
  refine ⟨hempty.trans hact.rest, (hact.waiting k i).trans hwait, ?_, fun o => (hact.regStg k i o).trans (hstg o)⟩
  rw [flag, fld, reg_parityErr _ _ _ _ (by decide)]
  exact flag_setF_self u (by decide) (by decide) (v := 1) (by decide)

end

section
variable {s : State} {k : PageKind} {i : Nat} (hr : inReset s = false) (hp : present s k i = true) (hu : unitOn s k i = true)
include hr hp

theorem exec_mismatch (active : Bool) {off : Nat} (h : off < 4096) (h4 : off % 4 = 0) : exec (.stagedApply k i (some (active, off))) s =
    done s (stagedApply k i (some (active, off)) s) :=
  (run_eq (by simp [hp, h, h4]) hr : execStagedApply k i (some (active, off)) s = _)

include hu
variable {off : Nat} (ho : off < 4096) (h4 : off % 4 = 0)
include ho h4

theorem stagedMismatch (hw : (page s k i).waiting ≠ []) (hk : k ≠ .chip) : ∃ t, exec (.stagedApply k i (some (false, off))) s = .next t ∧
    (page t k i).waiting = [] ∧ flag t k i f_COMMON_SHADOW_STATE_PARITY = true ∧ (∀ o, regStg t k i o = regStg s k i o) ∧ t.hbm = s.hbm := by
  obtain ⟨hpages, hwait, hpar, hstg⟩ := refuseParity_refuses s k i hk off
  obtain ⟨hpart, hpend, hhbm, -⟩ := pagesOnly_fields hpages
  refine ⟨refuseParity s k i off, ?_, hwait, hpar, hstg, hhbm⟩
  have hgo : stagedApply k i (some (false, off)) s = refuseParity s k i off := by
    simp [stagedApply, hu, hw]
  rw [exec_mismatch hr hp _ ho h4, hgo, done_eq hpart hpend]

theorem activeMismatch : ∃ t, exec (.stagedApply k i (some (true, off))) s = .next t ∧ frozen t k i = true ∧
    flag t k i f_COMMON_PARITY_ERR_VALID = true ∧ bitN (reg t .chip 0 o_COMMON_IRQ_PENDING).toNat 2 = true ∧ t.hbm = s.hbm := by
  obtain ⟨hpages, hfrozen, hvalid, hirq⟩ := freeze_freezes s k i ho
  obtain ⟨hpart, hpend, hhbm, -⟩ := pagesOnly_fields hpages
  refine ⟨freeze s k i off, ?_, hfrozen, hvalid, hirq, hhbm⟩
  have hgo : stagedApply k i (some (true, off)) s = freeze s k i off := by
    simp [stagedApply, hu]
  rw [exec_mismatch hr hp _ ho h4, hgo, done_eq hpart hpend]

end

theorem safePoint : Claims.SafePoint := fun _ _ _ hr hp hu =>
  ⟨plainSafePoint hr hp hu, fun _ ho h4 => ⟨stagedMismatch hr hp hu ho h4, activeMismatch hr hp hu ho h4⟩⟩

/-! ## Reach fields (R209, R210) -/

section
variable {s : State} {b : Nat}

theorem applyReach_waits (h : reachFree s b = false) : applyReach s b = s := by
  rw [applyReach, h]
  rfl

theorem applyReach_refused (h : reachFree s b = true) (hc : reachBad s b ≠ 0) :
    applyReach s b = reachRefuse (unwait (dropSet s .block b spReach) .block b spReach) b (reachBad s b) := by
  rw [applyReach, h]
  exact if_neg hc

theorem applyReach_applied (h : reachFree s b = true) (hc : reachBad s b = 0) : applyReach s b = applyWhole s .block b spReach := by
  rw [applyReach, h]
  exact if_pos hc

theorem reachBad_lt (s : State) (b : Nat) : reachBad s b < 16 := by
  unfold reachBad
  dsimp only
  repeat' split
  all_goals decide

end

/-- A register with RW-S fields is none of those that a refusal or PARITY writes. -/
theorem reg_refused (s : State) (b n : Nat) {x : Nat} (h : isShadowed .block x = true) :
    reg (setF (reachRefuse s b n) .block b f_COMMON_SHADOW_STATE_PARITY 0) .block b x = reg s .block b x := by
  have hhigh : 0x100 ≤ x := high_of_isShadowed h
  have hstatus : x ≠ 0xC50 := fun he => by
    rw [he] at h
    exact absurd h (by decide +kernel)
  rw [reg_setF_ne _ _ (Nat.ne_of_gt (lt_of_lt_of_le (by decide) hhigh)), reachRefuse, reg_raiseIrq_high _ (by decide) hhigh (notIrc_block b),
    reg_setF_ne _ _ hstatus]

section
variable {s : State} {b : Nat} (hr : inReset s = false) (hp : present s .block b = true) (hu : unitOn s .block b = true)
  (hf : frozen s .block b = false) (hh : reportHolds s .block = false) (hw : (page s .block b).waiting = [1])
include hr hp hu hf hh hw

/-- The safe point of a block that waits for its reach fields. -/
theorem exec_reachSafePoint : exec (.stagedApply .block b none) s = done s (if (page (applyReach s b) .block b).waiting = [1] then applyReach s b
    else setF (applyReach s b) .block b f_COMMON_SHADOW_STATE_PARITY 0) := by
  rw [exec_safePoint hr hp hu hf hh, applyPage_one s (x := 1) (by decide) hw]
  rfl

theorem reachFields_wait (h : reachFree s b = false) : exec (.stagedApply .block b none) s = .next s := by
  rw [exec_reachSafePoint hr hp hu hf hh hw, applyReach_waits h, if_pos hw]
  exact done_eq rfl rfl

theorem reachFields_refused (h : reachFree s b = true) (hc : reachBad s b ≠ 0) : ∃ t, exec (.stagedApply .block b none) s = .next t ∧
    (page t .block b).waiting = [] ∧ fld t .block b f_BLOCK_REACH_STATUS_REFUSE = reachBad s b ∧
    bitN (reg t .block b o_COMMON_IRQ_PENDING).toNat 12 = true ∧
    (∀ off, isShadowed .block off = true → reg t .block b off = reg s .block b off) ∧ t.blocks = s.blocks := by
  have hat : AtPage .block b s (unwait (dropSet s .block b spReach) .block b spReach) := (atPage_dropSet ..).trans (atPage_unwait ..)
  have hregs : ∀ x, reg (unwait (dropSet s .block b spReach) .block b spReach) .block b x = reg s .block b x := fun x => by
    rw [reg_unwait, reg_dropSet]
  have hdrop : (page (unwait (dropSet s .block b spReach) .block b spReach) .block b).waiting = [] := by
    rw [waiting_unwait, waiting_dropSet, hw]
    rfl
  have hexec := exec_reachSafePoint hr hp hu hf hh hw
  rw [applyReach_refused h hc] at hexec
  generalize unwait (dropSet s .block b spReach) .block b spReach = u at hat hregs hdrop hexec
  obtain ⟨hpages, -, hcode, hirq⟩ := reachRefuse_leaves u (b := b) (reachBad_lt s b)
  have hact : ActiveOnly u (reachRefuse u b (reachBad s b)) := (activeOnly_setF ..).trans (activeOnly_raiseIrq ..)
  have hwait : (page (reachRefuse u b (reachBad s b)) .block b).waiting = [] := (hact.waiting _ _).trans hdrop
  rw [hwait, if_neg (by decide)] at hexec
  have hpart : (reachRefuse u b (reachBad s b)).part = s.part := hact.part.trans hat.rest.part
  have hpend : (reachRefuse u b (reachBad s b)).pending = s.pending := (congrArg State.pending hpages :).trans hat.rest.pending
  have hblocks : (reachRefuse u b (reachBad s b)).blocks = s.blocks := (congrArg State.blocks hpages :).trans hat.rest.blocks
  refine ⟨_, hexec.trans (done_eq hpart hpend), ?_, ?_, ?_, fun x hx => ?_, hblocks⟩
  · rw [(activeOnly_setF ..).waiting, hwait]
  · rw [fld_setF_off _ _ _ _ _ _ (by decide), hcode]
  · rw [reg_setF_ne _ _ (by decide), hirq]
  · rw [reg_refused u b _ hx, hregs]

theorem reachFields_applied (h : reachFree s b = true) (hc : reachBad s b = 0) : ∃ t, exec (.stagedApply .block b none) s = .next t ∧
    (page t .block b).waiting = [] ∧ (∀ off, isShadowed .block off = true → setOf .block off = 1 →
      reg t .block b off = (reg s .block b off &&& ~~~(rwMask .block off)) ||| (regStg s .block b off &&& rwMask .block off)) ∧ t.blocks = s.blocks := by
  have happ := applied_applyWhole s (k := .block) (i := b) spReach
  have hexec := exec_reachSafePoint hr hp hu hf hh hw
  rw [applyReach_applied h hc] at hexec
  generalize applyWhole s .block b spReach = u at happ hexec
  have hwait : (page u .block b).waiting = [] := by
    rw [happ.waiting, hw]
    rfl
  rw [hwait, if_neg (by decide)] at hexec
  have hat : AtPage .block b s (setF u .block b f_COMMON_SHADOW_STATE_PARITY 0) := happ.toAtPage.trans (atPage_setF ..)
  refine ⟨_, hexec.trans hat.rest.done, ?_, fun x hx hset => ?_, hat.rest.blocks⟩
  · rw [(activeOnly_setF ..).waiting, hwait]
  · rw [reg_setF_ne _ _ (Nat.ne_of_gt (lt_of_lt_of_le (by decide) (high_of_isShadowed hx)))]
    exact happ.regs x hset

end

theorem reachSafePoint : Claims.ReachSafePoint := fun _ _ hr hp hu hf hh hw =>
  ⟨reachFields_wait hr hp hu hf hh hw, reachFields_refused hr hp hu hf hh hw, reachFields_applied hr hp hu hf hh hw⟩

/-- Settles O29: safe points of plain fields, frozen units, and safe points of reach fields. -/
theorem safePointsCommitBoundaries : Obligations.SafePointsCommitBoundaries := ⟨safePoint, frozenUnits, reachSafePoint⟩

end Sys2Proof.Proofs
end

section
/-! STROBE and RESHADOW (O30: R488 to R490, R493, R494). -/
namespace Sys2Proof.Proofs

open Sys2Proof.Machine Sys2Proof.Laws

/-! ## The pages of a strobe (R489, R490) -/

theorem mem_shadowPages {p : Part} {k : PageKind} {i : Nat} : (k, i) ∈ shadowPages p ↔ kindShadowed k = true ∧ i < instCount p k := by
  have hkinds : k ∈ allKinds := by cases k <;> decide
  simp only [shadowPages, List.mem_flatMap, List.mem_filter, List.mem_map, List.mem_range, Prod.mk.injEq]
  constructor
  · rintro ⟨_, ⟨-, hk⟩, _, hi, rfl, rfl⟩
    exact ⟨hk, hi⟩
  · rintro ⟨hk, hi⟩
    exact ⟨k, ⟨hkinds, hk⟩, i, hi, rfl, rfl⟩

/-- The pages of two kinds do not overlap. -/
theorem kinds_apart (p : Part) (k k' : PageKind) : k = k' ∨ kindBase k + instCount p k ≤ kindBase k' ∨ kindBase k' + instCount p k' ≤ kindBase k := by
  cases p <;> cases k <;> cases k' <;> decide

/-- Different pages of a part have different numbers. -/
theorem pageNo_inj {p : Part} {k k' : PageKind} {i i' : Nat} (hi : i < instCount p k) (hi' : i' < instCount p k') (h : pageNo k i = pageNo k' i') :
    (k, i) = (k', i') := by
  unfold pageNo at h
  rcases kinds_apart p k k' with rfl | hk | hk
  · rw [Nat.add_left_cancel h]
  · omega
  · omega

theorem nodup_shadowPages (p : Part) : (shadowPages p).Nodup := by
  have hkinds : (allKinds.filter kindShadowed).Nodup := by decide
  refine List.nodup_flatMap.2 ⟨fun k _ => List.nodup_range.map fun i j h => (Prod.mk.inj h).2, hkinds.imp fun {k k'} hne => ?_⟩
  intro x hx hx'
  obtain ⟨i, -, rfl⟩ := List.mem_map.1 hx
  obtain ⟨j, -, hj⟩ := List.mem_map.1 hx'
  exact hne (Prod.mk.inj hj).1.symm

/-! ## Staging -/

/-- Two states in whose pages only what is staged and what waits differ. -/
structure StagedOnly (s t : State) : Prop where
  rest : ConfigOnly s t
  pages : ∀ k i, page t k i = { page s k i with stg := (page t k i).stg, waiting := (page t k i).waiting, via := (page t k i).via }

section
variable {s t u : State}

theorem StagedOnly.refl : StagedOnly s s := ⟨rfl, fun _ _ => rfl⟩

theorem StagedOnly.trans (h : StagedOnly s t) (g : StagedOnly t u) : StagedOnly s u := ⟨h.rest.trans g.rest, fun k i => by rw [g.pages, h.pages]⟩

theorem StagedOnly.reg (h : StagedOnly s t) (k : PageKind) (i x : Nat) : Machine.reg t k i x = Machine.reg s k i x := by
  rw [Machine.reg, Machine.reg, h.pages, h.rest.part]

theorem StagedOnly.regShd (h : StagedOnly s t) (k : PageKind) (i x : Nat) : Machine.regShd t k i x = Machine.regShd s k i x := by
  rw [Machine.regShd, Machine.regShd, h.pages, h.rest.part]

/-- A page written with other staged values and other sets that wait. -/
theorem stagedOnly_setPage (s : State) (k : PageKind) (i : Nat) (g : List (Nat × W32)) (w : List Nat) (v : Nat) :
    StagedOnly s (setPage s k i { page s k i with stg := g, waiting := w, via := v }) := by
  refine ⟨rfl, fun k' i' => ?_⟩
  by_cases hp : pageNo k' i' = pageNo k i
  · have hpage : page s k' i' = page s k i := by unfold page; rw [hp]
    rw [page_setPage, if_pos hp, hpage]
  · rw [page_setPage, if_neg hp]

end

/-- Two states in whose CHIP page only what is staged and what waits differ, and no other page. -/
structure ChipStaged (s t : State) : Prop where
  staged : StagedOnly s t
  chip : AtPage .chip 0 s t

section
variable {s t u : State}

theorem ChipStaged.refl : ChipStaged s s := ⟨.refl, .refl⟩

theorem ChipStaged.trans (h : ChipStaged s t) (g : ChipStaged t u) : ChipStaged s u := ⟨h.staged.trans g.staged, h.chip.trans g.chip⟩

theorem chipStaged_foldl {α : Type} (f : State → α → State) (l : List α) (h : ∀ s x, ChipStaged s (f s x)) : ChipStaged s (l.foldl f s) :=
  List.foldlRecOn l f ChipStaged.refl fun t ht x _ => ht.trans (h t x)

variable (s)

theorem chipStaged_cache (c : CacheCtl) : ChipStaged s { s with cache := c } := ⟨⟨rfl, fun _ _ => rfl⟩, ⟨rfl, fun _ _ _ => rfl⟩⟩

theorem chipStaged_setStg (o : Nat) (v : W32) : ChipStaged s (setStg s .chip 0 o v) := ⟨stagedOnly_setPage s .chip 0 _ _ _, atPage_setStg s o v⟩

theorem chipStaged_dropSet (x : Nat) : ChipStaged s (dropSet s .chip 0 x) := chipStaged_foldl _ _ fun t _ => chipStaged_setStg t _ _

/-- A partition staged by its own group works at the CHIP page (R244). -/
theorem chipStaged_stagePart (groups p : Nat) : ChipStaged s (stagePart groups s p) := by
  have hprof : ChipStaged s (stageProfiles (· == p) s) := ⟨⟨rfl, fun _ _ => rfl⟩, ⟨rfl, fun _ _ _ => rfl⟩⟩
  exact ((hprof.trans (chipStaged_setStg ..)).trans (chipStaged_setStg ..)).trans ⟨stagedOnly_setPage _ .chip 0 _ _ _, atPage_setPage _ _⟩

/-- The partitions whose own groups a strobe names are staged first, unless it names the CHIP page (R244, R490). -/
def partsStaged (groups : Nat) (s : State) : State :=
  if bitN groups 0 then s
  else ((List.range 8).filter (fun p => let g := fld s .chip 0 (f_CHIP_PART_CFG_SGRP p); g != 0 && bitN groups g)).foldl (stagePart groups) s

theorem chipStaged_partsStaged (groups : Nat) : ChipStaged s (partsStaged groups s) := by
  unfold partsStaged
  split
  · exact .refl
  · exact chipStaged_foldl _ _ fun t p => chipStaged_stagePart t groups p

/-- A window that is switching keeps its active fields (R494). -/
def windowKept (s : State) (n : Nat) : State := if switching s n then setWinTo (dropSet s .chip 0 (spWin n)) n (swin s n) else s

/-- A remap entry that is switching keeps its active fields (R494). -/
def remapKept (s : State) (i : Nat) : State :=
  let s := dropSet s .chip 0 (spRemap i)
  { s with cache := { s.cache with remapTo := mset 0 s.cache.remapTo i (reg s .chip 0 (o_CHIP_SLICE_REMAP i)) } }

/-- Every window and every remap entry that is switching. -/
def placementKept (s : State) : State :=
  let s := (List.range 32).foldl windowKept s
  s.cache.remapSw.foldl remapKept s

theorem keepActive_eq : keepActive s = if (placementKept s).cache.feSw then
    feSwitchTo (dropSet (placementKept s) .chip 0 spFe) (feActive (placementKept s)) else placementKept s := rfl

theorem chipStaged_placementKept : ChipStaged s (placementKept s) := by
  have hwindow : ∀ (t : State) (n : Nat), ChipStaged t (windowKept t n) := fun t n => by
    unfold windowKept
    split
    · exact (chipStaged_dropSet t _).trans (chipStaged_cache _ _)
    · exact .refl
  have hremap : ∀ (t : State) (n : Nat), ChipStaged t (remapKept t n) := fun t n => (chipStaged_dropSet t _).trans (chipStaged_cache _ _)
  exact (chipStaged_foldl _ _ hwindow).trans (chipStaged_foldl _ _ hremap)

/-- The sets that are switching end without a change: CHIP's staged values and the cache die's record of switches change (R494). -/
theorem chipStaged_keepActive : ChipStaged s (keepActive s) := by
  rw [keepActive_eq]
  split
  · exact (chipStaged_placementKept s).trans ((chipStaged_dropSet _ _).trans (chipStaged_cache _ _))
  · exact chipStaged_placementKept s

end

/-! ## One page of a strobe (R490, R494) -/

/-- What a strobe does at one of its pages: it stages, or refuses for a mismatch of its shadow. -/
def deliver (groups : Nat) (bad : List ((PageKind × Nat) × Nat)) (s : State) (x : PageKind × Nat) : State :=
  match bad.find? (fun y => y.1 == x) with
  | some y => refuseParity s x.1 x.2 y.2
  | none => stagePage groups x.1 x.2 s

/-- A strobe stages partitions, and delivers to the powered pages that it names, in their order. -/
theorem strobe_eq (groups : Nat) (bad : List ((PageKind × Nat) × Nat)) (s : State) : strobe groups bad s =
    ((shadowPages s.part).filter (fun x => names s groups x.1 x.2 && unitOn s x.1 x.2)).foldl (deliver groups bad) (partsStaged groups s) := rfl

/-- What a delivery to a page leaves of the device. -/
structure Delivered (k : PageKind) (i : Nat) (s t : State) : Prop extends AtPage k i s t where
  shadows : ∀ k' i' o, regShd t k' i' o = regShd s k' i' o

section
variable {s t u : State} {k : PageKind} {i : Nat}

theorem delivered_of_steps (h : StagedOnly s t) (g : ActiveOnly t u) (ha : AtPage k i s u) : Delivered k i s u :=
  ⟨ha, fun k' i' o => (g.regShd k' i' o).trans (h.regShd k' i' o)⟩

variable (s)

/-- A refusal drops what waits, sets PARITY and records the register. -/
theorem refuseParity_eq (off : Nat) : ∃ u, StagedOnly s u ∧ ((k = .chip → i = 0) → AtPage k i s u) ∧
    refuseParity s k i off = parityErr (setF u k i f_COMMON_SHADOW_STATE_PARITY 1) k i false off := by
  have hstaged : StagedOnly s (if k = .chip then keepActive s else s) := by
    split
    · exact (chipStaged_keepActive s).staged
    · exact .refl
  have hat : (k = .chip → i = 0) → AtPage k i s (if k = .chip then keepActive s else s) := fun hi => by
    split
    · rename_i hk
      rw [hi hk, hk]
      exact (chipStaged_keepActive s).chip
    · exact .refl
  exact ⟨_, hstaged.trans (stagedOnly_setPage _ k i _ _ _), fun hi => (hat hi).trans (atPage_setPage _ _), rfl⟩

theorem atPage_parityErr (copy : Bool) (off : Nat) : AtPage k i s (parityErr s k i copy off) := by
  unfold parityErr
  split
  · exact .refl
  · exact atPage_setReg ..

theorem delivered_refuseParity (hi : k = .chip → i = 0) (off : Nat) : Delivered k i s (refuseParity s k i off) := by
  obtain ⟨u, hstaged, hat, he⟩ := refuseParity_eq s (k := k) (i := i) off
  rw [he]
  exact delivered_of_steps hstaged ((activeOnly_setF u ..).trans (activeOnly_parityErr ..))
    (((hat hi).trans (atPage_setF u ..)).trans (atPage_parityErr _ ..))

theorem parity_refuseParity (off : Nat) : flag (refuseParity s k i off) k i f_COMMON_SHADOW_STATE_PARITY = true := by
  obtain ⟨u, -, -, he⟩ := refuseParity_eq s (k := k) (i := i) off
  rw [he, flag, fld, reg_parityErr _ _ _ _ (by decide)]
  exact flag_setF_self u (by decide) (by decide) (v := 1) (by decide)

/-- A page that stages takes its shadows, waits for its safe points and is DIRTY no more. -/
theorem stagePage_eq (groups : Nat) : ∃ v c f, stagePage groups k i s = setF { setPage s k i { page s k i with
    stg := (page s k i).shd, waiting := setsOf k, via := v } with chores := c, fab := f } k i f_COMMON_SHADOW_STATE_DIRTY 0 := by
  unfold stagePage
  dsimp only
  split <;> split
  · exact ⟨_, _, _, rfl⟩
  · exact ⟨_, _, _, rfl⟩
  · exact ⟨_, _, _, rfl⟩
  · exact ⟨_, _, _, rfl⟩

theorem delivered_stagePage (groups : Nat) : Delivered k i s (stagePage groups k i s) := by
  obtain ⟨v, c, f, he⟩ := stagePage_eq s (k := k) (i := i) groups
  have hrest : ∀ u : State, StagedOnly u { u with chores := c, fab := f } := fun _ => ⟨rfl, fun _ _ => rfl⟩
  have hat : ∀ u : State, AtPage k i u { u with chores := c, fab := f } := fun _ => ⟨rfl, fun _ _ _ => rfl⟩
  rw [he]
  exact delivered_of_steps ((stagedOnly_setPage s ..).trans (hrest _)) (activeOnly_setF ..)
    (((atPage_setPage s _).trans (hat _)).trans (atPage_setF _ ..))

theorem stagePage_stages (groups : Nat) : (page (stagePage groups k i s) k i).waiting = setsOf k ∧
    (∀ o, regStg (stagePage groups k i s) k i o = regShd s k i o) ∧
    (∀ o, o ≠ o_COMMON_SHADOW_STATE → reg (stagePage groups k i s) k i o = reg s k i o) ∧
    flag (stagePage groups k i s) k i f_COMMON_SHADOW_STATE_DIRTY = false := by
  obtain ⟨v, c, f, he⟩ := stagePage_eq s (k := k) (i := i) groups
  have hpage : ∀ w, page { setPage s k i w with chores := c, fab := f } k i = w := fun w => page_setPage_self s k i w
  rw [he]
  refine ⟨?_, fun o => ?_, fun o ho => ?_, flag_setF_self _ (by decide) (by decide) (v := 0) (by decide)⟩
  · rw [(activeOnly_setF ..).waiting, hpage]
  · rw [(activeOnly_setF ..).regStg, regStg, hpage]
    rfl
  · rw [reg_setF_ne _ _ ho, reg, hpage]
    rfl

end

/-! ## STROBE (R488 to R490, R494) -/

section
variable {s : State} {k : PageKind} {i groups : Nat} {bad : List ((PageKind × Nat) × Nat)}

theorem delivered_deliver (s : State) {x : PageKind × Nat} (hi : x.1 = .chip → x.2 = 0) : Delivered x.1 x.2 s (deliver groups bad s x) := by
  unfold deliver
  split
  · exact delivered_refuseParity s hi _
  · exact delivered_stagePage s _

/-- Deliveries to other pages leave a page as it is. -/
theorem page_deliveries (s : State) {l : List (PageKind × Nat)} (h : ∀ x ∈ l, (x.1 = .chip → x.2 = 0) ∧ pageNo k i ≠ pageNo x.1 x.2) :
    ConfigOnly s (l.foldl (deliver groups bad) s) ∧ page (l.foldl (deliver groups bad) s) k i = page s k i :=
  List.foldlRecOn (motive := fun t => ConfigOnly s t ∧ page t k i = page s k i) l _ ⟨rfl, rfl⟩ fun t ht x hx =>
    have hstep := (delivered_deliver (groups := groups) (bad := bad) t (h x hx).1).toAtPage
    ⟨ht.1.trans hstep.rest, (hstep.other k i (h x hx).2).trans ht.2⟩

theorem chip_first {p : Part} (h : (k, i) ∈ shadowPages p) (hk : k = .chip) : i = 0 := by
  have hlt := (mem_shadowPages.1 h).2
  have hone : instCount p .chip = 1 := by cases p <;> rfl
  rw [hk, hone] at hlt
  omega

/-- Among its deliveries, a strobe delivers once to a powered page that it names: the page is left as after it. -/
theorem strobe_delivers (hmem : (k, i) ∈ shadowPages s.part) (hn : names s groups k i = true) (hu : unitOn s k i = true) :
    ∃ u, ConfigOnly s u ∧ page u k i = page (partsStaged groups s) k i ∧ ConfigOnly s (strobe groups bad s) ∧
      page (strobe groups bad s) k i = page (deliver groups bad u (k, i)) k i := by
  have hmem' : (k, i) ∈ (shadowPages s.part).filter (fun x => names s groups x.1 x.2 && unitOn s x.1 x.2) :=
    List.mem_filter.2 ⟨hmem, by rw [hn, hu]; rfl⟩
  have hnodup := (nodup_shadowPages s.part).filter (fun x => names s groups x.1 x.2 && unitOn s x.1 x.2)
  have hsub : ∀ x ∈ (shadowPages s.part).filter (fun x => names s groups x.1 x.2 && unitOn s x.1 x.2), x ∈ shadowPages s.part := fun x hx =>
    List.mem_of_mem_filter hx
  rw [strobe_eq]
  generalize (shadowPages s.part).filter (fun x => names s groups x.1 x.2 && unitOn s x.1 x.2) = ps at *
  obtain ⟨l, r, rfl⟩ := List.append_of_mem hmem'
  obtain ⟨-, hr, hlr⟩ := List.nodup_append.1 hnodup
  have happly : ∀ x ∈ l ++ r, (x.1 = .chip → x.2 = 0) ∧ pageNo k i ≠ pageNo x.1 x.2 := fun x hx => by
    have hne : x ≠ (k, i) := by
      rcases List.mem_append.1 hx with hx | hx
      · exact hlr x hx _ List.mem_cons_self
      · exact fun he => (List.nodup_cons.1 hr).1 (he ▸ hx)
    have hxs := hsub x (by rcases List.mem_append.1 hx with hx | hx <;> simp [hx])
    exact ⟨chip_first hxs, fun he => hne (pageNo_inj (mem_shadowPages.1 hmem).2 (mem_shadowPages.1 hxs).2 he).symm⟩
  have hbefore := page_deliveries (groups := groups) (bad := bad) (partsStaged groups s) fun x hx => happly x (List.mem_append_left r hx)
  have hparts := (chipStaged_partsStaged s groups).staged.rest
  rw [List.foldl_append, List.foldl_cons]
  generalize l.foldl (deliver groups bad) (partsStaged groups s) = u at *
  have hthis := (delivered_deliver (groups := groups) (bad := bad) u (x := (k, i)) (chip_first hmem)).rest
  have hafter := page_deliveries (groups := groups) (bad := bad) (deliver groups bad u (k, i)) fun x hx => happly x (List.mem_append_right l hx)
  exact ⟨u, hparts.trans hbefore.1, hbefore.2, ((hparts.trans hbefore.1).trans hthis).trans hafter.1, hafter.2⟩

/-- The copies of a page's registers are in the page. -/
theorem copies_congr {t : State} (hp : t.part = s.part) (h : page t k i = page s k i) (o : Nat) :
    reg t k i o = reg s k i o ∧ regStg t k i o = regStg s k i o ∧ regShd t k i o = regShd s k i o := by
  simp only [reg, regStg, regShd, hp, h, and_self]

/-- A delivery to a page without a mismatch. -/
theorem deliver_stages (h : ∀ y ∈ bad, y.1 ≠ (k, i)) (s : State) : deliver groups bad s (k, i) = stagePage groups k i s := by
  have hnone : bad.find? (fun y => y.1 == (k, i)) = none := List.find?_eq_none.2 fun y hy => by simpa using h y hy
  rw [deliver, hnone]

theorem deliver_refuses {off : Nat} {rest : List ((PageKind × Nat) × Nat)} (h : bad = ((k, i), off) :: rest) (s : State) :
    deliver groups bad s (k, i) = refuseParity s k i off := by
  have hfirst : bad.find? (fun y => y.1 == (k, i)) = some ((k, i), off) := by simp [h]
  rw [deliver, hfirst]

theorem strobe_stages (hmem : (k, i) ∈ shadowPages s.part) (hn : names s groups k i = true) (hu : unitOn s k i = true) :
    ConfigOnly s (strobe groups bad s) ∧ (∀ off, regShd (strobe groups bad s) k i off = regShd s k i off) ∧
    ((∀ y ∈ bad, y.1 ≠ (k, i)) → (page (strobe groups bad s) k i).waiting = setsOf k ∧
      (∀ off, regStg (strobe groups bad s) k i off = regShd s k i off) ∧
      (∀ off, off ≠ o_COMMON_SHADOW_STATE → reg (strobe groups bad s) k i off = reg s k i off) ∧
      flag (strobe groups bad s) k i f_COMMON_SHADOW_STATE_DIRTY = false) ∧
    (∀ off rest, bad = ((k, i), off) :: rest → flag (strobe groups bad s) k i f_COMMON_SHADOW_STATE_PARITY = true ∧
      (k ≠ .chip → ∀ o, regStg (strobe groups bad s) k i o = regStg s k i o)) := by
  obtain ⟨u, hu, hpage, ht, htpage⟩ := strobe_delivers (bad := bad) hmem hn hu
  obtain ⟨hparts, hatChip⟩ := chipStaged_partsStaged s groups
  have hbefore := copies_congr (hu.part.trans hparts.rest.part.symm) hpage
  have hshd : ∀ o, regShd u k i o = regShd s k i o := fun o => (hbefore o).2.2.trans (hparts.regShd k i o)
  have hreg : ∀ o, reg u k i o = reg s k i o := fun o => (hbefore o).1.trans (hparts.reg k i o)
  have hdel := delivered_deliver (groups := groups) (bad := bad) u (x := (k, i)) (chip_first hmem)
  have hafter := copies_congr (ht.part.trans (hdel.rest.part.trans hu.part).symm) htpage
  refine ⟨ht, fun o => (hafter o).2.2.trans ((hdel.shadows k i o).trans (hshd o)), fun hgood => ?_, fun off rest hbad => ?_⟩
  · rw [deliver_stages hgood] at hafter htpage
    obtain ⟨hwait, hstg, hact, hdirty⟩ := stagePage_stages u (k := k) (i := i) groups
    refine ⟨htpage ▸ hwait, fun o => (hafter o).2.1.trans ((hstg o).trans (hshd o)), fun o ho => (hafter o).1.trans ((hact o ho).trans (hreg o)), ?_⟩
    rw [flag, fld, (hafter _).1]
    exact hdirty
  · rw [deliver_refuses hbad] at hafter
    refine ⟨?_, fun hk o => ?_⟩
    · rw [flag, fld, (hafter _).1]
      exact parity_refuseParity u off
    · have hother : pageNo k i ≠ pageNo .chip 0 := fun he =>
        hk (Prod.mk.inj (pageNo_inj (mem_shadowPages.1 hmem).2 (by cases s.part <;> decide) he)).1
      have hsame := copies_congr hparts.rest.part (hatChip.other k i hother) o
      exact (hafter o).2.1.trans (((refuseParity_refuses u k i hk off).2.2.2 o).trans ((hbefore o).2.1.trans hsame.2.1))

end

theorem strobeStages : Claims.StrobeStages := by
  intro s secure groups bad k i hr hg hbad hmem hn hu
  obtain ⟨hrest, hall⟩ := strobe_stages (bad := bad) hmem hn hu
  have hok : (groups < 65536 && bad.all (fun x => x.2 < 4096) : Bool) = true := by
    rw [decide_eq_true hg, Bool.true_and]
    exact List.all_eq_true.2 fun x hx => decide_eq_true (hbad x hx)
  have hstep : exec (.strobe secure groups bad) s = .next (strobe groups bad s) := by
    refine (run_eq hok hr.1 : execStrobe secure groups bad s = _).trans ?_
    rw [hostCmd_eq _ _ hr, hrest.done]
  exact ⟨_, hstep, hrest.hbm, hrest.cells, hrest.slices, hall⟩

end Sys2Proof.Proofs
end

section
/-! RESHADOW: the shadows follow the values that will govern (O30: R493). -/
namespace Sys2Proof.Proofs

open Sys2Proof.Machine Sys2Proof.Laws

section
variable (s : State) (k : PageKind) (i : Nat) {x : Nat}

theorem futureReg_setShd (o : Nat) (v : W32) : futureReg (setShd s k i o v) k i x = futureReg s k i x := by
  simp [futureReg, reg, regStg, setShd]

theorem regShd_setShd (o : Nat) (v : W32) : regShd (setShd s k i o v) k i x = if x = o then v else regShd s k i x := by
  simp only [regShd, setShd, page_setPage_self, setPage_part]
  by_cases h : x = o
  · subst h; simp
  · rw [if_neg h, reg_setReg.mget_mset_other _ _ _ _ _ _ h]

theorem futureReg_of_unheld (hsh : isShadowed k x = true) (h : x ∉ heldOffs s k i) : regShd s k i x = futureReg s k i x := by
  obtain ⟨hact, hstg, hshd⟩ := copies_of_unheld s k i hsh h
  rw [futureReg, hact, hstg, hshd, ite_self]

/-- The shadows of the listed registers take the values that will govern. -/
def shadowsTaken (l : List Nat) : State := l.foldl (fun s o => setShd s k i o (futureReg s k i o)) s

theorem regShd_shadowsTaken (l : List Nat) : regShd (shadowsTaken s k i l) k i x = if x ∈ l then futureReg s k i x else regShd s k i x := by
  induction l generalizing s with
  | nil => rfl
  | cons o t ih =>
    rw [shadowsTaken, List.foldl_cons, ← shadowsTaken, ih, futureReg_setShd, regShd_setShd]
    by_cases ho : x = o <;> simp [ho]

theorem reg_shadowsTaken (l : List Nat) : reg (shadowsTaken s k i l) k i x = reg s k i x :=
  List.foldlRecOn (motive := fun t => reg t k i x = reg s k i x) l _ rfl fun t ht o _ => (reg_setShd t k i o x _).trans ht

theorem atPage_shadowsTaken (l : List Nat) : AtPage k i s (shadowsTaken s k i l) := atPage_foldl _ l fun t o _ => atPage_setShd t o _

theorem reshadow_eq (h : kindShadowed k = true) : ∃ c f, reshadow k i s =
    setF { shadowsTaken s k i (heldOffs s k i) with chores := c, fab := f } k i f_COMMON_SHADOW_STATE_DIRTY 0 := by
  rw [reshadow, if_neg (by rw [h]; decide)]
  dsimp only
  rw [← shadowsTaken]
  split <;> split
  · exact ⟨_, _, rfl⟩
  · exact ⟨_, _, rfl⟩
  · exact ⟨_, _, rfl⟩
  · exact ⟨_, _, rfl⟩

theorem reshadow_governs (h : kindShadowed k = true) : ConfigOnly s (reshadow k i s) ∧
    (∀ off, isShadowed k off = true → regShd (reshadow k i s) k i off = futureReg s k i off) ∧
    flag (reshadow k i s) k i f_COMMON_SHADOW_STATE_DIRTY = false ∧
    ∀ off, off ≠ o_COMMON_SHADOW_STATE → reg (reshadow k i s) k i off = reg s k i off := by
  obtain ⟨c, f, he⟩ := reshadow_eq s k i h
  have hrest : ∀ u : State, ConfigOnly u { u with chores := c, fab := f } := fun _ => rfl
  rw [he]
  refine ⟨((atPage_shadowsTaken s k i _).rest.trans (hrest _)).trans (atPage_setF (k := k) (i := i) _ ..).rest, fun off hsh => ?_,
    flag_setF_self _ (by decide) (by decide) (v := 0) (by decide), fun off ho => ?_⟩
  · refine (regShd_setF _ k i off _ _).trans ((regShd_shadowsTaken s k i _).trans ?_)
    split
    · rfl
    · rename_i hx
      exact futureReg_of_unheld s k i hsh hx
  · exact (reg_setF_ne _ _ ho).trans (reg_shadowsTaken s k i _)

end

theorem reshadowGoverns (s : State) (secure : Bool) (k : PageKind) (i : Nat) (hr : reaches s secure k i) (hi : i < 1440)
    (h : kindShadowed k = true) : ∃ t, exec (.reshadow secure k i) s = .next t ∧
      (∀ off, isShadowed k off = true → regShd t k i off = futureReg s k i off) ∧ flag t k i f_COMMON_SHADOW_STATE_DIRTY = false ∧
      (∀ off, off ≠ o_COMMON_SHADOW_STATE → reg t k i off = reg s k i off) ∧ t.hbm = s.hbm ∧ t.cells = s.cells := by
  obtain ⟨hrest, hshd, hdirty, hreg⟩ := reshadow_governs s k i h
  have hstep : exec (.reshadow secure k i) s = .next (reshadow k i s) := by
    refine (run_eq (decide_eq_true hi) hr.1 : execReshadow secure k i s = _).trans ?_
    rw [hostCmd_eq _ _ hr, hrest.done]
  exact ⟨_, hstep, hshd, hdirty, hreg, hrest.hbm, hrest.cells⟩

end Sys2Proof.Proofs
end

section
/-! What work on the lines of the cache die leaves of the device (O30: R266, R292). -/
namespace Sys2Proof.Proofs

open Sys2Proof.Machine Sys2Proof.Laws

/-- Two states that differ in the slices, the HBM, the requests, register pages other than CHIP's, and in which lines are lost. No FULL bit
changes. -/
structure LineWork (s t : State) : Prop where
  rest : t = { s with
    pages := t.pages, slices := t.slices, hbm := t.hbm, hbmCtl := t.hbmCtl, reqs := t.reqs, cache := { s.cache with lost := t.cache.lost } }
  chip : page t .chip 0 = page s .chip 0
  full : ∀ j, (slice t j).feFull = (slice s j).feFull

section
variable {s t u : State}

theorem LineWork.refl : LineWork s s := ⟨rfl, rfl, fun _ => rfl⟩

theorem LineWork.trans (h : LineWork s t) (g : LineWork t u) : LineWork s u where
  rest := by rw [g.rest, h.rest]
  chip := g.chip.trans h.chip
  full j := (g.full j).trans (h.full j)

theorem LineWork.part (h : LineWork s t) : t.part = s.part := (congrArg State.part h.rest :)
theorem LineWork.pending (h : LineWork s t) : t.pending = s.pending := (congrArg State.pending h.rest :)
theorem LineWork.cells (h : LineWork s t) : t.cells = s.cells := (congrArg State.cells h.rest :)
theorem LineWork.remapSw (h : LineWork s t) : t.cache.remapSw = s.cache.remapSw := by rw [h.rest]
theorem LineWork.feSw (h : LineWork s t) : t.cache.feSw = s.cache.feSw := by rw [h.rest]
theorem LineWork.feTo (h : LineWork s t) : t.cache.feTo = s.cache.feTo := by rw [h.rest]

theorem LineWork.reg (h : LineWork s t) (x : Nat) : Machine.reg t .chip 0 x = Machine.reg s .chip 0 x := by
  rw [Machine.reg, Machine.reg, h.chip, h.part]

theorem LineWork.regStg (h : LineWork s t) (x : Nat) : Machine.regStg t .chip 0 x = Machine.regStg s .chip 0 x := by
  rw [Machine.regStg, Machine.regStg, h.chip, h.part]

theorem lineWork_foldl {α : Type} (f : State → α → State) (l : List α) (h : ∀ s, ∀ x ∈ l, LineWork s (f s x)) : LineWork s (l.foldl f s) :=
  List.foldlRecOn l f LineWork.refl fun t ht x hx => ht.trans (h t x hx)

end

/-! ## Registers and counters of another page -/

theorem slice_beside : PageKind.slice ≠ .chip := nofun
theorem hbm_beside : PageKind.hbm ≠ .chip := nofun

section
variable {k : PageKind} (hk : k ≠ .chip) (s : State) (i : Nat)
include hk

theorem chip_apart : pageNo .chip 0 ≠ pageNo k i := by
  have hbase : kindBase .chip < kindBase k := by
    revert hk
    cases k <;> decide
  unfold pageNo
  omega

theorem lineWork_setPage (v : Page) : LineWork s (setPage s k i v) := ⟨rfl, by rw [page_setPage, if_neg (chip_apart hk i)], fun _ => rfl⟩
theorem lineWork_setF (f : Fld) (v : Nat) : LineWork s (setF s k i f v) := lineWork_setPage hk s i _
theorem lineWork_setCtr (o : Nat) (v : W64) : LineWork s (setCtr s k i o v) := lineWork_setPage hk s i _
theorem lineWork_bumpField (f : Fld) (n : Nat) : LineWork s (bumpField s k i f n) := lineWork_setPage hk s i _

theorem lineWork_bumpByte (base sat per n : Nat) : LineWork s (bumpByte s k i base sat per n) := by
  unfold bumpByte
  dsimp only
  split <;> exact lineWork_setF hk ..

theorem lineWork_raiseIrq (bit : Nat) : LineWork s (raiseIrq s k i bit) := by
  have hevent : ∀ (u : State) (h : Bool) (src : Nat), LineWork u (ircEvent u h src) := fun u h src => by
    have hirc : (if h then PageKind.ircH else .ircM) ≠ .chip := by cases h <;> decide
    exact (lineWork_bumpByte hirc u ..).trans (lineWork_setF hirc ..)
  have hpend := (lineWork_setF hk s i ⟨o_COMMON_IRQ_PENDING, bit, bit⟩ 1).trans
    (lineWork_bumpByte hk _ i (o_COMMON_EVT_CNT 0) o_COMMON_EVT_SAT 16 (evtOf bit))
  unfold raiseIrq
  dsimp only
  split
  · exact hpend
  · split <;> split
    · exact (hpend.trans (hevent ..)).trans (hevent ..)
    · exact hpend.trans (hevent ..)
    · exact hpend.trans (hevent ..)
    · exact hpend

theorem lineWork_bump (off n : Nat) : LineWork s (bump s k i off n) := by
  unfold bump
  dsimp only
  split
  · split
    · exact .refl
    · split
      · exact lineWork_setCtr hk ..
      · exact (lineWork_setCtr hk s ..).trans (lineWork_raiseIrq hk ..)
  · split <;> exact lineWork_setCtr hk ..
  · exact .refl

theorem lineWork_bucketAdd (off cfg irq : Nat) : LineWork s (bucketAdd s k i off cfg irq) := by
  unfold bucketAdd
  dsimp only
  split
  · exact ((lineWork_setF hk s ..).trans (lineWork_setF hk ..)).trans (lineWork_raiseIrq hk ..)
  · exact lineWork_setF hk s ..

end

section
variable (s : State)

/-! ## Slices and their logs (R297, R385) -/

theorem lineWork_setSlice (sl : Nat) (v : Slice) (h : v.feFull = (slice s sl).feFull) : LineWork s (setSlice s sl v) := by
  refine ⟨rfl, rfl, fun j => ?_⟩
  rw [slice_setSlice]
  split
  · rename_i hj
    rw [hj, h]
  · rfl

theorem lineWork_setWay (sl key : Nat) (w : Way) : LineWork s (setWay s sl key w) := lineWork_setSlice s sl _ rfl

theorem lineWork_sliceLog (sl type : Nat) (lbl : Byte) (src : Src) (a r : W16) (l : Nat) : LineWork s (sliceLog s sl type lbl src a r l) := by
  have hlog : ∀ g, LineWork s (setSlice s sl { slice s sl with log := g }) := fun _ => lineWork_setSlice s sl _ rfl
  unfold sliceLog
  dsimp only
  split
  · exact .refl
  · split
    · exact (lineWork_bumpField slice_beside s ..).trans (lineWork_raiseIrq slice_beside ..)
    · exact (hlog _).trans (lineWork_setF slice_beside ..)

theorem lineWork_sliceErr (sl type src word : Nat) (syn lbl : Byte) (l : Nat) : LineWork s (sliceErr s sl type src word syn lbl l) := by
  have hset : ∀ g, LineWork s (setSlice s sl { slice s sl with elog := g }) := fun _ => lineWork_setSlice s sl _ rfl
  have hlog : ∀ g : List ErrEntry, LineWork s (setF (setSlice s sl { slice s sl with elog := g }) .slice sl f_SLICE_ERR_LOG_STATUS_COUNT g.length) :=
    fun g => (hset g).trans (lineWork_setF slice_beside ..)
  unfold sliceErr
  dsimp only
  split
  · exact (hlog _).trans (lineWork_bumpField slice_beside ..)
  · exact hlog _

theorem lineWork_sliceCE (sl src word : Nat) (syn lbl : Byte) (l : Nat) : LineWork s (sliceCE s sl src word syn lbl l) :=
  ((lineWork_bump slice_beside s ..).trans (lineWork_bucketAdd slice_beside ..)).trans (lineWork_sliceErr ..)

theorem lineWork_sliceUE (sl src word : Nat) (syn lbl : Byte) (l : Nat) : LineWork s (sliceUE s sl src word syn lbl l) :=
  ((lineWork_bump slice_beside s ..).trans (lineWork_raiseIrq slice_beside ..)).trans (lineWork_sliceErr ..)

/-! ## Ways (R268 to R270, R372, R390) -/

theorem lineWork_putBody (sl key : Nat) (b : Body) (w : BitVec 32) : LineWork s (putBody s sl key b w) := by
  unfold putBody
  dsimp only
  split
  · exact (lineWork_setF slice_beside s ..).trans (lineWork_setWay ..)
  · exact lineWork_setWay s ..

theorem lineWork_decodeWords (sl key src : Nat) (lbl : Byte) (mask : BitVec 32) (fix : Bool) (l : List (Nat × Byte)) :
    LineWork s (decodeWords s sl key src lbl mask fix l).1 := by
  induction l with
  | nil => exact .refl
  | cons x l ih =>
    obtain ⟨i, syn⟩ := x
    unfold decodeWords
    dsimp only
    split
    · exact ih
    · split
      · exact (ih.trans (lineWork_sliceCE ..)).trans (lineWork_putBody ..)
      · exact ih
      · dsimp only
        split
        · exact (ih.trans (lineWork_sliceUE ..)).trans (lineWork_putBody ..)
        · exact ih.trans (lineWork_sliceUE ..)

theorem lineWork_mapRanks (sl set : Nat) (f : Way → Nat) (l : List Nat) : LineWork s (mapRanks s sl set f l) := by
  induction l with
  | nil => exact .refl
  | cons w l ih =>
    unfold mapRanks
    dsimp only
    split
    · exact ih.trans (lineWork_setWay ..)
    · exact ih

theorem lineWork_dropWay (sl set way : Nat) : LineWork s (dropWay s sl set way) := (lineWork_setWay s ..).trans (lineWork_mapRanks ..)

/-! ## Writes to the HBM (R275, R307 to R310, R373) -/

theorem lineWork_hbm (m : Hbm) : LineWork s { s with hbm := m } := ⟨rfl, rfl, fun _ => rfl⟩

theorem lineWork_unmark (l : Nat) : LineWork s (unmark s l) := ⟨rfl, rfl, fun _ => rfl⟩

theorem lineWork_hbmEncode (sl w : Nat) (p : Bool) : LineWork s (hbmEncode s sl w p).1 := by
  unfold hbmEncode
  dsimp only
  split
  · exact (lineWork_setF hbm_beside s ..).trans (lineWork_hbm _ _)
  · exact lineWork_hbm s _

theorem lineWork_hbmEncodeLine (l : Nat) (p : BitVec 32) (n : Nat) : LineWork s (hbmEncodeLine s l p n).1 := by
  induction n with
  | zero => exact .refl
  | succ n ih => exact ih.trans (lineWork_hbmEncode ..)

theorem lineWork_hbmPutData (l : Nat) (d : Line) (p : BitVec 32) : LineWork s (hbmPutData s l d p) := by
  have hcode := lineWork_hbmEncodeLine s l p 32
  unfold hbmPutData
  generalize hbmEncodeLine s l p 32 = e at hcode ⊢
  exact hcode.trans (lineWork_hbm _ _)

theorem lineWork_putEntry (l : Nat) (e : W32) : LineWork s (putEntry s l e) := by
  have hraw : ∀ (u : State) (l : Nat) (e : W32), LineWork u (setEntryRaw u l e) := fun u _ _ => lineWork_hbm u _
  have hput := (hraw s l e).trans (lineWork_hbmEncode (setEntryRaw s l e) (owner l) (entryPos l) false)
  unfold putEntry
  dsimp only
  split
  · exact hput
  · exact (hput.trans (hraw ..)).trans (hraw ..)

theorem lineWork_hbmMarkDead (l : Nat) : LineWork s (hbmMarkDead s l) := (lineWork_unmark s l).trans (lineWork_putEntry ..)

theorem lineWork_hbmWriteBody (l : Nat) (b : Body) : LineWork s (hbmWriteBody s l b) := by
  have hput : ∀ (d : Line) (p : BitVec 32) (e : W32), LineWork s (putEntry (hbmPutData (unmark s l) l d p) l e) := fun _ _ _ =>
    ((lineWork_unmark s l).trans (lineWork_hbmPutData ..)).trans (lineWork_putEntry ..)
  unfold hbmWriteBody
  dsimp only
  split <;> exact hput ..

theorem lineWork_writeOut (sl key : Nat) : LineWork s (writeOut s sl key) := by
  have hout : ∀ (b : Body) (w : Way), LineWork s (bump (hbmWriteBody (decodeWay s sl key 0 w.lbl allWords true).1 w.tag b) .slice sl o_SLICE_WRITEBACKS 1) :=
    fun _ _ => ((lineWork_decodeWords s ..).trans (lineWork_hbmWriteBody ..)).trans (lineWork_bump slice_beside ..)
  unfold writeOut
  dsimp only
  split
  · exact .refl
  · split
    · exact lineWork_hbmMarkDead s _
    · split
      · split
        · exact (((hout _ _).trans (lineWork_bump slice_beside ..)).trans (lineWork_raiseIrq slice_beside ..)).trans (lineWork_sliceLog ..)
        · exact hout _ _
      · exact .refl

/-! ## Reads of the HBM (R298, R372) -/

theorem lineWork_hbmLog (b type src word : Nat) (syn : Byte) (ch : Nat) (lbl : Byte) (l : Nat) : LineWork s (hbmLog s b type src word syn ch lbl l) := by
  have hset : ∀ v, LineWork s (setHbmc s b v) := fun _ => ⟨rfl, rfl, fun _ => rfl⟩
  have hlog : ∀ v : HbmCtl, LineWork s (setF (setHbmc s b v) .hbm b f_HBM_ERR_LOG_STATUS_COUNT v.elog.length) := fun v =>
    (hset v).trans (lineWork_setF hbm_beside ..)
  unfold hbmLog
  dsimp only
  split
  · exact (hlog _).trans (lineWork_bumpField hbm_beside ..)
  · exact hlog _

theorem lineWork_hbmCE (sl src word : Nat) (syn lbl : Byte) (l : Nat) : LineWork s (hbmCE s sl src word syn lbl l) :=
  ((lineWork_bump hbm_beside s ..).trans (lineWork_bucketAdd hbm_beside ..)).trans (lineWork_hbmLog ..)

theorem lineWork_hbmUE (sl src word : Nat) (syn lbl : Byte) (l : Nat) : LineWork s (hbmUE s sl src word syn lbl l) :=
  ((lineWork_bump hbm_beside s ..).trans (lineWork_raiseIrq hbm_beside ..)).trans (lineWork_hbmLog ..)

theorem lineWork_hbmDecode (l src : Nat) (lbl : Byte) (d : Line) (n : Nat) : LineWork s (hbmDecode s l src lbl d n).1 := by
  induction n with
  | zero => exact .refl
  | succ n ih =>
    unfold hbmDecode
    dsimp only
    split
    · exact ih
    · exact ih.trans (lineWork_hbmCE ..)
    · exact ih
    · exact ih.trans (lineWork_hbmUE ..)

theorem lineWork_readEntry (l src : Nat) (lbl : Byte) : LineWork s (readEntry s l src lbl).1 := by
  unfold readEntry
  dsimp only
  split
  · exact .refl
  · exact .refl
  · exact lineWork_hbmCE s ..
  · exact lineWork_hbmUE s ..

theorem lineWork_hbmFetch (l src : Nat) (lbl : Byte) : LineWork s (hbmFetch s l src lbl).1 := by
  have hread := (lineWork_hbmDecode s l src lbl (memLine s.hbm.mem l) 32).trans (lineWork_readEntry _ l src lbl)
  unfold hbmFetch
  extract_lets raw
  split
  next u r hd =>
    split
    next v e he =>
      rw [hd, he] at hread
      split
      split
      · exact hread
      · split
        · exact hread
        · split
          exact hread
        · exact hread

/-! ## The lines of a switch (R239, R260, R266) -/

theorem lineWork_feResident (sl n l : Nat) (lbl : Byte) (part : Nat) : LineWork s (feResident s sl n l lbl part).1 := by
  unfold feResident
  split
  · exact .refl
  · exact (((lineWork_bump slice_beside s ..).trans (lineWork_hbmFetch ..)).trans (lineWork_setWay ..)).trans (lineWork_putBody ..)

theorem lineWork_feFetch (p : Nat → Bool) : LineWork s (feFetch p s) := by
  unfold feFetch
  split
  · exact .refl
  · exact lineWork_foldl _ _ fun u n _ => lineWork_feResident u ..

theorem lineWork_flushLines (p : Nat → Bool) : LineWork s (flushLines p s) :=
  lineWork_foldl _ _ fun u x _ => lineWork_foldl _ _ fun u y _ => by
    split
    · exact (lineWork_writeOut u ..).trans (lineWork_dropWay ..)
    · exact .refl

theorem lineWork_flushRemap (i : Nat) : LineWork s (flushRemap i s) :=
  lineWork_foldl _ _ fun u x _ => lineWork_foldl _ _ fun u y _ => by
    have hout : LineWork u (if y.2.remote then u else writeOut u x.1 y.1) := by
      split
      · exact .refl
      · exact lineWork_writeOut u ..
    dsimp only
    split
    · exact .refl
    · split
      · exact hout.trans (lineWork_dropWay ..)
      · exact hout.trans (lineWork_setWay ..)

theorem lineWork_flushKeys (p : Nat → Bool) : LineWork s (flushKeys p s) :=
  lineWork_foldl _ _ fun u x _ => lineWork_foldl _ _ fun u y _ => by
    dsimp only
    split
    · exact (lineWork_writeOut u ..).trans (lineWork_dropWay ..)
    · exact (lineWork_writeOut u ..).trans (lineWork_setWay ..)

theorem lineWork_putMiss (sl l : Nat) (m : Option MissReg) : LineWork s (putMiss s sl l m) := by
  have hset : ∀ g, LineWork s (setSlice s sl { slice s sl with miss := g }) := fun _ => lineWork_setSlice s sl _ rfl
  exact (hset _).trans (lineWork_setF slice_beside ..)

theorem lineWork_freeHeld (at' p : Nat → Bool) : LineWork s (freeHeld at' p s) := by
  have hreqs : ∀ (u : State) (q : List Req), LineWork u { u with reqs := q } := fun _ _ => ⟨rfl, rfl, fun _ => rfl⟩
  refine lineWork_foldl _ _ fun u x _ => ?_
  split
  · exact .refl
  · refine lineWork_foldl _ _ fun u m _ => ?_
    split
    · exact .refl
    · dsimp only
      split
      · exact ((lineWork_putMiss u ..).trans (lineWork_hbmMarkDead ..)).trans (hreqs _ _)
      · exact ((lineWork_putMiss u ..).trans (lineWork_hbmWriteBody ..)).trans (hreqs _ _)

end

end Sys2Proof.Proofs
end

section
/-! The ends of the switches of placement (O30: R239, R266, R292), and the obligation. -/
namespace Sys2Proof.Proofs

open Sys2Proof.Machine Sys2Proof.Laws

/-! ## The fields of a set come into force -/

/-- Once a set has applied, none of its fields differs from the staged one. -/
theorem differs_applyWhole (s : State) (k : PageKind) (i : Nat) {x y : Nat} (h : setOf k x = y) : differs (applyWhole s k i y) k i x = false :=
  differs_of_taken (reg_applyWhole s k i y h) (regStg_applyWhole s k i y)

theorem pagesOnly_applyWhole (s : State) (k : PageKind) (i y : Nat) : PagesOnly s (applyWhole s k i y) :=
  (pagesOnly_foldl s (applyReg k i) _ fun u o _ => pagesOnly_setReg u k i o _).trans rfl

/-- A set that applies, after the cache die's record of the switch has changed. -/
theorem applied_cache (s : State) (c : CacheCtl) (x : Nat) : ConfigOnly s (applyWhole { s with cache := c } .chip 0 x) ∧
    (applyWhole { s with cache := c } .chip 0 x).cache = c := by
  have hpages : applyWhole { s with cache := c } .chip 0 x = _ := pagesOnly_applyWhole { s with cache := c } .chip 0 x
  have hcache : ConfigOnly s { s with cache := c } := rfl
  exact ⟨hcache.trans (PagesOnly.configOnly hpages), (congrArg State.cache hpages :)⟩

section
variable {s t : State}

theorem LineWork.differs (h : LineWork s t) (x : Nat) : Machine.differs t .chip 0 x = Machine.differs s .chip 0 x := by
  rw [Machine.differs, Machine.differs, h.reg, h.regStg]

theorem LineWork.done (h : LineWork s t) : Machine.done s t = .next t := done_eq h.part h.pending

end

section
variable {s : State} {n : Nat}

/-! ## A stream window (R260, R266) -/

theorem winDone_waits (h : fetchBusy s (fun _ => true) (inEither (swin s n) (swinTo s n)) = true) : winDone n s = s := by
  rw [winDone, if_pos (by simp [h])]

theorem winDone_ends (hsw : switching s n = true) (hto : swinStaged s n = swinTo s n)
    (h : fetchBusy s (fun _ => true) (inEither (swin s n) (swinTo s n)) = false) :
    ∃ u c, LineWork s u ∧ winDone n s = applyWhole { setF u .chip 0 (f_CHIP_SWIN_STAT_SWITCHING n) 0 with cache := c } .chip 0 (spWin n) := by
  rw [winDone, if_neg (by simp [hsw, hto, h])]
  exact ⟨_, _, (lineWork_freeHeld s ..).trans (lineWork_flushLines ..), rfl⟩

theorem isShadowed_swinStat : ∀ n < 32, isShadowed .chip (o_CHIP_SWIN_STAT n) = false := by decide +kernel

theorem setOf_swin : ∀ n < 32, setOf .chip (o_CHIP_SWIN_BASE n) = spWin n ∧ setOf .chip (o_CHIP_SWIN_LIMIT n) = spWin n ∧
    setOf .chip (o_CHIP_SWIN_CFG n) = spWin n := by decide

section
variable (hr : inReset s = false) (hc : chipHeld s = false) (hn : n < 32)
include hr hc hn

theorem exec_winDone : exec (.swinSwitchDone false n) s = done s (winDone n s) :=
  (run_eq (by simp [hn, hc]) hr : execSwinSwitchDone false n s = _)

theorem winSwitch_waits (h : fetchBusy s (fun _ => true) (inEither (swin s n) (swinTo s n)) = true) :
    exec (.swinSwitchDone false n) s = .next s := by
  rw [exec_winDone hr hc hn, winDone_waits h]
  exact done_eq rfl rfl

theorem winSwitch_ends (hsw : switching s n = true) (hto : swinStaged s n = swinTo s n)
    (h : fetchBusy s (fun _ => true) (inEither (swin s n) (swinTo s n)) = false) :
    ∃ t, exec (.swinSwitchDone false n) s = .next t ∧ switching t n = false ∧ t.cells = s.cells ∧
      differs t .chip 0 (o_CHIP_SWIN_BASE n) = false ∧ differs t .chip 0 (o_CHIP_SWIN_LIMIT n) = false ∧ differs t .chip 0 (o_CHIP_SWIN_CFG n) = false := by
  obtain ⟨u, c, hu, he⟩ := winDone_ends hsw hto h
  have hcfg : ConfigOnly u (winDone n s) := by
    rw [he]
    have hset : ConfigOnly u (setF u .chip 0 (f_CHIP_SWIN_STAT_SWITCHING n) 0) := rfl
    exact hset.trans (applied_cache ..).1
  have hstep : exec (.swinSwitchDone false n) s = .next (winDone n s) := by
    rw [exec_winDone hr hc hn]
    exact done_eq (hcfg.part.trans hu.part) (hcfg.pending.trans hu.pending)
  obtain ⟨hbase, hlimit, hcfgw⟩ := setOf_swin n hn
  refine ⟨_, hstep, ?_, hcfg.cells.trans hu.cells, ?_⟩
  · have hoff : fld (setF u .chip 0 (f_CHIP_SWIN_STAT_SWITCHING n) 0) .chip 0 (f_CHIP_SWIN_STAT_SWITCHING n) = 0 :=
      fld_setF_self u (by decide : 31 ≤ 31) (by decide : 31 < 32) (by decide : 0 < 2 ^ 1)
    have hstands : fld (winDone n s) .chip 0 (f_CHIP_SWIN_STAT_SWITCHING n) = 0 := by
      rw [he, fld, reg_applyWhole_other _ _ _ _ (.inl (isShadowed_swinStat n hn))]
      exact hoff
    rw [switching, hstands]
    rfl
  · rw [he]
    exact ⟨differs_applyWhole _ _ _ hbase, differs_applyWhole _ _ _ hlimit, differs_applyWhole _ _ _ hcfgw⟩

end

/-! ## A remap entry (R266, R292) -/

theorem setOf_sliceRemap : ∀ n < 128, setOf .chip (o_CHIP_SLICE_REMAP n) = spRemap n := by decide +kernel

/-- The FULL bits of a slice move in the slices alone. -/
theorem moveFull_slices (s : State) (i a b : Nat) : ∃ l, moveFull i a b s = { s with slices := l } := by
  unfold moveFull
  split
  · exact ⟨_, rfl⟩
  · exact ⟨_, rfl⟩

/-- A remap entry's switch ends: the entry is switching no longer, and applies. -/
theorem remapDone_ends (hsw : n ∈ s.cache.remapSw) (hto : regStg s .chip 0 (o_CHIP_SLICE_REMAP n) = remapNext s n)
    (h : fetchBusy s (fun _ => true) (lineOfSlice s n) = false) :
    ∃ u c l, LineWork s u ∧ n ∉ c.remapSw ∧
      LineWork { applyWhole { u with cache := c } .chip 0 (spRemap n) with slices := l } (remapDone n s) := by
  rw [remapDone, if_neg (by simp [hsw, hto, h])]
  dsimp only
  have hline := (lineWork_freeHeld s (fun _ => true) (lineOfSlice s n)).trans (lineWork_flushRemap _ n)
  generalize flushRemap n (freeHeld (fun _ => true) (lineOfSlice s n) s) = u at hline ⊢
  generalize hv : applyWhole _ .chip 0 (spRemap n) = v
  obtain ⟨l, hl⟩ := moveFull_slices v n (remapped s n) (remapped v n)
  rw [hl, ← hv]
  exact ⟨u, _, l, hline, by simp, lineWork_feFetch ..⟩

theorem remapSwitch_ends (hr : inReset s = false) (hc : chipHeld s = false) (hn : n < 128) (hsw : n ∈ s.cache.remapSw)
    (hto : regStg s .chip 0 (o_CHIP_SLICE_REMAP n) = remapNext s n) (h : fetchBusy s (fun _ => true) (lineOfSlice s n) = false) :
    ∃ t, exec (.swinSwitchDone true n) s = .next t ∧ n ∉ t.cache.remapSw ∧ differs t .chip 0 (o_CHIP_SLICE_REMAP n) = false ∧ t.cells = s.cells := by
  obtain ⟨u, c, l, hu, hout, hw⟩ := remapDone_ends hsw hto h
  obtain ⟨hcfg, hcache⟩ := applied_cache u c (spRemap n)
  have happlied := differs_applyWhole { u with cache := c } .chip 0 (setOf_sliceRemap n hn)
  generalize applyWhole { u with cache := c } .chip 0 (spRemap n) = v at hw hcfg hcache happlied
  have hstep : exec (.swinSwitchDone true n) s = .next (remapDone n s) := by
    refine (run_eq (by simp [hn, hc]) hr : execSwinSwitchDone true n s = _).trans ?_
    exact done_eq (hw.part.trans (hcfg.part.trans hu.part)) (hw.pending.trans (hcfg.pending.trans hu.pending))
  refine ⟨_, hstep, ?_, (hw.differs _).trans happlied, hw.cells.trans (hcfg.cells.trans hu.cells)⟩
  rw [← hcache] at hout
  rw [hw.remapSw]
  exact hout

end

/-! ## The full/empty window (R239, R240) -/

/-- Every FULL bit of the listed slices is cleared. -/
def fullCleared (l : List (Nat × Slice)) (s : State) : State := l.foldl (fun s x => setSlice s x.1 { slice s x.1 with feFull := [] }) s

theorem fullCleared_slices (l : List (Nat × Slice)) (s : State) : ∃ m, fullCleared l s = { s with slices := m } :=
  List.foldlRecOn (motive := fun t => ∃ m, t = { s with slices := m }) l _ ⟨_, rfl⟩ fun t ⟨m, hm⟩ x _ => ⟨_, by rw [hm]; rfl⟩

theorem feFull_fullCleared (l : List (Nat × Slice)) (s : State) (j : Nat) :
    (slice (fullCleared l s) j).feFull = if j ∈ l.map (·.1) then [] else (slice s j).feFull := by
  induction l generalizing s with
  | nil => rfl
  | cons x l ih =>
    rw [fullCleared, List.foldl_cons, ← fullCleared, ih, slice_setSlice, List.map_cons]
    by_cases hj : j = x.1
    · rw [if_pos (List.mem_cons.2 (.inl hj)), if_pos hj]
      exact ite_self _
    · rw [if_neg hj, if_congr (List.mem_cons.trans (or_iff_right hj)) rfl rfl]

/-- A slice that the device does not list is as after reset: its FULL bits are clear too. -/
theorem feFull_cleared (s : State) (j : Nat) : (slice (fullCleared s.slices s) j).feFull = [] := by
  rw [feFull_fullCleared]
  split
  · rfl
  · rename_i hj
    rw [slice, mget_unlisted _ hj]

section
variable {s : State} (hsw : s.cache.feSw = true) (hwait : feWaiting s = false) (hto : feStaged s = s.cache.feTo)
  (h : fetchBusy s (fun _ => true) (fun l => inFe (feActive s).1.toNat (feActive s).2.toNat l || inFe s.cache.feTo.1.toNat s.cache.feTo.2.toNat l) = false)
include hsw hwait hto h

/-- A switch to the window's own fields ends without work on the lines. -/
theorem feDone_same (he : s.cache.feTo = feActive s) :
    feDone s = applyWhole { s with cache := { s.cache with feSw := false, feTo := (0, 0) } } .chip 0 spFe := by
  rw [feDone]
  dsimp only
  rw [if_neg (by simp [hsw, hwait, hto, h]), if_pos he]

/-- A switch to other fields: every FULL bit is cleared, and the fields apply. -/
theorem feDone_other (he : s.cache.feTo ≠ feActive s) : ∃ u c, LineWork s u ∧ c.feSw = false ∧
    LineWork (applyWhole { fullCleared u.slices u with cache := c } .chip 0 spFe) (feDone s) := by
  rw [feDone]
  dsimp only
  rw [if_neg (by simp [hsw, hwait, hto, h]), if_neg he]
  have hline := (lineWork_freeHeld s (fun _ => true) (fun l => inFe (feActive s).1.toNat (feActive s).2.toNat l ||
    inFe s.cache.feTo.1.toNat s.cache.feTo.2.toNat l)).trans (lineWork_flushKeys _ (fun k => feKey 0 ≤ k))
  generalize flushKeys (fun k => feKey 0 ≤ k) (freeHeld _ _ s) = u at hline ⊢
  rw [← fullCleared]
  refine ⟨u, { (fullCleared u.slices u).cache with feSw := false, feTo := (0, 0) }, hline, rfl, ?_⟩
  split
  · exact (lineWork_flushKeys ..).trans (lineWork_feFetch ..)
  · exact .refl

theorem feSwitch_ends (hr : inReset s = false) (hc : chipHeld s = false) :
    ∃ t, exec .feWindowSwitchDone s = .next t ∧ t.cache.feSw = false ∧ (s.cache.feTo = feActive s → t.slices = s.slices) ∧
      (s.cache.feTo ≠ feActive s → ∀ sl, (slice t sl).feFull = []) ∧ differs t .chip 0 o_CHIP_FE_BASE = false ∧
      differs t .chip 0 o_CHIP_FE_CTRL = false ∧ t.cells = s.cells := by
  have hexec : exec .feWindowSwitchDone s = done s (feDone s) := (run_eq (by simp [hc]) hr : execFeWindowSwitchDone s = _)
  by_cases he : s.cache.feTo = feActive s
  · rw [hexec, feDone_same hsw hwait hto h he]
    obtain ⟨hcfg, hcache⟩ := applied_cache s { s.cache with feSw := false, feTo := (0, 0) } spFe
    exact ⟨_, hcfg.done, by rw [hcache], fun _ => hcfg.slices, fun hne => absurd he hne, differs_applyWhole _ _ _ rfl,
      differs_applyWhole _ _ _ rfl, hcfg.cells⟩
  · obtain ⟨u, c, hu, hoff, hw⟩ := feDone_other hsw hwait hto h he
    obtain ⟨hcfg, hcache⟩ := applied_cache (fullCleared u.slices u) c spFe
    have hempty := feFull_cleared u
    obtain ⟨m, hm⟩ := fullCleared_slices u.slices u
    have hpart : (fullCleared u.slices u).part = u.part := by rw [hm]
    have hpending : (fullCleared u.slices u).pending = u.pending := by rw [hm]
    have hcells : (fullCleared u.slices u).cells = u.cells := by rw [hm]
    refine ⟨_, hexec.trans (done_eq (hw.part.trans (hcfg.part.trans (hpart.trans hu.part)))
      (hw.pending.trans (hcfg.pending.trans (hpending.trans hu.pending)))), ?_, fun hsame => absurd hsame he, fun _ j => ?_,
      (hw.differs _).trans (differs_applyWhole _ _ _ rfl), (hw.differs _).trans (differs_applyWhole _ _ _ rfl),
      hw.cells.trans (hcfg.cells.trans (hcells.trans hu.cells))⟩
    · rw [hw.feSw, hcache, hoff]
    · rw [hw.full, slice, hcfg.slices]
      exact hempty j

end

/-! ## The obligation -/

theorem reshadowAndSwitches : Claims.ReshadowAndSwitches := fun s secure =>
  ⟨fun k i => reshadowGoverns s secure k i,
    fun hr hc _ hn hsw hto => ⟨winSwitch_waits hr hc hn, winSwitch_ends hr hc hn hsw hto⟩,
    fun hr hc _ hn hsw hto h => remapSwitch_ends hr hc hn hsw hto h,
    fun hr hc hsw hwait hto h => feSwitch_ends hsw hwait hto h hr hc⟩

/-- Settles O30: the page that a strobe names is reached once among its deliveries, and every other delivery leaves it; RESHADOW and the ends
of the switches follow from the copies' rules and from what work on the lines leaves of the CHIP page. -/
theorem strobesAndShadows : Obligations.StrobesAndShadows := ⟨strobeStages, reshadowAndSwitches⟩

end Sys2Proof.Proofs
end
